-- ==== Sys2Proof/Word.lean ====
section
/-! DEFINITION. The word types of the Narosal N16 and their plainest arithmetic (R5, R6, R8). -/

namespace Sys2Proof

/-- A 64-bit general register value, virtual address or descriptor (R102). -/
abbrev Word := BitVec 64

/-- One byte of memory: the unit of a location (R249). -/
abbrev Byte := BitVec 8

/-- A register field: the number n of gn (R47). -/
abbrev Reg := BitVec 5

/-- KiB, the unit of the figures of R5. -/
abbrev kib : Nat := 1024

end Sys2Proof
end

