-- ==== Sys2Proof/Config.lean ====
section
/-! DEFINITION. What the spec leaves to the implementation or to timing: uninterpreted constants with no body,
so that a statement proved of the model holds for every value of each (assumption log 2, 3, 4, 5, 9, 15). -/

namespace Sys2Proof.Config

open Sys2Proof

/-- FREE VALUE (log 2). The clk that pass in the n-th step of the model: R5, R33 give durations no fixed value. -/
opaque elapsed : Nat → Nat

/-- FREE VALUE (log 2). The clk of the n-th step in which a group's rectangle is stalled under R157. -/
opaque stalled : (now gid : Nat) → Nat

/-- FREE VALUE (log 2). The clk of the n-th step outside a stack's grant (R424). -/
opaque throttled : (now stack : Nat) → Nat

/-- FREE VALUE (log 3). Which copy of a line a fetch in the n-th step finds: 0 for memory, else one fetched before, which R44
allows until the stream's `ifence`. -/
opaque staleLine : Nat → Nat

/-- FREE VALUE (log 4). The value, in units of 2^-149, that the special function `op` of R210 forms for the finite
operand (-1)^neg * m * 2^e; it is used where it lies on the FP32 grid within the bound of R212. -/
opaque special : (op : Nat) → (neg : Bool) → (m : Nat) → (e : Int) → Int

/-- FREE VALUE (log 9). What a cell adds whose latch an edited image left empty under a queued `mm`: step, row, column
and lane. -/
opaque emptyLatch : (now row col lane : Nat) → BitVec 32

/-- FREE VALUE (log 15). A byte of peer memory of which nothing has said yet what stands there: peer, address. -/
opaque peerTable : (peer addr : Nat) → Byte

/-- The fused key digest of R422, step 3 (log 5). -/
opaque fusedKeyDigest : List Byte

/-- The fused minimum SVN of R422, step 5 (log 5). -/
opaque fusedMinSvn : Nat

/-- The 57 bytes of the identity's secret key, which the device derives from its fused secret and MR (R422, log 5). -/
opaque identitySeed : List Byte → List Byte

end Sys2Proof.Config
end

