-- ==== Sys2Proof/Syntax.lean ====
section
/-! DEFINITION. The syntax: one constructor for every row of spec/opcode_table.json (R54), the 205 instructions and
the 60 events of the device. Constructors without operands stand last. -/

namespace Sys2Proof

/-- The two instruction streams of a group (R102). -/
inductive Slice where
  | a
  | c
  deriving DecidableEq, Repr

/-- The four engine command queues of a group, in the order of R390's image (R23, R62). -/
inductive EQueue where
  | mat
  | vec
  | cpl
  | cps
  deriving DecidableEq, Repr

/-- The fields of the 64-bit E format (R49) that an MX, VX or CX command carries beside its major and OP. -/
structure EWord where
  wsem : BitVec 4
  wen  : Bool
  ssem : BitVec 4
  sen  : Bool
  pred : BitVec 3
  mod  : BitVec 6
  d    : Reg
  a    : Reg
  b    : Reg
  c    : Reg
  imm  : BitVec 12
  deriving DecidableEq, Repr

/-- What an ECC check finds in a holder (R394). -/
inductive EccResult where
  | correctable
  | uncorrectable
  deriving DecidableEq, Repr

/-- The holders of R394, each with the place of the error. -/
inductive EccHolder where
  /-- Vault memory or a stack cache sector: the sector's device-physical address. -/
  | vault (sector : Nat)
  /-- A scratchpad sector of a group: its group offset. -/
  | spad (grp off : Nat)
  /-- An instruction cache, scalar data cache or translation cache of a stack, found by an access of a group, or by none's. -/
  | cache (stack : Nat) (by_ : Option Nat)
  /-- A general register of a slice. -/
  | reg (grp : Nat) (sl : Slice) (r : Reg)
  /-- An entry of a forward (0-3) or back (4-5) queue, counted from the head. -/
  | queueEntry (grp q k : Nat)
  /-- Queue pointers, semaphores, loop state, nest sets, pattern slots, control registers of a group. -/
  | control (grp : Nat)
  /-- The accumulator store: not protected, a lane takes the value. -/
  | acc (grp row entry lane : Nat) (value : BitVec 32)
  /-- The latch of a cell: not protected, a byte of its tile takes the value. -/
  | latch (grp row col : Nat) (shadow : Bool) (off : Nat) (value : Byte)
  /-- The adder of a latch: not protected, an element of one of its two vectors takes the value (R168). -/
  | adder (grp row col : Nat) (shadow weighted : Bool) (pos : Nat) (value : BitVec 32)
  deriving DecidableEq, Repr

/-- A UALink request as it arrives on a port (R414). -/
inductive PeerOp where
  | read (n : Nat)
  | write (bytes : List Byte)
  | atomic (op : BitVec 4) (size : BitVec 2) (operand comparand : Word)
  deriving DecidableEq, Repr

/-- The rows of spec/opcode_table.json: 205 instructions that a stream issues and 60 events of the device or of the agents
around it, each event with the operands that say which of its occurrences it is. Rows without operands stand last. -/
inductive Instr where
  /-- `trap` (R403): Raises cause 0x30 with SKIP set and places g[ga] in the trap record's ADDR. -/
  | trapSw (a : Reg)
  /-- `chk.err` (R404): Waits until every command present in the group's engine queues at issue has performed, then writes cr.chk[7:0] to gd. -/
  | chkErr (d : Reg)
  /-- `rdcr` (R405): Reads the numbered control register into gd and clears its poison bit. -/
  | rdcr (d : Reg) (n : BitVec 5)
  /-- `wrcr` (R405): Writes the numbered control register from ga according to the access code of each field. -/
  | wrcr (a : Reg) (n : BitVec 5)
  /-- `rdcnt` (R405): Reads a snapshot of a group or stack event counter into gd. -/
  | rdcnt (d : Reg) (n : BitVec 5)
  /-- `grpid` (R360): Writes the group word (span, rows, row0, home stack, group number) to gd. -/
  | grpid (d : Reg)
  /-- `coresid` (R360): Writes the co-resident group count G to gd, or 0 when COR is clear. -/
  | coresid (d : Reg)
  /-- `add` (R134): Writes a + b modulo 2^64 to gd. -/
  | add (d : Reg) (a : Reg) (b : Reg)
  /-- `sub` (R134): Writes a − b modulo 2^64 to gd. -/
  | sub (d : Reg) (a : Reg) (b : Reg)
  /-- `mul` (R134): Writes the low 64 bits of the product to gd. -/
  | mul (d : Reg) (a : Reg) (b : Reg)
  /-- `mulh` (R134): Writes the high 64 bits of the signed product to gd. -/
  | mulh (d : Reg) (a : Reg) (b : Reg)
  /-- `mulhn` (R134): Writes the high 64 bits of the unsigned product to gd. -/
  | mulhn (d : Reg) (a : Reg) (b : Reg)
  /-- `div` (R135): Writes the signed quotient truncated toward zero, with fixed results for division by zero and overflow. -/
  | div (d : Reg) (a : Reg) (b : Reg)
  /-- `divn` (R135): Writes the unsigned quotient, or all ones on division by zero. -/
  | divn (d : Reg) (a : Reg) (b : Reg)
  /-- `rem` (R135): Writes the signed remainder, which takes the sign of the dividend. -/
  | rem (d : Reg) (a : Reg) (b : Reg)
  /-- `remn` (R135): Writes the unsigned remainder, or a on division by zero. -/
  | remn (d : Reg) (a : Reg) (b : Reg)
  /-- `and` (R134): Writes a AND b to gd. -/
  | and (d : Reg) (a : Reg) (b : Reg)
  /-- `or` (R134): Writes a OR b to gd. -/
  | or (d : Reg) (a : Reg) (b : Reg)
  /-- `xor` (R134): Writes a XOR b to gd. -/
  | xor (d : Reg) (a : Reg) (b : Reg)
  /-- `andn` (R134): Writes a AND NOT b to gd. -/
  | andn (d : Reg) (a : Reg) (b : Reg)
  /-- `orn` (R134): Writes a OR NOT b to gd. -/
  | orn (d : Reg) (a : Reg) (b : Reg)
  /-- `sll` (R134): Shifts a left by b[5:0] and writes the result to gd. -/
  | sll (d : Reg) (a : Reg) (b : Reg)
  /-- `srl` (R134): Shifts a right logically by b[5:0] and writes the result to gd. -/
  | srl (d : Reg) (a : Reg) (b : Reg)
  /-- `sra` (R134): Shifts a right arithmetically by b[5:0] and writes the result to gd. -/
  | sra (d : Reg) (a : Reg) (b : Reg)
  /-- `slt` (R134): Writes 1 to gd if a is signed less than b, else 0. -/
  | slt (d : Reg) (a : Reg) (b : Reg)
  /-- `sltn` (R134): Writes 1 to gd if a is unsigned less than b, else 0. -/
  | sltn (d : Reg) (a : Reg) (b : Reg)
  /-- `min` (R134): Writes the signed lesser of a and b to gd. -/
  | min (d : Reg) (a : Reg) (b : Reg)
  /-- `max` (R134): Writes the signed greater of a and b to gd. -/
  | max (d : Reg) (a : Reg) (b : Reg)
  /-- `minn` (R134): Writes the unsigned lesser of a and b to gd. -/
  | minn (d : Reg) (a : Reg) (b : Reg)
  /-- `maxn` (R134): Writes the unsigned greater of a and b to gd. -/
  | maxn (d : Reg) (a : Reg) (b : Reg)
  /-- `sel` (R134): Writes a to gd if the old value of gd is nonzero, else b. -/
  | sel (d : Reg) (a : Reg) (b : Reg)
  /-- `addi` (R136): Adds the sign-extended imm12 to ga and writes the result to gd. -/
  | addi (d : Reg) (a : Reg) (i : BitVec 12)
  /-- `andi` (R136): ANDs ga with the zero-extended imm12. -/
  | andi (d : Reg) (a : Reg) (i : BitVec 12)
  /-- `ori` (R136): ORs ga with the zero-extended imm12. -/
  | ori (d : Reg) (a : Reg) (i : BitVec 12)
  /-- `xori` (R136): XORs ga with the zero-extended imm12. -/
  | xori (d : Reg) (a : Reg) (i : BitVec 12)
  /-- `slti` (R136): Signed compare of ga against the sign-extended immediate. -/
  | slti (d : Reg) (a : Reg) (i : BitVec 12)
  /-- `sltni` (R136): Unsigned compare of ga against the sign-extended immediate. -/
  | sltni (d : Reg) (a : Reg) (i : BitVec 12)
  /-- `slli` (R136): Shifts ga left by an immediate of 0 to 63. -/
  | slli (d : Reg) (a : Reg) (i : BitVec 6)
  /-- `srli` (R136): Shifts ga right logically by an immediate. -/
  | srli (d : Reg) (a : Reg) (i : BitVec 6)
  /-- `srai` (R136): Shifts ga right arithmetically by an immediate. -/
  | srai (d : Reg) (a : Reg) (i : BitVec 6)
  /-- `mini` (R136): Writes the signed lesser of ga and the immediate. -/
  | mini (d : Reg) (a : Reg) (i : BitVec 12)
  /-- `maxi` (R136): Writes the signed greater of ga and the immediate. -/
  | maxi (d : Reg) (a : Reg) (i : BitVec 12)
  /-- `li16` (R137): Sets gd to the sign-extended imm16 and clears its poison bit. -/
  | li16 (d : Reg) (i : BitVec 16)
  /-- `ins16` (R138): Replaces halfword hw of gd with imm16 and keeps the other bits and the poison bit. -/
  | ins16 (d : Reg) (h : BitVec 2) (i : BitVec 16)
  /-- `bext` (R140): Extracts an immediate bit field of ga, zero-extended. -/
  | bext (d : Reg) (a : Reg) (o : BitVec 6) (w : BitVec 7)
  /-- `bexts` (R140): Extracts an immediate bit field of ga, sign-extended. -/
  | bexts (d : Reg) (a : Reg) (o : BitVec 6) (w : BitVec 7)
  /-- `bins` (R140): Inserts the low bits of ga into an immediate field of gd. -/
  | bins (d : Reg) (a : Reg) (o : BitVec 6) (w : BitVec 7)
  /-- `bextv` (R141): Extracts a bit field whose offset and width come from gb. -/
  | bextv (d : Reg) (a : Reg) (b : Reg)
  /-- `bextsv` (R141): Extracts and sign-extends a field whose offset and width come from gb. -/
  | bextsv (d : Reg) (a : Reg) (b : Reg)
  /-- `binsv` (R141): Inserts ga into a field of gd whose offset and width come from gb. -/
  | binsv (d : Reg) (a : Reg) (b : Reg)
  /-- `fsh` (R142): Shifts the 128-bit pair ga:gb right by sh and keeps the low 64 bits. -/
  | fsh (d : Reg) (a : Reg) (b : Reg) (s : BitVec 6)
  /-- `bnet` (R146): Builds each result bit from the source bit that the pattern slot names. -/
  | bnet (d : Reg) (a : Reg) (b : Reg) (p : BitVec 3)
  /-- `bnld` (R145): Writes the masked entries of one step of a pattern slot. -/
  | bnld (a : Reg) (b : Reg) (p : BitVec 3) (s : BitVec 3)
  /-- `clz` (R143): Counts the leading zero bits of ga. -/
  | clz (d : Reg) (a : Reg)
  /-- `ctz` (R143): Counts the trailing zero bits of ga. -/
  | ctz (d : Reg) (a : Reg)
  /-- `popc` (R143): Counts the one bits of ga. -/
  | popc (d : Reg) (a : Reg)
  /-- `brev` (R143): Reverses the bits of ga. -/
  | brev (d : Reg) (a : Reg)
  /-- `bswap` (R143): Reverses the bytes of ga. -/
  | bswap (d : Reg) (a : Reg)
  /-- `lea` (R143): Writes ga + gb × 2^scale modulo 2^64, without translation. -/
  | lea (d : Reg) (a : Reg) (b : Reg) (s : BitVec 2)
  /-- `ld.b` (R233): Loads a byte and sign-extends it. -/
  | ldB (d : Reg) (a : Reg) (i : BitVec 13)
  /-- `ld.bz` (R233): Loads a byte and zero-extends it. -/
  | ldBz (d : Reg) (a : Reg) (i : BitVec 13)
  /-- `ld.h` (R233): Loads a halfword and sign-extends it. -/
  | ldH (d : Reg) (a : Reg) (i : BitVec 13)
  /-- `ld.hz` (R233): Loads a halfword and zero-extends it. -/
  | ldHz (d : Reg) (a : Reg) (i : BitVec 13)
  /-- `ld.w` (R233): Loads a word and sign-extends it. -/
  | ldW (d : Reg) (a : Reg) (i : BitVec 13)
  /-- `ld.wz` (R233): Loads a word and zero-extends it. -/
  | ldWz (d : Reg) (a : Reg) (i : BitVec 13)
  /-- `ld.d` (R233): Loads a doubleword; poisoned bytes set P and DP. -/
  | ldD (d : Reg) (a : Reg) (i : BitVec 13)
  /-- `st.b` (R233): Stores the low byte of gs. -/
  | stB (s : Reg) (a : Reg) (i : BitVec 13)
  /-- `st.h` (R233): Stores the low halfword of gs. -/
  | stH (s : Reg) (a : Reg) (i : BitVec 13)
  /-- `st.w` (R233): Stores the low word of gs. -/
  | stW (s : Reg) (a : Reg) (i : BitVec 13)
  /-- `st.d` (R233): Stores gs; a poisoned gs poisons the touched sectors. -/
  | stD (s : Reg) (a : Reg) (i : BitVec 13)
  /-- `ld.acq` (R239): Performs an aligned zero-extending load followed by an acquire of the given scope. -/
  | ldAcq (d : Reg) (a : Reg) (z : BitVec 2) (c : BitVec 2) (i : BitVec 12)
  /-- `st.rel` (R239): Performs a release of the given scope followed by an aligned store. -/
  | stRel (s : Reg) (a : Reg) (z : BitVec 2) (c : BitVec 2) (i : BitVec 12)
  /-- `lds.b` (R240): Loads a sign-extended byte from the scratchpad at a group offset. -/
  | ldsB (d : Reg) (a : Reg) (i : BitVec 13)
  /-- `lds.bz` (R240): Loads a zero-extended byte from the scratchpad. -/
  | ldsBz (d : Reg) (a : Reg) (i : BitVec 13)
  /-- `lds.h` (R240): Loads a sign-extended halfword from the scratchpad. -/
  | ldsH (d : Reg) (a : Reg) (i : BitVec 13)
  /-- `lds.hz` (R240): Loads a zero-extended halfword from the scratchpad. -/
  | ldsHz (d : Reg) (a : Reg) (i : BitVec 13)
  /-- `lds.w` (R240): Loads a sign-extended word from the scratchpad. -/
  | ldsW (d : Reg) (a : Reg) (i : BitVec 13)
  /-- `lds.wz` (R240): Loads a zero-extended word from the scratchpad. -/
  | ldsWz (d : Reg) (a : Reg) (i : BitVec 13)
  /-- `lds.d` (R240): Loads a doubleword from the scratchpad. -/
  | ldsD (d : Reg) (a : Reg) (i : BitVec 13)
  /-- `sts.b` (R240): Stores a byte to the scratchpad at a group offset. -/
  | stsB (s : Reg) (a : Reg) (i : BitVec 13)
  /-- `sts.h` (R240): Stores a halfword to the scratchpad. -/
  | stsH (s : Reg) (a : Reg) (i : BitVec 13)
  /-- `sts.w` (R240): Stores a word to the scratchpad. -/
  | stsW (s : Reg) (a : Reg) (i : BitVec 13)
  /-- `sts.d` (R240): Stores a doubleword to the scratchpad. -/
  | stsD (s : Reg) (a : Reg) (i : BitVec 13)
  /-- `amo.add` (R241): Atomically adds gb to memory and returns the old value. -/
  | amoAdd (d : Reg) (a : Reg) (b : Reg) (z : BitVec 2) (r : BitVec 2) (c : BitVec 2)
  /-- `amo.and` (R241): Atomically ANDs gb into memory and returns the old value. -/
  | amoAnd (d : Reg) (a : Reg) (b : Reg) (z : BitVec 2) (r : BitVec 2) (c : BitVec 2)
  /-- `amo.or` (R241): Atomically ORs gb into memory and returns the old value. -/
  | amoOr (d : Reg) (a : Reg) (b : Reg) (z : BitVec 2) (r : BitVec 2) (c : BitVec 2)
  /-- `amo.xor` (R241): Atomically XORs gb into memory and returns the old value. -/
  | amoXor (d : Reg) (a : Reg) (b : Reg) (z : BitVec 2) (r : BitVec 2) (c : BitVec 2)
  /-- `amo.min` (R241): Atomically keeps the signed lesser value and returns the old value. -/
  | amoMin (d : Reg) (a : Reg) (b : Reg) (z : BitVec 2) (r : BitVec 2) (c : BitVec 2)
  /-- `amo.max` (R241): Atomically keeps the signed greater value and returns the old value. -/
  | amoMax (d : Reg) (a : Reg) (b : Reg) (z : BitVec 2) (r : BitVec 2) (c : BitVec 2)
  /-- `amo.minn` (R241): Atomically keeps the unsigned lesser value and returns the old value. -/
  | amoMinn (d : Reg) (a : Reg) (b : Reg) (z : BitVec 2) (r : BitVec 2) (c : BitVec 2)
  /-- `amo.maxn` (R241): Atomically keeps the unsigned greater value and returns the old value. -/
  | amoMaxn (d : Reg) (a : Reg) (b : Reg) (z : BitVec 2) (r : BitVec 2) (c : BitVec 2)
  /-- `amo.swp` (R241): Atomically swaps gb into memory and returns the old value. -/
  | amoSwp (d : Reg) (a : Reg) (b : Reg) (z : BitVec 2) (r : BitVec 2) (c : BitVec 2)
  /-- `amo.cas` (R241): Atomically writes gb if memory equals the comparand in rd, and returns the old value in rd. -/
  | amoCas (d : Reg) (a : Reg) (b : Reg) (z : BitVec 2) (r : BitVec 2) (c : BitVec 2)
  /-- `amo.fadd` (R241): Atomically adds an FP32 value with RNE rounding and returns the old value. -/
  | amoFadd (d : Reg) (a : Reg) (b : Reg) (z : BitVec 2) (r : BitVec 2) (c : BitVec 2)
  /-- `fence` (R243): Completes when the slice's earlier loads have returned and its earlier writes are performed at the scope. -/
  | fence (c : BitVec 2)
  /-- `prom` (R244): Performs an acquire of the stated scope on the word, promoting the latest release to that word. -/
  | prom (a : Reg) (c : BitVec 2)
  /-- `wait.eq` (R245): Stalls until the word reads equal to gb, then writes the value and performs an acquire. -/
  | waitEq (d : Reg) (a : Reg) (b : Reg) (c : BitVec 2) (z : BitVec 1)
  /-- `wait.ne` (R245): Stalls until the word reads unequal to gb, then writes the value and performs an acquire. -/
  | waitNe (d : Reg) (a : Reg) (b : Reg) (c : BitVec 2) (z : BitVec 1)
  /-- `pf` (R246): Requests that the sector be brought into the caches; never faults. -/
  | pf (a : Reg)
  /-- `cln` (R246): Writes back dirty copies of the sector within the scope. -/
  | cln (a : Reg) (c : BitVec 2)
  /-- `inv` (R246): Writes back and then discards copies of the sector within the scope. -/
  | inv (a : Reg) (c : BitVec 2)
  /-- `push` (R127): Allocates a tail entry in the queue with ga's value, or a poison marker if ga is poisoned. -/
  | push (q : BitVec 3) (a : Reg)
  /-- `pop` (R127): Removes the head entry of the queue into gd, or delivers its fault marker. -/
  | pop (q : BitVec 3) (d : Reg)
  /-- `peek` (R127): Reads the filled head entry of the queue into gd without removing it. -/
  | peek (q : BitVec 3) (d : Reg)
  /-- `qcnt` (R127): Writes the number of entries present in the queue to gd. -/
  | qcnt (q : BitVec 3) (d : Reg)
  /-- `qdrop` (R127): Removes every entry present in the queue, pending ones included. -/
  | qdrop (q : BitVec 3)
  /-- `slipset` (R127): Sets the slip counter to min(ga, 64). -/
  | slipset (a : Reg)
  /-- `lq` (R128): Allocates a pending forward-queue entry and starts a load that fills it, or fills a fault marker. -/
  | lq (q : BitVec 2) (z : BitVec 2) (a : Reg) (i : BitVec 16)
  /-- `lq.nf` (R128): As lq, but a fault fills a poison marker instead of a fault marker. -/
  | lqNf (q : BitVec 2) (z : BitVec 2) (a : Reg) (i : BitVec 16)
  /-- `beq` (R120): Branches when ga equals gb. -/
  | beq (a : Reg) (b : Reg) (t : BitVec 13)
  /-- `bne` (R120): Branches when ga differs from gb. -/
  | bne (a : Reg) (b : Reg) (t : BitVec 13)
  /-- `blt` (R120): Branches when ga is signed less than gb. -/
  | blt (a : Reg) (b : Reg) (t : BitVec 13)
  /-- `bge` (R120): Branches when ga is signed greater than or equal to gb. -/
  | bge (a : Reg) (b : Reg) (t : BitVec 13)
  /-- `bltn` (R120): Branches when ga is unsigned less than gb. -/
  | bltn (a : Reg) (b : Reg) (t : BitVec 13)
  /-- `bgen` (R120): Branches when ga is unsigned greater than or equal to gb. -/
  | bgen (a : Reg) (b : Reg) (t : BitVec 13)
  /-- `bz` (R120): Branches when ga is zero. -/
  | bz (a : Reg) (t : BitVec 16)
  /-- `bnz` (R120): Branches when ga is nonzero. -/
  | bnz (a : Reg) (t : BitVec 16)
  /-- `b` (R121): Transfers control unconditionally to the target. -/
  | br (t : BitVec 26)
  /-- `call` (R121): Writes the scanned link to g31 and transfers control to the target. -/
  | call (t : BitVec 26)
  /-- `jr` (R121): Transfers control to the address in ga. -/
  | jr (a : Reg)
  /-- `bqz` (R121): Pops a back queue into gd and branches if the value is zero. -/
  | bqz (q : BitVec 1) (d : Reg) (t : BitVec 16)
  /-- `bqnz` (R121): Pops a back queue into gd and branches if the value is nonzero. -/
  | bqnz (q : BitVec 1) (d : Reg) (t : BitVec 16)
  /-- `loop` (R122): Checks the body and activates a zero-overhead loop counted by ga, or skips the body when the count is 0. -/
  | loop (c : BitVec 2) (a : Reg) (t : BitVec 16)
  /-- `loopi` (R122): Checks the body and activates a zero-overhead loop with an immediate count. -/
  | loopi (c : BitVec 2) (n : BitVec 7) (t : BitVec 16)
  /-- `spset` (R125): Sets sp[7:1] to ga[7:1] OR imm8[7:1]. -/
  | spset (a : Reg) (i : BitVec 8)
  /-- `spshift` (R125): Shifts sp[6:1] up one place and sets sp[1] to imm8[0]. -/
  | spshift (i : BitVec 1)
  /-- `spget` (R125): Writes sp to gd. -/
  | spget (d : Reg)
  /-- `ml` (R173): Enters the matrix queue to load a tile slot into the shadow latch of every active cell. -/
  | ml (e : EWord)
  /-- `ml.t` (R173): Enters the matrix queue to load a tile into the shadow latches transposed. -/
  | mlT (e : EWord)
  /-- `mm` (R174): Enters the matrix queue to stream activation vectors through the active latches into accumulator entries. -/
  | mm (e : EWord)
  /-- `mzero` (R175): Enters the matrix queue to clear accumulator entries to +0 and mark them dirty. -/
  | mzero (e : EWord)
  /-- `mdrain` (R176): Enters the matrix queue to verify, convert and clear accumulator entries into the drain scratchpads. -/
  | mdrain (e : EWord)
  /-- `mred` (R177): Enters the matrix queue to contribute FP32 regions to a cross-stack reduction round. -/
  | mred (e : EWord)
  /-- `mcfg` (R180): Enters the matrix queue to write the chain configuration. -/
  | mcfg (e : EWord)
  /-- `mfmt` (R181): Writes a programmable format entry to the working copy at issue and to the context table at performance. -/
  | mfmt (e : EWord)
  /-- `mchk` (R182): Enters the matrix queue to write each row's checksum-counter record, optionally clearing the counts. -/
  | mchk (e : EWord)
  /-- `vadd` (R207): Enters the vector queue to write elementwise sums. -/
  | vadd (e : EWord)
  /-- `vsub` (R207): Enters the vector queue to write elementwise differences. -/
  | vsub (e : EWord)
  /-- `vmul` (R207): Enters the vector queue to write elementwise products. -/
  | vmul (e : EWord)
  /-- `vfma` (R207): Enters the vector queue to write fused multiply-adds, rounded once. -/
  | vfma (e : EWord)
  /-- `vmax` (R207): Enters the vector queue to write elementwise maxima. -/
  | vmax (e : EWord)
  /-- `vmin` (R207): Enters the vector queue to write elementwise minima. -/
  | vmin (e : EWord)
  /-- `vabs` (R207): Enters the vector queue to write absolute values. -/
  | vabs (e : EWord)
  /-- `vneg` (R207): Enters the vector queue to write negations. -/
  | vneg (e : EWord)
  /-- `vexp` (R210): Enters the vector queue to write e^x within the stated bound. -/
  | vexp (e : EWord)
  /-- `vlog` (R210): Enters the vector queue to write ln x within the stated bound. -/
  | vlog (e : EWord)
  /-- `vrcp` (R210): Enters the vector queue to write reciprocals. -/
  | vrcp (e : EWord)
  /-- `vrsq` (R210): Enters the vector queue to write reciprocal square roots. -/
  | vrsq (e : EWord)
  /-- `vsqrt` (R210): Enters the vector queue to write correctly rounded square roots. -/
  | vsqrt (e : EWord)
  /-- `vsin` (R213): Enters the vector queue to write sines with reduction of the argument. -/
  | vsin (e : EWord)
  /-- `vcos` (R213): Enters the vector queue to write cosines with reduction of the argument. -/
  | vcos (e : EWord)
  /-- `vtanh` (R210): Enters the vector queue to write hyperbolic tangents. -/
  | vtanh (e : EWord)
  /-- `vcvt` (R207): Enters the vector queue to convert elements, decoding MX sources. -/
  | vcvt (e : EWord)
  /-- `vcmp` (R208): Enters the vector queue to write 1 or 0 for each comparison under COND. -/
  | vcmp (e : EWord)
  /-- `vsel` (R209): Enters the vector queue to select A or B by whether C is nonzero. -/
  | vsel (e : EWord)
  /-- `vredsum` (R214): Enters the vector queue to sum a region by the fixed tree into element 0. -/
  | vredsum (e : EWord)
  /-- `vredmax` (R214): Enters the vector queue to write the greatest element under the total order. -/
  | vredmax (e : EWord)
  /-- `vargmax` (R214): Enters the vector queue to write the least index of the greatest element. -/
  | vargmax (e : EWord)
  /-- `vtopk` (R215): Enters the vector queue to write the k greatest values and their indices. -/
  | vtopk (e : EWord)
  /-- `vscan` (R216): Enters the vector queue to write every running sum, max or min. -/
  | vscan (e : EWord)
  /-- `vswp2` (R217): Enters the vector queue to exchange pairs at distance 2^k, negating one side if asked. -/
  | vswp2 (e : EWord)
  /-- `vgath` (R218): Enters the vector queue to gather elements by index. -/
  | vgath (e : EWord)
  /-- `vscat` (R218): Enters the vector queue to scatter elements by index. -/
  | vscat (e : EWord)
  /-- `vcopy` (R219): Enters the vector queue to copy elements bit for bit. -/
  | vcopy (e : EWord)
  /-- `vfill` (R219): Enters the vector queue to fill a region with the low bits of a register. -/
  | vfill (e : EWord)
  /-- `vlut` (R220): Enters the vector queue to index a table by the raw 4- or 8-bit code. -/
  | vlut (e : EWord)
  /-- `vtern` (R221): Enters the vector queue to expand ternary-packed bytes into values. -/
  | vtern (e : EWord)
  /-- `vdot8` (R222): Enters the vector queue to form exact INT8 group dot products plus an optional region. -/
  | vdot8 (e : EWord)
  /-- `vquant` (R223): Enters the vector queue to quantise a region to MX blocks with chosen scales. -/
  | vquant (e : EWord)
  /-- `vrand` (R224): Enters the vector queue to fill a region from the Philox generator. -/
  | vrand (e : EWord)
  /-- `cp` (R279): Enters a copy queue to copy the runs of a nest set, with optional barrier arrivals. -/
  | cp (e : EWord)
  /-- `cp.red` (R280): Enters a copy queue to add each source element into its destination atomically. -/
  | cpRed (e : EWord)
  /-- `cp.bc` (R279): Enters a copy queue to broadcast each burst to a range of groups. -/
  | cpBc (e : EWord)
  /-- `sem.wait` (R299): Waits while the semaphore is 0, then decrements it as an acquire. -/
  | semWait (s : BitVec 4)
  /-- `sem.sig` (R299): Increments the semaphore as a release, or traps with cause 0x18 at the ceiling. -/
  | semSig (s : BitVec 4)
  /-- `sem.set` (R299): Sets the semaphore's value, releasing waiters as the value allows. -/
  | semSet (s : BitVec 4) (a : Reg)
  /-- `sem.ceil` (R299): Sets the semaphore's ceiling. -/
  | semCeil (s : BitVec 4) (a : Reg)
  /-- `sem.rd` (R299): Reads the semaphore's ceiling and value into gd. -/
  | semRd (d : Reg) (s : BitVec 4)
  /-- `qfence` (R300): Enters a fence entry in each named queue in one step. -/
  | qfence (qm : BitVec 4)
  /-- `tbar.init` (R301): Sets a transaction barrier's EXP, clears ARR and sets PHASE to 0. -/
  | tbarInit (a b : Reg)
  /-- `tbar.exp` (R301): Adds to a barrier's expected count and applies the completion rule. -/
  | tbarExp (a b : Reg)
  /-- `tbar.wait` (R301): Waits while the barrier's PHASE equals p, then completes with an acquire. -/
  | tbarWait (a b : Reg)
  /-- `kv.alloc` (R327): Allocates the lowest free matching pool page as committed or provisional, and returns its word. -/
  | kvAlloc (d a b : Reg)
  /-- `kv.free` (R327): Frees and zeroes a committed or provisional pool page. -/
  | kvFree (a : Reg)
  /-- `firn.open` (R328): Opens a closed window of a sequence, or returns 0 when 4,096 windows are open. -/
  | firnOpen (d a : Reg)
  /-- `firn.bind` (R329): Binds the issuing group to an open window (u = 0). -/
  | firnBind (a : Reg)
  /-- `firn.seal` (R331): Commits the first k positions of a window, discards the rest and its siblings, and releases the new COMMITTED_LEN. -/
  | firnSeal (a b : Reg)
  /-- `firn.drop` (R332): Closes a window and frees its provisional pages. -/
  | firnDrop (a : Reg)
  /-- `rs.ckpt` (R330): Copies recurrent state to the next checkpoint slot and increments WRITTEN. -/
  | rsCkpt (a b : Reg)
  /-- `seq.claim` (R334): Claims the claimable row of least slack in a phase and snapshots it to the scratchpad. -/
  | seqClaim (d a : Reg) (p : BitVec 4)
  /-- `seq.adv` (R335): Writes a new phase and clears CLAIM with a release. -/
  | seqAdv (a : Reg) (p : BitVec 4)
  /-- `seq.rel` (R335): Clears CLAIM with a release. -/
  | seqRel (a : Reg)
  /-- `launch` (R362): Releases, reads a packet and enters it in the device launch queue or spill ring. -/
  | launch (d : Reg)
  /-- `walk.next` (R363): Waits for the partner and the drain of the queues, completes the iteration and loads the next one's indices. -/
  | walkNext (d : Reg)
  /-- `nest.set` (R272): Writes one dimension of a nest set. -/
  | nestSet (dim : BitVec 3) (nx : BitVec 2) (a b c : Reg)
  /-- `erep` (R290): Captures a nest set and marks the next n commands to a queue for replay. -/
  | erep (q nx : BitVec 2) (n : BitVec 4)
  /-- event (R128): The load of a pending lq completes and fills its entry with data or a marker. -/
  | lqFill (grp q slot : Nat)
  /-- event (R295): A queue head whose WEN wait is satisfied decrements its semaphore and begins. -/
  | engineCommandStart (grp : Nat) (q : EQueue)
  /-- event (R156): A matrix command performs, updating latches, entries or regions, and makes its SEN signal. -/
  | matrixCommandPerform (grp : Nat)
  /-- event (R198): A vector command performs in every row that runs it, ORs its flags and makes its SEN signal. -/
  | vectorCommandPerform (grp : Nat)
  /-- event (R279): A copy engine reads and writes one burst, makes its arrivals and advances CURSOR. -/
  | copyBurst (grp : Nat) (q : EQueue)
  /-- event (R283): A copy performs once every write is performed at system scope and every arrival counted, then signals. -/
  | copyPerform (grp : Nat) (q : EQueue)
  /-- event (R300): A qfence entry performs once every command ahead of it in every named queue has performed. -/
  | qfencePerform (grp : Nat) (q : EQueue)
  /-- event (R177): Once every stack in MASK has contributed, the root sums the round by the tree and writes D. -/
  | mredRoundComplete (grp : Nat)
  /-- event (R166): The watchdog count of an open reduction loop exceeds the bound and the group traps with cause 0x22. -/
  | reductionWatchdog (grp : Nat)
  /-- event (R245): A stalled wait rereads its word after a change reaches its home, and completes if the value satisfies it. -/
  | waitReread (grp : Nat) (sl : Slice)
  /-- event (R379): Every part of a trapped or pre-empted group has stopped, and its records are written. -/
  | groupStopComplete (grp : Nat)
  /-- event (R384): A waiting trap record is written into the trap ring when the ring has room. -/
  | trapRecordWrite (ctx : Nat)
  /-- event (R373): A translation entry's lease reaches 0 and the entry may no longer be used. -/
  | leaseExpiry (k : Nat)
  /-- event (R398): The stack cache writes back or evicts a sector; an uncorrectable error is charged to the frame's owner. -/
  | cacheWriteback (sector : Nat) (evict : Bool) (found : Option EccResult)
  /-- event (R399): The stack scrubber reads a sector of an owned frame, correcting or poisoning it. -/
  | scrub (sector : Nat) (found : Option EccResult)
  /-- event (R394): An ECC error is found in a holder and is corrected, discarded, poisoned or marked as the holder requires. -/
  | uncorrectableError (holder : EccHolder) (found : EccResult)
  /-- event (R157): A DRAM refresh of a vault stalls every rectangle that holds it. -/
  | refresh (stack row col : Nat)
  /-- event (R424): At each 1,024-clk window the stack power manager sets the grant of matrix progress. -/
  | powerWindow (stack grant : Nat)
  /-- event (R428): Every 2^SNAP clk a stack writes its counters and clk count to host memory with a release. -/
  | counterSnapshot (stack : Nat)
  /-- event (R418): A UCIe retry on a chain crossing stalls the rectangles that use it. -/
  | crossingRetry (stack row : Nat)
  /-- event (R418): An unrestorable crossing sets STATE 4, writes a TYPE 3 event and loses every context. -/
  | moduleFatalError (stack edge : Nat)
  /-- event (R408): A host SCL request with the plain order attribute reads or writes vault memory. -/
  | hostPlainAccess (tag addr n : Nat) (write : Option (List Byte))
  /-- event (R408): A host SCL read with the acquire attribute is an acquire of system scope. -/
  | hostAcquire (tag addr n : Nat)
  /-- event (R408): A host SCL write with the release attribute is a release of system scope. -/
  | hostRelease (tag addr : Nat) (bytes : List Byte)
  /-- event (R408): A host SCL atomic performs an AMO with order acqrel. -/
  | hostAtomic (tag addr : Nat) (op : BitVec 4) (size : BitVec 2) (operand comparand : Word)
  /-- event (R378): An inbound UALink request is matched against the peer window table, translated and served or refused. -/
  | peerInboundRequest (port src addr : Nat) (op : PeerOp)
  /-- event (R417): A response or error response to an outbound UALink request arrives and completes it. -/
  | peerResponse (tag : Nat) (error poisoned : Bool) (bytes : List Byte)
  /-- event (R417): An outbound request reaches TMO without a response; it completes as a timeout and may quarantine the peer. -/
  | peerTimeout (tag : Nat)
  /-- event (R376): An unmap completes within its bound or after a recall, and its completion word is released. -/
  | unmapComplete (k : Nat)
  /-- event (R420): A write to a bring-up window field other than CMD sets that field. -/
  | bringupWindowWrite (off : Nat) (value : Word)
  /-- event (R337): The dispatcher acquires a launch queue's WPTR, reads the next packet and releases RPTR + 1. -/
  | packetTake (queue : Nat)
  /-- event (R345): A waiting launch is admitted when enough chain sets are free, and takes free chain sets up to MAXST. -/
  | launchAdmit (lid : Nat)
  /-- event (R350): The device chooses lower-priority groups to pre-empt for waiting work. -/
  | preemptionRequest (grp : Nat)
  /-- event (R347): A walker hands a chunk to a free rectangle and the group takes its number. -/
  | groupPlacement (lid : Nat)
  /-- event (R302): Both streams have joined and the engine queues have drained; the group takes its next iteration or is freed. -/
  | jobEnd (grp : Nat)
  /-- event (R389): A pre-empting group whose loop is closed and parts stopped is saved to an image, and its rectangle is freed. -/
  | groupSave (grp : Nat)
  /-- event (R393): A saved group is restored into its rectangle with its scratchpad and reloaded latches. -/
  | groupResume (grp : Nat)
  /-- event (R355): The dispatcher posts a calving request to a chain set of a launch. -/
  | calvingRequest (lid set : Nat)
  /-- event (R355): Every group on the chain set has reached a step boundary, and the chain set is withdrawn from the launch. -/
  | calve (lid set : Nat)
  /-- event (R354): The device adds a free chain set to an admitted launch below its maximum. -/
  | chainSetAdd (lid set : Nat)
  /-- event (R64): A stream issues a word that decodes to no instruction, such as a reserved major, function or must-be-zero field, and traps with cause 0x01 before any effect. -/
  | illegalInstruction (w1 w2 : BitVec 32)
  /-- event (R251): A slice's store leaves its store buffer and is performed at its home and at every scope, within a bounded time after issue. -/
  | storeBufferDrain (grp : Nat) (sl : Slice) (k : Nat)
  /-- event (R230): The device replaces a line of a controller's scalar data cache, removing a stale copy of peer memory on a UO page. -/
  | scalarCacheReplacement (k : Nat)
  /-- event (R373): The device drops a translation-cache entry before its lease runs out, so the next use refills it by a fresh walk. -/
  | translationEntryDrop (k : Nat)
  /-- `nop` (R129): Does nothing; the stream scans on to its next instruction. -/
  | nop
  /-- `join` (R119): Ends the issuing stream for this job and discards that slice's loop state. -/
  | join
  /-- `yield` (R129): Changes no state, and may give the slice's next issue opportunity to the other slice. -/
  | yieldSlice
  /-- `stepb` (R360): Marks a step boundary of its stream for calving. -/
  | stepb
  /-- `brk` (R403): Raises breakpoint cause 0x31 with SKIP set. -/
  | brk
  /-- `ifence` (R129): Waits until the stream's own earlier stores are performed, then discards the lines it has fetched or prefetched. -/
  | ifence
  /-- `slip` (R127): Waits while the slip counter is at or above the limit, then increments it. -/
  | slip
  /-- `catch` (R127): Waits while the slip counter is 0, then decrements it. -/
  | slipCatch
  /-- `firn.bind` (R329): Unbinds the issuing group from its window (u = 1). -/
  | firnUnbind
  /-- event (R412): A waiting event is written into the host event ring when the ring has room. -/
  | eventWrite
  /-- event (R31): Returns every stack, engine and link register to its reset value and destroys every context. -/
  | moduleReset
  /-- event (R386): Management request that reads a context descriptor and makes a context. -/
  | createCtx
  /-- event (R396): Management request that ends a context without saving anything. -/
  | killCtx
  /-- event (R385): Management request that stops dispatch for a context and pre-empts its resident groups. -/
  | preemptCtx
  /-- event (R385): Management request that resumes dispatch and the saved groups of a context. -/
  | resumeCtx
  /-- event (R387): Management request that restarts a group stopped by a trap from its image. -/
  | resumeGroup
  /-- event (R376): Management request that starts an unmap of a virtual range, with or without a recall. -/
  | unmap
  /-- event (R378): Management request that writes a peer window table entry. -/
  | pwin
  /-- event (R413): Management request that writes a frame-owner table entry. -/
  | frame
  /-- event (R416): Management request that sets a UALink port's timeout and quarantine threshold. -/
  | pcfg
  /-- event (R417): Management request that ends a peer's quarantine on a port. -/
  | qrel
  /-- event (R415): Management request that assigns a UALink port to a peer. -/
  | route
  /-- event (R409): A management request with an unknown OPC or a bad operand receives STATUS 2 and has no effect. -/
  | mgmtInvalidRequest
  /-- event (R422): CMD 1 verifies and measures the firmware image, then starts it. -/
  | bootCmd
  /-- event (R423): CMD 2 writes a signed attestation quote over the nonce. -/
  | quoteCmd
  deriving DecidableEq, Repr

end Sys2Proof
end

