-- ==== Sys2Proof/WellFormed.lean ====
section
/-! DEFINITION. Which terms of Instr stand for a legal encoding: the must-be-zero and reserved-code rules of R50 to
R62, R171, R205, R272, R275, R290, R298, R324 and R361. Every breach is an illegal instruction (R55), an `ml.t` with a
sparse SP too, of which R89 names cause 0x20 (log 23). -/

namespace Sys2Proof

/-- R50: WSEM is zero without WEN, SSEM is zero without SEN. -/
def EWord.semOk (e : EWord) : Bool := (e.wen || e.wsem == 0) && (e.sen || e.ssem == 0)

/-- R52: rounding codes 5 and 6 are reserved. -/
def roundOk (imm : BitVec 12) : Bool := imm.extractLsb' 0 3 != 5 && imm.extractLsb' 0 3 != 6

/-- R53, MX other than `mm`: MOD is zero; `mm` uses MOD [1:0]. -/
def EWord.mxOk (e : EWord) (isMm : Bool) : Bool :=
  e.semOk && (if isMm then e.mod.extractLsb' 2 4 == 0 else e.mod == 0)

/-- R53, VX: MOD [5] is zero, and ROW is zero without ROWEN. -/
def EWord.vxOk (e : EWord) : Bool :=
  e.semOk && !e.mod.getLsbD 5 && (e.mod.getLsbD 4 || e.mod.extractLsb' 0 4 == 0)

/-- R51: a register field that the command does not use is zero. -/
def EWord.uses (e : EWord) (a b c : Bool) : Bool :=
  (a || e.a == 0) && (b || e.b == 0) && (c || e.c == 0)

/-- R205, the common layout: [11:4] zero, [3] SAT, [2:0] rounding. -/
def immRnd (imm : BitVec 12) : Bool := imm.extractLsb' 4 8 == 0 && roundOk imm

/-- An elementwise or reducing VX command with the common IMM12 layout (R204, R205). -/
def EWord.vxRnd (e : EWord) (b c : Bool) : Bool := e.vxOk && e.uses true b c && immRnd e.imm

/-- A VX command whose IMM12 is zero (R205). -/
def EWord.vxPlain (e : EWord) : Bool := e.vxOk && e.uses true false false && e.imm == 0

/-- R59: the AMO sizes are 4 and 8 bytes. -/
def amoSizeOk (z : BitVec 2) : Bool := z == 2 || z == 3

/-- The legal encodings; for an event, the ranges of its operands. -/
def WellFormed : Instr → Bool
  | .rdcr _ n => n.toNat < 11
  | .wrcr _ n => n.toNat < 11
  | .rdcnt _ n => n.toNat < 24
  | .amoAdd _ _ _ z _ _ => amoSizeOk z
  | .amoAnd _ _ _ z _ _ => amoSizeOk z
  | .amoOr _ _ _ z _ _ => amoSizeOk z
  | .amoXor _ _ _ z _ _ => amoSizeOk z
  | .amoMin _ _ _ z _ _ => amoSizeOk z
  | .amoMax _ _ _ z _ _ => amoSizeOk z
  | .amoMinn _ _ _ z _ _ => amoSizeOk z
  | .amoMaxn _ _ _ z _ _ => amoSizeOk z
  | .amoSwp _ _ _ z _ _ => amoSizeOk z
  | .amoCas _ _ _ z _ _ => amoSizeOk z
  | .amoFadd _ _ _ z _ _ => z == 2
  | .push q _ => q.toNat < 6
  | .pop q _ => q.toNat < 6
  | .peek q _ => q.toNat < 6
  | .qcnt q _ => q.toNat < 6
  | .qdrop q => q.toNat < 6
  | .ml e => e.mxOk false && e.uses false false false && e.imm.extractLsb' 6 6 == 0
  | .mlT e => e.mxOk false && e.uses false false false && e.imm.extractLsb' 4 8 == 0
  | .mm e => e.mxOk true && e.uses true true false && e.imm == 0
  | .mzero e => e.mxOk false && e.uses false false false && e.imm == 0
  | .mdrain e => e.mxOk false && e.uses true false false && immRnd e.imm
  | .mred e => e.mxOk false && e.uses true true false && e.imm == 0
  | .mcfg e => e.mxOk false && e.uses false false false && e.imm == 0
  | .mfmt e => e.mxOk false && e.uses false false false && e.imm.extractLsb' 4 8 == 0
  | .mchk e => e.mxOk false && e.uses false false false && e.imm.extractLsb' 1 11 == 0
  | .vadd e => e.vxRnd true false
  | .vsub e => e.vxRnd true false
  | .vmul e => e.vxRnd true false
  | .vfma e => e.vxRnd true true
  | .vmax e => e.vxRnd true false
  | .vmin e => e.vxRnd true false
  | .vabs e => e.vxRnd false false
  | .vneg e => e.vxRnd false false
  | .vexp e => e.vxRnd false false
  | .vlog e => e.vxRnd false false
  | .vrcp e => e.vxRnd false false
  | .vrsq e => e.vxRnd false false
  | .vsqrt e => e.vxRnd false false
  | .vsin e => e.vxRnd false false
  | .vcos e => e.vxRnd false false
  | .vtanh e => e.vxRnd false false
  | .vcvt e => e.vxRnd false false
  | .vcmp e => e.vxOk && e.uses true true false && e.imm.extractLsb' 0 4 == 0 && e.imm.extractLsb' 7 5 == 0
  | .vsel e => e.vxRnd true true
  | .vredsum e => e.vxRnd false false
  | .vredmax e => e.vxRnd false false
  | .vargmax e => e.vxPlain
  | .vtopk e => e.vxOk && e.uses true true false && roundOk e.imm
  | .vscan e => e.vxOk && e.uses true false false && e.imm.extractLsb' 6 6 == 0 && e.imm.extractLsb' 4 2 != 3 && roundOk e.imm
  | .vswp2 e => e.vxOk && e.uses true false false && e.imm.extractLsb' 9 3 == 0 && e.imm.extractLsb' 7 2 != 3 && roundOk e.imm
  | .vgath e => e.vxRnd true false
  | .vscat e => e.vxRnd true false
  | .vcopy e => e.vxPlain
  | .vfill e => e.vxPlain
  | .vlut e => e.vxRnd true false
  | .vtern e => e.vxPlain
  | .vdot8 e => e.vxOk && e.imm.extractLsb' 8 4 == 0 && roundOk e.imm
  | .vquant e => e.vxOk && e.uses true false false && e.imm.extractLsb' 3 9 == 0 && roundOk e.imm
  | .vrand e => e.vxOk && e.uses true true false && e.imm.extractLsb' 6 6 == 0 && e.imm.extractLsb' 4 2 != 2 && e.imm.extractLsb' 4 2 != 3 && roundOk e.imm
  | .cp e => e.semOk && e.mod.extractLsb' 2 4 == 0 && e.imm == 0
  | .cpRed e => e.semOk && e.mod.extractLsb' 2 4 == 0 && e.imm == 0
  | .cpBc e => e.semOk && e.mod.extractLsb' 2 4 == 0 && e.imm == 0
  | .qfence qm => qm != 0
  | .nestSet dim _ _ _ _ => dim.toNat < 6
  | .erep q _ _ => q.toNat < 3
  | .refresh stack row col => stack < 16 && row < 16 && col < 24
  | .powerWindow stack grant => stack < 16 && 64 ≤ grant && grant ≤ 1024
  | .counterSnapshot stack => stack < 16
  | .crossingRetry stack row => stack < 16 && row < 16
  | .moduleFatalError stack edge => stack < 16 && edge < 4
  | .packetTake q => q < 576
  | .nop => true
  | .join => true
  | .yieldSlice => true
  | .trapSw _ => true
  | .chkErr _ => true
  | .stepb => true
  | .grpid _ => true
  | .coresid _ => true
  | .brk => true
  | .ifence => true
  | .add _ _ _ => true
  | .sub _ _ _ => true
  | .mul _ _ _ => true
  | .mulh _ _ _ => true
  | .mulhn _ _ _ => true
  | .div _ _ _ => true
  | .divn _ _ _ => true
  | .rem _ _ _ => true
  | .remn _ _ _ => true
  | .and _ _ _ => true
  | .or _ _ _ => true
  | .xor _ _ _ => true
  | .andn _ _ _ => true
  | .orn _ _ _ => true
  | .sll _ _ _ => true
  | .srl _ _ _ => true
  | .sra _ _ _ => true
  | .slt _ _ _ => true
  | .sltn _ _ _ => true
  | .min _ _ _ => true
  | .max _ _ _ => true
  | .minn _ _ _ => true
  | .maxn _ _ _ => true
  | .sel _ _ _ => true
  | .addi _ _ _ => true
  | .andi _ _ _ => true
  | .ori _ _ _ => true
  | .xori _ _ _ => true
  | .slti _ _ _ => true
  | .sltni _ _ _ => true
  | .slli _ _ _ => true
  | .srli _ _ _ => true
  | .srai _ _ _ => true
  | .mini _ _ _ => true
  | .maxi _ _ _ => true
  | .li16 _ _ => true
  | .ins16 _ _ _ => true
  | .bext _ _ _ _ => true
  | .bexts _ _ _ _ => true
  | .bins _ _ _ _ => true
  | .bextv _ _ _ => true
  | .bextsv _ _ _ => true
  | .binsv _ _ _ => true
  | .fsh _ _ _ _ => true
  | .bnet _ _ _ _ => true
  | .bnld _ _ _ _ => true
  | .clz _ _ => true
  | .ctz _ _ => true
  | .popc _ _ => true
  | .brev _ _ => true
  | .bswap _ _ => true
  | .lea _ _ _ _ => true
  | .ldB _ _ _ => true
  | .ldBz _ _ _ => true
  | .ldH _ _ _ => true
  | .ldHz _ _ _ => true
  | .ldW _ _ _ => true
  | .ldWz _ _ _ => true
  | .ldD _ _ _ => true
  | .stB _ _ _ => true
  | .stH _ _ _ => true
  | .stW _ _ _ => true
  | .stD _ _ _ => true
  | .ldAcq _ _ _ _ _ => true
  | .stRel _ _ _ _ _ => true
  | .ldsB _ _ _ => true
  | .ldsBz _ _ _ => true
  | .ldsH _ _ _ => true
  | .ldsHz _ _ _ => true
  | .ldsW _ _ _ => true
  | .ldsWz _ _ _ => true
  | .ldsD _ _ _ => true
  | .stsB _ _ _ => true
  | .stsH _ _ _ => true
  | .stsW _ _ _ => true
  | .stsD _ _ _ => true
  | .fence _ => true
  | .prom _ _ => true
  | .waitEq _ _ _ _ _ => true
  | .waitNe _ _ _ _ _ => true
  | .pf _ => true
  | .cln _ _ => true
  | .inv _ _ => true
  | .slip => true
  | .slipCatch => true
  | .slipset _ => true
  | .lq _ _ _ _ => true
  | .lqNf _ _ _ _ => true
  | .beq _ _ _ => true
  | .bne _ _ _ => true
  | .blt _ _ _ => true
  | .bge _ _ _ => true
  | .bltn _ _ _ => true
  | .bgen _ _ _ => true
  | .bz _ _ => true
  | .bnz _ _ => true
  | .br _ => true
  | .call _ => true
  | .jr _ => true
  | .bqz _ _ _ => true
  | .bqnz _ _ _ => true
  | .loop _ _ _ => true
  | .loopi _ _ _ => true
  | .spset _ _ => true
  | .spshift _ => true
  | .spget _ => true
  | .semWait _ => true
  | .semSig _ => true
  | .semSet _ _ => true
  | .semCeil _ _ => true
  | .semRd _ _ => true
  | .tbarInit _ _ => true
  | .tbarExp _ _ => true
  | .tbarWait _ _ => true
  | .kvAlloc _ _ _ => true
  | .kvFree _ => true
  | .firnOpen _ _ => true
  | .firnBind _ => true
  | .firnUnbind => true
  | .firnSeal _ _ => true
  | .firnDrop _ => true
  | .rsCkpt _ _ => true
  | .seqClaim _ _ _ => true
  | .seqAdv _ _ => true
  | .seqRel _ => true
  | .launch _ => true
  | .walkNext _ => true
  | .lqFill _ _ _ => true
  | .engineCommandStart _ _ => true
  | .matrixCommandPerform _ => true
  | .vectorCommandPerform _ => true
  | .copyBurst _ _ => true
  | .copyPerform _ _ => true
  | .qfencePerform _ _ => true
  | .mredRoundComplete _ => true
  | .reductionWatchdog _ => true
  | .waitReread _ _ => true
  | .groupStopComplete _ => true
  | .trapRecordWrite _ => true
  | .eventWrite => true
  | .leaseExpiry _ => true
  | .cacheWriteback _ _ _ => true
  | .scrub _ _ => true
  | .uncorrectableError _ _ => true
  | .moduleReset => true
  | .hostPlainAccess _ _ _ _ => true
  | .hostAcquire _ _ _ => true
  | .hostRelease _ _ _ => true
  | .hostAtomic _ _ _ _ _ _ => true
  | .peerInboundRequest _ _ _ _ => true
  | .peerResponse _ _ _ _ => true
  | .peerTimeout _ => true
  | .createCtx => true
  | .killCtx => true
  | .preemptCtx => true
  | .resumeCtx => true
  | .resumeGroup => true
  | .unmap => true
  | .unmapComplete _ => true
  | .pwin => true
  | .frame => true
  | .pcfg => true
  | .qrel => true
  | .route => true
  | .mgmtInvalidRequest => true
  | .bootCmd => true
  | .quoteCmd => true
  | .bringupWindowWrite _ _ => true
  | .launchAdmit _ => true
  | .preemptionRequest _ => true
  | .groupPlacement _ => true
  | .jobEnd _ => true
  | .groupSave _ => true
  | .groupResume _ => true
  | .calvingRequest _ _ => true
  | .calve _ _ => true
  | .chainSetAdd _ _ => true
  | .illegalInstruction _ _ => true
  | .storeBufferDrain _ _ _ => true
  | .scalarCacheReplacement _ => true
  | .translationEntryDrop _ => true

end Sys2Proof
end

