-- ==== Sys2Proof/Decode.lean ====
section
/-! DEFINITION. The decoder of instruction words (R45 to R64), total on any bytes and rejecting by name, and after it
the encoder, written from the same tables (R46, R49, R54). -/

namespace Sys2Proof

/-- Why a word or pair of words is no instruction. R55 gives each the same cause, 0x01. -/
inductive Reject where
  | truncated
  | reservedMajor
  | reservedFunction
  | mustBeZero
  | reservedCode
  deriving DecidableEq, Repr

/-- The field of `n` bits whose lowest bit is `lo` (R6). -/
def fld (w : BitVec 32) (lo n : Nat) : BitVec n := w.extractLsb' lo n

/-- `i`, unless a must-be-zero bit of `mask` is set in `w` (R46, R55). -/
def mbz (w mask : BitVec 32) (i : Instr) : Except Reject Instr :=
  if w &&& mask = 0 then .ok i else .error .mustBeZero

/-- Major 0x00: the function value in [10:0]. -/
def decSys (w : BitVec 32) : Except Reject Instr :=
  match (fld w 0 11).toNat with
  | 0 => mbz w 0x03fff800 .nop
  | 1 => mbz w 0x03fff800 .join
  | 2 => mbz w 0x03fff800 .yieldSlice
  | 3 => mbz w 0x03e0f800 (.trapSw (fld w 16 5))
  | 4 => mbz w 0x001ff800 (.chkErr (fld w 21 5))
  | 5 => mbz w 0x001f0000 (.rdcr (fld w 21 5) (fld w 11 5))
  | 6 => mbz w 0x03e00000 (.wrcr (fld w 16 5) (fld w 11 5))
  | 7 => mbz w 0x001f0000 (.rdcnt (fld w 21 5) (fld w 11 5))
  | 8 => mbz w 0x03fff800 .stepb
  | 9 => mbz w 0x001ff800 (.grpid (fld w 21 5))
  | 10 => mbz w 0x001ff800 (.coresid (fld w 21 5))
  | 11 => mbz w 0x03fff800 .brk
  | 12 => mbz w 0x03fff800 .ifence
  | _ => .error .reservedFunction

/-- Major 0x01: the function value in [10:0]. -/
def decAlu (w : BitVec 32) : Except Reject Instr :=
  match (fld w 0 11).toNat with
  | 0 => .ok (.add (fld w 21 5) (fld w 16 5) (fld w 11 5))
  | 1 => .ok (.sub (fld w 21 5) (fld w 16 5) (fld w 11 5))
  | 2 => .ok (.mul (fld w 21 5) (fld w 16 5) (fld w 11 5))
  | 3 => .ok (.mulh (fld w 21 5) (fld w 16 5) (fld w 11 5))
  | 4 => .ok (.mulhn (fld w 21 5) (fld w 16 5) (fld w 11 5))
  | 5 => .ok (.div (fld w 21 5) (fld w 16 5) (fld w 11 5))
  | 6 => .ok (.divn (fld w 21 5) (fld w 16 5) (fld w 11 5))
  | 7 => .ok (.rem (fld w 21 5) (fld w 16 5) (fld w 11 5))
  | 8 => .ok (.remn (fld w 21 5) (fld w 16 5) (fld w 11 5))
  | 9 => .ok (.and (fld w 21 5) (fld w 16 5) (fld w 11 5))
  | 10 => .ok (.or (fld w 21 5) (fld w 16 5) (fld w 11 5))
  | 11 => .ok (.xor (fld w 21 5) (fld w 16 5) (fld w 11 5))
  | 12 => .ok (.andn (fld w 21 5) (fld w 16 5) (fld w 11 5))
  | 13 => .ok (.orn (fld w 21 5) (fld w 16 5) (fld w 11 5))
  | 14 => .ok (.sll (fld w 21 5) (fld w 16 5) (fld w 11 5))
  | 15 => .ok (.srl (fld w 21 5) (fld w 16 5) (fld w 11 5))
  | 16 => .ok (.sra (fld w 21 5) (fld w 16 5) (fld w 11 5))
  | 17 => .ok (.slt (fld w 21 5) (fld w 16 5) (fld w 11 5))
  | 18 => .ok (.sltn (fld w 21 5) (fld w 16 5) (fld w 11 5))
  | 19 => .ok (.min (fld w 21 5) (fld w 16 5) (fld w 11 5))
  | 20 => .ok (.max (fld w 21 5) (fld w 16 5) (fld w 11 5))
  | 21 => .ok (.minn (fld w 21 5) (fld w 16 5) (fld w 11 5))
  | 22 => .ok (.maxn (fld w 21 5) (fld w 16 5) (fld w 11 5))
  | 23 => .ok (.sel (fld w 21 5) (fld w 16 5) (fld w 11 5))
  | _ => .error .reservedFunction

/-- Major 0x02: the function value in [15:12]. -/
def decAluk (w : BitVec 32) : Except Reject Instr :=
  match (fld w 12 4).toNat with
  | 0 => .ok (.addi (fld w 21 5) (fld w 16 5) (fld w 0 12))
  | 1 => .ok (.andi (fld w 21 5) (fld w 16 5) (fld w 0 12))
  | 2 => .ok (.ori (fld w 21 5) (fld w 16 5) (fld w 0 12))
  | 3 => .ok (.xori (fld w 21 5) (fld w 16 5) (fld w 0 12))
  | 4 => .ok (.slti (fld w 21 5) (fld w 16 5) (fld w 0 12))
  | 5 => .ok (.sltni (fld w 21 5) (fld w 16 5) (fld w 0 12))
  | 6 => mbz w 0x00000fc0 (.slli (fld w 21 5) (fld w 16 5) (fld w 0 6))
  | 7 => mbz w 0x00000fc0 (.srli (fld w 21 5) (fld w 16 5) (fld w 0 6))
  | 8 => mbz w 0x00000fc0 (.srai (fld w 21 5) (fld w 16 5) (fld w 0 6))
  | 9 => .ok (.mini (fld w 21 5) (fld w 16 5) (fld w 0 12))
  | 10 => .ok (.maxi (fld w 21 5) (fld w 16 5) (fld w 0 12))
  | _ => .error .reservedFunction

/-- Major 0x03. -/
def decLi16 (w : BitVec 32) : Except Reject Instr :=
  mbz w 0x001f0000 (.li16 (fld w 21 5) (fld w 0 16))

/-- Major 0x04. -/
def decIns16 (w : BitVec 32) : Except Reject Instr :=
  mbz w 0x00070000 (.ins16 (fld w 21 5) (fld w 19 2) (fld w 0 16))

/-- Major 0x05: the function value in [2:0]. -/
def decBit (w : BitVec 32) : Except Reject Instr :=
  match (fld w 0 3).toNat with
  | 0 => .ok (.bext (fld w 21 5) (fld w 16 5) (fld w 10 6) (fld w 3 7))
  | 1 => .ok (.bexts (fld w 21 5) (fld w 16 5) (fld w 10 6) (fld w 3 7))
  | 2 => .ok (.bins (fld w 21 5) (fld w 16 5) (fld w 10 6) (fld w 3 7))
  | _ => .error .reservedFunction

/-- Major 0x06: the function value in [4:0]. -/
def decBitr (w : BitVec 32) : Except Reject Instr :=
  match (fld w 0 5).toNat with
  | 0 => mbz w 0x000007e0 (.bextv (fld w 21 5) (fld w 16 5) (fld w 11 5))
  | 1 => mbz w 0x000007e0 (.bextsv (fld w 21 5) (fld w 16 5) (fld w 11 5))
  | 2 => mbz w 0x000007e0 (.binsv (fld w 21 5) (fld w 16 5) (fld w 11 5))
  | 3 => .ok (.fsh (fld w 21 5) (fld w 16 5) (fld w 11 5) (fld w 5 6))
  | 4 => mbz w 0x000000e0 (.bnet (fld w 21 5) (fld w 16 5) (fld w 11 5) (fld w 8 3))
  | 5 => mbz w 0x03e00000 (.bnld (fld w 16 5) (fld w 11 5) (fld w 8 3) (fld w 5 3))
  | 6 => mbz w 0x0000ffe0 (.clz (fld w 21 5) (fld w 16 5))
  | 7 => mbz w 0x0000ffe0 (.ctz (fld w 21 5) (fld w 16 5))
  | 8 => mbz w 0x0000ffe0 (.popc (fld w 21 5) (fld w 16 5))
  | 9 => mbz w 0x0000ffe0 (.brev (fld w 21 5) (fld w 16 5))
  | 10 => mbz w 0x0000ffe0 (.bswap (fld w 21 5) (fld w 16 5))
  | 11 => mbz w 0x00000780 (.lea (fld w 21 5) (fld w 16 5) (fld w 11 5) (fld w 5 2))
  | _ => .error .reservedFunction

/-- Major 0x08: the function value in [15:13]. -/
def decLd (w : BitVec 32) : Except Reject Instr :=
  match (fld w 13 3).toNat with
  | 0 => .ok (.ldB (fld w 21 5) (fld w 16 5) (fld w 0 13))
  | 1 => .ok (.ldBz (fld w 21 5) (fld w 16 5) (fld w 0 13))
  | 2 => .ok (.ldH (fld w 21 5) (fld w 16 5) (fld w 0 13))
  | 3 => .ok (.ldHz (fld w 21 5) (fld w 16 5) (fld w 0 13))
  | 4 => .ok (.ldW (fld w 21 5) (fld w 16 5) (fld w 0 13))
  | 5 => .ok (.ldWz (fld w 21 5) (fld w 16 5) (fld w 0 13))
  | 6 => .ok (.ldD (fld w 21 5) (fld w 16 5) (fld w 0 13))
  | _ => .error .reservedFunction

/-- Major 0x09: the function value in [15:13]. -/
def decSt (w : BitVec 32) : Except Reject Instr :=
  match (fld w 13 3).toNat with
  | 0 => .ok (.stB (fld w 21 5) (fld w 16 5) (fld w 0 13))
  | 2 => .ok (.stH (fld w 21 5) (fld w 16 5) (fld w 0 13))
  | 4 => .ok (.stW (fld w 21 5) (fld w 16 5) (fld w 0 13))
  | 6 => .ok (.stD (fld w 21 5) (fld w 16 5) (fld w 0 13))
  | _ => .error .reservedFunction

/-- Major 0x0a. -/
def decLdAcq (w : BitVec 32) : Except Reject Instr :=
  .ok (.ldAcq (fld w 21 5) (fld w 16 5) (fld w 14 2) (fld w 12 2) (fld w 0 12))

/-- Major 0x0b. -/
def decStRel (w : BitVec 32) : Except Reject Instr :=
  .ok (.stRel (fld w 21 5) (fld w 16 5) (fld w 14 2) (fld w 12 2) (fld w 0 12))

/-- Major 0x0c: the function value in [15:13]. -/
def decLds (w : BitVec 32) : Except Reject Instr :=
  match (fld w 13 3).toNat with
  | 0 => .ok (.ldsB (fld w 21 5) (fld w 16 5) (fld w 0 13))
  | 1 => .ok (.ldsBz (fld w 21 5) (fld w 16 5) (fld w 0 13))
  | 2 => .ok (.ldsH (fld w 21 5) (fld w 16 5) (fld w 0 13))
  | 3 => .ok (.ldsHz (fld w 21 5) (fld w 16 5) (fld w 0 13))
  | 4 => .ok (.ldsW (fld w 21 5) (fld w 16 5) (fld w 0 13))
  | 5 => .ok (.ldsWz (fld w 21 5) (fld w 16 5) (fld w 0 13))
  | 6 => .ok (.ldsD (fld w 21 5) (fld w 16 5) (fld w 0 13))
  | _ => .error .reservedFunction

/-- Major 0x0d: the function value in [15:13]. -/
def decSts (w : BitVec 32) : Except Reject Instr :=
  match (fld w 13 3).toNat with
  | 0 => .ok (.stsB (fld w 21 5) (fld w 16 5) (fld w 0 13))
  | 2 => .ok (.stsH (fld w 21 5) (fld w 16 5) (fld w 0 13))
  | 4 => .ok (.stsW (fld w 21 5) (fld w 16 5) (fld w 0 13))
  | 6 => .ok (.stsD (fld w 21 5) (fld w 16 5) (fld w 0 13))
  | _ => .error .reservedFunction

/-- Major 0x0e: the function value in [10:7]. -/
def decAmo (w : BitVec 32) : Except Reject Instr :=
  match (fld w 7 4).toNat with
  | 0 => mbz w 0x00000001 (.amoAdd (fld w 21 5) (fld w 16 5) (fld w 11 5) (fld w 5 2) (fld w 3 2) (fld w 1 2))
  | 1 => mbz w 0x00000001 (.amoAnd (fld w 21 5) (fld w 16 5) (fld w 11 5) (fld w 5 2) (fld w 3 2) (fld w 1 2))
  | 2 => mbz w 0x00000001 (.amoOr (fld w 21 5) (fld w 16 5) (fld w 11 5) (fld w 5 2) (fld w 3 2) (fld w 1 2))
  | 3 => mbz w 0x00000001 (.amoXor (fld w 21 5) (fld w 16 5) (fld w 11 5) (fld w 5 2) (fld w 3 2) (fld w 1 2))
  | 4 => mbz w 0x00000001 (.amoMin (fld w 21 5) (fld w 16 5) (fld w 11 5) (fld w 5 2) (fld w 3 2) (fld w 1 2))
  | 5 => mbz w 0x00000001 (.amoMax (fld w 21 5) (fld w 16 5) (fld w 11 5) (fld w 5 2) (fld w 3 2) (fld w 1 2))
  | 6 => mbz w 0x00000001 (.amoMinn (fld w 21 5) (fld w 16 5) (fld w 11 5) (fld w 5 2) (fld w 3 2) (fld w 1 2))
  | 7 => mbz w 0x00000001 (.amoMaxn (fld w 21 5) (fld w 16 5) (fld w 11 5) (fld w 5 2) (fld w 3 2) (fld w 1 2))
  | 8 => mbz w 0x00000001 (.amoSwp (fld w 21 5) (fld w 16 5) (fld w 11 5) (fld w 5 2) (fld w 3 2) (fld w 1 2))
  | 9 => mbz w 0x00000001 (.amoCas (fld w 21 5) (fld w 16 5) (fld w 11 5) (fld w 5 2) (fld w 3 2) (fld w 1 2))
  | 10 => mbz w 0x00000001 (.amoFadd (fld w 21 5) (fld w 16 5) (fld w 11 5) (fld w 5 2) (fld w 3 2) (fld w 1 2))
  | _ => .error .reservedFunction

/-- Major 0x0f: the function value in [10:8]. -/
def decFence (w : BitVec 32) : Except Reject Instr :=
  match (fld w 8 3).toNat with
  | 0 => mbz w 0x03fff83f (.fence (fld w 6 2))
  | 1 => mbz w 0x03e0f83f (.prom (fld w 16 5) (fld w 6 2))
  | 2 => mbz w 0x0000001f (.waitEq (fld w 21 5) (fld w 16 5) (fld w 11 5) (fld w 6 2) (fld w 5 1))
  | 3 => mbz w 0x0000001f (.waitNe (fld w 21 5) (fld w 16 5) (fld w 11 5) (fld w 6 2) (fld w 5 1))
  | 4 => mbz w 0x03e0f8ff (.pf (fld w 16 5))
  | 5 => mbz w 0x03e0f83f (.cln (fld w 16 5) (fld w 6 2))
  | 6 => mbz w 0x03e0f83f (.inv (fld w 16 5) (fld w 6 2))
  | _ => .error .reservedFunction

/-- Major 0x10: the function value in [25:23]. -/
def decQ (w : BitVec 32) : Except Reject Instr :=
  match (fld w 23 3).toNat with
  | 0 => mbz w 0x00007fff (.push (fld w 20 3) (fld w 15 5))
  | 1 => mbz w 0x00007fff (.pop (fld w 20 3) (fld w 15 5))
  | 2 => mbz w 0x00007fff (.peek (fld w 20 3) (fld w 15 5))
  | 3 => mbz w 0x00007fff (.qcnt (fld w 20 3) (fld w 15 5))
  | 4 => mbz w 0x000fffff (.qdrop (fld w 20 3))
  | 5 => mbz w 0x007fffff .slip
  | 6 => mbz w 0x007fffff .slipCatch
  | 7 => mbz w 0x00707fff (.slipset (fld w 15 5))
  | _ => .error .reservedFunction

/-- Major 0x11: the function value in [25:25]. -/
def decLq (w : BitVec 32) : Except Reject Instr :=
  match (fld w 25 1).toNat with
  | 0 => .ok (.lq (fld w 23 2) (fld w 21 2) (fld w 16 5) (fld w 0 16))
  | 1 => .ok (.lqNf (fld w 23 2) (fld w 21 2) (fld w 16 5) (fld w 0 16))
  | _ => .error .reservedFunction

/-- Major 0x12: the function value in [15:13]. -/
def decBr (w : BitVec 32) : Except Reject Instr :=
  match (fld w 13 3).toNat with
  | 0 => .ok (.beq (fld w 21 5) (fld w 16 5) (fld w 0 13))
  | 1 => .ok (.bne (fld w 21 5) (fld w 16 5) (fld w 0 13))
  | 2 => .ok (.blt (fld w 21 5) (fld w 16 5) (fld w 0 13))
  | 3 => .ok (.bge (fld w 21 5) (fld w 16 5) (fld w 0 13))
  | 4 => .ok (.bltn (fld w 21 5) (fld w 16 5) (fld w 0 13))
  | 5 => .ok (.bgen (fld w 21 5) (fld w 16 5) (fld w 0 13))
  | _ => .error .reservedFunction

/-- Major 0x13: the function value in [20:16]. -/
def decBz (w : BitVec 32) : Except Reject Instr :=
  match (fld w 16 5).toNat with
  | 0 => .ok (.bz (fld w 21 5) (fld w 0 16))
  | 1 => .ok (.bnz (fld w 21 5) (fld w 0 16))
  | _ => .error .reservedFunction

/-- Major 0x14. -/
def decB (w : BitVec 32) : Except Reject Instr :=
  .ok (.br (fld w 0 26))

/-- Major 0x15. -/
def decCall (w : BitVec 32) : Except Reject Instr :=
  .ok (.call (fld w 0 26))

/-- Major 0x16. -/
def decJr (w : BitVec 32) : Except Reject Instr :=
  mbz w 0x03e0ffff (.jr (fld w 16 5))

/-- Major 0x17: the function value in [25:25]. -/
def decBq (w : BitVec 32) : Except Reject Instr :=
  match (fld w 25 1).toNat with
  | 0 => mbz w 0x01c00000 (.bqz (fld w 21 1) (fld w 16 5) (fld w 0 16))
  | 1 => mbz w 0x01c00000 (.bqnz (fld w 21 1) (fld w 16 5) (fld w 0 16))
  | _ => .error .reservedFunction

/-- Major 0x18: the function value in [25:25]. -/
def decLoop (w : BitVec 32) : Except Reject Instr :=
  match (fld w 25 1).toNat with
  | 0 => mbz w 0x00030000 (.loop (fld w 23 2) (fld w 18 5) (fld w 0 16))
  | 1 => .ok (.loopi (fld w 23 2) (fld w 16 7) (fld w 0 16))
  | _ => .error .reservedFunction

/-- Major 0x19: the function value in [25:24]. -/
def decSp (w : BitVec 32) : Except Reject Instr :=
  match (fld w 24 2).toNat with
  | 0 => mbz w 0x00f83f00 (.spset (fld w 14 5) (fld w 0 8))
  | 1 => mbz w 0x00fffffe (.spshift (fld w 0 1))
  | 2 => mbz w 0x0007ffff (.spget (fld w 19 5))
  | _ => .error .reservedFunction

/-- The E format's fields (R49). -/
def eWord (w1 w2 : BitVec 32) : EWord :=
  { wsem := fld w1 22 4, wen := w1.getLsbD 21, ssem := fld w1 17 4, sen := w1.getLsbD 16, pred := fld w1 13 3,
    mod := fld w1 0 6, d := fld w2 27 5, a := fld w2 22 5, b := fld w2 17 5, c := fld w2 12 5, imm := fld w2 0 12 }

/-- Major 0x30 (R54): OP in [12:6]. -/
def decMx (w1 w2 : BitVec 32) : Except Reject Instr :=
  match (fld w1 6 7).toNat with
  | 0 => .ok (.ml (eWord w1 w2))
  | 1 => .ok (.mlT (eWord w1 w2))
  | 2 => .ok (.mm (eWord w1 w2))
  | 3 => .ok (.mzero (eWord w1 w2))
  | 4 => .ok (.mdrain (eWord w1 w2))
  | 5 => .ok (.mred (eWord w1 w2))
  | 6 => .ok (.mcfg (eWord w1 w2))
  | 7 => .ok (.mfmt (eWord w1 w2))
  | 8 => .ok (.mchk (eWord w1 w2))
  | _ => .error .reservedFunction

/-- Major 0x31 (R54): OP in [12:6]. -/
def decVx (w1 w2 : BitVec 32) : Except Reject Instr :=
  match (fld w1 6 7).toNat with
  | 0 => .ok (.vadd (eWord w1 w2))
  | 1 => .ok (.vsub (eWord w1 w2))
  | 2 => .ok (.vmul (eWord w1 w2))
  | 3 => .ok (.vfma (eWord w1 w2))
  | 4 => .ok (.vmax (eWord w1 w2))
  | 5 => .ok (.vmin (eWord w1 w2))
  | 6 => .ok (.vabs (eWord w1 w2))
  | 7 => .ok (.vneg (eWord w1 w2))
  | 8 => .ok (.vexp (eWord w1 w2))
  | 9 => .ok (.vlog (eWord w1 w2))
  | 10 => .ok (.vrcp (eWord w1 w2))
  | 11 => .ok (.vrsq (eWord w1 w2))
  | 12 => .ok (.vsqrt (eWord w1 w2))
  | 13 => .ok (.vsin (eWord w1 w2))
  | 14 => .ok (.vcos (eWord w1 w2))
  | 15 => .ok (.vtanh (eWord w1 w2))
  | 16 => .ok (.vcvt (eWord w1 w2))
  | 17 => .ok (.vcmp (eWord w1 w2))
  | 18 => .ok (.vsel (eWord w1 w2))
  | 19 => .ok (.vredsum (eWord w1 w2))
  | 20 => .ok (.vredmax (eWord w1 w2))
  | 21 => .ok (.vargmax (eWord w1 w2))
  | 22 => .ok (.vtopk (eWord w1 w2))
  | 23 => .ok (.vscan (eWord w1 w2))
  | 24 => .ok (.vswp2 (eWord w1 w2))
  | 25 => .ok (.vgath (eWord w1 w2))
  | 26 => .ok (.vscat (eWord w1 w2))
  | 27 => .ok (.vcopy (eWord w1 w2))
  | 28 => .ok (.vfill (eWord w1 w2))
  | 29 => .ok (.vlut (eWord w1 w2))
  | 30 => .ok (.vtern (eWord w1 w2))
  | 31 => .ok (.vdot8 (eWord w1 w2))
  | 32 => .ok (.vquant (eWord w1 w2))
  | 33 => .ok (.vrand (eWord w1 w2))
  | _ => .error .reservedFunction

/-- Major 0x32 (R54): OP in [12:6]. -/
def decCx (w1 w2 : BitVec 32) : Except Reject Instr :=
  match (fld w1 6 7).toNat with
  | 0 => .ok (.cp (eWord w1 w2))
  | 1 => .ok (.cpRed (eWord w1 w2))
  | 2 => .ok (.cpBc (eWord w1 w2))
  | _ => .error .reservedFunction

/-- Major 0x33 (R298): func [25:22], sem [21:18], rx [17:13], ry [12:8], qm [7:4], [3:0] zero, second word zero. -/
def decSync (w1 w2 : BitVec 32) : Except Reject Instr :=
  if w2 != 0 then .error .mustBeZero else
  match (fld w1 22 4).toNat with
  | 0 => mbz w1 0x0003ffff (.semWait (fld w1 18 4))
  | 1 => mbz w1 0x0003ffff (.semSig (fld w1 18 4))
  | 2 => mbz w1 0x00001fff (.semSet (fld w1 18 4) (fld w1 13 5))
  | 3 => mbz w1 0x00001fff (.semCeil (fld w1 18 4) (fld w1 13 5))
  | 4 => mbz w1 0x00001fff (.semRd (fld w1 13 5) (fld w1 18 4))
  | 5 => mbz w1 0x003fff0f (.qfence (fld w1 4 4))
  | 6 => mbz w1 0x003c00ff (.tbarInit (fld w1 13 5) (fld w1 8 5))
  | 7 => mbz w1 0x003c00ff (.tbarExp (fld w1 13 5) (fld w1 8 5))
  | 8 => mbz w1 0x003c00ff (.tbarWait (fld w1 13 5) (fld w1 8 5))
  | _ => .error .reservedFunction

/-- `i`, unless a bit of the second word outside `used` is set (R51, R324). -/
def mbz2 (w1 m1 w2 m2 : BitVec 32) (i : Instr) : Except Reject Instr :=
  if w1 &&& m1 = 0 ∧ w2 &&& m2 = 0 then .ok i else .error .mustBeZero

/-- Major 0x34 (R324): WSEM, WEN, SSEM, SEN, PRED and MOD are zero. -/
def decKv (w1 w2 : BitVec 32) : Except Reject Instr :=
  match (fld w1 6 7).toNat with
  | 0 => mbz2 w1 0x03ffe03f w2 0x0001ffff (.kvAlloc (fld w2 27 5) (fld w2 22 5) (fld w2 17 5))
  | 1 => mbz2 w1 0x03ffe03f w2 0x07ffffff (.kvFree (fld w2 27 5))
  | 2 => mbz2 w1 0x03ffe03f w2 0x003fffff (.firnOpen (fld w2 27 5) (fld w2 22 5))
  | 3 => if w2.getLsbD 0 then mbz2 w1 0x03ffe03f w2 0xfffffffe .firnUnbind
         else mbz2 w1 0x03ffe03f w2 0x07ffffff (.firnBind (fld w2 27 5))
  | 4 => mbz2 w1 0x03ffe03f w2 0x003fffff (.firnSeal (fld w2 27 5) (fld w2 22 5))
  | 5 => mbz2 w1 0x03ffe03f w2 0x07ffffff (.firnDrop (fld w2 27 5))
  | 6 => mbz2 w1 0x03ffe03f w2 0x003fffff (.rsCkpt (fld w2 27 5) (fld w2 22 5))
  | 7 => mbz2 w1 0x03ffe03f w2 0x003ffff0 (.seqClaim (fld w2 27 5) (fld w2 22 5) (fld w2 0 4))
  | 8 => mbz2 w1 0x03ffe03f w2 0x07fffff0 (.seqAdv (fld w2 27 5) (fld w2 0 4))
  | 9 => mbz2 w1 0x03ffe03f w2 0x07ffffff (.seqRel (fld w2 27 5))
  | _ => .error .reservedFunction

/-- Major 0x35 (R361). -/
def decWk (w1 w2 : BitVec 32) : Except Reject Instr :=
  match (fld w1 6 7).toNat with
  | 0 => mbz2 w1 0x03ffe03f w2 0x07ffffff (.launch (fld w2 27 5))
  | 1 => mbz2 w1 0x03ffe03f w2 0x07ffffff (.walkNext (fld w2 27 5))
  | _ => .error .reservedFunction

/-- Major 0x36 (R53, R272, R290). -/
def decNest (w1 w2 : BitVec 32) : Except Reject Instr :=
  match (fld w1 6 7).toNat with
  | 0 => mbz2 w1 0x03ffe020 w2 0xf8000fff
      (.nestSet (fld w1 2 3) (fld w1 0 2) (fld w2 22 5) (fld w2 17 5) (fld w2 12 5))
  | 1 => mbz2 w1 0x03ffe030 w2 0xfffffff0 (.erep (fld w1 2 2) (fld w1 0 2) (fld w2 0 4))
  | _ => .error .reservedFunction

/-- The instruction of a major (R54), before the checks of WellFormed. -/
def candidate (w1 w2 : BitVec 32) : Except Reject Instr :=
  match (fld w1 26 6).toNat with
  | 0 => decSys w1
  | 1 => decAlu w1
  | 2 => decAluk w1
  | 3 => decLi16 w1
  | 4 => decIns16 w1
  | 5 => decBit w1
  | 6 => decBitr w1
  | 8 => decLd w1
  | 9 => decSt w1
  | 10 => decLdAcq w1
  | 11 => decStRel w1
  | 12 => decLds w1
  | 13 => decSts w1
  | 14 => decAmo w1
  | 15 => decFence w1
  | 16 => decQ w1
  | 17 => decLq w1
  | 18 => decBr w1
  | 19 => decBz w1
  | 20 => decB w1
  | 21 => decCall w1
  | 22 => decJr w1
  | 23 => decBq w1
  | 24 => decLoop w1
  | 25 => decSp w1
  | 48 => decMx w1 w2
  | 49 => decVx w1 w2
  | 50 => decCx w1 w2
  | 51 => decSync w1 w2
  | 52 => decKv w1 w2
  | 53 => decWk w1 w2
  | 54 => decNest w1 w2
  | _ => .error .reservedMajor

/-- The decoder on words: a 32-bit instruction looks at its first word alone (R45). -/
def decodeWords (w1 w2 : BitVec 32) : Except Reject Instr :=
  match candidate w1 w2 with
  | .ok i => if WellFormed i then .ok i else .error .reservedCode
  | .error r => .error r

/-- R45: majors 0x30 to 0x36 take two words. -/
def isLong (w : BitVec 32) : Bool := 0x30 ≤ (fld w 26 6).toNat && (fld w 26 6).toNat ≤ 0x36

/-- A little-endian word of four bytes (R8). -/
def word32 (b0 b1 b2 b3 : Byte) : BitVec 32 := b3 ++ b2 ++ b1 ++ b0

/-- The decoder on bytes: the instruction and the bytes after it. -/
def decode : List Byte → Except Reject (Instr × List Byte)
  | b0 :: b1 :: b2 :: b3 :: rest =>
    if isLong (word32 b0 b1 b2 b3) then
      match rest with
      | c0 :: c1 :: c2 :: c3 :: rest' =>
        (decodeWords (word32 b0 b1 b2 b3) (word32 c0 c1 c2 c3)).map (fun i => (i, rest'))
      | _ => .error .truncated
    else (decodeWords (word32 b0 b1 b2 b3) 0).map (fun i => (i, rest))
  | _ => .error .truncated

/-- The host's question: the instruction whose bits are `w`, the first word least significant; bits above `nbits` are 0. -/
def decodeTableWord (nbits w : Nat) : Option Instr :=
  let v := w % 2 ^ nbits
  (decodeWords (BitVec.ofNat 32 v) (BitVec.ofNat 32 (v / 2 ^ 32))).toOption

/-- An E command's words (R49). -/
def encE (major : BitVec 6) (op : BitVec 7) (e : EWord) : List (BitVec 32) :=
  [major ++ e.wsem ++ BitVec.ofBool e.wen ++ e.ssem ++ BitVec.ofBool e.sen ++ e.pred ++ op ++ e.mod,
   e.d ++ e.a ++ e.b ++ e.c ++ e.imm]

/-- The words of a SYNC instruction (R298). -/
def encSync (func sem : BitVec 4) (rx ry : Reg) (qm : BitVec 4) : List (BitVec 32) :=
  [0x33#6 ++ func ++ sem ++ rx ++ ry ++ qm ++ 0#4, 0]

/-- The words of a command of majors 0x34 to 0x36 with no semaphore, predicate or sign fields (R50). -/
def encPlain (major : BitVec 6) (op : BitVec 7) (mod : BitVec 6) (d a b c : Reg) (imm : BitVec 12) : List (BitVec 32) :=
  [major ++ 0#13 ++ op ++ mod, d ++ a ++ b ++ c ++ imm]

/-- The words of an instruction; an event has none. -/
def encode : Instr → List (BitVec 32)
  | .nop => [0x0#6 ++ 0x0#15 ++ 0x0#11]
  | .join => [0x0#6 ++ 0x0#15 ++ 0x1#11]
  | .yieldSlice => [0x0#6 ++ 0x0#15 ++ 0x2#11]
  | .trapSw a => [0x0#6 ++ 0x0#5 ++ a ++ 0x0#5 ++ 0x3#11]
  | .chkErr d => [0x0#6 ++ d ++ 0x0#10 ++ 0x4#11]
  | .rdcr d n => [0x0#6 ++ d ++ 0x0#5 ++ n ++ 0x5#11]
  | .wrcr a n => [0x0#6 ++ 0x0#5 ++ a ++ n ++ 0x6#11]
  | .rdcnt d n => [0x0#6 ++ d ++ 0x0#5 ++ n ++ 0x7#11]
  | .stepb => [0x0#6 ++ 0x0#15 ++ 0x8#11]
  | .grpid d => [0x0#6 ++ d ++ 0x0#10 ++ 0x9#11]
  | .coresid d => [0x0#6 ++ d ++ 0x0#10 ++ 0xa#11]
  | .brk => [0x0#6 ++ 0x0#15 ++ 0xb#11]
  | .ifence => [0x0#6 ++ 0x0#15 ++ 0xc#11]
  | .add d a b => [0x1#6 ++ d ++ a ++ b ++ 0x0#11]
  | .sub d a b => [0x1#6 ++ d ++ a ++ b ++ 0x1#11]
  | .mul d a b => [0x1#6 ++ d ++ a ++ b ++ 0x2#11]
  | .mulh d a b => [0x1#6 ++ d ++ a ++ b ++ 0x3#11]
  | .mulhn d a b => [0x1#6 ++ d ++ a ++ b ++ 0x4#11]
  | .div d a b => [0x1#6 ++ d ++ a ++ b ++ 0x5#11]
  | .divn d a b => [0x1#6 ++ d ++ a ++ b ++ 0x6#11]
  | .rem d a b => [0x1#6 ++ d ++ a ++ b ++ 0x7#11]
  | .remn d a b => [0x1#6 ++ d ++ a ++ b ++ 0x8#11]
  | .and d a b => [0x1#6 ++ d ++ a ++ b ++ 0x9#11]
  | .or d a b => [0x1#6 ++ d ++ a ++ b ++ 0xa#11]
  | .xor d a b => [0x1#6 ++ d ++ a ++ b ++ 0xb#11]
  | .andn d a b => [0x1#6 ++ d ++ a ++ b ++ 0xc#11]
  | .orn d a b => [0x1#6 ++ d ++ a ++ b ++ 0xd#11]
  | .sll d a b => [0x1#6 ++ d ++ a ++ b ++ 0xe#11]
  | .srl d a b => [0x1#6 ++ d ++ a ++ b ++ 0xf#11]
  | .sra d a b => [0x1#6 ++ d ++ a ++ b ++ 0x10#11]
  | .slt d a b => [0x1#6 ++ d ++ a ++ b ++ 0x11#11]
  | .sltn d a b => [0x1#6 ++ d ++ a ++ b ++ 0x12#11]
  | .min d a b => [0x1#6 ++ d ++ a ++ b ++ 0x13#11]
  | .max d a b => [0x1#6 ++ d ++ a ++ b ++ 0x14#11]
  | .minn d a b => [0x1#6 ++ d ++ a ++ b ++ 0x15#11]
  | .maxn d a b => [0x1#6 ++ d ++ a ++ b ++ 0x16#11]
  | .sel d a b => [0x1#6 ++ d ++ a ++ b ++ 0x17#11]
  | .addi d a i => [0x2#6 ++ d ++ a ++ 0x0#4 ++ i]
  | .andi d a i => [0x2#6 ++ d ++ a ++ 0x1#4 ++ i]
  | .ori d a i => [0x2#6 ++ d ++ a ++ 0x2#4 ++ i]
  | .xori d a i => [0x2#6 ++ d ++ a ++ 0x3#4 ++ i]
  | .slti d a i => [0x2#6 ++ d ++ a ++ 0x4#4 ++ i]
  | .sltni d a i => [0x2#6 ++ d ++ a ++ 0x5#4 ++ i]
  | .slli d a i => [0x2#6 ++ d ++ a ++ 0x6#4 ++ 0x0#6 ++ i]
  | .srli d a i => [0x2#6 ++ d ++ a ++ 0x7#4 ++ 0x0#6 ++ i]
  | .srai d a i => [0x2#6 ++ d ++ a ++ 0x8#4 ++ 0x0#6 ++ i]
  | .mini d a i => [0x2#6 ++ d ++ a ++ 0x9#4 ++ i]
  | .maxi d a i => [0x2#6 ++ d ++ a ++ 0xa#4 ++ i]
  | .li16 d i => [0x3#6 ++ d ++ 0x0#5 ++ i]
  | .ins16 d h i => [0x4#6 ++ d ++ h ++ 0x0#3 ++ i]
  | .bext d a o w => [0x5#6 ++ d ++ a ++ o ++ w ++ 0x0#3]
  | .bexts d a o w => [0x5#6 ++ d ++ a ++ o ++ w ++ 0x1#3]
  | .bins d a o w => [0x5#6 ++ d ++ a ++ o ++ w ++ 0x2#3]
  | .bextv d a b => [0x6#6 ++ d ++ a ++ b ++ 0x0#6 ++ 0x0#5]
  | .bextsv d a b => [0x6#6 ++ d ++ a ++ b ++ 0x0#6 ++ 0x1#5]
  | .binsv d a b => [0x6#6 ++ d ++ a ++ b ++ 0x0#6 ++ 0x2#5]
  | .fsh d a b s => [0x6#6 ++ d ++ a ++ b ++ s ++ 0x3#5]
  | .bnet d a b p => [0x6#6 ++ d ++ a ++ b ++ p ++ 0x0#3 ++ 0x4#5]
  | .bnld a b p s => [0x6#6 ++ 0x0#5 ++ a ++ b ++ p ++ s ++ 0x5#5]
  | .clz d a => [0x6#6 ++ d ++ a ++ 0x0#11 ++ 0x6#5]
  | .ctz d a => [0x6#6 ++ d ++ a ++ 0x0#11 ++ 0x7#5]
  | .popc d a => [0x6#6 ++ d ++ a ++ 0x0#11 ++ 0x8#5]
  | .brev d a => [0x6#6 ++ d ++ a ++ 0x0#11 ++ 0x9#5]
  | .bswap d a => [0x6#6 ++ d ++ a ++ 0x0#11 ++ 0xa#5]
  | .lea d a b s => [0x6#6 ++ d ++ a ++ b ++ 0x0#4 ++ s ++ 0xb#5]
  | .ldB d a i => [0x8#6 ++ d ++ a ++ 0x0#3 ++ i]
  | .ldBz d a i => [0x8#6 ++ d ++ a ++ 0x1#3 ++ i]
  | .ldH d a i => [0x8#6 ++ d ++ a ++ 0x2#3 ++ i]
  | .ldHz d a i => [0x8#6 ++ d ++ a ++ 0x3#3 ++ i]
  | .ldW d a i => [0x8#6 ++ d ++ a ++ 0x4#3 ++ i]
  | .ldWz d a i => [0x8#6 ++ d ++ a ++ 0x5#3 ++ i]
  | .ldD d a i => [0x8#6 ++ d ++ a ++ 0x6#3 ++ i]
  | .stB s a i => [0x9#6 ++ s ++ a ++ 0x0#3 ++ i]
  | .stH s a i => [0x9#6 ++ s ++ a ++ 0x2#3 ++ i]
  | .stW s a i => [0x9#6 ++ s ++ a ++ 0x4#3 ++ i]
  | .stD s a i => [0x9#6 ++ s ++ a ++ 0x6#3 ++ i]
  | .ldAcq d a z c i => [0xa#6 ++ d ++ a ++ z ++ c ++ i]
  | .stRel s a z c i => [0xb#6 ++ s ++ a ++ z ++ c ++ i]
  | .ldsB d a i => [0xc#6 ++ d ++ a ++ 0x0#3 ++ i]
  | .ldsBz d a i => [0xc#6 ++ d ++ a ++ 0x1#3 ++ i]
  | .ldsH d a i => [0xc#6 ++ d ++ a ++ 0x2#3 ++ i]
  | .ldsHz d a i => [0xc#6 ++ d ++ a ++ 0x3#3 ++ i]
  | .ldsW d a i => [0xc#6 ++ d ++ a ++ 0x4#3 ++ i]
  | .ldsWz d a i => [0xc#6 ++ d ++ a ++ 0x5#3 ++ i]
  | .ldsD d a i => [0xc#6 ++ d ++ a ++ 0x6#3 ++ i]
  | .stsB s a i => [0xd#6 ++ s ++ a ++ 0x0#3 ++ i]
  | .stsH s a i => [0xd#6 ++ s ++ a ++ 0x2#3 ++ i]
  | .stsW s a i => [0xd#6 ++ s ++ a ++ 0x4#3 ++ i]
  | .stsD s a i => [0xd#6 ++ s ++ a ++ 0x6#3 ++ i]
  | .amoAdd d a b z r c => [0xe#6 ++ d ++ a ++ b ++ 0x0#4 ++ z ++ r ++ c ++ 0x0#1]
  | .amoAnd d a b z r c => [0xe#6 ++ d ++ a ++ b ++ 0x1#4 ++ z ++ r ++ c ++ 0x0#1]
  | .amoOr d a b z r c => [0xe#6 ++ d ++ a ++ b ++ 0x2#4 ++ z ++ r ++ c ++ 0x0#1]
  | .amoXor d a b z r c => [0xe#6 ++ d ++ a ++ b ++ 0x3#4 ++ z ++ r ++ c ++ 0x0#1]
  | .amoMin d a b z r c => [0xe#6 ++ d ++ a ++ b ++ 0x4#4 ++ z ++ r ++ c ++ 0x0#1]
  | .amoMax d a b z r c => [0xe#6 ++ d ++ a ++ b ++ 0x5#4 ++ z ++ r ++ c ++ 0x0#1]
  | .amoMinn d a b z r c => [0xe#6 ++ d ++ a ++ b ++ 0x6#4 ++ z ++ r ++ c ++ 0x0#1]
  | .amoMaxn d a b z r c => [0xe#6 ++ d ++ a ++ b ++ 0x7#4 ++ z ++ r ++ c ++ 0x0#1]
  | .amoSwp d a b z r c => [0xe#6 ++ d ++ a ++ b ++ 0x8#4 ++ z ++ r ++ c ++ 0x0#1]
  | .amoCas d a b z r c => [0xe#6 ++ d ++ a ++ b ++ 0x9#4 ++ z ++ r ++ c ++ 0x0#1]
  | .amoFadd d a b z r c => [0xe#6 ++ d ++ a ++ b ++ 0xa#4 ++ z ++ r ++ c ++ 0x0#1]
  | .fence c => [0xf#6 ++ 0x0#15 ++ 0x0#3 ++ c ++ 0x0#6]
  | .prom a c => [0xf#6 ++ 0x0#5 ++ a ++ 0x0#5 ++ 0x1#3 ++ c ++ 0x0#6]
  | .waitEq d a b c z => [0xf#6 ++ d ++ a ++ b ++ 0x2#3 ++ c ++ z ++ 0x0#5]
  | .waitNe d a b c z => [0xf#6 ++ d ++ a ++ b ++ 0x3#3 ++ c ++ z ++ 0x0#5]
  | .pf a => [0xf#6 ++ 0x0#5 ++ a ++ 0x0#5 ++ 0x4#3 ++ 0x0#8]
  | .cln a c => [0xf#6 ++ 0x0#5 ++ a ++ 0x0#5 ++ 0x5#3 ++ c ++ 0x0#6]
  | .inv a c => [0xf#6 ++ 0x0#5 ++ a ++ 0x0#5 ++ 0x6#3 ++ c ++ 0x0#6]
  | .push q a => [0x10#6 ++ 0x0#3 ++ q ++ a ++ 0x0#15]
  | .pop q d => [0x10#6 ++ 0x1#3 ++ q ++ d ++ 0x0#15]
  | .peek q d => [0x10#6 ++ 0x2#3 ++ q ++ d ++ 0x0#15]
  | .qcnt q d => [0x10#6 ++ 0x3#3 ++ q ++ d ++ 0x0#15]
  | .qdrop q => [0x10#6 ++ 0x4#3 ++ q ++ 0x0#20]
  | .slip => [0x10#6 ++ 0x5#3 ++ 0x0#23]
  | .slipCatch => [0x10#6 ++ 0x6#3 ++ 0x0#23]
  | .slipset a => [0x10#6 ++ 0x7#3 ++ 0x0#3 ++ a ++ 0x0#15]
  | .lq q z a i => [0x11#6 ++ 0x0#1 ++ q ++ z ++ a ++ i]
  | .lqNf q z a i => [0x11#6 ++ 0x1#1 ++ q ++ z ++ a ++ i]
  | .beq a b t => [0x12#6 ++ a ++ b ++ 0x0#3 ++ t]
  | .bne a b t => [0x12#6 ++ a ++ b ++ 0x1#3 ++ t]
  | .blt a b t => [0x12#6 ++ a ++ b ++ 0x2#3 ++ t]
  | .bge a b t => [0x12#6 ++ a ++ b ++ 0x3#3 ++ t]
  | .bltn a b t => [0x12#6 ++ a ++ b ++ 0x4#3 ++ t]
  | .bgen a b t => [0x12#6 ++ a ++ b ++ 0x5#3 ++ t]
  | .bz a t => [0x13#6 ++ a ++ 0x0#5 ++ t]
  | .bnz a t => [0x13#6 ++ a ++ 0x1#5 ++ t]
  | .br t => [0x14#6 ++ t]
  | .call t => [0x15#6 ++ t]
  | .jr a => [0x16#6 ++ 0x0#5 ++ a ++ 0x0#16]
  | .bqz q d t => [0x17#6 ++ 0x0#1 ++ 0x0#3 ++ q ++ d ++ t]
  | .bqnz q d t => [0x17#6 ++ 0x1#1 ++ 0x0#3 ++ q ++ d ++ t]
  | .loop c a t => [0x18#6 ++ 0x0#1 ++ c ++ a ++ 0x0#2 ++ t]
  | .loopi c n t => [0x18#6 ++ 0x1#1 ++ c ++ n ++ t]
  | .spset a i => [0x19#6 ++ 0x0#2 ++ 0x0#5 ++ a ++ 0x0#6 ++ i]
  | .spshift i => [0x19#6 ++ 0x1#2 ++ 0x0#23 ++ i]
  | .spget d => [0x19#6 ++ 0x2#2 ++ d ++ 0x0#19]
  | .ml e => encE 0x30 0 e
  | .mlT e => encE 0x30 1 e
  | .mm e => encE 0x30 2 e
  | .mzero e => encE 0x30 3 e
  | .mdrain e => encE 0x30 4 e
  | .mred e => encE 0x30 5 e
  | .mcfg e => encE 0x30 6 e
  | .mfmt e => encE 0x30 7 e
  | .mchk e => encE 0x30 8 e
  | .vadd e => encE 0x31 0 e
  | .vsub e => encE 0x31 1 e
  | .vmul e => encE 0x31 2 e
  | .vfma e => encE 0x31 3 e
  | .vmax e => encE 0x31 4 e
  | .vmin e => encE 0x31 5 e
  | .vabs e => encE 0x31 6 e
  | .vneg e => encE 0x31 7 e
  | .vexp e => encE 0x31 8 e
  | .vlog e => encE 0x31 9 e
  | .vrcp e => encE 0x31 10 e
  | .vrsq e => encE 0x31 11 e
  | .vsqrt e => encE 0x31 12 e
  | .vsin e => encE 0x31 13 e
  | .vcos e => encE 0x31 14 e
  | .vtanh e => encE 0x31 15 e
  | .vcvt e => encE 0x31 16 e
  | .vcmp e => encE 0x31 17 e
  | .vsel e => encE 0x31 18 e
  | .vredsum e => encE 0x31 19 e
  | .vredmax e => encE 0x31 20 e
  | .vargmax e => encE 0x31 21 e
  | .vtopk e => encE 0x31 22 e
  | .vscan e => encE 0x31 23 e
  | .vswp2 e => encE 0x31 24 e
  | .vgath e => encE 0x31 25 e
  | .vscat e => encE 0x31 26 e
  | .vcopy e => encE 0x31 27 e
  | .vfill e => encE 0x31 28 e
  | .vlut e => encE 0x31 29 e
  | .vtern e => encE 0x31 30 e
  | .vdot8 e => encE 0x31 31 e
  | .vquant e => encE 0x31 32 e
  | .vrand e => encE 0x31 33 e
  | .cp e => encE 0x32 0 e
  | .cpRed e => encE 0x32 1 e
  | .cpBc e => encE 0x32 2 e
  | .semWait s => encSync 0 s 0 0 0
  | .semSig s => encSync 1 s 0 0 0
  | .semSet s a => encSync 2 s a 0 0
  | .semCeil s a => encSync 3 s a 0 0
  | .semRd d s => encSync 4 s d 0 0
  | .qfence qm => encSync 5 0 0 0 qm
  | .tbarInit a b => encSync 6 0 a b 0
  | .tbarExp a b => encSync 7 0 a b 0
  | .tbarWait a b => encSync 8 0 a b 0
  | .kvAlloc d a b => encPlain 0x34 0 0 d a b 0 0
  | .kvFree a => encPlain 0x34 1 0 a 0 0 0 0
  | .firnOpen d a => encPlain 0x34 2 0 d a 0 0 0
  | .firnBind a => encPlain 0x34 3 0 a 0 0 0 0
  | .firnUnbind => encPlain 0x34 3 0 0 0 0 0 1
  | .firnSeal a b => encPlain 0x34 4 0 a b 0 0 0
  | .firnDrop a => encPlain 0x34 5 0 a 0 0 0 0
  | .rsCkpt a b => encPlain 0x34 6 0 a b 0 0 0
  | .seqClaim d a p => encPlain 0x34 7 0 d a 0 0 (0#8 ++ p)
  | .seqAdv a p => encPlain 0x34 8 0 a 0 0 0 (0#8 ++ p)
  | .seqRel a => encPlain 0x34 9 0 a 0 0 0 0
  | .launch d => encPlain 0x35 0 0 d 0 0 0 0
  | .walkNext d => encPlain 0x35 1 0 d 0 0 0 0
  | .nestSet dim nx a b c => encPlain 0x36 0 (0#1 ++ dim ++ nx) 0 a b c 0
  | .erep q nx n => encPlain 0x36 1 (0#2 ++ q ++ nx) 0 0 0 0 (0#8 ++ n)
  | .lqFill _ _ _ => []
  | .engineCommandStart _ _ => []
  | .matrixCommandPerform _ => []
  | .vectorCommandPerform _ => []
  | .copyBurst _ _ => []
  | .copyPerform _ _ => []
  | .qfencePerform _ _ => []
  | .mredRoundComplete _ => []
  | .reductionWatchdog _ => []
  | .waitReread _ _ => []
  | .groupStopComplete _ => []
  | .trapRecordWrite _ => []
  | .eventWrite => []
  | .leaseExpiry _ => []
  | .cacheWriteback _ _ _ => []
  | .scrub _ _ => []
  | .uncorrectableError _ _ => []
  | .refresh _ _ _ => []
  | .powerWindow _ _ => []
  | .counterSnapshot _ => []
  | .crossingRetry _ _ => []
  | .moduleFatalError _ _ => []
  | .moduleReset => []
  | .hostPlainAccess _ _ _ _ => []
  | .hostAcquire _ _ _ => []
  | .hostRelease _ _ _ => []
  | .hostAtomic _ _ _ _ _ _ => []
  | .peerInboundRequest _ _ _ _ => []
  | .peerResponse _ _ _ _ => []
  | .peerTimeout _ => []
  | .createCtx => []
  | .killCtx => []
  | .preemptCtx => []
  | .resumeCtx => []
  | .resumeGroup => []
  | .unmap => []
  | .unmapComplete _ => []
  | .pwin => []
  | .frame => []
  | .pcfg => []
  | .qrel => []
  | .route => []
  | .mgmtInvalidRequest => []
  | .bootCmd => []
  | .quoteCmd => []
  | .bringupWindowWrite _ _ => []
  | .packetTake _ => []
  | .launchAdmit _ => []
  | .preemptionRequest _ => []
  | .groupPlacement _ => []
  | .jobEnd _ => []
  | .groupSave _ => []
  | .groupResume _ => []
  | .calvingRequest _ _ => []
  | .calve _ _ => []
  | .chainSetAdd _ _ => []
  | .illegalInstruction _ _ => []
  | .storeBufferDrain _ _ _ => []
  | .scalarCacheReplacement _ => []
  | .translationEntryDrop _ => []

/-- The four bytes of a word, lowest address first (R8). -/
def codeBytes (w : BitVec 32) : List Byte := [fld w 0 8, fld w 8 8, fld w 16 8, fld w 24 8]

/-- The bytes of an instruction as memory holds them; an event has none. -/
def encodeBytes (i : Instr) : List Byte := (encode i).flatMap codeBytes

/-- The words of an instruction as one 64-bit value, the first word least significant (STATUS of causes 0x01, 0x20 and
0x21, R382); the second word is 0 for a 32-bit instruction. -/
def encodeStatus (i : Instr) : Word :=
  match encode i with
  | [w1] => 0#32 ++ w1
  | [w1, w2] => w2 ++ w1
  | _ => 0

end Sys2Proof
end

