-- ==== Sys2Proof/Machine/State.lean ====
section
/-! DEFINITION. The state of the module: everything the spec names that a program, the host or a peer can observe,
held as plain data. Log entry 1 says how a step picks the agent that moves (`agenda`). -/

namespace Sys2Proof.Machine

open Sys2Proof

/-- Why a step could stop with a fault. Every failure the spec describes is a trap, an error response or the loss of
a context, all of them next states; no step of this model raises the one reason here. -/
inductive Fault where
  /-- Raised by nobody: reserved for an access outside every address space. Safe. -/
  | outsideEveryAddressSpace
  deriving DecidableEq, Repr

/-- Why an instruction has no meaning in a state. -/
inductive Refusal where
  /-- Raised by exec's arms of instructions without a meaning. Safe. -/
  | notModelled (mnemonic : String)
  /-- Raised by every instruction of a stream when `cur` names no stream that may issue (R118, R119). Safe. -/
  | noIssuingStream
  deriving DecidableEq, Repr

/-- Memory: (address, byte) pairs, addresses strictly rising, no entry zero; an unlisted address reads as zero (R250). -/
abbrev Memory := List Host.Cell

/-- A set of naturals, strictly rising: poisoned or retired units. -/
abbrev NatSet := List Nat

/-! ### Slices -/

/-- A zero-overhead loop counter (R102). R102 says of one that is not active only that: it keeps what its last loop left (log 24). -/
structure LoopCounter where
  count  : Word
  head   : Word
  end_   : Word
  active : Bool
  deriving DecidableEq, Repr

/-- One dimension of a nest set (R271); strides are 48-bit two's complement. -/
structure NestDim where
  bound : BitVec 32
  limit : BitVec 32
  sstr  : BitVec 48
  dstr  : BitVec 48
  deriving DecidableEq, Repr

/-- One location range: vault (device-physical), host (host-physical), a peer's memory, or a group's scratchpad. -/
inductive MemLoc where
  | vault (p : Nat)
  | host (p : Nat)
  | peer (id p : Nat)
  | spad (o : Nat)
  deriving DecidableEq, Repr

/-- A store that has issued and is not yet performed at every scope (R228, R237, R251). `vis` is the widest scope at
which it is performed: none, 0 group, 1 stack, 2 module. -/
structure StoreEntry where
  loc    : MemLoc
  bytes  : List Byte
  poison : Bool
  uo     : Bool
  vis    : Option Nat
  seq    : Nat
  deriving DecidableEq, Repr

/-- A part of an access that lies in one page: virtual address, length, place and the page's ORD (R232); `keep` says that the
lines of peer memory which it reads may enter the scalar data cache, or those that it writes stay there (R230), `got` is what the controller's copies of its lines said
as the access began, with their poison. -/
structure Part where
  va   : Nat
  n    : Nat
  loc  : MemLoc
  ord  : Nat
  keep : Bool := true
  got  : Option (List Byte × Bool) := none
  deriving DecidableEq, Repr

/-- A line as it was fetched (R44): virtual line address and eight words. -/
structure FetchedLine where
  va    : Nat
  words : List (BitVec 32)
  deriving DecidableEq, Repr

/-- A copy of a line in a controller's instruction cache (R23, R44): its place, its words, and the slices that have executed
no `ifence` since it was fetched. -/
structure CodeLine where
  loc   : MemLoc
  words : List (BitVec 32)
  forA  : Bool
  forC  : Bool
  deriving DecidableEq, Repr

/-- A fetch of a line of peer memory by the scan or transfer at the PC (R44): the line's place as translated, its requests, its
words once the peer has answered, and whether the group's other slice has executed no `ifence` since it was asked for. -/
structure LineFetch where
  part  : Part
  reqs  : List Nat
  words : Option (List (BitVec 32))
  both  : Bool
  deriving DecidableEq, Repr

/-- A read of a KV or sequence table on a peer's page by the KV instruction at the PC (R415, R417): its place, its request, and
the bytes once the peer has answered. -/
structure TableRead where
  loc : MemLoc
  n   : Nat
  tag : Nat
  got : Option (List Byte)
  deriving DecidableEq, Repr

/-- What a stalled `wait.eq`, `wait.ne` (R245) or `tbar.wait` (R301) waits for. -/
inductive WaitFor where
  | word (p : Part) (want : Nat) (eq : Bool)
  | barrier (o : Nat) (p : Bool)
  deriving DecidableEq, Repr

/-- A stalled wait: its place in the order in which waits began, the satisfying value that a read has found, the earlier waits
on its word that have still to read before it goes on (R245), and the tag of the next request when it last read: a read of another
slice serves it only where it was sent since (R250). -/
structure Waiting where
  order  : Nat
  what   : WaitFor
  caught : Option Nat
  ahead  : List Nat
  since  : Nat
  deriving DecidableEq, Repr

/-- A copy's burst in progress (R270, R281): receiving groups, the parts of its source that are still to be read and its
destination, as translated, the peers of the requests that it has still to send and has slots for (R416), the bytes read so far,
each with its poison, and all of them once the source is read. -/
structure BurstHold where
  targets : List Nat
  sps     : List Part
  dps     : List Part
  owed    : List Nat
  read    : List (Byte × Bool)
  got     : Option (List (Byte × Bool))
  deriving DecidableEq, Repr

/-- What an outbound UALink request asks (R414, R415). -/
inductive OutKind where
  | read (n : Nat)
  | write (bytes : List Byte) (poison : Bool)
  | atomic (op : BitVec 4) (size : Nat) (operand comparand : Word) (poison : Bool)
  deriving DecidableEq, Repr

/-- One request to a peer, with the ORD of its page. -/
structure PeerAsk where
  peer : Nat
  addr : Nat
  ord  : Nat
  kind : OutKind
  deriving DecidableEq, Repr

/-- A `firn.seal` of `k` positions, or an `rs.ckpt`, past its checks (R325): its window, the place and the FIRN field of its row,
the parts of the page-state table, and the sectors it reads and writes, with what it has read. -/
structure KvMove where
  sealK : Option Nat
  seq   : Nat
  win   : Nat
  row   : MemLoc
  firn  : Nat
  table : List Part
  src   : List Part
  dst   : List Part
  got   : Option (List (List Byte × Bool))
  deriving DecidableEq, Repr

/-- An engine-queue entry (R51, R155, R392): words, captured operands, cursor and marks. `uid` numbers the entries of
the group, `idx` is the command index of R381, `bind` the binding in force at issue (R320), `rnd` the rounding mode
captured at issue (R75). -/
structure Cmd where
  w1      : BitVec 32
  w2      : BitVec 32
  vD      : Word
  vA      : Word
  vB      : Word
  vC      : Word
  cursor  : Nat
  null    : Bool
  started : Bool
  qf      : Option (BitVec 4)
  nest    : List NestDim
  fmtw    : List (BitVec 32)
  cfg     : Word
  uid     : Nat
  idx     : Nat
  bind    : Word
  rnd     : Nat
  /-- The burst of a copy in progress. -/
  hold    : Option BurstHold
  /-- UALink requests the burst has sent (R417). -/
  reqs    : List Nat
  /-- Flags that a `cp.red` has gathered (R280). -/
  fl      : BitVec 6
  /-- Poison met before the command performs (R400). -/
  pz      : Bool
  /-- The copy engine of the home stack that executes the command (R269). -/
  eng     : Option Nat
  deriving DecidableEq, Repr

/-- The `erep` marking of one slice for one queue (R290, R291). `marked` are the captured marked commands; once `n`
are marked, `next` is the ordinal of the next tuple and `sub` the next command within it. -/
structure Marking where
  active : Bool
  nx     : Nat
  nest   : List NestDim
  n      : Nat
  marked : List Cmd
  next   : Nat
  sub    : Nat
  deriving DecidableEq, Repr

/-- What a stream is stalled on (R118, R349). -/
inductive Stall where
  | queueFull
  | queueEmpty
  | slip
  | semaphore
  | barrier
  | wait
  | walkNext
  | launch
  | engine
  | peer
  deriving DecidableEq, Repr

/-- The state of one slice (R102, R144), its store buffer and what it has in progress. -/
structure Stream where
  g        : Vector Word 32
  p        : BitVec 32
  lc       : Vector LoopCounter 4
  /-- Active counters, outermost first. -/
  nesting  : List (BitVec 2)
  pc       : Word
  skip     : Bool
  joined   : Bool
  /-- Pattern slots: byte k of a slot is entry k, bit 7 PZ and bits 6 to 0 ENT. -/
  bp       : Vector (Vector Byte 64) 8
  sb       : List StoreEntry
  sbSeq    : Nat
  /-- The line of which the stream is making a pass (R44). -/
  pass     : Option FetchedLine
  /-- `codeSeq` of the module at this stream's latest `ifence`, or at job start (R383). -/
  fencedAt : Nat
  /-- The markings of queue codes 0, 1, 2 (R290). -/
  marks    : Vector Marking 3
  stall    : Option Stall
  /-- `stepb` or `walk.next` executed since the calving request (R355). -/
  atStep   : Bool
  /-- Destination of a `walk.next` that waits for its partner (R363). -/
  wn       : Option Reg
  /-- `chk.err`: waits for the entries whose uid is below this (R404). -/
  chkMark  : Option Nat
  /-- What the stalled wait at the PC waits for. -/
  waiting  : Option Waiting
  /-- The KV instruction at the PC has passed its checks and copies recurrent state, before it completes (R325). -/
  kv       : Option KvMove
  /-- Writes of tables on peer pages that the KV instruction at the PC has still to send (R415). -/
  asks     : List PeerAsk
  /-- The resumed PC has still to be checked under R43 (R387). -/
  recheck  : Bool
  /-- The packet that a stalled `launch` has read (R362). -/
  packet   : Option (List Word)
  /-- UALink requests the instruction at the PC waits for (R415), and its parts as translated (R374). -/
  reqs     : List Nat
  parts    : List Part
  /-- The `launch` or `walk.next` at the PC has passed its checks and waits for peers' answers alone (R388). -/
  past     : Bool
  /-- The lines of peer memory that the scan or transfer at the PC has fetched or waits for. -/
  fetches  : List LineFetch
  /-- The instruction at the PC has two words (R42); none where it has not been fetched since a resume. -/
  wide     : Option Bool
  /-- What the KV instruction at the PC has read of tables on peer pages. -/
  reads    : List TableRead
  /-- The group has been resumed, and the stream has had no turn since (R294). -/
  fresh    : Bool
  deriving DecidableEq, Repr

/-! ### Queues, semaphores, engines -/

/-- An entry of a forward or back queue (R108); a pending one holds its `lq` (R107, R111): whether `lq.nf`, size
code, address, place in the slice's order of loads and stores, and the place and requests of a read of peer memory. -/
inductive QEntry where
  | data (v : Word)
  | poison (cause size : Nat) (addr : Word)
  | fault (cause size : Nat) (addr : Word)
  | pending (nf : Bool) (size : Nat) (addr : Word) (seq : Nat) (part : Option Part) (reqs : List Nat)
  deriving DecidableEq, Repr

/-- A queue ring (R106): the slot of the oldest entry and the present entries in order. -/
structure Queue where
  head : Nat
  ents : List QEntry
  deriving DecidableEq, Repr

/-- A waiter on a semaphore (R294). -/
inductive Waiter where
  | slice (s : Slice)
  | queue (q : EQueue)
  deriving DecidableEq, Repr

/-- A semaphore (R292) and its waiters, first to be served first; `left` are those that a pre-emption in progress leaves
unexecuted, in their order (R118, R388). -/
structure Sem where
  value   : Nat
  ceil    : Nat
  waiters : List Waiter
  left    : List Waiter := []
  deriving DecidableEq, Repr

/-- One accumulator entry (R164): 32 output lanes, cs1, cs2; flags in the order of cr.fflags; dirty. -/
structure AccEntry where
  row   : Nat
  entry : Nat
  lanes : List (BitVec 32)
  flags : BitVec 6
  dirty : Bool
  deriving DecidableEq, Repr

/-- A latch that holds a tile (R158): its cell, attributes, load record, and the bytes it received (R160), with the bytes, and the
elements of its adder's vectors, that errors have changed since (R394), and the firn binding of its load (R155, R320). -/
structure Latch where
  row   : Nat
  col   : Nat
  fmt   : Nat
  sp    : Nat
  t     : Bool
  slotD : Word
  imm   : BitVec 12
  eword : BitVec 32
  image : Memory
  hits  : List (Nat × Byte)
  sums  : List (Bool × Nat × BitVec 32)
  bind  : Option (Nat × Nat × Nat) := none
  deriving DecidableEq, Repr

/-- The counters of `mchk` for one group row (R182). -/
structure MchkRow where
  corr    : Nat
  uncorr  : Nat
  unchk   : Nat
  lastbad : Option Nat
  lastd1  : BitVec 32
  lastd2  : BitVec 32
  flags   : BitVec 6
  pois    : Nat
  deriving DecidableEq, Repr

/-- What a trap record says of its trap (R381, R382). -/
structure TrapRec where
  src    : Nat
  cause  : Nat
  reason : Nat
  level  : Nat
  phys   : Bool
  skip   : Bool
  addr   : Word
  status : Word
  qsel   : Nat
  slot   : Nat
  cmdidx : Nat
  cycle  : Word
  deriving DecidableEq, Repr

/-- The states of a group that the device keeps (R349); Blocked is derived from the streams' stalls, Free is absence. -/
inductive GroupStatus where
  | running
  | stopping
  | stopped (image : Option Nat)
  | saved (image : Nat)
  deriving DecidableEq, Repr

/-- A group (R25, R34): its rectangle, its slices and everything allotted to it. -/
structure Group where
  gid     : Nat
  ctx     : Nat
  lid     : Nat
  gnum    : Nat
  stack0  : Nat
  row0    : Nat
  n       : Nat
  w       : Nat
  /-- Per-row scratchpad extent in bytes (R186). -/
  x       : Nat
  prio    : Nat
  rbound  : Nat
  cor     : Bool
  code    : Word
  status  : GroupStatus
  /-- A pre-emption request stands (R349, R350). -/
  preq    : Bool
  /-- Work of the group: stack unit, chunk in the unit, iteration in the chunk (R343). -/
  unit    : Nat
  chunk   : Nat
  iter    : Nat
  /-- `walk.next` has completed the iteration and given no other (R363). -/
  idle    : Bool
  /-- The instruction cache of the leading row controller (R23). -/
  icache  : List CodeLine
  a       : Stream
  c       : Stream
  /-- Stage predicates of the C-slice; bit 0 is 1 (R125). -/
  sp      : BitVec 8
  /-- fq0-fq3, bq0, bq1 (R106). -/
  qs      : Vector Queue 6
  slip    : Nat
  sems    : Vector Sem 16
  nests   : Vector (List NestDim) 4
  chk     : BitVec 3
  fflags  : BitVec 6
  round   : BitVec 3
  slipLim : BitVec 7
  tol     : BitVec 6
  firn    : Word
  cycle   : Word
  /-- Chain configuration (R152). -/
  cfg     : Word
  /-- Working copy of format entries 10-15 (R150). -/
  fmt     : Vector (BitVec 32) 6
  counters : Vector Word 8
  mchk    : List MchkRow
  active  : List Latch
  shadow  : List Latch
  /-- Of a saved group: the loads of its latches, without their bytes, each under the place of its side in a load record's pair (R161). -/
  loads   : List (Nat × Latch)
  acc     : List AccEntry
  /-- The engine queues, head first: matrix, vector, copy-load, copy-store. -/
  eq      : Vector (List Cmd) 4
  cmdCount : Nat
  nextUid : Nat
  /-- The copy queue an engine served last (R269). -/
  lastCopy : Option EQueue
  /-- An `mm` or `mzero` has opened a reduction loop that no `mdrain` has closed (R165). -/
  loop    : Bool
  /-- Count of the reduction watchdog (R166). -/
  watch   : Nat
  /-- The uid and the round number of the `mred` that has taken a round and not performed (R179). -/
  mredRound : Option (Nat × Nat)
  spad    : Memory
  spadPoison : NatSet
  /-- Scratchpad sectors poisoned in this step and not yet counted (R427, source 36). -/
  newPoison : Nat
  /-- Trap records of the stop in progress (R380). -/
  recs    : List TrapRec
  /-- Trap records of the stop not yet in the trap ring (R384). -/
  stopno  : Nat
  deriving DecidableEq, Repr

/-! ### Contexts and launches -/

/-- The context descriptor of R386. -/
structure CtxDesc where
  root     : Word
  lease    : Nat
  trapq    : Word
  lostrec  : Nat
  savebase : Word
  imgsize  : Nat
  savecnt  : Nat
  spill    : Word
  squota   : Nat
  tol      : BitVec 6
  interval : Nat
  lqh      : List Word
  sqbase   : Word
  sqrows   : Nat
  ptbase   : Word
  np       : Nat
  cpbase   : Word
  cplim    : Word
  deriving DecidableEq, Repr

/-- A packet entered by `launch`, with the launch whose job issued it (R359). -/
structure ChildPacket where
  parent : Nat
  words  : List Word
  deriving DecidableEq, Repr

/-- A trap record that waits for room in the ring: its group, and the sixteen 4-byte words in dwords (R384). -/
structure WaitingRec where
  gid    : Nat
  dwords : List Word
  deriving DecidableEq, Repr

/-- A context. -/
structure Context where
  num      : Nat
  desc     : CtxDesc
  /-- Format entries 10-15 (R81). -/
  fmt      : Vector (BitVec 32) 6
  /-- Rotating pointer of each phase (R313). -/
  phasePtr : Vector Nat 16
  /-- PREEMPT stopped dispatch (R385). -/
  held     : Bool
  /-- The first job has started (R306). -/
  started  : Bool
  stops    : Nat
  images   : NatSet
  waiting  : List WaitingRec
  devq     : List ChildPacket
  /-- Spill ring: index of the oldest slot in use, and the parents of the packets in it, oldest first (R358). -/
  spillHead : Nat
  spilled  : List Nat
  /-- Host queues whose error has been counted and still stands (R337). -/
  qerr     : NatSet
  /-- The recurrent-state areas of rows as the first of their open windows opened: row, RS_PTR, RSBYTES, CKMAX (R309). -/
  areas    : List (Nat × Nat × Nat × Nat)
  deriving DecidableEq, Repr

/-- A level of a loop table (R342). -/
structure Level where
  kind  : Nat
  rank  : Nat
  bound : Nat
  deriving DecidableEq, Repr

/-- Work: an iteration of a chunk of a stack unit (R343, R356). -/
structure Work where
  unit  : Nat
  chunk : Nat
  iter  : Nat
  deriving DecidableEq, Repr

/-- A chain set held by a launch (R345): its westernmost stack, the unit it holds and the next chunk of it, whether
a calving request stands, whether it is calved (R355), and whether it was added to the launch while part of it was in use (R345, R354). -/
structure ChainSet where
  west     : Nat
  unit     : Option Nat
  next     : Nat
  request  : Bool
  calved   : Bool
  added    : Bool := false
  deriving DecidableEq, Repr

/-- A launch taken from a queue (R337 to R348). -/
structure Launch where
  lid      : Nat
  ctx      : Nat
  queue    : Nat
  parent   : Option Nat
  n        : Nat
  w        : Nat
  minst    : Nat
  maxst    : Nat
  nlev     : Nat
  prio     : Nat
  cor      : Bool
  rbound   : Nat
  xpages   : Nat
  code     : Word
  compl    : Word
  args     : List Word
  levels   : List Level
  admitted : Bool
  sets     : List ChainSet
  /-- The chain sets for which groups have been asked to leave while the launch waits, each with the groups that were on it (R350). -/
  asked    : List (Nat × List Nat)
  /-- Groups whose jobs are over and that wait for returned work, in the order in which they became free (R347, R363). -/
  takers   : List Nat
  nextUnit : Nat
  /-- Next chunk of the launch-wide sequence, or of the placement of a co-resident launch. -/
  nextChunk : Nat
  returned : List Work
  jobs     : Nat
  ffl      : BitVec 6
  chk      : BitVec 3
  deriving DecidableEq, Repr

/-! ### Translation, links and the module -/

/-- The block that holds a cached translation (R372): a row controller 16*stack+row, a copy engine, or a stack. -/
inductive TlbHolder where
  | ctl (k : Nat)
  | engine (stack k : Nat)
  | stack (s : Nat)
  deriving DecidableEq, Repr

/-- A cached leaf (R366, R372, R373): `base` and `bits` give the page, `frame` its physical base. -/
structure TlbEntry where
  holder : TlbHolder
  ctx    : Nat
  base   : Nat
  bits   : Nat
  frame  : Nat
  loc    : Nat
  peer   : Nat
  ord    : Nat
  x      : Bool
  w      : Bool
  r      : Bool
  lease  : Nat
  deriving DecidableEq, Repr

/-- A frame-owner table entry (R413). -/
structure OwnerEntry where
  index   : Nat
  valid   : Bool
  retired : Bool
  ord     : Nat
  ctx     : Nat
  deriving DecidableEq, Repr

/-- A line held by a stack cache (R28, R228): the line's number, and which of its four sectors are filled and dirty. -/
structure CacheLine where
  line  : Nat
  held  : BitVec 4
  dirty : BitVec 4
  deriving DecidableEq, Repr

/-- One stack: its cache, newest line first, its counters, snapshot clock, power grant of the window with the clk outside it so
far, grant of the next window, and copy-engine pointer (R28, R351, R424, R425). -/
structure Stack where
  cache    : List CacheLine
  counters : Vector Word 16
  clk      : Word
  grant    : Nat
  next     : Nat
  outside  : Nat
  copyPtr  : Nat
  deriving DecidableEq, Repr

/-- A line of peer memory in a controller's scalar data cache (R230), brought by a context, which alone reads it (R35); `bad` says
that a poisoned store of the controller has poisoned its sector (R233). -/
structure PeerLine where
  ctl   : Nat
  ctx   : Nat
  peer  : Nat
  addr  : Nat
  bytes : List Byte
  bad   : Bool := false
  deriving DecidableEq, Repr

/-- An outstanding outbound request: its agent (group and source code of R381), the launch, chunk, context and home stack of the
group, page kind and port; `stale` are the bytes, each address with a length, that a write has changed since it was sent, so that its
response does not say what stands there. -/
structure OutReq where
  tag  : Nat
  port : Nat
  peer : Nat
  addr : Nat
  kind : OutKind
  gid  : Nat
  src  : Nat
  lid  : Option Nat
  chunk : Option (Nat × Nat)
  ctx  : Option Nat
  home : Nat
  ord  : Nat
  stale : List (Nat × Nat)
  deriving DecidableEq, Repr

/-- A completed outbound read or atomic whose value is not yet taken (R417). -/
structure OutReply where
  tag    : Nat
  poison : Bool
  bytes  : List Byte
  deriving DecidableEq, Repr

/-- A request of the device's own agents to a peer, its tag, and whether the event being made has used it. -/
structure DevReq where
  ask  : PeerAsk
  tag  : Nat
  used : Bool
  deriving DecidableEq, Repr

/-- A UALink port (R416, R417), with the agents that wait for a slot of it, each a group and a source code of R381 (8 for the fills
of the A-slice's queues), and its round-robin pointer (R351). -/
structure Port where
  tmo     : Nat
  qth     : Nat
  /-- Consecutive timeouts to each peer. -/
  streak  : List (Nat × Nat)
  quarantined : NatSet
  waiting : List (Nat × Nat)
  ptr     : Nat
  deriving DecidableEq, Repr

/-- A peer window table entry (R378). -/
structure PeerWindow where
  vabase : Word
  wbase  : Word
  size   : Nat
  peer   : Nat
  ctx    : Nat
  aw     : Bool
  ww     : Bool
  rw     : Bool
  vw     : Bool
  deriving DecidableEq, Repr

/-- A management request taken from the ring: its eight dwords (R410). -/
structure MgmtReq where
  dwords : List Word
  deriving DecidableEq, Repr

/-- An unmap in progress (R376). -/
structure UnmapReq where
  ctx   : Nat
  vbase : Nat
  npg   : Nat
  compl : Nat
  deriving DecidableEq, Repr

/-- A loss whose record and event wait until peers have answered the device (R397, R415): LOSTREC, the record, the event. -/
structure LostRec where
  addr  : Nat
  bytes : List Byte
  event : List Word
  deriving DecidableEq, Repr

/-- An open PREEMPT request (R385). -/
structure PreemptReq where
  ctx   : Nat
  compl : Nat
  deriving DecidableEq, Repr

/-- A contribution to a reduction round (R177 to R179); `absent` for a nullified `mred`. -/
structure Contribution where
  ctx    : Nat
  ch     : Nat
  round  : Nat
  stack  : Nat
  mask   : Nat
  root   : Nat
  n      : Nat
  absent : Bool
  rows   : List (List (BitVec 32))
  deriving DecidableEq, Repr

/-- The next round number of one context, channel and stack (R177). -/
structure RoundCount where
  ctx   : Nat
  ch    : Nat
  stack : Nat
  next  : Nat
  deriving DecidableEq, Repr

/-- The STATE of the bring-up window (R420). -/
inductive ModState where
  | held
  | busy
  | up
  | failed
  | fatal
  deriving DecidableEq, Repr

/-- The bring-up window (R420); CMD reads as zero and is not held. -/
structure BringUp where
  bootrec : Word
  qaddr   : Word
  state   : ModState
  err     : Nat
  deriving DecidableEq, Repr

/-- What BOOT takes from the boot record (R421, R422). -/
structure BootCfg where
  pcap     : Nat
  aperture : Nat
  mgmt     : Nat
  cntbase  : Nat
  snap     : Nat
  gsel     : List Nat
  ssel     : List Word
  evtq     : Nat
  svn      : Nat
  deriving DecidableEq, Repr

/-- What the device last answered to a host or peer request (R408, R414): an error, or data with its poison mark. -/
inductive LinkReply where
  | none
  | error
  | done
  | data (bytes : List Byte) (poison : Bool)
  deriving DecidableEq, Repr

/-- One move of one agent. -/
inductive Turn where
  /-- The stream of a group fetches and issues its next instruction. -/
  | stream (gid : Nat) (sl : Slice)
  /-- An event of the device or of the agents around it. -/
  | event (e : Instr)
  /-- The host writes its own memory. -/
  | hostStore (addr : Nat) (bytes : List Byte)
  /-- A peer writes its own memory. -/
  | peerStore (peer addr : Nat) (bytes : List Byte)
  /-- From now on the SCL fails reads of page-table entries at these host addresses, and of no others (R370, reason 5). -/
  | sclFails (addrs : List Nat)
  deriving DecidableEq, Repr

/-- The module. -/
structure State where
  -- the model's own fields (log 1, 2)
  /-- The moves to come, first to be made first; when empty, the device's agents move in rotation (log 1). -/
  agenda  : List Turn
  /-- The stream whose instruction is being issued. -/
  cur     : Option (Nat × Slice)
  /-- Number of steps taken: the argument of the free values. -/
  now     : Nat
  -- bring-up (R420 to R423)
  bring   : BringUp
  boot    : Option BootCfg
  mr      : List Byte
  quotes  : Nat
  -- memory
  vault   : Memory
  vaultPoison : NatSet
  host    : Memory
  hostPoison : NatSet
  /-- Last write of each 32-byte line, host lines offset by 2^64: the check of R383. -/
  codeLog : List (Nat × Nat)
  codeSeq : Nat
  owners  : List OwnerEntry
  tlb     : List TlbEntry
  peerLines : List PeerLine
  stk     : Vector Stack 16
  -- contexts, launches, groups
  ctxs    : List Context
  launches : List Launch
  groups  : List Group
  nextGid : Nat
  nextLid : Nat
  /-- Round-robin pointer of the dispatcher over leading row controllers whose `launch` is stalled (R351). -/
  launchPtr : Nat
  /-- Round-robin pointer of the dispatcher over queues (R338). -/
  queuePtr : Nat
  /-- Open firn windows: context, sequence, window (R318). -/
  windows : List (Nat × Nat × Nat)
  contribs : List Contribution
  rounds  : List RoundCount
  -- links (R409 to R417)
  mgmtQ   : List MgmtReq
  unmaps  : List UnmapReq
  preempts : List PreemptReq
  events  : List (List Word)
  ports   : Vector Port 16
  routes  : List (Nat × Nat)
  pwins   : Vector PeerWindow 64
  outReqs : List OutReq
  replies : List OutReply
  devReqs : List DevReq
  nextTag : Nat
  /-- Bytes of peer memory as they stand, where an answer, a write or an atomic of this device, or a write of the peer, has said so:
  peer, address, byte (log 15). -/
  peerTab : List (Nat × Nat × Byte)
  /-- Losses whose records have still to be written, oldest first (R397). -/
  lostRecs : List LostRec
  /-- Windows whose seal or checkpoint is in progress: no other event of their sequence falls into it (R317, R319). -/
  sealing : List (Nat × Nat × Nat)
  /-- Host addresses of page-table entries that the SCL fails to read (R370, reason 5). -/
  sclBad  : List Nat
  /-- Number of waits begun: the order of R245. -/
  nextWait : Nat
  reply   : LinkReply
  deriving DecidableEq, Repr

/-! ### Reset values -/

/-- An untouched nest dimension iterates once (R271). -/
def NestDim.reset : NestDim := { bound := 1, limit := 0, sstr := 0, dstr := 0 }

def NestSet.reset : List NestDim := List.replicate 6 NestDim.reset

def LoopCounter.reset : LoopCounter := { count := 0, head := 0, end_ := 0, active := false }

def Marking.reset : Marking :=
  { active := false, nx := 0, nest := NestSet.reset, n := 0, marked := [], next := 1, sub := 0 }

/-- R144: entry k of every pattern slot resets to ENTk = k, PZk = 0. -/
def identityPattern : Vector Byte 64 := Vector.ofFn (fun k => BitVec.ofNat 8 k.val)

/-- A slice at job start, before the walker's registers and the first scan (R36, R102). -/
def Stream.reset (code : Word) (codeSeq : Nat) : Stream :=
  { g := Vector.replicate 32 0, p := 0, lc := Vector.replicate 4 LoopCounter.reset, nesting := [], pc := code,
    skip := false, joined := false, bp := Vector.replicate 8 identityPattern, sb := [], sbSeq := 0, pass := none,
    fencedAt := codeSeq, marks := Vector.replicate 3 Marking.reset, stall := none, atStep := false, wn := none,
    chkMark := none, waiting := none, kv := none, asks := [], recheck := false, packet := none, reqs := [], parts := [],
    past := false, fetches := [], wide := none, reads := [], fresh := false }

def Queue.reset : Queue := { head := 0, ents := [] }

/-- R292: CEIL 0xFFFF, VALUE 0. -/
def Sem.reset : Sem := { value := 0, ceil := 0xFFFF, waiters := [] }

def MchkRow.reset : MchkRow :=
  { corr := 0, uncorr := 0, unchk := 0, lastbad := none, lastd1 := 0, lastd2 := 0, flags := 0, pois := 0 }

/-- R424: a stack is not throttled before its first power window. DESIGN CHOICE (log 6): the grant then is 1,024. -/
def Stack.reset : Stack :=
  { cache := [], counters := Vector.replicate 16 0, clk := 0, grant := 1024, next := 1024, outside := 0, copyPtr := 0 }

/-- R416: TMO 1,200,000 and QTH 4. -/
def Port.reset : Port := { tmo := 1200000, qth := 4, streak := [], quarantined := [], waiting := [], ptr := 0 }

def PeerWindow.reset : PeerWindow :=
  { vabase := 0, wbase := 0, size := 0, peer := 0, ctx := 0, aw := false, ww := false, rw := false, vw := false }

/-- The module right after module reset (R31, R420, R422, R425): held, no context, every link register at its reset
value. Memory lists nothing (R250). -/
def State.reset : State :=
  { agenda := [], cur := none, now := 0,
    bring := { bootrec := 0, qaddr := 0, state := .held, err := 0 }, boot := none,
    mr := List.replicate 64 0, quotes := 0,
    vault := [], vaultPoison := [], host := [], hostPoison := [], codeLog := [], codeSeq := 0,
    owners := [], tlb := [], peerLines := [], stk := Vector.replicate 16 Stack.reset,
    ctxs := [], launches := [], groups := [], nextGid := 0, nextLid := 0, launchPtr := 0, queuePtr := 0, windows := [],
    contribs := [], rounds := [], mgmtQ := [], unmaps := [], preempts := [], events := [],
    ports := Vector.replicate 16 Port.reset, routes := [], pwins := Vector.replicate 64 PeerWindow.reset,
    outReqs := [], replies := [], devReqs := [], nextTag := 0, peerTab := [], lostRecs := [], sealing := [], sclBad := [],
    nextWait := 0, reply := .none }

end Sys2Proof.Machine
end

