-- ==== Sys2Proof/Machine/Flags.lean ====
section
/-! DEFINITION. The exception flags of cr.fflags and the sticky bits of cr.chk (R78, R401). -/

namespace Sys2Proof.Machine

/-- Flags in the order of cr.fflags [5:0]: DZ, IC, NV, OF, UF, NX (R401). -/
abbrev FFlags := BitVec 6

def flagNX : FFlags := 1
def flagUF : FFlags := 2
def flagOF : FFlags := 4
def flagNV : FFlags := 8
def flagIC : FFlags := 16
def flagDZ : FFlags := 32

/-- The flag `f` if `b` holds, none otherwise. -/
def flagIf (b : Bool) (f : FFlags) : FFlags := if b then f else 0

/-- cr.chk [0] DP: data poison was consumed (R395). -/
def chkDP : BitVec 3 := 1
/-- cr.chk [1] CE: an uncorrectable entry (R170). -/
def chkCE : BitVec 3 := 2
/-- cr.chk [2] CC: a corrected entry (R170). -/
def chkCC : BitVec 3 := 4

/-- OR flags into cr.fflags (R78). -/
def Group.raiseFlags (g : Group) (f : FFlags) : Group := { g with fflags := g.fflags ||| f }

/-- Set sticky bits of cr.chk. -/
def Group.setChk (g : Group) (b : BitVec 3) : Group := { g with chk := g.chk ||| b }

end Sys2Proof.Machine
end

