-- ==== Sys2Proof/Machine/Num.lean ====
section
/-! DEFINITION. Number formats, exact values, rounding and conversion (chapter 03: R69 to R80), and the sums of R95
to R100 that every engine shares. -/

namespace Sys2Proof.Machine

/-- An exact value: NaN, an infinity, or (-1)^neg * m * 2^e; zero keeps its sign. -/
inductive XVal where
  | nan
  | inf (neg : Bool)
  | fin (neg : Bool) (m : Nat) (e : Int)
  deriving DecidableEq, Repr

/-- The kind of specials of a floating format (R71). -/
inductive Spec where
  | ieee
  | finite
  | nanOnly
  deriving DecidableEq, Repr

/-- An element format: two's complement of `w` bits, or a float with its field widths and bias (R69, R82). -/
inductive Fmt where
  | int (w : Nat)
  | flt (ew mw : Nat) (bias : Int) (spec : Spec)
  deriving DecidableEq, Repr

/-- A table entry as commands see it: the element format, its width, whether it is an MX format, and the factor
2^-frac of an MXINT8 element (R73). -/
structure Format where
  elem  : Fmt
  width : Nat
  mx    : Bool
  frac  : Nat
  deriving DecidableEq, Repr

def fmtBF16 : Fmt := .flt 8 7 127 .ieee
def fmtFP16 : Fmt := .flt 5 10 15 .ieee
def fmtFP32 : Fmt := .flt 8 23 127 .ieee
def fmtE4M3 : Fmt := .flt 4 3 7 .nanOnly
def fmtE5M2 : Fmt := .flt 5 2 15 .ieee
def fmtE2M1 : Fmt := .flt 2 1 1 .finite

/-- R83: the validity of a programmable entry word. -/
def entryValid (w : BitVec 32) : Bool :=
  let cls := (w.extractLsb' 30 2).toNat
  let spec := (w.extractLsb' 28 2).toNat
  let ew := (w.extractLsb' 24 4).toNat
  let mw := (w.extractLsb' 20 4).toNat
  let width := 1 + ew + mw
  (cls == 0 || cls == 2) && spec != 3 && ew ≤ 8 && mw ≤ 10 &&
  (width == 4 || width == 8 || (width == 16 && cls == 0)) &&
  (spec != 0 || 2 ≤ ew) && (spec != 2 || (1 ≤ ew && 1 ≤ mw)) && (ew != 0 || spec == 1)

/-- R82: an entry word as it is held; reserved bits read 0. -/
def entryStored (w : BitVec 32) : BitVec 32 := w &&& 0xFFFFFC00#32

/-- R82: the format of a valid programmable entry word. -/
def entryFormat (w : BitVec 32) : Format :=
  let spec : Spec := match (w.extractLsb' 28 2).toNat with | 0 => .ieee | 1 => .finite | _ => .nanOnly
  let ew := (w.extractLsb' 24 4).toNat
  let mw := (w.extractLsb' 20 4).toNat
  { elem := .flt ew mw (w.extractLsb' 10 10).toInt spec, width := 1 + ew + mw,
    mx := w.extractLsb' 30 2 == 2, frac := 0 }

/-- The format that entry `i` names, with `w` the entry word of a programmable entry; none when it is invalid (R69, R83). -/
def formatOf (i : Nat) (w : BitVec 32) : Option Format :=
  match i with
  | 0 => some { elem := fmtBF16, width := 16, mx := false, frac := 0 }
  | 1 => some { elem := fmtFP16, width := 16, mx := false, frac := 0 }
  | 2 => some { elem := fmtFP32, width := 32, mx := false, frac := 0 }
  | 3 => some { elem := fmtE4M3, width := 8, mx := false, frac := 0 }
  | 4 => some { elem := fmtE5M2, width := 8, mx := false, frac := 0 }
  | 5 => some { elem := fmtE4M3, width := 8, mx := true, frac := 0 }
  | 6 => some { elem := fmtE2M1, width := 4, mx := true, frac := 0 }
  | 7 => some { elem := .int 8, width := 8, mx := true, frac := 6 }
  | 8 => some { elem := .int 8, width := 8, mx := false, frac := 0 }
  | 9 => some { elem := .int 32, width := 32, mx := false, frac := 0 }
  | _ => if entryValid w then some (entryFormat w) else none

/-- The classes of R196. -/
def Format.isInt (f : Format) : Bool := match f.elem with | .int _ => !f.mx | .flt .. => false
def Format.isF (f : Format) : Bool := match f.elem with | .int _ => false | .flt .. => !f.mx
def Format.isN (f : Format) : Bool := !f.mx

/-! ### Exact arithmetic -/

def XVal.zero : XVal := .fin false 0 0
def XVal.ofInt (i : Int) : XVal := .fin (i < 0) i.natAbs 0
def XVal.isNan : XVal → Bool | .nan => true | _ => false
def XVal.isZero : XVal → Bool | .fin _ 0 _ => true | _ => false
def XVal.neg? : XVal → Bool | .nan => false | .inf s => s | .fin s _ _ => s
/-- The negation, which turns a zero of either sign into the other, an integer 0 into -0 (log 48). -/
def XVal.negate : XVal → XVal | .nan => .nan | .inf s => .inf (!s) | .fin s m e => .fin (!s) m e
def XVal.abs : XVal → XVal | .nan => .nan | .inf _ => .inf false | .fin _ m e => .fin false m e

/-- v * 2^k. -/
def XVal.scale (v : XVal) (k : Int) : XVal :=
  match v with
  | .fin s m e => .fin s m (e + k)
  | v => v

/-- (-1)^neg * m * 2^e as a multiple of 2^base, for base at most e. -/
def signedAt (neg : Bool) (m : Nat) (e base : Int) : Int :=
  let v : Int := (m * 2 ^ (e - base).toNat : Nat)
  if neg then -v else v

/-- The least exponent of the finite values of a list, 0 when there is none. -/
def minExp : List XVal → Int
  | [] => 0
  | [.fin _ _ e] => e
  | .fin _ _ e :: rest => min e (minExp rest)
  | _ :: rest => minExp rest

def sumAt (base : Int) : List XVal → Int
  | [] => 0
  | .fin s m e :: rest => signedAt s m e base + sumAt base rest
  | _ :: rest => sumAt base rest

/-- R79: the sign of a sum whose exact value is zero; `rdn` says that the rounding is toward minus infinity. -/
def zeroSign (rdn : Bool) (ts : List XVal) : Bool :=
  match ts with
  | [] => false
  | t :: rest =>
    if ts.all XVal.isZero && rest.all (fun u => u.neg? == t.neg?) then t.neg? else rdn

/-- The exact sum of a list (R79, R96): NaN terms give NaN; infinities of both signs give NaN and NV. -/
def sumX (rdn : Bool) (ts : List XVal) : XVal × FFlags :=
  if ts.contains (.inf false) && ts.contains (.inf true) then (.nan, flagNV)
  else if ts.any XVal.isNan then (.nan, 0)
  else if ts.contains (.inf false) then (.inf false, 0)
  else if ts.contains (.inf true) then (.inf true, 0)
  else
    let base := minExp ts
    let s := sumAt base ts
    if s == 0 then (.fin (zeroSign rdn ts) 0 0, 0) else (.fin (s < 0) s.natAbs base, 0)

/-- The exact product (R79, R95): infinity times zero is NaN and raises NV. -/
def mulX (a b : XVal) : XVal × FFlags :=
  match a, b with
  | .nan, _ => (.nan, 0)
  | _, .nan => (.nan, 0)
  | .inf s, .inf t => (.inf (s != t), 0)
  | .inf s, .fin t m _ => if m == 0 then (.nan, flagNV) else (.inf (s != t), 0)
  | .fin s m _, .inf t => if m == 0 then (.nan, flagNV) else (.inf (s != t), 0)
  | .fin s m e, .fin t n f => (.fin (s != t) (m * n) (e + f), 0)

/-- Exact comparison of finite values: the sign of a - b. -/
def cmpFin (s : Bool) (m : Nat) (e : Int) (t : Bool) (n : Nat) (f : Int) : Int :=
  let base := min e f
  (signedAt s m e base - signedAt t n f base).sign

/-- a < b as numbers; false when either is NaN. -/
def XVal.lt (a b : XVal) : Bool :=
  match a, b with
  | .nan, _ => false
  | _, .nan => false
  | .inf s, .inf t => s && !t
  | .inf s, .fin .. => s
  | .fin .., .inf t => !t
  | .fin s m e, .fin t n f => cmpFin s m e t n f < 0

/-- a = b as numbers (-0 equals +0); false when either is NaN. -/
def XVal.numEq (a b : XVal) : Bool :=
  match a, b with
  | .inf s, .inf t => s == t
  | .fin s m e, .fin t n f => cmpFin s m e t n f == 0
  | _, _ => false

/-- The total order of R206: NaN greatest, -0 before +0. -/
def XVal.ordLt (a b : XVal) : Bool :=
  match a, b with
  | .nan, _ => false
  | _, .nan => true
  | a, b =>
    if a.isZero && b.isZero then a.neg? && !b.neg? else a.lt b

/-! ### Rounding -/

/-- The magnitude m * 2^e in units of 2^s, rounded under `mode` (codes of R52) for a value of sign `neg`; whether it
was inexact. Where the format has no mantissa bit, an RNE tie takes the even quotient of the unit (log 46). -/
def roundAt (mode : Nat) (neg : Bool) (m : Nat) (e s : Int) : Nat × Bool :=
  if s ≤ e then (m * 2 ^ (e - s).toNat, false)
  else
    let k := (s - e).toNat
    let q := m / 2 ^ k
    let r := m % 2 ^ k
    if r == 0 then (q, false)
    else
      let up : Bool := match mode with
        | 0 => (2 ^ k < 2 * r) || (2 * r == 2 ^ k && q % 2 == 1)
        | 1 => false
        | 2 => neg
        | 3 => !neg
        | _ => 2 ^ k ≤ 2 * r
      (if up then q + 1 else q, true)

/-- The largest finite magnitude of a float format, as mantissa and exponent (R69 to R71). -/
def fltMax (ew mw : Nat) (bias : Int) (spec : Spec) : Nat × Int :=
  match spec with
  | .ieee => (2 ^ (mw + 1) - 1, (2 ^ ew - 2 : Int) - bias - mw)
  | .nanOnly => (2 ^ (mw + 1) - 2, (2 ^ ew - 1 : Int) - bias - mw)
  | .finite => if ew == 0 then (2 ^ mw - 1, 1 - bias - mw) else (2 ^ (mw + 1) - 1, (2 ^ ew - 1 : Int) - bias - mw)

/-- R74: whether a float format has a NaN. -/
def fltHasNan (mw : Nat) (spec : Spec) : Bool :=
  match spec with
  | .ieee => mw != 0
  | .nanOnly => true
  | .finite => false

/-- The encoding of sign and fields. -/
def fltBits (ew mw : Nat) (neg : Bool) (e m : Nat) : Nat := (if neg then 2 ^ (ew + mw) else 0) + e * 2 ^ mw + m

/-- R74: the canonical NaN; +0 in a format that has none. -/
def fltNan (ew mw : Nat) (spec : Spec) : Nat :=
  match spec with
  | .ieee => if mw == 0 then 0 else fltBits ew mw false (2 ^ ew - 1) (2 ^ (mw - 1))
  | .nanOnly => fltBits ew mw false (2 ^ ew - 1) (2 ^ mw - 1)
  | .finite => 0

/-- The encoding of the largest finite value with a sign. -/
def fltMaxBits (ew mw : Nat) (spec : Spec) (neg : Bool) : Nat :=
  match spec with
  | .ieee => fltBits ew mw neg (2 ^ ew - 2) (2 ^ mw - 1)
  | .nanOnly => fltBits ew mw neg (2 ^ ew - 1) (2 ^ mw - 2)
  | .finite => fltBits ew mw neg (2 ^ ew - 1) (2 ^ mw - 1)

/-- The encoding of n * 2^s, a value of the format's grid. -/
def fltEncode (ew mw : Nat) (bias : Int) (neg : Bool) (n : Nat) (s : Int) : Nat :=
  if n == 0 then fltBits ew mw neg 0 0
  else
    let l := n.log2
    let e := s + l + bias
    if ew == 0 || e < 1 then
      -- subnormal: units of 2^(1-bias-mw)
      fltBits ew mw neg 0 ((roundAt 1 false n s (1 - bias - mw)).1)
    else
      let m := if l ≤ mw then n * 2 ^ (mw - l) else n / 2 ^ (l - mw)
      fltBits ew mw neg e.toNat (m - 2 ^ mw)

/-- R77: the result of an overflow. -/
def fltOverflow (ew mw : Nat) (spec : Spec) (neg : Bool) (mode : Nat) (sat : Bool) : Nat :=
  let toMax : Bool := sat || mode == 1 || (mode == 2 && !neg) || (mode == 3 && neg)
  match spec with
  | .finite => fltMaxBits ew mw .finite neg
  | .ieee => if toMax then fltMaxBits ew mw .ieee neg else fltBits ew mw neg (2 ^ ew - 1) 0
  | .nanOnly => if toMax then fltMaxBits ew mw .nanOnly neg else fltNan ew mw .nanOnly

/-- R77: an infinity converted. -/
def fltInf (ew mw : Nat) (spec : Spec) (neg : Bool) (sat : Bool) : Nat × FFlags :=
  match spec with
  | .ieee => (fltBits ew mw neg (2 ^ ew - 1) 0, 0)
  | .nanOnly => (if sat then fltMaxBits ew mw .nanOnly neg else fltNan ew mw .nanOnly, flagOF ||| flagNX)
  | .finite => (fltMaxBits ew mw .finite neg, flagOF ||| flagNX)

/-- R76: round_cvt into an integer format of `w` bits; the result is the encoding. -/
def cvtInt (w : Nat) (v : XVal) (mode : Nat) (sat : Bool) : Nat × FFlags :=
  match v with
  | .nan => (0, flagNV)
  | .inf neg => (if sat then (if neg then 2 ^ (w - 1) else 2 ^ (w - 1) - 1) else 0, flagNV)
  | .fin neg m e =>
    let (q, nx) := roundAt mode neg m e 0
    let n : Int := if neg then -(q : Int) else q
    let lo : Int := -(2 ^ (w - 1) : Int)
    let hi : Int := (2 ^ (w - 1) : Int) - 1
    if n < lo || hi < n then
      ((if sat then (if n < lo then lo else hi) else n).emod (2 ^ w) |>.toNat, flagIf nx flagNX ||| flagNV)
    else ((n.emod (2 ^ w)).toNat, flagIf nx flagNX)

/-- R76: round_cvt into a float format; the result is the encoding. -/
def cvtFlt (ew mw : Nat) (bias : Int) (spec : Spec) (v : XVal) (mode : Nat) (sat : Bool) : Nat × FFlags :=
  match v with
  | .nan => if fltHasNan mw spec then (fltNan ew mw spec, 0) else (0, flagNV)
  | .inf neg => fltInf ew mw spec neg sat
  | .fin neg m e =>
    if m == 0 then (fltBits ew mw neg 0 0, 0)
    else
      let top : Int := e + m.log2
      let s := max (top - mw) (1 - bias - mw)
      let (n, nx) := roundAt mode neg m e s
      let tiny := nx && top < 1 - bias
      let fl := flagIf nx flagNX ||| flagIf tiny flagUF
      let (mm, me) := fltMax ew mw bias spec
      if cmpFin false n s false mm me > 0 then
        (fltOverflow ew mw spec neg mode sat, fl ||| flagOF ||| flagNX)
      else (fltEncode ew mw bias neg n s, fl)

/-- R76: round_cvt(v, f, m, sat). -/
def roundCvt (v : XVal) (f : Fmt) (mode : Nat) (sat : Bool) : Nat × FFlags :=
  match f with
  | .int w => cvtInt w v mode sat
  | .flt ew mw bias spec => cvtFlt ew mw bias spec v mode sat

/-- The value of an encoding (R70, R71). -/
def decodeElem (f : Fmt) (bits : Nat) : XVal :=
  match f with
  | .int w =>
    let u := bits % 2 ^ w
    if u < 2 ^ (w - 1) then .fin false u 0 else .fin true (2 ^ w - u) 0
  | .flt ew mw bias spec =>
    let m := bits % 2 ^ mw
    let e := bits / 2 ^ mw % 2 ^ ew
    let neg := bits / 2 ^ (ew + mw) % 2 == 1
    let ones := e == 2 ^ ew - 1
    if spec == .ieee && ones then (if m == 0 || mw == 0 then .inf neg else .nan)
    else if spec == .nanOnly && ones && m == 2 ^ mw - 1 then .nan
    else if ew == 0 || e == 0 then .fin neg m (1 - bias - mw)
    else .fin neg (2 ^ mw + m) (e - bias - mw)

/-- R72: the scale exponent of an E8M0 byte; none for NaN. -/
def scaleExp (x : Nat) : Option Int := if x == 255 then none else some (x - 127)

/-- R73: the value of an element in a block with scale byte `x`; a format that is not MX ignores it. -/
def elemValue (f : Format) (bits x : Nat) : XVal :=
  if f.mx then
    match scaleExp x with
    | none => .nan
    | some k => (decodeElem f.elem bits).scale (k - f.frac)
  else decodeElem f.elem bits

/-! ### FP32 sums -/

abbrev F32 := BitVec 32

def f32Val (a : F32) : XVal := decodeElem fmtFP32 a.toNat

/-- round_cvt(v, FP32, RNE, 0). -/
def toF32 (v : XVal) : F32 × FFlags :=
  let (b, fl) := roundCvt v fmtFP32 0 false
  (BitVec.ofNat 32 b, fl)

/-- round_cvt(a + b, FP32, RNE, 0). -/
def addF32 (a b : F32) : F32 × FFlags :=
  let (v, f1) := sumX false [f32Val a, f32Val b]
  let (r, f2) := toF32 v
  (r, f1 ||| f2)

/-- One level of a pairwise tree; an absent operand passes its partner up (R99, R100). -/
def treeLevel : List (Option F32) → List (Option F32) × FFlags
  | some a :: some b :: rest =>
    let (s, f) := addF32 a b
    let (t, fr) := treeLevel rest
    (some s :: t, f ||| fr)
  | some a :: none :: rest => let (t, fr) := treeLevel rest; (some a :: t, fr)
  | none :: b :: rest => let (t, fr) := treeLevel rest; (b :: t, fr)
  | [a] => ([a], 0)
  | [] => ([], 0)

/-- The pairwise tree of R96 over indices from 0, `fuel` levels at most. -/
def treeSum : (fuel : Nat) → List (Option F32) → Option F32 × FFlags
  | 0, l => (l.headD none, 0)
  | fuel + 1, l =>
    match l with
    | [] => (none, 0)
    | [a] => (a, 0)
    | l =>
      let (t, f) := treeLevel l
      let (r, fr) := treeSum fuel t
      (r, f ||| fr)

end Sys2Proof.Machine
end

