-- ==== Sys2Proof/Machine/Memory.lean ====
section
/-! DEFINITION. Memory as sorted (address, byte) pairs: read, write, byte order (R8, R249, R250), and sorted sets. -/

namespace Sys2Proof.Machine

namespace Memory

/-- The byte at an address; zero where nothing is listed (R250). -/
def get : Memory → Nat → Byte
  | [], _ => 0
  | (k, v) :: rest, a => if a = k then v else if a < k then 0 else get rest a

/-- The memory with one byte written; the canonical form is kept. -/
def set : Memory → Nat → Byte → Memory
  | [], a, b => if b = 0 then [] else [(a, b)]
  | (k, v) :: rest, a, b =>
    if a < k then (if b = 0 then (k, v) :: rest else (a, b) :: (k, v) :: rest)
    else if a = k then (if b = 0 then rest else (a, b) :: rest)
    else (k, v) :: set rest a b

/-- `n` bytes from address `a`. -/
def read (m : Memory) (a : Nat) : Nat → List Byte
  | 0 => []
  | n + 1 => m.get a :: read m (a + 1) n

/-- The bytes written from address `a` upward. -/
def write (m : Memory) (a : Nat) : List Byte → Memory
  | [] => m
  | b :: rest => write (m.set a b) (a + 1) rest

/-- Keys strictly above `lo`, rising, and no zero entry. -/
def wfFrom : Option Nat → Memory → Bool
  | _, [] => true
  | lo, (k, v) :: rest => (match lo with | none => true | some l => l < k) && v != 0 && wfFrom (some k) rest

/-- The canonical form. -/
def wf (m : Memory) : Bool := wfFrom none m

/-- The memory without the bytes from `lo` up to but not including `hi`. -/
def clear (m : Memory) (lo hi : Nat) : Memory := m.filter (fun c => c.1 < lo || hi ≤ c.1)

end Memory

/-- Little-endian value of bytes (R8). -/
def leNat : List Byte → Nat
  | [] => 0
  | b :: rest => b.toNat + 256 * leNat rest

/-- The low `n` bytes of a value, little-endian (R8). -/
def leBytes : (n : Nat) → Nat → List Byte
  | 0, _ => []
  | n + 1, v => BitVec.ofNat 8 v :: leBytes n (v / 256)

/-- A dword from bytes. -/
def leWord (bs : List Byte) : Word := BitVec.ofNat 64 (leNat bs)

/-- The bytes of a dword. -/
def wordBytes (w : Word) : List Byte := leBytes 8 w.toNat

namespace NatSet

def insert : NatSet → Nat → NatSet
  | [], a => [a]
  | k :: rest, a => if a < k then a :: k :: rest else if a = k then k :: rest else k :: insert rest a

def erase : NatSet → Nat → NatSet
  | [], _ => []
  | k :: rest, a => if a = k then rest else k :: erase rest a

end NatSet

/-- The 256-byte sectors that `n` bytes from `a` touch, as sector base addresses (R190, R228). -/
def sectorsOf (a n : Nat) : List Nat :=
  if n = 0 then [] else (List.range ((a + n - 1) / 256 - a / 256 + 1)).map (fun k => 256 * (a / 256 + k))

/-- Bits [hi:lo] of a natural (R6). -/
def natBits (v hi lo : Nat) : Nat := v / 2 ^ lo % 2 ^ (hi - lo + 1)

/-- Bits [hi:lo] of a dword as a natural. -/
def wbits (w : Word) (hi lo : Nat) : Nat := natBits w.toNat hi lo

end Sys2Proof.Machine
end

