-- ==== Sys2Proof/Machine/Access.lean ====
section
/-! DEFINITION. Physical memory as agents see it: vault addresses (R225), the page-table walk (R364 to R370), what the
KV pool and the firn windows hide (R307, R308, R320 to R322), store buffers (R237, R250, R251) and performed writes. -/

namespace Sys2Proof.Machine

/-! ### Finding and replacing parts of the state -/

def State.grp? (s : State) (gid : Nat) : Option Group := s.groups.find? (fun g => g.gid == gid)

def State.setGrp (s : State) (g : Group) : State :=
  { s with groups := s.groups.map (fun h => if h.gid == g.gid then g else h) }

def State.ctx? (s : State) (c : Nat) : Option Context := s.ctxs.find? (fun x => x.num == c)

def State.setCtx (s : State) (c : Context) : State :=
  { s with ctxs := s.ctxs.map (fun h => if h.num == c.num then c else h) }

def State.launch? (s : State) (l : Nat) : Option Launch := s.launches.find? (fun x => x.lid == l)

def State.setLaunch (s : State) (l : Launch) : State :=
  { s with launches := s.launches.map (fun h => if h.lid == l.lid then l else h) }

def State.stack (s : State) (k : Nat) : Stack := s.stk.toList.getD k Stack.reset

def State.setStack (s : State) (k : Nat) (t : Stack) : State :=
  if h : k < 16 then { s with stk := s.stk.set k t } else s

def Group.stream (g : Group) : Slice → Stream
  | .a => g.a
  | .c => g.c

def Group.setStream (g : Group) (sl : Slice) (st : Stream) : Group :=
  match sl with
  | .a => { g with a := st }
  | .c => { g with c := st }

/-- A group is resident while it holds its rectangle (R349): every state but Saved. -/
def Group.resident (g : Group) : Bool :=
  match g.status with
  | .saved _ => false
  | _ => true

/-- The drain stack (R149): the easternmost stack of the group. -/
def Group.drain (g : Group) : Nat := g.stack0 + g.w - 1

/-! ### Vault addresses and ownership (R225, R411, R413) -/

def vaultStack (p : Nat) : Nat := natBits p 39 36
def vaultRow (p : Nat) : Nat := natBits p 35 32
def vaultCol (p : Nat) : Nat := natBits p 31 27
def vaultOff (p : Nat) : Nat := natBits p 26 0

/-- R225: columns 24 to 31 are holes. -/
def vaultHole (p : Nat) : Bool := 24 ≤ vaultCol p || 2 ^ 40 ≤ p

/-- The device-physical address of a byte of a cell's vault. -/
def vaultAddr (stack row col off : Nat) : Nat := stack * 2 ^ 36 + row * 2 ^ 32 + col * 2 ^ 27 + off

/-- R411: the frame index of a vault address. -/
def frameIndex (p : Nat) : Nat := (384 * vaultStack p + 24 * vaultRow p + vaultCol p) * 2048 + vaultOff p / 65536

def State.ownerEntry (s : State) (idx : Nat) : OwnerEntry :=
  (s.owners.find? (fun o => o.index == idx)).getD { index := idx, valid := false, retired := false, ord := 0, ctx := 0 }

/-- R368: the frame of `p` is owned by context `c`. -/
def State.owns (s : State) (c p : Nat) : Bool :=
  let o := s.ownerEntry (frameIndex p)
  o.valid && !o.retired && o.ctx == c

def insertOwner : List OwnerEntry → OwnerEntry → List OwnerEntry
  | [], e => [e]
  | o :: rest, e => if e.index < o.index then e :: o :: rest else if e.index = o.index then e :: rest else o :: insertOwner rest e

def State.setOwner (s : State) (e : OwnerEntry) : State := { s with owners := insertOwner s.owners e }

/-! ### Stack counters and ports -/

/-- R427: the source of group counter `k`. -/
def State.gsel (s : State) (k : Nat) : Nat :=
  match s.boot with
  | some b => let c := b.gsel.getD k 0; if c < 32 then c else 0
  | none => 0

/-- Adds to every counter of a stack that selects `src`, for an event of context `c`. -/
def State.countStack (s : State) (k src n : Nat) (c : Option Nat) : State :=
  match s.boot with
  | none => s
  | some b =>
    let t := s.stack k
    let hit (j : Nat) : Bool :=
      let w := b.ssel.getD j 0
      wbits w 7 0 == src && src != 0 && (wbits w 14 14 == 0 || c == some (wbits w 13 8))
    s.setStack k { t with counters := t.counters.mapFinIdx (fun j v _ => if hit j then v + BitVec.ofNat 64 n else v) }

def State.port (s : State) (k : Nat) : Port := s.ports.toList.getD k Port.reset

def State.setPort (s : State) (k : Nat) (p : Port) : State :=
  if h : k < 16 then { s with ports := s.ports.set k p } else s

def State.route (s : State) (peer : Nat) : Option Nat := (s.routes.find? (fun r => r.1 == peer)).map Prod.snd

/-- R415, R417: a peer without a route, or quarantined on its port. -/
def State.peerDown (s : State) (peer : Nat) : Bool :=
  match s.route peer with
  | none => true
  | some k => (s.port k).quarantined.contains peer

/-! ### Memory as it is performed at every scope -/

/-- The byte at a vault or host location as performed. Peer memory is not held by the device: what stands there is what an answer
or a write has said of it last, else a free value (log 15). A scratchpad is no part of memory. -/
def State.baseByte (s : State) : MemLoc → Byte
  | .vault p => s.vault.get p
  | .host p => s.host.get p
  | .peer id p =>
    match s.peerTab.find? (fun x => x.1 == id && x.2.1 == p) with
    | some x => x.2.2
    | none => Config.peerTable id p
  | .spad _ => 0

/-- A read of a peer that does not answer is poison (R417). -/
def State.basePoison (s : State) : MemLoc → Bool
  | .vault p => s.vaultPoison.contains (p / 256 * 256)
  | .host p => s.hostPoison.contains (p / 256 * 256)
  | .peer id _ => s.peerDown id
  | .spad _ => false

def MemLoc.shift : MemLoc → Nat → MemLoc
  | .vault p, k => .vault (p + k)
  | .host p, k => .host (p + k)
  | .peer i p, k => .peer i (p + k)
  | .spad o, k => .spad (o + k)

def State.baseRead (s : State) (l : MemLoc) (n : Nat) : List Byte := (List.range n).map (fun k => s.baseByte (l.shift k))

/-! ### The walk -/

/-- The leaf a walk reaches (R366): the page's base and size exponent and what it says. -/
structure Leaf where
  base  : Nat
  bits  : Nat
  frame : Nat
  loc   : Nat
  peer  : Nat
  ord   : Nat
  x     : Bool
  w     : Bool
  r     : Bool
  deriving DecidableEq, Repr

/-- What an access needs of a page (R236, R370). -/
structure Need where
  r : Bool
  w : Bool
  x : Bool
  deriving DecidableEq, Repr

def needR : Need := { r := true, w := false, x := false }
def needW : Need := { r := false, w := true, x := false }
def needRW : Need := { r := true, w := true, x := false }
def needX : Need := { r := false, w := false, x := true }
def needNone : Need := { r := false, w := false, x := false }

/-- A failed translation: cause, reason and level of R370 and R381. -/
structure XFault where
  cause  : Nat
  reason : Nat
  level  : Nat
  deriving DecidableEq, Repr

/-- The result of a walk; `poison` is the location of a poisoned entry, which is control state (R367). -/
inductive WalkRes where
  | ok (l : Leaf)
  | fault (f : XFault)
  | poison (l : MemLoc)
  deriving DecidableEq, Repr

/-- The physical location of a virtual address within a leaf. -/
def Leaf.locOf (l : Leaf) (va : Nat) : MemLoc :=
  let p := l.frame + va % 2 ^ l.bits
  match l.loc with
  | 0 => .vault p
  | 1 => .host p
  | _ => .peer l.peer p

/-- The checks at a leaf: hole, ownership, permissions (R370), in that order; `level` is that of the leaf. -/
def leafCheck (s : State) (c va level : Nat) (need : Need) (l : Leaf) : WalkRes :=
  let bad : Option XFault :=
    match l.locOf va with
    | .vault p =>
      if vaultHole p then some { cause := 0x08, reason := 4, level := level }
      else if !s.owns c p then some { cause := 0x09, reason := 9, level := level }
      else none
    | _ => none
  match bad with
  | some f => .fault f
  | none =>
    if need.r && !l.r then .fault { cause := 0x09, reason := 6, level := level }
    else if need.w && !l.w then .fault { cause := 0x09, reason := 7, level := level }
    else if need.x && !l.x then .fault { cause := 0x09, reason := 8, level := level }
    else .ok l

/-- R365, R368: where the table that entry `e` names lies, or why it cannot be read. -/
def nextTable (s : State) (c level : Nat) (e : Nat) : Except XFault MemLoc :=
  let p := natBits e 53 8 * 256
  if natBits e 7 7 == 1 then .ok (.host p)
  else if vaultHole p then .error { cause := 0x08, reason := 4, level := level }
  else if !s.owns c p then .error { cause := 0x09, reason := 9, level := level }
  else .ok (.vault p)

/-- R365: a well-formed table pointer at `level`. -/
def pointerOk (e level : Nat) : Bool :=
  level < 3 && natBits e 63 54 == 0 && natBits e 6 2 == 0 && (level == 2 || natBits e 11 8 == 0) &&
  (natBits e 7 7 == 1 || natBits e 53 40 == 0)

/-- R366: a well-formed leaf at `level`. -/
def leafOk (e level : Nat) : Bool :=
  1 ≤ level && natBits e 15 9 == 0 && natBits e 8 7 != 3 && (natBits e 8 7 == 2 || natBits e 63 54 == 0) &&
  (natBits e 8 7 != 0 || natBits e 53 40 == 0) &&
  (level != 1 || natBits e 29 16 == 0) && (level != 2 || natBits e 20 16 == 0)

/-- The size exponent of a page at a level (R364). -/
def levelBits (level : Nat) : Nat := match level with | 1 => 30 | 2 => 21 | _ => 16

/-- The index of an address at a level (R364). -/
def levelIndex (va level : Nat) : Nat :=
  match level with | 0 => natBits va 47 39 | 1 => natBits va 38 30 | 2 => natBits va 29 21 | _ => natBits va 20 16

def entryLeaf (va e level : Nat) : Leaf :=
  let b := levelBits level
  { base := va / 2 ^ b * 2 ^ b, bits := b, frame := natBits e 53 16 * 65536, loc := natBits e 8 7, peer := natBits e 63 54,
    ord := natBits e 6 5, x := natBits e 4 4 == 1, w := natBits e 3 3 == 1, r := natBits e 2 2 == 1 }

/-- The read of an entry in host memory fails on the SCL (R370, reason 5). -/
def State.sclFails (s : State) : MemLoc → Bool
  | .host p => s.sclBad.contains p
  | _ => false

/-- The walk from `level` in the table at `tab`; `rd` reads one entry with its poison (R367, R369). -/
def walkFrom (s : State) (c va : Nat) (need : Need) (rd : MemLoc → Nat × Bool) : (fuel level : Nat) → MemLoc → WalkRes
  | 0, level, _ => .fault { cause := 0x08, reason := 3, level := level }
  | fuel + 1, level, tab =>
    let at_ := tab.shift (8 * levelIndex va level)
    let (e, poison) := rd at_
    if s.sclFails at_ then .fault { cause := 0x08, reason := 5, level := level }
    else if poison then .poison at_
    else if natBits e 0 0 == 0 then .fault { cause := 0x08, reason := 2, level := level }
    else if natBits e 1 1 == 1 then
      if !leafOk e level then .fault { cause := 0x08, reason := 3, level := level }
      else leafCheck s c va level need (entryLeaf va e level)
    else if !pointerOk e level then .fault { cause := 0x08, reason := 3, level := level }
    else
      match nextTable s c level e with
      | .error f => .fault f
      | .ok tab' => walkFrom s c va need rd fuel (level + 1) tab'

/-- R364 to R370: the whole walk of a context. -/
def walk (s : State) (cx : Context) (va : Nat) (need : Need) (rd : MemLoc → Nat × Bool) : WalkRes :=
  let root := cx.desc.root.toNat
  if 2 ^ 48 ≤ va then .fault { cause := 0x08, reason := 1, level := 7 }
  else if natBits root 0 0 == 0 then .fault { cause := 0x08, reason := 2, level := 7 }
  else
    match nextTable s cx.num 7 root with
    | .error f => .fault f
    | .ok tab => walkFrom s cx.num va need rd 4 0 tab

/-- One entry as performed in memory. -/
def State.readEntry (s : State) (l : MemLoc) : Nat × Bool := (leNat (s.baseRead l 8), s.basePoison l)

/-- The leaf that a virtual address has in a context's table as performed in memory, with no cache and no permission asked: the
device's own look at its control tables, which R320 to R322 make at every access. It loses nothing: an entry's poison, which no
agent's walk meets here, is not seen (log 15). -/
def State.peekLeaf (s : State) (cx : Context) (va : Nat) : Option Leaf :=
  match walk s cx va needNone (fun l => ((s.readEntry l).1, false)) with
  | .ok l => some l
  | _ => none

/-- The location that leaf gives the address. -/
def State.peek (s : State) (cx : Context) (va : Nat) : Option MemLoc := (s.peekLeaf cx va).map (fun l => l.locOf va)

/-- A little-endian value of `n` bytes at a virtual address as performed, 0 where it does not translate. -/
def State.peekNat (s : State) (cx : Context) (va n : Nat) : Nat :=
  match s.peek cx va with
  | some l => leNat (s.baseRead l n)
  | none => 0

/-! ### KV pages and firn masks -/

/-- An entry of the KV page-state table (R306); the reserved bits of its page word read as zero (R10, R305). -/
structure KvEntry where
  pword : Word
  state : Nat
  pw    : Nat
  seq   : Nat
  win   : Nat
  p0    : Nat
  deriving DecidableEq, Repr

def kvEntryOf (lo hi : Nat) : KvEntry :=
  { pword := BitVec.ofNat 64 hi &&& 0xFFF8_FFFF_FFFF_FFFF, state := natBits lo 63 62, pw := natBits lo 61 60, seq := natBits lo 59 44,
    win := natBits lo 43 40, p0 := natBits lo 31 0 }

/-- The low dword of an entry; bits [39:32] are written as zero (R306). -/
def KvEntry.low (e : KvEntry) : Word :=
  BitVec.ofNat 64 (e.state * 2 ^ 62 + e.pw * 2 ^ 60 + e.seq * 2 ^ 44 + e.win * 2 ^ 40 + e.p0)

def State.kvEntry (s : State) (cx : Context) (i : Nat) : KvEntry :=
  let va := cx.desc.ptbase.toNat + 16 * i
  kvEntryOf (s.peekNat cx va 8) (s.peekNat cx (va + 8) 8)

/-- R305: the device-physical base of the page a page word names, and its virtual address. -/
def pageBase (w : Word) : Nat := vaultAddr (wbits w 63 60) (wbits w 59 56) (wbits w 55 51) (2048 * wbits w 15 0)
def pageVa (w : Word) : Nat := 65536 * wbits w 47 16

/-- The pool entry of a context whose page holds `p`, if any; a page word of zero names no page (R305), and one that names a
frame of another context has no effect on it (R2). -/
def State.poolEntry (s : State) (cx : Context) (p : Nat) : Option (Nat × KvEntry) :=
  (List.range cx.desc.np).findSome? (fun i =>
    let e := s.kvEntry cx i
    if e.pword != 0 && pageBase e.pword == p / 65536 * 65536 && s.owns cx.num p then some (i, e) else none)

/-- Whether the device consults a context's sequence table: only where it lies on SO pages as R304 requires. -/
def State.firnLive (s : State) (cx : Context) : Bool :=
  (s.peekLeaf cx cx.desc.sqbase.toNat).any (fun l => l.ord == 0)

/-- R309: fields of a sequence-table row. -/
def rowVa (cx : Context) (seq : Nat) : Nat := cx.desc.sqbase.toNat + 256 * seq
def State.committedLen (s : State) (cx : Context) (seq : Nat) : Nat := s.peekNat cx (rowVa cx seq + 0x10) 8
def State.rsPtr (s : State) (cx : Context) (seq : Nat) : Nat := s.peekNat cx (rowVa cx seq + 0x48) 8
def State.rsBytes (s : State) (cx : Context) (seq : Nat) : Nat := s.peekNat cx (rowVa cx seq + 0x50) 4
def State.ckMax (s : State) (cx : Context) (seq : Nat) : Nat := s.peekNat cx (rowVa cx seq + 0x54) 2

/-- R307: the position of a byte at offset `u` of a page, if it belongs to one. R306 gives PW 0 and 1 alone: 2 and 3, in an entry
read from memory, mean 32 bytes here as 1 does (log 32). -/
def kvPosition (e : KvEntry) (u : Nat) : Option Nat :=
  let q := (u % 2048) / (if e.pw == 0 then 64 else 32)
  if q < 32 then some (e.p0 + q) else none

/-- A binding to a firn window: context, sequence, window (R315). -/
abbrev Binding := Option (Nat × Nat × Nat)

/-- A binding counts while its window is open (R317, R321). It is known by its name alone, so that one captured before its window closed
counts again while the window of that name is open anew (log 32). -/
def State.boundTo (s : State) (b : Binding) (c seq : Nat) : Option Nat :=
  match b with
  | some (c', q, w) => if c' == c && q == seq && s.windows.contains (c', q, w) then some w else none
  | none => none

/-- R308, R321, R322: a byte of a pool page reads as zero to an agent bound to `b`. -/
def State.pageMasked (s : State) (b : Binding) (cx : Context) (p : Nat) : Bool :=
  match s.poolEntry cx p with
  | none => false
  | some (_, e) =>
    match e.state with
    | 0 => true
    | 2 => s.boundTo b cx.num e.seq != some e.win
    | 1 =>
      (s.boundTo b cx.num e.seq).isNone &&
      (match kvPosition e (p % 65536) with
       | some q => s.committedLen cx e.seq ≤ q
       | none => false)
    | _ => false

/-- RS_PTR or DEPTH of a row has changed since the first of its open windows opened, which R309 forbids. -/
def State.areaMoved (s : State) (cx : Context) (seq : Nat) : Bool :=
  s.windows.any (fun w => w.1 == cx.num && w.2.1 == seq) &&
  (match cx.areas.find? (fun a => a.1 == seq) with
   | some a => a.2 != (s.rsPtr cx seq, s.rsBytes cx seq, s.ckMax cx seq)
   | none => false)

/-- The place of a checkpoint slot's page, where the mask counts: in a vault frame of the context, or in host or peer memory on a page
that is not UO. An area that breaks R311, or one that breaks R309 over memory that the context cannot write, hides nothing from
others (R2; log 15). -/
def State.slotPage (s : State) (cx : Context) (seq page : Nat) : Option MemLoc :=
  ((s.peekLeaf cx page).filter (fun l => l.loc == 0 || (l.ord != 2 && (l.w || !s.areaMoved cx seq)))).map (fun l => l.locOf page)

/-- R322: the window whose checkpoint slot holds the location, for one row. What lies beyond 64 bits names no page (log 15). -/
def State.ckptWindow (s : State) (cx : Context) (seq : Nat) (l : MemLoc) : Option Nat :=
  let rb := s.rsBytes cx seq
  let ck := s.ckMax cx seq
  let base := s.rsPtr cx seq
  if rb == 0 || ck == 0 then none
  else
    let lo := base + rb
    let hi := base + rb * (1 + 16 * ck)
    (List.range ((hi - 1) / 65536 - lo / 65536 + 1)).findSome? (fun k =>
      let page := 65536 * (lo / 65536 + k)
      let inPage (p q : Nat) : Option Nat :=
        if p / 65536 == q / 65536 then
          let va := page + p % 65536
          if lo ≤ va && va < hi then some (((va - base) / rb - 1) / ck) else none
        else none
      match s.slotPage cx seq page, l with
      | some (.vault q), .vault p => inPage p q
      | some (.host q), .host p => inPage p q
      | some (.peer i q), .peer j p => if i == j then inPage p q else none
      | _, _ => none)

/-- R322: a byte of a checkpoint slot reads as zero to an agent not bound to the owning window. -/
def State.ckptMasked (s : State) (b : Binding) (cx : Context) (l : MemLoc) : Bool :=
  (List.range (cx.desc.sqrows + 1)).any (fun seq =>
    match s.ckptWindow cx seq l with
    | some w => s.boundTo b cx.num seq != some w
    | none => false)

/-- R308, R320 to R322: the byte reads as zero to an agent with binding `b`. The pool counts from the start of the context's
first job (R306), checkpoint slots at all times. -/
def State.masked (s : State) (b : Binding) (l : MemLoc) : Bool :=
  s.ctxs.any (fun cx =>
    s.firnLive cx &&
    ((match l with | .vault p => cx.started && s.pageMasked b cx p | _ => false) || s.ckptMasked b cx l))

/-- R308: a write to a free pool page is discarded. -/
def State.freePage (s : State) (p : Nat) : Bool :=
  s.ctxs.any (fun cx => cx.started && s.firnLive cx && (match s.poolEntry cx p with | some (_, e) => e.state == 0 | none => false))

/-! ### Performed writes -/

/-- The line log's key of a location (R383). -/
def lineKey : MemLoc → Option Nat
  | .vault p => some (p / 32)
  | .host p => some (2 ^ 64 + p / 32)
  | .peer id p => some (2 ^ 65 + 2 ^ 64 * id + p / 32)
  | .spad _ => none

def logLine : List (Nat × Nat) → Nat → Nat → List (Nat × Nat)
  | [], k, q => [(k, q)]
  | (j, r) :: rest, k, q => if k < j then (k, q) :: (j, r) :: rest else if k = j then (k, q) :: rest else (j, r) :: logLine rest k q

/-- Records the lines that `n` bytes at a location touch as written now. -/
def State.logWrite (s : State) (l : MemLoc) (n : Nat) : State :=
  if n = 0 then s else
  match lineKey l, lineKey (l.shift (n - 1)) with
  | some lo, some hi =>
    let q := s.codeSeq + 1
    { s with codeSeq := q, codeLog := (List.range (hi - lo + 1)).foldl (fun m k => logLine m (lo + k) q) s.codeLog }
  | _, _ => s

/-- The line of a stack cache that holds a sector, and the sector's place in it (R228). -/
def sectorLine (sector : Nat) : Nat := sector / 1024
def sectorBit (sector : Nat) : BitVec 4 := 1#4 <<< (sector / 256 % 4)

/-- A sector comes into its home's stack cache, dirty where `dirty` says so. The cache holds 32,768 lines (R28); which one a
full cache replaces is not said: the oldest (log 42). -/
def State.cacheSector (s : State) (sector : Nat) (dirty : Bool) : State :=
  let k := vaultStack sector
  let t := s.stack k
  let bit := sectorBit sector
  let old := (t.cache.find? (fun c => c.line == sectorLine sector)).getD { line := sectorLine sector, held := 0, dirty := 0 }
  let new : CacheLine := { old with held := old.held ||| bit, dirty := if dirty then old.dirty ||| bit else old.dirty }
  s.setStack k { t with cache := (new :: t.cache.filter (fun c => c.line != sectorLine sector)).take 32768 }

/-- Marks a vault sector as held dirty by its stack cache (R228). -/
def State.dirtySector (s : State) (sector : Nat) : State := s.cacheSector sector true

/-- A vault sector becomes poisoned, which its stack counts for the owner of the frame (R427, source 36; log 21). -/
def State.poisonVault (s : State) (sector : Nat) : State :=
  if s.vaultPoison.contains sector then s
  else
    let o := s.ownerEntry (frameIndex sector)
    { s with vaultPoison := NatSet.insert s.vaultPoison sector }.countStack (vaultStack sector) 36 1
      (if o.valid && !o.retired then some o.ctx else none)

/-- Writes performed bytes, without the discard of R308. `single` says that the bytes are one access: one that covers a
whole sector clears its poison (R233); `poison` poisons every sector touched. -/
def State.performRaw (s : State) (l : MemLoc) (bytes : List Byte) (poison single : Bool) : State :=
  let n := bytes.length
  if n = 0 then s else
  let s := s.logWrite l n
  match l with
  | .vault p =>
    let pz := if single && n == 256 && p % 256 == 0 then NatSet.erase s.vaultPoison p else s.vaultPoison
    let s := (sectorsOf p n).foldl State.dirtySector { s with vault := s.vault.write p bytes, vaultPoison := pz }
    if poison then (sectorsOf p n).foldl State.poisonVault s else s
  | .host p =>
    let pz := if single && n == 256 && p % 256 == 0 then NatSet.erase s.hostPoison p else s.hostPoison
    let pz := if poison then (sectorsOf p n).foldl NatSet.insert pz else pz
    { s with host := s.host.write p bytes, hostPoison := pz }
  | _ => s

/-- A write performed at its home and at every scope; one to a free pool page is discarded (R308). -/
def State.performWrite (s : State) (l : MemLoc) (bytes : List Byte) (poison single : Bool) : State :=
  match l with
  | .vault p => if s.freePage p then s else s.performRaw l bytes poison single
  | _ => s.performRaw l bytes poison single

/-- A scratchpad sector becomes poisoned; the stack counts it when the step ends (R427, source 36). -/
def Group.poisonSpad (g : Group) (sector : Nat) : Group :=
  if g.spadPoison.contains sector then g
  else { g with spadPoison := NatSet.insert g.spadPoison sector, newPoison := g.newPoison + 1 }

/-- A scratchpad write, by group offset, with the poison rules of R190. No extent is checked here: an edited queue entry writes
where it names (log 49). -/
def Group.spadWrite (g : Group) (o : Nat) (bytes : List Byte) (poison single : Bool) : Group :=
  let n := bytes.length
  let pz := if single && n == 256 && o % 256 == 0 then NatSet.erase g.spadPoison o else g.spadPoison
  let g := { g with spad := g.spad.write o bytes, spadPoison := pz }
  if poison then (sectorsOf o n).foldl Group.poisonSpad g else g

def Group.spadRead (g : Group) (o n : Nat) : List Byte := g.spad.read o n

/-- Scratchpad sectors that have been poisoned are counted by the group's drain stack (R427, source 36). -/
def State.countPoison (s : State) : State :=
  s.groups.foldl (fun s g =>
    if g.newPoison == 0 then s
    else (s.setGrp { g with newPoison := 0 }).countStack g.drain 36 g.newPoison (some g.ctx)) s

/-- Whether any of `n` scratchpad bytes lies in a poisoned sector. -/
def Group.spadPoisoned (g : Group) (o n : Nat) : Bool := (sectorsOf o n).any g.spadPoison.contains

/-! ### Store buffers -/

/-- The bytes of two location ranges overlap. -/
def overlap : MemLoc → Nat → MemLoc → Nat → Bool
  | .vault p, n, .vault q, m => p < q + m && q < p + n
  | .host p, n, .host q, m => p < q + m && q < p + n
  | .spad p, n, .spad q, m => p < q + m && q < p + n
  | _, _, _, _ => false

/-- The bytes of two location ranges overlap, those of peers' memory too. -/
def shareBytes : MemLoc → Nat → MemLoc → Nat → Bool
  | .peer i p, n, .peer j q, m => i == j && p < q + m && q < p + n
  | l, n, k, m => overlap l n k m

/-- Who reads (R247): a slice with the limit of its own stores it sees, or another agent of a group, or an agent of no group,
inside the module or outside it; and its binding. -/
structure Viewer where
  gid  : Option Nat
  sl   : Option Slice
  upTo : Option Nat
  bind : Binding
  module : Bool := true
  deriving DecidableEq, Repr

/-- The device's own agents (R247): dispatcher and translation agent. -/
def viewDevice : Viewer := { gid := none, sl := none, upTo := none, bind := none }

/-- The requests of the device's own agents carry a group number that no group has. -/
def deviceGid : Nat := 2 ^ 64

/-- No request of the device's own agents to a peer is unanswered: a release of theirs waits for that (R415). -/
def State.deviceIdle (s : State) : Bool := !s.outReqs.any (fun r => r.gid == deviceGid)

/-- Host and peer agents, which belong to the system instance only (R248, R267). -/
def viewHost : Viewer := { gid := none, sl := none, upTo := none, bind := none, module := false }

/-- R248: a store of group `h`, performed at scope `vis`, is performed towards group `g` of the viewer. -/
def visCovers (s : State) (h : Group) (vis : Option Nat) (v : Viewer) : Bool :=
  match vis with
  | none => false
  | some 0 => v.gid == some h.gid
  | some 1 => match v.gid.bind s.grp? with | some g => g.stack0 == h.stack0 | none => false
  | some _ => v.module

/-- The entries of a group's slice that a viewer sees, oldest first. A scratchpad entry is seen within its group only. -/
def visibleOf (s : State) (h : Group) (sl : Slice) (v : Viewer) : List StoreEntry :=
  let own := v.gid == some h.gid && v.sl == some sl
  (h.stream sl).sb.filter (fun e =>
    (own && (match v.upTo with | none => true | some q => e.seq < q)) || (!own && visCovers s h e.vis v))

/-- Every pending store a viewer sees; its own come last, so that they prevail (R237). -/
def State.visible (s : State) (v : Viewer) : List (Nat × StoreEntry) :=
  let all := s.groups.flatMap (fun h => [Slice.a, Slice.c].flatMap (fun sl =>
    (visibleOf s h sl v).map (fun e => (h.gid, sl, e))))
  let own := all.filter (fun x => v.gid == some x.1 && v.sl == some x.2.1)
  let others := all.filter (fun x => !(v.gid == some x.1 && v.sl == some x.2.1))
  (others ++ own).map (fun x => (x.1, x.2.2))

/-- The byte of an entry at a location, if it covers it. -/
def entryByte (e : StoreEntry) (l : MemLoc) : Option Byte :=
  match e.loc, l with
  | .vault p, .vault q => if p ≤ q then e.bytes[q - p]? else none
  | .host p, .host q => if p ≤ q then e.bytes[q - p]? else none
  | .spad p, .spad q => if p ≤ q then e.bytes[q - p]? else none
  | _, _ => none

/-- One byte as a viewer reads it: pending stores it sees over performed memory, under the firn masks (R237, R320). -/
def State.viewByte (s : State) (v : Viewer) (vis : List (Nat × StoreEntry)) (l : MemLoc) : Byte :=
  if s.masked v.bind l then 0
  else vis.foldl (fun b e => (entryByte e.2 l).getD b) (s.baseByte l)

/-- The sector of a location is poisoned for a viewer. -/
def State.viewPoison (s : State) (vis : List (Nat × StoreEntry)) (l : MemLoc) : Bool :=
  s.basePoison l ||
  vis.any (fun e => e.2.poison &&
    (match e.2.loc, l with
     | .vault p, .vault q => (sectorsOf p e.2.bytes.length).contains (q / 256 * 256)
     | .host p, .host q => (sectorsOf p e.2.bytes.length).contains (q / 256 * 256)
     | _, _ => false))

/-- `n` bytes at a vault or host location as a viewer reads them, and whether any is poisoned. A byte that a mask makes zero is poisoned
where its sector is: R322 gives the value alone (log 44). -/
def State.viewRead (s : State) (v : Viewer) (l : MemLoc) (n : Nat) : List Byte × Bool :=
  let vis := s.visible v
  ((List.range n).map (fun k => s.viewByte v vis (l.shift k)),
   (List.range n).any (fun k => s.viewPoison vis (l.shift k)))

/-- `n` scratchpad bytes of a group as a viewer of the group reads them. -/
def State.viewSpad (s : State) (v : Viewer) (g : Group) (o n : Nat) : List Byte × Bool :=
  let vis := (s.visible v).filter (fun e => e.1 == g.gid)
  ((List.range n).map (fun k => vis.foldl (fun b e => (entryByte e.2 (.spad (o + k))).getD b) (g.spad.get (o + k))),
   g.spadPoisoned o n || vis.any (fun e => e.2.poison &&
     (match e.2.loc with | .spad p => (sectorsOf p e.2.bytes.length).any ((sectorsOf o n).contains ·) | _ => false)))

/-- Performs one entry of a group's slice at every scope, leaving the buffer as it is. -/
def State.performEntry (s : State) (gid : Nat) (e : StoreEntry) : State :=
  match e.loc with
  | .spad o =>
    match s.grp? gid with
    | some g => s.setGrp (g.spadWrite o e.bytes e.poison true)
    | none => s
  | l => s.performWrite l e.bytes e.poison true

/-- Removes an entry from its buffer. -/
def State.dropEntry (s : State) (gid : Nat) (sl : Slice) (seq : Nat) : State :=
  match s.grp? gid with
  | some g =>
    let st := g.stream sl
    s.setGrp (g.setStream sl { st with sb := st.sb.filter (fun e => e.seq != seq) })
  | none => s

/-- Performs entries of one slice, in order. -/
def State.drainList (s : State) (gid : Nat) (sl : Slice) : List StoreEntry → State
  | [] => s
  | e :: rest => ((s.performEntry gid e).dropEntry gid sl e.seq).drainList gid sl rest

/-- Performs every pending store of a slice. -/
def State.drainSlice (s : State) (gid : Nat) (sl : Slice) : State :=
  match s.grp? gid with
  | some g => s.drainList gid sl (g.stream sl).sb
  | none => s

/-- Performs every pending store of the module at every scope, which R251 allows at any time. -/
def State.drainAll (s : State) : State :=
  s.groups.foldl (fun s h => (s.drainSlice h.gid .a).drainSlice h.gid .c) s

/-- Performs, oldest first, the entries of a slice up to the last one that `pick` names. A release among them is performed at
every scope before the stores of other agents that it follows, which are performed at its scope already: an agent outside
its scope does not synchronise with it (R256). -/
def State.drainWhere (s : State) (gid : Nat) (sl : Slice) (pick : StoreEntry → Bool) : State :=
  match s.grp? gid with
  | some g =>
    match ((g.stream sl).sb.filter pick).getLast? with
    | some last =>
      let out := (g.stream sl).sb.filter (fun e => e.seq ≤ last.seq)
      s.drainList gid sl out
    | none => s
  | none => s

/-- Performs the pending stores that overlap a range and that the viewer sees, its own included where `own` says so: a
write of the viewer to the range comes after them in coherence order (R250). -/
def State.drainOverlap (s : State) (v : Viewer) (own : Bool) (l : MemLoc) (n : Nat) : State :=
  s.groups.foldl (fun s h => [Slice.a, Slice.c].foldl (fun s sl =>
    let mine := v.gid == some h.gid && v.sl == some sl
    let seen := (visibleOf s h sl v).map StoreEntry.seq
    -- a scratchpad belongs to one group, so only its own entries can overlap
    if (mine && !own) || (match l with | .spad _ => v.gid != some h.gid | _ => false) then s
    else s.drainWhere h.gid sl (fun e => seen.contains e.seq && overlap e.loc e.bytes.length l n)) s) s

/-- Another slice has a pending store that overlaps `e`. -/
def State.contended (s : State) (gid : Nat) (sl : Slice) (e : StoreEntry) : Bool :=
  s.groups.any (fun h => [Slice.a, Slice.c].any (fun sl' =>
    !(h.gid == gid && sl' == sl) && (h.gid == gid || (match e.loc with | .spad _ => false | _ => true)) &&
    (h.stream sl').sb.any (fun f => overlap e.loc e.bytes.length f.loc f.bytes.length)))

/-- Raises the scope at which entries are performed; stores to UO pages are left (R254). -/
def raiseVis (scope : Nat) (pick : StoreEntry → Bool) (st : Stream) : Stream :=
  { st with sb := st.sb.map (fun e =>
      if e.uo || !pick e then e
      else { e with vis := some (match e.vis with | none => scope | some v => max v scope) }) }

/-- The entries of slice `sl'` of group `h` that a release of slice `sl` of group `gid` performs at its scope: the slice's own, and
those that it sees (R259). -/
def released (s : State) (gid : Nat) (sl : Slice) (v : Viewer) (h : Group) (sl' : Slice) (e : StoreEntry) : Bool :=
  if h.gid == gid && sl' == sl then true
  else visCovers s h e.vis v && (match e.loc with | .spad _ => h.gid == gid | _ => true)

/-- Those of them that another slice's pending store overlaps leave the buffer, so that the order of the two stays fixed (R250). -/
def State.drainContended (s : State) (gid : Nat) (sl : Slice) (v : Viewer) : State :=
  s.groups.foldl (fun s h => [Slice.a, Slice.c].foldl (fun s sl' =>
    s.drainWhere h.gid sl' (fun e => !e.uo && released s gid sl v h sl' e && s.contended h.gid sl' e)) s) s

/-- Every other slice's pending stores to a range are performed at every scope: a store that enters the buffer performed at a scope
follows them in coherence order, whoever sees them (R250). -/
def State.drainOthers (s : State) (gid : Nat) (sl : Slice) (l : MemLoc) (n : Nat) : State :=
  s.groups.foldl (fun s h => [Slice.a, Slice.c].foldl (fun s sl' =>
    if (h.gid == gid && sl' == sl) || (match l with | .spad _ => h.gid != gid | _ => false) then s
    else s.drainWhere h.gid sl' (fun e => overlap e.loc e.bytes.length l n)) s) s

/-- A release or fence of a slice at scope `scope` (R243, R257, R259): its own pending stores, and those of other slices
that it sees, are performed there. At system scope all pending stores of the module are. -/
def State.performAt (s : State) (gid : Nat) (sl : Slice) (v : Viewer) (scope : Nat) : State :=
  if 3 ≤ scope then s.drainAll
  else
    let s := s.drainContended gid sl v
    { s with groups := s.groups.map (fun h =>
        { h with a := raiseVis scope (released s gid sl v h .a) h.a, c := raiseVis scope (released s gid sl v h .c) h.c }) }

end Sys2Proof.Machine
end

