-- ==== Sys2Proof/Machine/Ops.lean ====
section
/-! DEFINITION. The operations that meanings share: registers, counters, the loss of a context (R395, R396), raising a
trap (R379 to R382), translation through the caches (R372, R373), UALink requests (R414 to R417), instruction fetch,
the scan, transfers of control and the step after an instruction (R37 to R44, R121 to R124). -/

namespace Sys2Proof

/-- SRC of a slice (R381). -/
def Slice.src : Slice → Nat
  | .a => 0
  | .c => 1

/-- SRC of an engine queue (R381). -/
def EQueue.src : EQueue → Nat
  | .mat => 2
  | .vec => 3
  | .cpl => 4
  | .cps => 5

/-- The place of a queue in an image (R390). -/
def EQueue.idx : EQueue → Nat
  | .mat => 0
  | .vec => 1
  | .cpl => 2
  | .cps => 3

/-- The lane tag of a stream (R39). -/
def Slice.tag : Slice → Nat
  | .a => 1
  | .c => 2

/-- The other slice of the group. -/
def Slice.partner : Slice → Slice
  | .a => .c
  | .c => .a

end Sys2Proof

namespace Sys2Proof.Machine

open Sys2Proof

abbrev Out := Host.Outcome State Fault Refusal

/-! ### Registers (R102, R105) -/

/-- A general register; g0 reads as zero. -/
def Stream.rd (st : Stream) (r : Reg) : Word := if r = 0 then 0 else st.g.toList.getD r.toNat 0

/-- The poison bit of a register; g0 has none. -/
def Stream.rp (st : Stream) (r : Reg) : Bool := r != 0 && st.p.getLsbD r.toNat

/-- Writes a register and its poison bit; g0 discards the write. -/
def Stream.wr (st : Stream) (r : Reg) (v : Word) (poison : Bool) : Stream :=
  if r = 0 then st
  else
    { st with
      g := st.g.set r.toNat v r.isLt
      p := if poison then st.p ||| (1#32 <<< r.toNat) else st.p &&& ~~~(1#32 <<< r.toNat) }

def State.setStream (s : State) (gid : Nat) (sl : Slice) (st : Stream) : State :=
  match s.grp? gid with
  | some g => s.setGrp (g.setStream sl st)
  | none => s

def State.mapGrp (s : State) (gid : Nat) (f : Group → Group) : State :=
  match s.grp? gid with
  | some g => s.setGrp (f g)
  | none => s

def State.mapStream (s : State) (gid : Nat) (sl : Slice) (f : Stream → Stream) : State :=
  s.mapGrp gid (fun g => g.setStream sl (f (g.stream sl)))

def Group.queue (g : Group) (q : EQueue) : List Cmd := g.eq.toList.getD q.idx []

def Group.setQueue (g : Group) (q : EQueue) (l : List Cmd) : Group :=
  match q with
  | .mat => { g with eq := g.eq.set 0 l }
  | .vec => { g with eq := g.eq.set 1 l }
  | .cpl => { g with eq := g.eq.set 2 l }
  | .cps => { g with eq := g.eq.set 3 l }

/-- The instruction that a queued command's words stand for (R392). -/
def Cmd.instr? (c : Cmd) : Option Instr := (decodeWords c.w1 c.w2).toOption

/-- The words of a queued command that open a reduction loop (R165). -/
def opensLoop (i : Instr) : Bool :=
  match i with
  | .mm _ => true
  | .mzero _ => true
  | _ => false

/-- R165: a reduction loop is open; entries that a command queued behind the closing `mdrain` dirtied keep it so (log 13). -/
def Group.loopOpen (g : Group) : Bool := g.loop || g.acc.any AccEntry.dirty

/-- A pre-empting group whose loop is closed begins nothing new (R388). -/
def Group.held (g : Group) : Bool := g.preq && !g.loopOpen

/-- The binding of a group (R315), in force for an access now. -/
def bindOf (ctx : Nat) (firn : Word) : Binding :=
  if wbits firn 63 63 == 1 then some (ctx, wbits firn 15 0, wbits firn 19 16) else none

def Group.bind (g : Group) : Binding := bindOf g.ctx g.firn

/-- A slice as a reader of memory. -/
def Group.viewer (g : Group) (sl : Slice) : Viewer := { gid := some g.gid, sl := some sl, upTo := none, bind := g.bind }

/-- The leading row controller of a group (R25). -/
def Group.ctl (g : Group) : Nat := 16 * g.stack0 + g.row0

/-! ### Counters (R113, R425 to R427) -/

/-- Adds an event of a group to its counters and to those of its home stack (R426, R427). -/
def State.count (s : State) (gid src n : Nat) : State :=
  match s.grp? gid with
  | none => s
  | some g =>
    let s := s.setGrp { g with counters := g.counters.mapFinIdx (fun j v _ =>
      if src != 0 && s.gsel j == src then v + BitVec.ofNat 64 n else v) }
    s.countStack g.stack0 src n (some g.ctx)

/-- Sets DP in cr.chk and counts one data consumption of poison (R395, R427). -/
def State.dataPoison (s : State) (gid : Nat) : State := (s.mapGrp gid (fun g => g.setChk chkDP)).count gid 8 1

/-! ### Events and the loss of a context -/

/-- An event for the host's ring (R412); with EVTQ 0 none is written. -/
def State.pushEvent (s : State) (dwords : List Word) : State :=
  match s.boot with
  | some b => if b.evtq == 0 then s else { s with events := s.events ++ [dwords] }
  | none => s

/-- R396 steps 1 to 3: everything of a context leaves the module; stores already issued are performed (R251), and the sectors that
they poison are counted (R427). -/
def State.endContext (s : State) (c : Nat) : State :=
  let s := (s.groups.foldl (fun s g => if g.ctx == c then (s.drainSlice g.gid .a).drainSlice g.gid .c else s) s).countPoison
  let dead := (s.groups.filter (fun g => g.ctx == c)).map Group.gid
  { s with
    groups := s.groups.filter (fun g => g.ctx != c)
    launches := s.launches.filter (fun l => l.ctx != c)
    windows := s.windows.filter (fun w => w.1 != c)
    sealing := s.sealing.filter (fun w => w.1 != c)
    ctxs := s.ctxs.filter (fun x => x.num != c)
    tlb := s.tlb.filter (fun e => e.ctx != c)
    peerLines := s.peerLines.filter (fun l => l.ctx != c)
    contribs := s.contribs.filter (fun x => x.ctx != c)
    rounds := s.rounds.filter (fun x => x.ctx != c)
    cur := match s.cur with
      | some (gid, sl) => if dead.contains gid then none else some (gid, sl)
      | none => none }

/-- The physical sector address of a location, for PADDR. -/
def MemLoc.sector : MemLoc → Nat
  | .vault p => p / 256 * 256
  | .host p => p / 256 * 256
  | .peer _ p => p / 256 * 256
  | .spad _ => 0

/-- R396 step 4: retires the vault frame that holds a poisoned sector; how many frames were retired. -/
def State.retire (s : State) (l : Option MemLoc) : State × Nat :=
  match l with
  | some (.vault p) =>
    let o := s.ownerEntry (frameIndex p)
    (s.setOwner { o with retired := true }, if o.retired then 0 else 1)
  | _ => (s, 0)

/-- A loss: REASON and SRC of R397, the group, the poisoned place and the virtual address. -/
structure Loss where
  reason : Nat
  src    : Nat
  gid    : Option Nat
  place  : Option MemLoc
  va     : Nat
  deriving DecidableEq, Repr

/-- The records of losses, each released and then followed by its event, are written once peers have answered the device (R397,
R415). -/
def State.settleLost (s : State) : State :=
  if s.lostRecs.isEmpty || !s.deviceIdle then s
  else
    s.lostRecs.foldl (fun s r => (s.performWrite (.host r.addr) r.bytes false false).pushEvent r.event)
      { s.drainAll with lostRecs := [] }

/-- R396, R397: the loss of a context, with its record and event. -/
def State.loseContext (s : State) (c : Nat) (x : Loss) : State :=
  match s.ctx? c with
  | none => s
  | some cx =>
    let g := x.gid.bind s.grp?
    let gnum := match g with | some g => g.gnum | none => 0xFFFF
    let apc := match g with | some g => g.a.pc.toNat | none => 0
    let cpc := match g with | some g => g.c.pc.toNat | none => 0
    let s := s.endContext c
    let (s, n) := s.retire x.place
    let head := x.reason + 2 ^ 8 * x.src + 2 ^ 16 * gnum + 2 ^ 32 * c
    let paddr := match x.place with | some l => l.sector | none => 0
    let r : LostRec :=
      { addr := cx.desc.lostrec
        bytes := leBytes 8 head ++ leBytes 8 paddr ++ leBytes 8 x.va ++ leBytes 8 apc ++ leBytes 8 cpc ++ leBytes 8 n ++ leBytes 16 0
        event := [BitVec.ofNat 64 (2 + 2 ^ 8 * c + 2 ^ 16 * 0xFFFF), BitVec.ofNat 64 (2 ^ 24 * x.reason), 0, 0] }
    State.settleLost { s with lostRecs := s.lostRecs ++ [r] }

/-- Loss through control use of a register or of a waited word (R105, R245): reason 2. -/
def State.loseControl (s : State) (gid : Nat) (sl : Slice) : State :=
  match s.grp? gid with
  | some g => s.loseContext g.ctx { reason := 2, src := sl.src, gid := some gid, place := none, va := 0 }
  | none => s

/-! ### Traps -/

/-- What a trap says besides its source (R381, R382). -/
structure TrapInfo where
  cause  : Nat
  reason : Nat := 0
  level  : Nat := 7
  phys   : Bool := false
  addr   : Nat := 0
  status : Word := 0
  qsel   : Nat := 0
  slot   : Nat := 0
  deriving DecidableEq, Repr

/-- The instruction at the PC has sent a UALink request, or is a KV instruction, a `launch` or a `walk.next` past its checks (R325,
R388): it completes. -/
def Stream.midway (st : Stream) : Bool := !st.reqs.isEmpty || st.kv.isSome || !st.asks.isEmpty || st.past

/-- A `launch` has passed its checks of the parts, and waits for peers' answers alone from here on, until it has read its packet
(R362, R388). -/
def Stream.passed (st : Stream) (parts : List Part) : Stream := { st with parts := parts, past := true }

/-- What an instruction that does not complete has read of tables is given up. -/
def Stream.dropReads (st : Stream) : Stream := if st.midway then st else { st with reads := [] }

/-- A stalled instruction that a stop leaves unexecuted (R118). -/
def Stream.unstall (st : Stream) : Stream :=
  { st.dropReads with stall := none, chkMark := none, wn := none, waiting := none, packet := none }

/-- The stream gives up what its instruction and its fetches have under way. -/
def Stream.dropWork (st : Stream) : Stream :=
  { st with reqs := [], parts := [], past := false, fetches := [], reads := [], kv := none, asks := [] }

/-- R118, R379: the stream may issue, or completes an instruction that is midway. -/
def Group.mayIssue (g : Group) (sl : Slice) : Bool :=
  !(g.stream sl).joined &&
  (match g.status with
   | .running => !g.held || (g.stream sl).midway
   | .stopping => (g.stream sl).midway
   | _ => false)

/-- Nothing of a group begins while it stops, or while a pre-empting group's loop is closed (R379, R388). -/
def Group.mayBegin (g : Group) : Bool := g.status == .running && !g.held

/-- R118, R379: stalled instructions are left unexecuted, and nothing waits on a semaphore. -/
def Group.halt (g : Group) : Group :=
  { g with a := g.a.unstall, c := g.c.unstall, sems := g.sems.map (fun x => { x with waiters := [], left := [] }) }

/-- R379, R380: raises a trap of a source of a group; a second trap of a stream in one stop gets no record. -/
def State.raise (s : State) (gid src : Nat) (t : TrapInfo) (skip : Bool) (cmdidx : Nat) : State :=
  match s.grp? gid with
  | none => s
  | some g =>
    let rec_ : TrapRec :=
      { src := src, cause := t.cause, reason := t.reason, level := t.level, phys := t.phys, skip := skip,
        addr := BitVec.ofNat 64 t.addr, status := t.status, qsel := t.qsel, slot := t.slot, cmdidx := cmdidx, cycle := g.cycle }
    let dup := src ≤ 1 && g.recs.any (fun r => r.src ≤ 1)
    s.setGrp { g.halt with
      recs := if dup then g.recs else g.recs ++ [rec_]
      status := match g.status with | .running => .stopping | st => st }

/-- A trap of a stream: the stream keeps its PC, with SKIP where the instruction at it has completed. -/
def State.trapStream (s : State) (gid : Nat) (sl : Slice) (t : TrapInfo) (skip : Bool) : State :=
  let s := s.mapStream gid sl (fun st => { st.unstall.dropWork with skip := skip, pass := none, wide := none })
  s.raise gid sl.src t skip (match s.grp? gid with | some g => g.cmdCount | none => 0)

/-- The stream waits, with nothing of its instruction done (R118). -/
def State.stallOn (s : State) (gid : Nat) (sl : Slice) (k : Stall) : State :=
  s.mapStream gid sl (fun st => { st with stall := some k })

/-- The result of a part of an instruction that may trap, lose the context or have to wait. -/
inductive Got (α : Type) where
  | ok (s : State) (a : α)
  | trap (s : State) (t : TrapInfo)
  | lost (s : State)
  | wait (s : State)

def Got.bind {α β : Type} (x : Got α) (f : State → α → Got β) : Got β :=
  match x with
  | .ok s a => f s a
  | .trap s t => .trap s t
  | .lost s => .lost s
  | .wait s => .wait s

/-- Ends an instruction with what came of it: a trap leaves it unexecuted, a wait leaves it stalled. -/
def Got.finish {α : Type} (x : Got α) (gid : Nat) (sl : Slice) (k : Stall) (f : State → α → Out) : Out :=
  match x with
  | .ok s a => f s a
  | .trap s t => .next (s.trapStream gid sl t false)
  | .lost s => .next s
  | .wait s => .next (s.stallOn gid sl k)

/-! ### Translation (R371 to R373) -/

def TlbHolder.home : TlbHolder → Nat
  | .ctl k => k / 16
  | .engine st _ => st
  | .stack s => s

/-- Capacity of a translation cache (R372). -/
def TlbHolder.cap : TlbHolder → Nat
  | .ctl _ => 256
  | .engine _ _ => 512
  | .stack _ => 8192

def TlbEntry.leaf (e : TlbEntry) : Leaf :=
  { base := e.base, bits := e.bits, frame := e.frame, loc := e.loc, peer := e.peer, ord := e.ord, x := e.x, w := e.w, r := e.r }

def Leaf.permits (l : Leaf) (n : Need) : Bool := (!n.r || l.r) && (!n.w || l.w) && (!n.x || l.x)

/-- The frame of an address in a leaf is no hole and is owned (R225, R368). -/
def State.frameOk (s : State) (c va : Nat) (l : Leaf) : Bool :=
  match l.locOf va with
  | .vault p => !vaultHole p && s.owns c p
  | _ => true

/-- An entry of a cache that an access may use: of its context, live and granting it (R371 to R373). -/
def State.cached (s : State) (h : TlbHolder) (c va : Nat) (need : Need) : Option TlbEntry :=
  s.tlb.find? (fun e =>
    e.holder == h && e.ctx == c && e.base ≤ va && va < e.base + 2 ^ e.bits && 0 < e.lease &&
    e.leaf.permits need && s.frameOk c va e.leaf)

/-- Keeps the newest entries of a holder up to its capacity. -/
def capTlb (h : TlbHolder) : Nat → List TlbEntry → List TlbEntry
  | _, [] => []
  | n, e :: rest =>
    if e.holder == h then (match n with | 0 => capTlb h 0 rest | n + 1 => e :: capTlb h n rest)
    else e :: capTlb h n rest

def State.fillTlb (s : State) (e : TlbEntry) : State := { s with tlb := capTlb e.holder e.holder.cap (e :: s.tlb) }

/-- The result of a translation: a place and the page's ORD, a fault, or a poisoned table entry. -/
inductive XRes where
  | ok (l : MemLoc) (ord : Nat)
  | fault (f : XFault)
  | poison (l : MemLoc)
  deriving DecidableEq, Repr

/-- A table entry as a viewer reads it (R367). -/
def State.viewEntry (s : State) (v : Viewer) (l : MemLoc) : Nat × Bool :=
  let (b, p) := s.viewRead v l 8
  (leNat b, p)

/-- R371 to R373: translation through the holder's cache, its stack's cache, then a walk, which fills both. -/
def State.translate (s : State) (h : TlbHolder) (v : Viewer) (cx : Context) (va : Nat) (need : Need) : State × XRes :=
  match s.cached h cx.num va need with
  | some e => (s, .ok (e.leaf.locOf va) e.ord)
  | none =>
    match s.cached (.stack h.home) cx.num va need with
    | some e => (s.fillTlb { e with holder := h }, .ok (e.leaf.locOf va) e.ord)
    | none =>
      match walk s cx va need (s.viewEntry v) with
      | .fault f => (s, .fault f)
      | .poison l => (s, .poison l)
      | .ok l =>
        let e : TlbEntry :=
          { holder := .stack h.home, ctx := cx.num, base := l.base, bits := l.bits, frame := l.frame, loc := l.loc,
            peer := l.peer, ord := l.ord, x := l.x, w := l.w, r := l.r, lease := cx.desc.lease }
        let s := s.fillTlb e
        (if h == .stack h.home then s else s.fillTlb { e with holder := h }, .ok (l.locOf va) l.ord)

/-! ### UALink requests (R414 to R417) -/

/-- The bytes that a request answers with. -/
def OutKind.size : OutKind → Nat
  | .read n => n
  | .write _ _ => 0
  | .atomic _ n _ _ _ => n

/-- The bytes that a request may change. -/
def OutKind.bytes : OutKind → Nat
  | .read _ => 0
  | .write bs _ => bs.length
  | .atomic _ n _ _ _ => n

def OutKind.isWrite : OutKind → Bool
  | .write _ _ => true
  | _ => false

/-- R417: what a timeout or an error does: a read or atomic answers zero with poison, a write is abandoned and sets DP. -/
def State.peerFail (s : State) (gid tag : Nat) (k : OutKind) : State :=
  if k.isWrite then s.mapGrp gid (fun g => g.setChk chkDP)
  else { s with replies := s.replies ++ [{ tag := tag, poison := true, bytes := List.replicate k.size 0 }] }

/-- Bytes of a peer's memory are known to stand there (log 15). -/
def noteBytes (id a : Nat) (bs : List Byte) (t : List (Nat × Nat × Byte)) : List (Nat × Nat × Byte) :=
  bs.mapIdx (fun k b => (id, a + k, b)) ++ t.filter (fun x => !(x.1 == id && a ≤ x.2.1 && x.2.1 < a + bs.length))

/-- A write has followed a request: its response does not say what stands at the write's bytes. -/
def OutReq.outdate (peer addr n : Nat) (r : OutReq) : OutReq :=
  if n != 0 && r.peer == peer && addr < r.addr + max r.kind.size r.kind.bytes && r.addr < addr + n then
    { r with stale := (addr, n) :: r.stale }
  else r

/-- The bytes at an address that lie in none of the ranges `stale`, each with its address. -/
def freshBytes (stale : List (Nat × Nat)) (a : Nat) (bs : List Byte) : List (Nat × Byte) :=
  (bs.mapIdx (fun k b => (a + k, b))).filter (fun x => !stale.any (fun r => r.1 ≤ x.1 && x.1 < r.1 + r.2))

/-- Single bytes of a peer's memory are known to stand there. -/
def noteEach (id : Nat) (xs : List (Nat × Byte)) (t : List (Nat × Nat × Byte)) : List (Nat × Nat × Byte) :=
  xs.foldl (fun t x => noteBytes id x.1 [x.2] t) t

/-- A launch's number in the requests of its groups. -/
def State.lidOf (s : State) (gid : Nat) : Option Nat := (s.grp? gid).map Group.lid

/-- The chunk whose job a group runs (R347). -/
def State.chunkOf (s : State) (gid : Nat) : Option (Nat × Nat) :=
  ((s.grp? gid).filter (fun g => !g.idle)).map (fun g => (g.unit, g.chunk))

/-- The slots of a port that are in use: requests outstanding, and those that bursts in progress have still to send (R416). -/
def State.portLoad (s : State) (k : Nat) : Nat :=
  (s.outReqs.filter (fun r => r.port == k)).length +
  ((s.groups.flatMap (fun g => g.eq.toList.flatMap (fun q => q.flatMap (fun c => (c.hold.map BurstHold.owed).getD [])))).filter
    (fun p => s.route p == some k && !s.peerDown p)).length

/-- An agent that found its port full at its latest try waits for it still: a stalled slice that may issue, an unsent fill of its
queues, or a copy at a burst boundary with an engine, which may begin its burst (R118, R379, R388, R416). -/
def State.portWaits (s : State) (w : Nat × Nat) : Bool :=
  match s.grp? w.1 with
  | none => false
  | some g =>
    (g.status == .running || g.status == .stopping) &&
    (match w.2 with
     | 0 => g.mayIssue .a && g.a.stall.isSome
     | 1 => g.mayIssue .c && g.c.stall.isSome
     | 4 => g.mayBegin && (g.queue .cpl).head?.any (fun c => c.eng.isSome && c.hold.isNone)
     | 5 => g.mayBegin && (g.queue .cps).head?.any (fun c => c.eng.isSome && c.hold.isNone)
     | 8 => g.qs.toList.any (fun q => q.ents.any (fun e => match e with | .pending _ _ _ _ none [] => true | _ => false))
     | _ => false)

/-- R351: the rank of an agent at a port: priority, then places from the pointer to its leading row controller, then its source
code. A lower rank goes first; the device's own agents, which have no row controller, keep none waiting (log 48). -/
def State.portRank (s : State) (k : Nat) (w : Nat × Nat) : Nat × Nat × Nat :=
  match s.grp? w.1 with
  | some g => (7 - g.prio, (g.ctl + 256 - (s.port k).ptr) % 256, w.2 % 8)
  | none => (8, 0, w.2)

/-- `x` ranks before `y`. -/
def ranksBefore (x y : Nat × Nat × Nat) : Bool :=
  x.1 < y.1 || (x.1 == y.1 && (x.2.1 < y.2.1 || (x.2.1 == y.2.1 && x.2.2 < y.2.2)))

/-- The agents that wait for a port, but one and those of groups that are gone. -/
def State.waitersBut (s : State) (p : Port) (w : Nat × Nat) : List (Nat × Nat) := p.waiting.filter (fun x => x != w && (s.grp? x.1).isSome)

/-- An agent of a group waits for a slot of port `k`. -/
def State.waitPort (s : State) (k : Nat) (w : Nat × Nat) : State :=
  let p := s.port k
  s.setPort k { p with waiting := s.waitersBut p w ++ (if (s.grp? w.1).isSome then [w] else []) }

/-- An agent has a slot of port `k`, whose pointer moves past it (R351). -/
def State.leavePort (s : State) (k : Nat) (w : Nat × Nat) : State :=
  let p := s.port k
  s.setPort k
    { p with
      waiting := s.waitersBut p w
      ptr := match s.grp? w.1 with | some g => (g.ctl + 1) % 256 | none => p.ptr }

/-- An agent tries again, or wants no slot any more: it waits for no port. -/
def State.unwait (s : State) (w : Nat × Nat) : State :=
  { s with ports := s.ports.map (fun p => { p with waiting := s.waitersBut p w }) }

/-- R351, R416: `n` slots of port `k` are free for an agent, and no other that waits for the port ranks before it. -/
def State.portFree (s : State) (k n : Nat) (w : Nat × Nat) : Bool :=
  s.portLoad k + n ≤ 512 &&
  !(s.port k).waiting.any (fun x => x != w && s.portWaits x && ranksBefore (s.portRank k x) (s.portRank k w))

/-- A request enters a port. -/
def State.postPeer (s : State) (k gid src : Nat) (a : PeerAsk) : State :=
  let s := s.leavePort k (gid, src)
  { s with
    nextTag := s.nextTag + 1
    outReqs := s.outReqs ++
      [{ tag := s.nextTag, port := k, peer := a.peer, addr := a.addr, kind := a.kind, gid := gid, src := src % 8,
         lid := s.lidOf gid, chunk := s.chunkOf gid, ctx := (s.grp? gid).map Group.ctx,
         home := ((s.grp? gid).map Group.stack0).getD 0, ord := a.ord, stale := [] }] }

/-- A write falls into the one access of another agent to a table on a peer's page: it waits for it (R312). -/
def State.tableBusy (s : State) (gid src : Nat) (a : PeerAsk) : Bool :=
  a.kind.bytes != 0 &&
  s.groups.any (fun h => [Slice.a, Slice.c].any (fun sl =>
    !(h.gid == gid && sl.src == src) &&
    (h.stream sl).reads.any (fun r => shareBytes r.loc r.n (.peer a.peer a.addr) a.kind.bytes)))

/-- Sends one request and answers its tag, unless R415 (an SO access waits for the earlier ones of its agent), an access to a table
(R312) or a full port (R416) holds it; `slot` says that the agent has a slot for it already. Agent 8 of a group is the fills of its
A-slice's queues. -/
def State.sendWith (s : State) (slot : Bool) (gid src : Nat) (a : PeerAsk) : State × Option Nat :=
  let behind := a.ord == 0 && s.outReqs.any (fun r => r.gid == gid && r.src == src % 8 && r.ord == 0)
  if behind || s.tableBusy gid src a then (s, none)
  else
    match s.route a.peer, s.peerDown a.peer with
    | some k, false =>
      let free := if slot then decide ((s.outReqs.filter (fun r => r.port == k)).length < 512) else s.portFree k 1 (gid, src)
      if free then (s.postPeer k gid src a, some s.nextTag) else (s.waitPort k (gid, src), none)
    | _, _ => ((({ s with nextTag := s.nextTag + 1 }).count gid 16 1).peerFail gid s.nextTag a.kind, some s.nextTag)

/-- A request for which the agent has no slot yet. -/
def State.sendPeer (s : State) (gid src : Nat) (a : PeerAsk) : State × Option Nat := s.sendWith false gid src a

/-- Sends requests in order until one is held. -/
def State.sendSome (s : State) (slot : Bool) (gid src : Nat) (sent : List Nat) : List PeerAsk → State × List Nat
  | [] => (s, sent)
  | a :: rest =>
    match s.sendWith slot gid src a with
    | (s, none) => (s, sent)
    | (s, some tag) => s.sendSome slot gid src (sent ++ [tag]) rest

/-- The requests that a stream waits for. -/
def Stream.tags (st : Stream) : List Nat := st.reqs ++ st.fetches.flatMap LineFetch.reqs ++ st.reads.map TableRead.tag

/-- The requests of pending `lq` fills (R111). -/
def Group.fillTags (g : Group) : List Nat :=
  g.qs.toList.flatMap (fun q => q.ents.flatMap (fun e => match e with | .pending _ _ _ _ _ reqs => reqs | _ => []))

/-- The requests whose answers the group's parts wait for. -/
def Group.tags (g : Group) : List Nat :=
  g.a.tags ++ g.c.tags ++ g.fillTags ++ g.eq.toList.flatMap (fun q => q.flatMap Cmd.reqs)

/-- Answers that nobody waits for any more are discarded: those of fetches given up, of discarded fills and of ended groups. -/
def State.dropOrphans (s : State) : State :=
  let live := s.groups.flatMap Group.tags ++ s.devReqs.map DevReq.tag
  { s with replies := s.replies.filter (fun r => live.contains r.tag) }

/-- The reads of tables that `n` bytes at a peer's address fall into are given up, to be made again: no write falls within the access
to a row (R312). An instruction past its checks has made its access. -/
def Stream.rereadTables (id a n : Nat) (st : Stream) : Stream :=
  if st.midway then st else { st with reads := st.reads.filter (fun r => !shareBytes r.loc r.n (.peer id a) n) }

/-- A peer has written bytes of its own memory, in which code may lie (R383). -/
def State.peerStore (s : State) (peer addr : Nat) (bs : List Byte) : State :=
  let s := s.logWrite (.peer peer addr) bs.length
  State.dropOrphans
    { s with
      peerTab := noteBytes peer addr bs s.peerTab
      outReqs := s.outReqs.map (OutReq.outdate peer addr bs.length)
      groups := s.groups.map (fun g =>
        { g with a := g.a.rereadTables peer addr bs.length, c := g.c.rereadTables peer addr bs.length }) }

def State.replyOf (s : State) (tag : Nat) : Option OutReply := s.replies.find? (fun r => r.tag == tag)

/-- The answers to requests, in order; a write needs none. -/
def State.answers (s : State) : List Nat → List PeerAsk → Option (List (List Byte × Bool))
  | tag :: tags, a :: rest =>
    match s.answers tags rest with
    | none => none
    | some l =>
      if a.kind.isWrite then some (([], false) :: l)
      else
        match s.replyOf tag with
        | some r => some ((r.bytes, r.poison) :: l)
        | none => none
  | [], [] => some []
  | _, _ => none

/-- One exchange with peers: `held` are the tags already sent for it. Answers once every request is sent and answered;
otherwise the tags to hold. -/
def State.exchange (s : State) (gid src : Nat) (held : List Nat) (asks : List PeerAsk) :
    State × List Nat × Option (List (List Byte × Bool)) :=
  let (s, held) := s.sendSome false gid src held (asks.drop held.length)
  match s.answers held asks with
  | some l => ({ s with replies := s.replies.filter (fun r => !held.contains r.tag) }, [], some l)
  | none => (s, held, none)

/-- The loads of the A-slice's queues that were issued before place `upTo` and are still to be made: place, length and the page's
ORD, as translated, and whether they have sent a request. -/
def State.lqsAhead (s : State) (gid : Nat) (upTo : Option Nat) : List (MemLoc × Nat × Nat × Bool) :=
  match s.grp? gid with
  | none => []
  | some g =>
    match s.ctx? g.ctx with
    | none => []
    | some cx =>
      (g.qs.toList.take 4).flatMap (fun q => q.ents.filterMap (fun e =>
        match e with
        | .pending _ z a seq part reqs =>
          if upTo.any (fun k => k ≤ seq) then none
          else
            match part with
            | some p => some (p.loc, 2 ^ z, p.ord, !reqs.isEmpty)
            | none =>
              match (s.translate (.ctl g.ctl) { g.viewer .a with upTo := some seq } cx a.toNat needR).2 with
              | .ok l ord => some (l, 2 ^ z, ord, false)
              | _ => none
        | _ => none))

/-- A load of the A-slice's queues, issued before place `upTo`, that reads an SO page of a peer and has sent no request yet. -/
def State.soUnsent (s : State) (gid : Nat) (upTo : Option Nat) : Bool :=
  (s.lqsAhead gid upTo).any (fun x => (match x.1 with | .peer _ _ => true | _ => false) && x.2.2.1 == 0 && !x.2.2.2)

/-- R250, R255: an access of the A-slice waits while a load of its queues, issued before it, is still to be made at its
bytes: what that load reads is no newer than what the access reads or writes. -/
def State.lqOverlaps (s : State) (gid : Nat) (upTo : Option Nat) (ps : List Part) : Bool :=
  (s.lqsAhead gid upTo).any (fun x => ps.any (fun p => shareBytes x.1 x.2.1 p.loc p.n))

/-- R252, R415: an SO access of an agent, at place `upTo` of the slice's order, waits for the responses to its earlier SO accesses
to peers. -/
def State.soQuiet (s : State) (gid src : Nat) (upTo : Option Nat) : Bool :=
  !s.outReqs.any (fun r => r.gid == gid && r.src == src % 8 && r.ord == 0) && !(src % 8 == 0 && s.soUnsent gid upTo)

/-- R237, R250: a write that an agent has sent to bytes of the parts, all but those that its controller's copies give, is not answered:
what it reads there next comes after the answer. -/
def State.ownOut (s : State) (gid src : Nat) (ps : List Part) : Bool :=
  s.outReqs.any (fun r =>
    r.gid == gid && r.src == src % 8 && r.kind.bytes != 0 &&
    ps.any (fun p => p.got.isNone && shareBytes (.peer r.peer r.addr) r.kind.bytes p.loc p.n))

/-- R415: a release and a fence of system scope wait for the responses to every earlier request of the agent. -/
def State.peerQuiet (s : State) (gid src : Nat) : Bool := !s.outReqs.any (fun r => r.gid == gid && r.src == src)

/-! ### Reading through translated parts -/

/-- Splits `n` bytes at `a` into pieces that lie within aligned blocks of 256 bytes (R414). -/
def split256 : (fuel a n : Nat) → List (Nat × Nat)
  | 0, _, _ => []
  | fuel + 1, a, n =>
    if n == 0 then []
    else
      let k := min n (256 - a % 256)
      (a, k) :: split256 fuel (a + k) (n - k)

/-- The 64-byte lines that `n` bytes at `a` touch. -/
def linesOf (a n : Nat) : List Nat := (List.range ((a + n - 1) / 64 - a / 64 + 1)).map (fun k => 64 * (a / 64 + k))

/-- The requests that reading a part needs: for a UO page whole lines, none when the controller's copies have given its bytes (R230). -/
def readAsks (p : Part) : List PeerAsk :=
  match p.loc with
  | .peer id a =>
    if p.got.isSome then []
    else if p.ord == 2 then (linesOf a p.n).map (fun l => { peer := id, addr := l, ord := p.ord, kind := .read 64 })
    else (split256 (p.n + 1) a p.n).map (fun x => { peer := id, addr := x.1, ord := p.ord, kind := .read x.2 })
  | _ => []

/-- A controller's scalar data cache holds 1,024 lines (R23, R228): it keeps the newest (log 42). -/
def capLines (ctl : Nat) : Nat → List PeerLine → List PeerLine
  | _, [] => []
  | n, l :: rest =>
    if l.ctl == ctl then (match n with | 0 => capLines ctl 0 rest | n + 1 => l :: capLines ctl n rest)
    else l :: capLines ctl n rest

/-- The lines that a controller reads for a context come into its scalar data cache, those without poison; of one whose answer is
poisoned no older copy stays (R250). -/
def addLines (ctl ctx peer : Nat) : List Nat → List (List Byte × Bool) → List PeerLine → List PeerLine
  | a :: as, (b, pz) :: rest, ls =>
    let others := (addLines ctl ctx peer as rest ls).filter (fun l => !(l.ctl == ctl && l.ctx == ctx && l.peer == peer && l.addr == a))
    if pz then others
    else capLines ctl 1024 ({ ctl := ctl, ctx := ctx, peer := peer, addr := a, bytes := b } :: others)
  | _, _, ls => ls

/-- The lines that a poisoned store to `n` bytes at `a` poisons: those of its 256-byte sectors (R233). -/
def inSectors (a n line : Nat) : Bool := a / 256 ≤ line / 256 && line / 256 ≤ (a + n - 1) / 256

/-- R228, R233: a store of the controller updates the copies of the lines it touches that its context reads (R35); a poisoned one
poisons those of its sectors. -/
def patchLines (ctl ctx peer a : Nat) (bs : List Byte) (pz : Bool) (ls : List PeerLine) : List PeerLine :=
  ls.map (fun l =>
    if l.ctl == ctl && l.ctx == ctx && l.peer == peer then
      { l with
        bytes := l.bytes.mapIdx (fun k b => if a ≤ l.addr + k then bs.getD (l.addr + k - a) b else b)
        bad := l.bad || (pz && inSectors a bs.length l.addr) }
    else l)

/-- A read of UO peer memory that takes in a line which `hit` names brings no copy of it (R230). -/
def Part.unkeep (p : Part) (hit : Nat → Nat → Bool) : Part :=
  match p.loc with
  | .peer id a => if p.ord == 2 && (linesOf a p.n).any (hit id) then { p with keep := false } else p
  | _ => p

/-- The reads that a stream has out. -/
def Stream.unkeep (st : Stream) (hit : Nat → Nat → Bool) : Stream := { st with parts := st.parts.map (fun p => p.unkeep hit) }

/-- The reads that a group has out. -/
def Group.unkeep (g : Group) (hit : Nat → Nat → Bool) : Group :=
  { g with
    a := g.a.unkeep hit
    c := g.c.unkeep hit
    qs := g.qs.map (fun q => { q with ents := q.ents.map (fun e =>
      match e with
      | .pending nf z a seq part reqs => .pending nf z a seq (part.map (fun p => p.unkeep hit)) reqs
      | e => e) }) }

/-- Reads that are out bring no copy of the lines named to the controllers named: they may answer with what the line held before
(R230, R250). -/
def State.unkeep (s : State) (ctl : Nat → Bool) (hit : Nat → Nat → Bool) : State :=
  { s with groups := s.groups.map (fun g => if ctl g.ctl then g.unkeep hit else g) }

/-- The controllers named hold no copy of the lines named, and none that was read before comes to them (R230, R246). -/
def State.dropLines (s : State) (ctl : Nat → Bool) (hit : Nat → Nat → Bool) : State :=
  { s.unkeep ctl hit with peerLines := s.peerLines.filter (fun l => !(ctl l.ctl && hit l.peer l.addr)) }

/-- The lines of `n` bytes at a peer's address. -/
def touches (id a n peer line : Nat) : Bool := peer == id && (linesOf a n).contains line

/-- A controller has accessed `n` bytes of a peer's memory otherwise than through a UO page: no copy of it there is older (R250). -/
def State.dropOwn (s : State) (ctl : Nat) (l : MemLoc) (n : Nat) : State :=
  match l with
  | .peer id a => s.dropLines (fun k => k == ctl) (touches id a n)
  | _ => s

/-- The copies of lines that a controller holds for a context: no other reads them (R35). -/
def State.linesFor (s : State) (ctl ctx : Nat) : List PeerLine := s.peerLines.filter (fun l => l.ctl == ctl && l.ctx == ctx)

/-- A byte of peer memory as an agent of the device reads it: one of a checkpoint slot may be masked (R322). -/
def State.peerByte (s : State) (v : Viewer) (l : MemLoc) (b : Byte) : Byte := if s.masked v.bind l then 0 else b

/-- What a read of a line's copies says: its bytes, and whether one is poisoned. -/
def lineBytes (id a n : Nat) (ls : List PeerLine) : List Byte × Bool :=
  let line (x : Nat) : Option PeerLine := ls.find? (fun l => l.peer == id && l.addr == x)
  ((List.range n).map (fun k =>
     match line ((a + k) / 64 * 64) with
     | some l => l.bytes.getD ((a + k) % 64) 0
     | none => 0),
   (linesOf a n).any (fun x => match line x with | some l => l.bad | none => true))

/-- A write of the group's slices to a line of a part is out: the line may be read as it was before. -/
def State.writeAhead (s : State) (g : Group) (p : Part) : Bool :=
  match p.loc with
  | .peer id a =>
    s.outReqs.any (fun r =>
      r.gid == g.gid && r.src < 2 && r.kind.bytes != 0 && r.peer == id &&
      (linesOf r.addr r.kind.bytes).any (fun x => (linesOf a p.n).contains x))
  | _ => false

/-- An access begins: a part on a UO page whose lines the controller all holds is read from them (R230). Any other brings no copy of a
line which a write of the controller is out to (R250). -/
def State.takeHit (s : State) (g : Group) (p : Part) : Part :=
  match p.loc with
  | .peer id a =>
    let ls := s.linesFor g.ctl g.ctx
    if p.ord == 2 && (linesOf a p.n).all (fun x => ls.any (fun l => l.peer == id && l.addr == x)) then
      { p with got := some (lineBytes id a p.n ls) }
    else { p with keep := p.keep && !s.writeAhead g p }
  | _ => p

/-- The context of a viewer's group. -/
def State.ctxOf (s : State) (v : Viewer) : Nat := ((v.gid.bind s.grp?).map Group.ctx).getD 0

/-- The bytes of a part, its answers at the head of `data`. What a controller reads of a line leaves no older copy of it: a UO read
brings the lines into its cache, unless another access has come between; any other read of peer memory removes them (R230, R250).
A slice's read by an SO page comes after its own earlier stores to the bytes, whatever page they used (R255); a fetch is no such read. -/
def State.partBytes (s : State) (v : Viewer) (ctl : Nat) (p : Part) (asks : Nat) (data : List (List Byte × Bool)) :
    State × List Byte × Bool :=
  match p.loc with
  | .peer id a =>
    let mine := data.take asks
    let byte (k : Nat) (b : Byte) : Byte := s.peerByte v (p.loc.shift k) b
    match p.got with
    | some (b, bad) => (s, b.mapIdx byte, bad)
    | none =>
      if p.ord == 2 then
        let c := s.ctxOf v
        let (b, bad) := lineBytes id a p.n (addLines ctl c id (linesOf a p.n) mine [])
        let t :=
          if p.keep then
            { s.unkeep (fun k => k == ctl) (touches id a p.n) with peerLines := addLines ctl c id (linesOf a p.n) mine s.peerLines }
          else s.dropOwn ctl p.loc p.n
        (t, b.mapIdx byte, bad || mine.any Prod.snd)
      else (s.dropOwn ctl p.loc p.n, ((mine.map Prod.fst).flatten).mapIdx byte, mine.any Prod.snd)
  | l =>
    let s := if p.ord == 0 && v.sl.isSome then s.drainOverlap v true l p.n else s
    let (b, pz) := s.viewRead v l p.n
    (s, b, pz)

def State.partsBytes (s : State) (v : Viewer) (ctl : Nat) : List (Part × Nat) → List (List Byte × Bool) → State × List Byte × Bool
  | [], _ => (s, [], false)
  | (p, k) :: rest, data =>
    let (s, b, pz) := s.partBytes v ctl p k data
    let (s, bs, pzs) := s.partsBytes v ctl rest (data.drop k)
    (s, b ++ bs, pz || pzs)

/-- Reads the parts of an access as agent `src` of a group; the tags to hold when an answer is outstanding. It begins when the
earlier accesses that it must follow are made (R250, R252), and peers have answered the slice's own earlier stores to its bytes
(R237). -/
def State.readParts (s : State) (gid src ctl : Nat) (v : Viewer) (held : List Nat) (parts : List Part) :
    State × List Nat × Option (List Byte × Bool) :=
  let asks := parts.map readAsks
  let behind :=
    (parts.any (fun p => p.ord == 0) && !s.soQuiet gid src v.upTo) || (v.sl == some .a && s.lqOverlaps gid v.upTo parts) ||
    (v.sl.isSome && s.ownOut gid src parts)
  if held.isEmpty && behind then (s, [], none) else
  match s.exchange gid src held asks.flatten with
  | (s, held, none) => (s, held, none)
  | (s, held, some data) =>
    let (s, b, pz) := s.partsBytes v ctl (parts.zip (asks.map List.length)) data
    (s, held, some (b, pz))

/-- R232: the pieces of an access, one per 64 KiB page. -/
def pageSplit (a n : Nat) : List (Nat × Nat) :=
  let k := 65536 - a % 65536
  if n ≤ k then [(a, n)] else [(a, k), ((a + k) % 2 ^ 64, n - k)]

/-- The fault of a translated piece by R236 checks 4 to 6: `uo` says that a UO page permits the access. -/
def pieceFault (uo : Bool) (va : Nat) : XRes → Option TrapInfo
  | .fault f => some { cause := f.cause, reason := f.reason, level := f.level, addr := va }
  | .ok _ ord => if ord == 3 || (ord == 2 && !uo) then some { cause := 0x0A, addr := va } else none
  | .poison _ => none

/-- R232: of two failing pieces, the one with the lowest-ordered check, then the lower address. -/
def worst (x y : Option TrapInfo) : Option TrapInfo :=
  match x, y with
  | none, y => y
  | x, none => x
  | some t, some u => if t.cause < u.cause || (t.cause == u.cause && t.addr ≤ u.addr) then some t else some u

/-- An access that has several pieces uses no entry that its caches hold, dropped as R373 lets them at any time: what it finds of a page,
it finds by walks of this moment, so that no page is in its old and its new state at once (R377). -/
def State.walkAnew (s : State) (h : TlbHolder) (c : Nat) (vas : List Nat) : State :=
  if vas.length ≤ 1 then s
  else
    { s with tlb := s.tlb.filter (fun e =>
        !((e.holder == h || e.holder == .stack h.home) && e.ctx == c && vas.any (fun va => e.base ≤ va && va < e.base + 2 ^ e.bits))) }

/-- Translates every piece; a poisoned table entry is reported with its piece. -/
def State.translatePieces (s : State) (h : TlbHolder) (v : Viewer) (cx : Context) (need : Need) :
    List (Nat × Nat) → State × List (Nat × Nat × XRes)
  | [] => (s, [])
  | (va, n) :: rest =>
    let (s, r) := s.translate h v cx va need
    let (s, rs) := s.translatePieces h v cx need rest
    (s, (va, n, r) :: rs)

/-- The pieces of one access, translated together. -/
def State.translateAll (s : State) (h : TlbHolder) (v : Viewer) (cx : Context) (need : Need) (l : List (Nat × Nat)) :
    State × List (Nat × Nat × XRes) :=
  (s.walkAnew h cx.num (l.map Prod.fst)).translatePieces h v cx need l

/-- Checks 3 to 6 of R236 for `n` bytes at `a`, with the parts of the access. An access that has sent a request, or that of a `launch` past its checks, goes on with
the parts as they were translated then (R374, R377). A poisoned table entry of either piece loses the context, whatever the
other piece does (log 44). -/
def State.access (s : State) (gid : Nat) (sl : Slice) (a n : Nat) (need : Need) (aligned uo : Bool) : Got (List Part) :=
  match s.grp? gid with
  | none => .lost s
  | some g =>
    match s.ctx? g.ctx with
    | none => .lost s
    | some cx =>
      if !(g.stream sl).reqs.isEmpty || (g.stream sl).past then .ok s (g.stream sl).parts
      else if aligned && a % n != 0 then .trap s { cause := 0x0B, addr := a }
      else
        let (s, rs) := s.translateAll (.ctl g.ctl) (g.viewer sl) cx need (pageSplit a n)
        match rs.findSome? (fun x => match x.2.2 with | .poison l => some (x.1, l) | _ => none) with
        | some (va, l) => .lost (s.loseContext g.ctx { reason := 4, src := sl.src, gid := some gid, place := some l, va := va })
        | none =>
          match rs.foldl (fun w x => worst w (pieceFault uo x.1 x.2.2)) none with
          | some t => .trap s t
          | none =>
            .ok s (rs.filterMap (fun x => match x.2.2 with
              | .ok l ord => some { va := x.1, n := x.2.1, loc := l, ord := ord }
              | _ => none))

/-! ### Fetch, scan and transfer (R37 to R44) -/

/-- A line as eight words. -/
def lineWords (bs : List Byte) : List (BitVec 32) :=
  (List.range 8).map (fun k => BitVec.ofNat 32 (leNat ((bs.drop (4 * k)).take 4)))

def lineKind (ws : List (BitVec 32)) : Nat := (ws.getD 0 0).toNat % 16
def laneTag (ws : List (BitVec 32)) (k : Nat) : Nat := natBits (ws.getD 0 0).toNat (4 * k + 3) (4 * k)

/-- R40: a line that may be examined: a data line, or a well-formed code line. -/
def lineOk (ws : List (BitVec 32)) : Bool :=
  let starts (k : Nat) : Bool := (laneTag ws k == 1 || laneTag ws k == 2) && isLong (ws.getD k 0)
  match lineKind ws with
  | 0 =>
    (List.range 7).all (fun j =>
      let k := j + 1
      laneTag ws k ≤ 3 && (!starts k || (k ≤ 6 && laneTag ws (k + 1) == 3)) &&
      (laneTag ws k != 3 || (2 ≤ k && starts (k - 1))))
  | 1 => true
  | _ => false

/-- A line that a slice fetches is kept in the controller's instruction cache, of 2,048 lines (R23), for the other slice too where
that has executed no `ifence` since the line was asked for (R44). -/
def State.holdLine (s : State) (gid : Nat) (sl : Slice) (l : MemLoc) (ws : List (BitVec 32)) (both : Bool) : State :=
  s.mapGrp gid (fun g =>
    let same (m : CodeLine) : Bool := m.loc == l && m.words == ws
    let other := both || g.icache.any (fun m => same m && (match sl with | .a => m.forC | .c => m.forA))
    let new : CodeLine := { loc := l, words := ws, forA := sl == .a || other, forC := sl == .c || other }
    { g with icache := (new :: g.icache.filter (fun m => !same m)).take 2048 })

/-- The copies of the line at a place that a slice may still find: fetched since its latest `ifence` by either slice. -/
def Group.codeCopies (g : Group) (sl : Slice) (l : MemLoc) : List (List (BitVec 32)) :=
  (g.icache.filter (fun m => m.loc == l && (match sl with | .a => m.forA | .c => m.forC))).map CodeLine.words

/-- R44: which copy a fetch finds: none for memory as it stands, else one fetched earlier (log 3). -/
def staleCopy (now : Nat) (old : List (List (BitVec 32))) : Option (List (BitVec 32)) :=
  if old.isEmpty || Config.staleLine now == 0 then none else old[(Config.staleLine now - 1) % old.length]?

/-- What the scan or transfer at the PC has under way of a line. -/
def Stream.fetchOf (st : Stream) (va : Nat) : Option LineFetch := st.fetches.find? (fun f => f.part.va == va)

def Stream.noteFetch (st : Stream) (f : LineFetch) : Stream :=
  { st with fetches := f :: st.fetches.filter (fun x => x.part.va != f.part.va) }

/-- A fetch of the line at a part from memory: from a peer with one request, never from a scalar data cache (R230). The words of a
peer's line stay with the scan or transfer that asked for them, which is made again while others of its lines are on the way. -/
def State.fetchAt (s : State) (gid : Nat) (sl : Slice) (g : Group) (p : Part) (held : List Nat) (both : Bool) :
    Got (List (BitVec 32)) :=
  let v : Viewer := { gid := some gid, sl := none, upTo := none, bind := g.bind }
  let keep (s : State) (reqs : List Nat) (ws : Option (List (BitVec 32))) : State :=
    match p.loc with
    | .peer _ _ => s.mapStream gid sl (fun st => st.noteFetch { part := p, reqs := reqs, words := ws, both := both })
    | _ => s
  match s.readParts gid sl.src g.ctl v held [{ p with ord := if p.ord == 2 then 1 else p.ord }] with
  | (s, tags, none) => .wait (if tags.isEmpty then s else keep s tags none)
  | (s, _, some (b, pz)) =>
    let fresh := lineWords b
    let old := match p.loc with | .peer _ _ => [] | l => (g.codeCopies sl l).filter (fun ws => pz || ws != fresh)
    match staleCopy s.now old with
    | some ws => .ok s ws
    | none =>
      if pz then .lost (s.loseContext g.ctx { reason := 1, src := sl.src, gid := some gid, place := some p.loc, va := p.va })
      else .ok ((keep s [] (some fresh)).holdLine gid sl p.loc fresh both) fresh

/-- The line is translated (R43, R371) and read, unless the scan or transfer at the PC has asked a peer for it before. -/
def State.fetchMiss (s : State) (gid : Nat) (sl : Slice) (g : Group) (cx : Context) (va : Nat) : Got (List (BitVec 32)) :=
  match (g.stream sl).fetchOf va with
  | some { words := some ws, .. } => .ok s ws
  | some f => s.fetchAt gid sl g f.part f.reqs f.both
  | none =>
    match s.translate (.ctl g.ctl) (g.viewer sl) cx va needX with
    | (s, .poison l) => .lost (s.loseContext g.ctx { reason := 4, src := sl.src, gid := some gid, place := some l, va := va })
    | (s, .fault f) => .trap s { cause := f.cause, reason := f.reason, level := f.level, addr := va }
    | (s, .ok l ord) =>
      let p : Part := { va := va, n := 32, loc := l, ord := ord }
      if ord == 3 then .trap s { cause := 0x0A, addr := va }
      else
        match l with
        | .peer _ _ =>
          (match staleCopy s.now (g.codeCopies sl l) with
           | some ws => .ok (s.mapStream gid sl (fun st => st.noteFetch { part := p, reqs := [], words := some ws, both := true })) ws
           | none => s.fetchAt gid sl g p [] true)
        | _ => s.fetchAt gid sl g p [] true

/-- A fetch of the line at `va` from memory or the instruction cache. A copy fetched before may be found again until the slice's
`ifence`, whatever memory holds by then, poison included (log 3). -/
def State.fetchNew (s : State) (gid : Nat) (sl : Slice) (va : Nat) : Got (List (BitVec 32)) :=
  match s.grp? gid with
  | none => .lost s
  | some g =>
    match s.ctx? g.ctx with
    | none => .lost s
    | some cx => s.fetchMiss gid sl g cx va

/-- R44: a stream's fetch of the line at `va`. While the stream makes its pass of a line it uses one copy of it. -/
def State.fetchLine (s : State) (gid : Nat) (sl : Slice) (va : Nat) : Got (List (BitVec 32)) :=
  match ((s.grp? gid).bind (fun g => (g.stream sl).pass)).filter (fun m => m.va == va) with
  | some m => .ok s m.words
  | none => s.fetchNew gid sl va

/-- R42: the first lane of a line, from `lane` on, that is tagged for the stream. -/
def laneFrom (sl : Slice) (ws : List (BitVec 32)) (lane : Nat) : Option Nat :=
  if lineKind ws == 0 then (List.range 8).find? (fun k => lane ≤ k && 1 ≤ k && laneTag ws k == sl.tag) else none

/-- R42: the scan from a lane of the line at `va`; `fuel` lines may follow. The address it stops at. -/
def State.scan (s : State) (gid : Nat) (sl : Slice) : (fuel va lane : Nat) → Got Word
  | fuel, va, lane =>
    match s.fetchLine gid sl va with
    | .trap s t => .trap s t
    | .lost s => .lost s
    | .wait s => .wait s
    | .ok s ws =>
      if !lineOk ws then .trap s { cause := 0x02, addr := va }
      else
        match laneFrom sl ws lane with
        | some k => .ok s (BitVec.ofNat 64 (va + 4 * k))
        | none =>
          match fuel with
          | 0 => .trap s { cause := 0x03, addr := va }
          | fuel + 1 => s.scan gid sl fuel ((va + 32) % 2 ^ 64) 1

/-- The instruction at `pc` has two words: as the stream executed it where it stands at `pc`, else as the line's word says. -/
def Stream.wideAt (st : Stream) (pc : Word) (w : BitVec 32) : Bool := (st.wide.filter (fun _ => st.pc == pc)).getD (isLong w)

/-- R42: the scan that follows the instruction at `pc`, from the lane after it or after its continuation lane. Its length is that
of the instruction executed, or, after a resume, of the word in the copy fetched now (log 43). -/
def State.scanAfter (s : State) (gid : Nat) (sl : Slice) (pc : Word) : Got Word :=
  let va := pc.toNat / 32 * 32
  let k := pc.toNat % 32 / 4
  if k == 7 then s.scan gid sl 15 ((va + 32) % 2 ^ 64) 1
  else
    (s.fetchLine gid sl va).bind (fun s ws =>
      let long := match s.grp? gid with | some g => (g.stream sl).wideAt pc (ws.getD k 0) | none => false
      if !lineOk ws then .trap s { cause := 0x02, addr := va }
      else
        match laneFrom sl ws (if long then k + 2 else k + 1) with
        | some j => .ok s (BitVec.ofNat 64 (va + 4 * j))
        | none => s.scan gid sl 15 ((va + 32) % 2 ^ 64) 1)

/-- R43: the checks of a transfer target; `jr` adds check 1. The line at the target, which is translated and fetched for them even
where the stream's pass is of that line. -/
def State.checkTarget (s : State) (gid : Nat) (sl : Slice) (target : Word) (jr : Bool) : Got (List (BitVec 32)) :=
  let a := target.toNat
  if jr && a % 4 != 0 then .trap s { cause := 0x05, addr := a }
  else
    let va := a / 32 * 32
    (s.fetchNew gid sl va).bind (fun s ws =>
      if !lineOk ws then .trap s { cause := 0x02, addr := va }
      else
        let k := a % 32 / 4
        if lineKind ws != 0 || k == 0 || laneTag ws k != sl.tag then .trap s { cause := 0x04, addr := a }
        else .ok s ws)

/-- R48: a branch target. -/
def branchTarget (pc : Word) (n : Nat) (t : BitVec n) : Word :=
  (pc &&& ~~~31#64) + 32 * ((t.sshiftRight 3).signExtend 64) + 4 * (t.setWidth 64 &&& 7#64)

/-! ### Loops and the step after an instruction (R122 to R124) -/

def Stream.loopAt (st : Stream) (c : BitVec 2) : LoopCounter := st.lc.toList.getD c.toNat LoopCounter.reset

def Stream.setLoop (st : Stream) (c : BitVec 2) (l : LoopCounter) : Stream := { st with lc := st.lc.set c.toNat l c.isLt }

/-- R123 on the loops innermost first: the stream after it and the head to return to. A COUNT of 0, which only an edited image
gives an active loop, becomes 2^64 - 1 and the loop goes on (log 46). -/
def loopStep (a : Word) : List (BitVec 2) → Stream → Stream × Option Word
  | [], st => ({ st with nesting := [] }, none)
  | c :: rest, st =>
    let l := st.loopAt c
    if l.end_ == a then
      let n := l.count - 1
      if n != 0 then ({ st.setLoop c { l with count := n } with nesting := (c :: rest).reverse }, some l.head)
      else loopStep a rest (st.setLoop c { l with count := 0, active := false })
    else ({ st with nesting := (c :: rest).reverse }, none)

/-- R124: the loops whose range holds `pc` but not `target`, and those inner to them, are deactivated. -/
def leaveLoops (pc target : Word) : List (BitVec 2) → Stream → Stream
  | [], st => { st with nesting := [] }
  | c :: rest, st =>
    let l := st.loopAt c
    let inside (x : Word) : Bool := l.head ≤ x && x ≤ l.end_
    if inside pc && !inside target then
      let st := (c :: rest).foldl (fun st k => st.setLoop k { st.loopAt k with active := false }) st
      { st with nesting := [] }
    else
      let st := leaveLoops pc target rest st
      { st with nesting := c :: st.nesting }

/-- The stream goes on at `pc`, with a fetch of its line (R44). -/
def Stream.goTo (st : Stream) (pc : Word) : Stream :=
  { st with pc := pc, skip := false, stall := none, waiting := none, fetches := [], reads := [], wide := none, pass := none }

/-- The stream goes on at `pc` after a scan: within the line of its pass it keeps its copy (R44). -/
def Stream.stepTo (st : Stream) (pc : Word) : Stream :=
  { st.goTo pc with pass := st.pass.filter (fun m => m.va == pc.toNat / 32 * 32) }

/-- The step after an instruction that transferred no control: R123, then the scan of R42. A failing one leaves the PC
with SKIP; one that has to wait for a line leaves SKIP too and is made again at the stream's next turn. -/
def State.advance (s : State) (gid : Nat) (sl : Slice) : State :=
  match s.grp? gid with
  | none => s
  | some g =>
    let st := g.stream sl
    let (st', head) := loopStep st.pc st.nesting.reverse st
    let keep (s : State) (pc : Word) : State :=
      s.mapStream gid sl (fun x =>
        let x := { x with lc := st'.lc, nesting := st'.nesting }
        if head.isSome then x.goTo pc else x.stepTo pc)
    let go : Got Word :=
      match head with
      | some h => (s.checkTarget gid sl h false).bind (fun s _ => .ok s h)
      | none => s.scanAfter gid sl st.pc
    match go with
    | .ok s pc => keep s pc
    | .trap s t => s.trapStream gid sl t true
    | .lost s => s
    | .wait s => s.mapStream gid sl (fun x => { x with skip := true, stall := some .peer })

/-- A taken transfer of control to a checked target (R121): loops left are deactivated unless it is a `call`. -/
def State.transfer (s : State) (gid : Nat) (sl : Slice) (target : Word) (leaves : Bool) : State :=
  s.mapStream gid sl (fun st =>
    (if leaves then leaveLoops st.pc target st.nesting st else st).goTo target)

/-! ### The issuing stream -/

/-- Runs a meaning on the stream that is issuing. -/
def issue (s : State) (f : Nat → Slice → Group → Stream → Out) : Out :=
  match s.cur with
  | none => .refused .noIssuingStream
  | some (gid, sl) =>
    match s.grp? gid with
    | none => .refused .noIssuingStream
    | some g => if g.mayIssue sl then f gid sl g (g.stream sl) else .refused .noIssuingStream

/-- The stream's instruction has had its effect: the state moves on after it. -/
def State.done (s : State) (gid : Nat) (sl : Slice) : Out := .next (s.advance gid sl)

/-- An instruction that writes one register from the stream's registers (R105, R131). -/
def issueReg (d : Reg) (v : Stream → Word) (p : Stream → Bool) (s : State) : Out :=
  issue s (fun gid sl _ st => (s.setStream gid sl (st.wr d (v st) (p st))).done gid sl)

/-- A trap of the issuing instruction, before any effect. -/
def State.trapNow (s : State) (gid : Nat) (sl : Slice) (t : TrapInfo) : Out := .next (s.trapStream gid sl t false)

/-- Cause 0x01 for a decoded instruction that its slice may not issue (R63). -/
def State.illegal (s : State) (gid : Nat) (sl : Slice) (i : Instr) : Out :=
  s.trapNow gid sl { cause := 0x01, status := encodeStatus i }

end Sys2Proof.Machine
end

