-- ==== Sys2Proof/Machine/Queues.lean ====
section
/-! DEFINITION. The forward and back queues and the slip counter (R106 to R117, R127, R128). -/

namespace Sys2Proof.Machine

open Sys2Proof

/-- R106: entries of a queue by its code of R60. -/
def queueDepth (q : Nat) : Nat := if q < 4 then 32 else 8

def Group.q (g : Group) (q : Nat) : Queue := g.qs.toList.getD q Queue.reset

def Group.setQ (g : Group) (q : Nat) (x : Queue) : Group :=
  if h : q < 6 then { g with qs := g.qs.set q x } else g

/-- The slices at the two ends of a queue (R106). -/
def producer (q : Nat) : Slice := if q < 4 then .a else .c
def consumer (q : Nat) : Slice := (producer q).partner

def Group.qFull (g : Group) (q : Nat) : Bool := queueDepth q ≤ (g.q q).ents.length

/-- Allocates an entry at the tail (R107). -/
def Group.pushQ (g : Group) (q : Nat) (e : QEntry) : Group :=
  let x := g.q q
  g.setQ q { x with ents := x.ents ++ [e] }

/-- Removes the head entry. -/
def Group.popQueue (g : Group) (q : Nat) : Group :=
  let x := g.q q
  g.setQ q { head := (x.head + 1) % queueDepth q, ents := x.ents.drop 1 }

/-- The value and poison of the head entry (R116, R117, R127), with what an absent, pending or fault entry does. A fault marker
that an edited image puts into bq0 or bq1 traps as one of a forward queue does (log 49). -/
def State.headValue (s : State) (g : Group) (sl : Slice) (q : Nat) : Got (Word × Bool) :=
  match (g.q q).ents with
  | [] => if (g.stream sl.partner).joined then .trap s { cause := 0x11 } else .wait s
  | .pending .. :: _ => .wait s
  | .data v :: _ => .ok s (v, false)
  | .poison .. :: _ => .ok s (0, true)
  | .fault c n a :: _ =>
    .trap s { cause := 0x10, addr := a.toNat, status := BitVec.ofNat 64 (c + 64 * n), qsel := q, slot := (g.q q).head }

/-- Room at the tail for the producer (R107, R117). -/
def State.room (s : State) (g : Group) (sl : Slice) (q : Nat) : Got Unit :=
  if g.qFull q then (if (g.stream sl.partner).joined then .trap s { cause := 0x12 } else .wait s) else .ok s ()

/-- `push` (R127). -/
def execPush (q : BitVec 3) (a : Reg) (s : State) : Out :=
  issue s (fun gid sl g st =>
    if sl != producer q.toNat then s.illegal gid sl (.push q a)
    else
      (s.room g sl q.toNat).finish gid sl .queueFull (fun s _ =>
        (s.mapGrp gid (fun g => g.pushQ q.toNat (if st.rp a then .poison 0 0 0 else .data (st.rd a)))).done gid sl))

/-- `pop` and `peek` (R127): a marker sets P and DP; on a back queue the event of R113 is counted. -/
def takeHead (i : Instr) (q : BitVec 3) (d : Reg) (remove : Bool) (s : State) : Out :=
  issue s (fun gid sl g _ =>
    if sl != consumer q.toNat then s.illegal gid sl i
    else
      (s.headValue g sl q.toNat).finish gid sl .queueEmpty (fun s v =>
        let s := if v.2 then s.dataPoison gid else s
        let s := s.mapGrp gid (fun g =>
          (if remove then g.popQueue q.toNat else g).setStream sl ((g.stream sl).wr d v.1 v.2))
        (if 4 ≤ q.toNat then s.count gid 1 1 else s).done gid sl))

/-- `pop` (R127). -/
def execPop (q : BitVec 3) (d : Reg) (s : State) : Out := takeHead (.pop q d) q d true s

/-- `peek` (R127). -/
def execPeek (q : BitVec 3) (d : Reg) (s : State) : Out := takeHead (.peek q d) q d false s

/-- `qcnt` (R127). -/
def execQcnt (q : BitVec 3) (d : Reg) (s : State) : Out :=
  issue s (fun gid sl g st =>
    (s.setStream gid sl (st.wr d (BitVec.ofNat 64 (g.q q.toNat).ents.length) false)).done gid sl)

/-- `qdrop` (R115, R127). -/
def execQdrop (q : BitVec 3) (s : State) : Out :=
  issue s (fun gid sl _ _ =>
    if sl != consumer q.toNat then s.illegal gid sl (.qdrop q)
    else
      (s.mapGrp gid (fun g =>
        let x := g.q q.toNat
        g.setQ q.toNat { head := (x.head + x.ents.length) % queueDepth q.toNat, ents := [] })).done gid sl)

/-- R112: the slip limit in force. -/
def Group.slipLimit (g : Group) : Nat := if g.slipLim = 0 then 1 else min g.slipLim.toNat 64

/-- `slip` (R112, R117). -/
def execSlip (s : State) : Out :=
  issue s (fun gid sl g _ =>
    if sl == .c then s.illegal gid sl .slip
    else if g.slipLimit ≤ g.slip then
      if g.c.joined then s.trapNow gid sl { cause := 0x12 } else .next (s.stallOn gid sl .slip)
    else (s.mapGrp gid (fun g => { g with slip := g.slip + 1 })).done gid sl)

/-- `catch` (R112, R117). -/
def execSlipCatch (s : State) : Out :=
  issue s (fun gid sl g _ =>
    if sl == .a then s.illegal gid sl .slipCatch
    else if g.slip = 0 then
      if g.a.joined then s.trapNow gid sl { cause := 0x11 } else .next (s.stallOn gid sl .slip)
    else (s.mapGrp gid (fun g => { g with slip := g.slip - 1 })).done gid sl)

/-- `slipset` (R112, R127): a poisoned value is control poison. -/
def execSlipset (a : Reg) (s : State) : Out :=
  issue s (fun gid sl _ st =>
    if st.rp a then .next (s.loseControl gid sl)
    else (s.mapGrp gid (fun g => { g with slip := min (st.rd a).toNat 64 })).done gid sl)

/-- `lq` and `lq.nf` (R128): a pending entry that a load of the A-slice will fill. -/
def loadQueue (i : Instr) (nf : Bool) (q z : BitVec 2) (a : Reg) (off : BitVec 16) (s : State) : Out :=
  issue s (fun gid sl g st =>
    if sl == .c then s.illegal gid sl i
    else
      (s.room g sl q.toNat).finish gid sl .queueFull (fun s _ =>
        if st.rp a then .next (s.loseControl gid sl)
        else
          (s.mapGrp gid (fun g =>
            let g := g.pushQ q.toNat (.pending nf z.toNat (st.rd a + off.signExtend 64) g.a.sbSeq none [])
            { g with a := { g.a with sbSeq := g.a.sbSeq + 1 } })).done gid sl))

/-- `lq` (R128). -/
def execLq (q z : BitVec 2) (a : Reg) (i : BitVec 16) (s : State) : Out := loadQueue (.lq q z a i) false q z a i s

/-- `lq.nf` (R128). -/
def execLqNf (q z : BitVec 2) (a : Reg) (i : BitVec 16) (s : State) : Out := loadQueue (.lqNf q z a i) true q z a i s

/-! ### Fills -/

/-- What a fault of R114 leaves in the entry. -/
def lqFault (nf : Bool) (cause size : Nat) (a : Word) : QEntry := if nf then .poison cause size a else .fault cause size a

/-- Replaces entry `k` of a queue. -/
def Group.setEntry (g : Group) (q k : Nat) (e : QEntry) : Group :=
  let x := g.q q
  g.setQ q { x with ents := x.ents.mapIdx (fun j f => if j == k then e else f) }

/-- R114, R128: the load of pending entry `k` of fq`q` is made; while a peer's answer is outstanding the entry waits, with its
place as translated. -/
def State.fillEntry (s : State) (gid q k : Nat) : State :=
  match s.grp? gid with
  | none => s
  | some g =>
    match s.ctx? g.ctx, (g.q q).ents[k]? with
    | some cx, some (.pending nf z a seq part reqs) =>
      let n := 2 ^ z
      let put (s : State) (e : QEntry) : State := s.mapGrp gid (fun g => g.setEntry q k e)
      if a.toNat % n != 0 then put s (lqFault nf 0x0B z a)
      else
        let v : Viewer := { gid := some gid, sl := some .a, upTo := some seq, bind := g.bind }
        let x : State × XRes :=
          match part with
          | some p => (s, .ok p.loc p.ord)
          | none => s.translate (.ctl g.ctl) v cx a.toNat needR
        match x with
        | (s, .poison l) => s.loseContext g.ctx { reason := 4, src := 0, gid := some gid, place := some l, va := a.toNat }
        | (s, .fault f) => put s (lqFault nf f.cause z a)
        | (s, .ok l ord) =>
          if ord == 3 then put s (lqFault nf 0x0A z a)
          else
            let p : Part := part.getD (s.takeHit g { va := a.toNat, n := n, loc := l, ord := ord })
            match s.readParts gid 8 g.ctl v reqs [p] with
            | (s, [], none) => put s (.pending nf z a seq none [])
            | (s, tags, none) => put s (.pending nf z a seq (some p) tags)
            | (s, _, some (b, pz)) => put s (if pz then .poison 0 z a else .data (leWord b))
    | _, _ => s

/-- An entry put into a list in rising order of its first component. -/
def insertByFirst (x : Nat × Nat × Nat) : List (Nat × Nat × Nat) → List (Nat × Nat × Nat)
  | [] => [x]
  | y :: rest => if x.1 < y.1 then x :: y :: rest else y :: insertByFirst x rest

/-- The pending entries of a group's forward queues, in the order of their issue: place in the order of its loads and stores,
queue, index. -/
def Group.pendings (g : Group) : List (Nat × Nat × Nat) :=
  ((List.range 4).flatMap (fun q => (g.q q).ents.zipIdx.filterMap (fun x =>
    match x.1 with
    | .pending _ _ _ seq _ _ => some (seq, q, x.2)
    | _ => none))).foldr insertByFirst []

/-- R250, R252: the pending loads issued before place `upTo` are made, in the order of their issue. -/
def State.fillBefore (s : State) (gid upTo : Nat) : State :=
  match s.grp? gid with
  | none => s
  | some g =>
    (g.pendings.filter (fun x => x.1 < upTo)).foldl (fun s x => s.fillEntry gid x.2.1 x.2.2) (s.unwait (gid, 8))

/-- R111: the loads of every pending entry are made before the A-slice's later accesses. -/
def State.fillAll (s : State) (gid : Nat) : State :=
  match s.grp? gid with
  | some g => s.fillBefore gid g.a.sbSeq
  | none => s

/-- Some entry is still pending. -/
def Group.pendingFill (g : Group) : Bool :=
  g.qs.toList.any (fun q => q.ents.any (fun e => match e with | .pending .. => true | _ => false))

/-- LQ_FILL (R128): the entry in a slot of fq`q` of a group is filled, after those issued before it (R250, R252). -/
def execLqFill (grp q slot : Nat) (s : State) : Out :=
  match s.grp? grp with
  | none => .next s
  | some g =>
    let x := g.q q
    let k := (slot + queueDepth q - x.head) % queueDepth q
    match x.ents[k]? with
    | some (.pending _ _ _ seq _ _) => .next (if q < 4 then s.fillBefore grp (seq + 1) else s)
    | _ => .next s

end Sys2Proof.Machine
end

