-- ==== Sys2Proof/Machine/LoadStore.lean ====
section
/-! DEFINITION. Loads and stores of memory and of the scratchpad (R231 to R240). -/

namespace Sys2Proof.Machine

open Sys2Proof

/-- The register value of `n` loaded bytes. -/
def extend (n : Nat) (signed : Bool) (bs : List Byte) : Word :=
  let v := leNat bs
  if signed && 2 ^ (8 * n - 1) ≤ v then BitVec.ofInt 64 ((v : Int) - 2 ^ (8 * n)) else BitVec.ofNat 64 v

/-- Writes what a load read: poisoned bytes give 0 with P and set DP (R233). -/
def State.loaded (s : State) (gid : Nat) (sl : Slice) (d : Reg) (v : Word) (pz : Bool) : State :=
  if pz then (s.mapStream gid sl (fun st => st.wr d 0 true)).dataPoison gid
  else s.mapStream gid sl (fun st => st.wr d v false)

/-- Reads checked parts as the slice, with the requests its instruction holds; what the controller's copies say is taken as the access
begins (R230). -/
def State.readSlice (s : State) (gid : Nat) (sl : Slice) (parts : List Part) : Got (List Byte × Bool) :=
  match s.grp? gid with
  | none => .lost s
  | some g =>
    let parts := if (g.stream sl).reqs.isEmpty then parts.map (s.takeHit g) else parts
    match s.readParts gid sl.src g.ctl (g.viewer sl) (g.stream sl).reqs parts with
    | (s, tags, none) => .wait (s.mapStream gid sl (fun st => { st with reqs := tags, parts := parts }))
    | (s, _, some r) => .ok (s.mapStream gid sl (fun st => { st with reqs := [], parts := [] })) r

/-- The A-slice's pending loads are made before its later accesses (R111, R250, R252). -/
def State.settleLoads (s : State) (gid : Nat) (sl : Slice) : State :=
  match sl with
  | .a => s.fillAll gid
  | .c => s

/-- A load at address `x` (R233, R236, R239). -/
def State.load (s : State) (gid : Nat) (sl : Slice) (x : Word) (n : Nat) (signed aligned uo : Bool) (d : Reg) : Out :=
  ((s.access gid sl x.toNat n needR aligned uo).bind (fun s parts => (s.settleLoads gid sl).readSlice gid sl parts)).finish
    gid sl .peer (fun s r => (s.loaded gid sl d (extend n signed r.1) r.2).done gid sl)

/-- The plain loads (R233). -/
def plainLoad (n : Nat) (signed : Bool) (d a : Reg) (i : BitVec 13) (s : State) : Out :=
  issue s (fun gid sl _ st =>
    if st.rp a then .next (s.loseControl gid sl)
    else s.load gid sl (st.rd a + i.signExtend 64) n signed false true d)

/-- The requests that writing a part to a peer needs (R414). -/
def writeAsks (p : Part) (bs : List Byte) (pz : Bool) : List PeerAsk :=
  match p.loc with
  | .peer id a =>
    (split256 (p.n + 1) a p.n).map (fun x =>
      { peer := id, addr := x.1, ord := p.ord, kind := .write ((bs.drop (x.1 - a)).take x.2) pz })
  | _ => []

/-- R228, R237, R252: one part of a store of a slice. A store to a peer, whose requests are sent in this step, updates the controller's
copies of the lines, and reads of them that are out bring no older ones; where they were sent before, to an SO page or in part, no copy
is left, as one may be newer by now (R250); one to an SO page is performed at once, as it
issues, after the stores that it follows in coherence order, so that no later pop comes before it where the table of R111
would allow one (log 8); any other enters the store buffer, after every other slice's pending stores to its bytes where it
is performed at a scope at once. -/
def State.storePart (s : State) (gid : Nat) (sl : Slice) (v : Viewer) (p : Part) (bs : List Byte) (pz : Bool)
    (vis : Option Nat) : State :=
  match p.loc with
  | .peer id a =>
    match s.grp? gid with
    | some g =>
      if p.ord == 0 || !p.keep then s.dropOwn g.ctl p.loc p.n
      else
      { s.unkeep (fun k => k == g.ctl) (touches id a p.n) with peerLines := patchLines g.ctl g.ctx id a bs pz s.peerLines }
    | none => s
  | l =>
    if p.ord == 0 || vis == some 3 then (s.drainOverlap v true l p.n).performWrite l bs pz true
    else
      ((if vis.isSome then s.drainOthers gid sl l p.n else s).drainOverlap v false l p.n).mapStream gid sl (fun st =>
        { st with
          sb := st.sb ++ [{ loc := l, bytes := bs, poison := pz, uo := p.ord == 2, vis := vis, seq := st.sbSeq }]
          sbSeq := st.sbSeq + 1 })

/-- The parts of a store with the bytes of each. -/
def splitBytes : List Part → List Byte → List (Part × List Byte)
  | [], _ => []
  | p :: rest, bs => (p, bs.take p.n) :: splitBytes rest (bs.drop p.n)

/-- A read of the group is out for a line of peer memory that the part touches. -/
def Group.reading (g : Group) (p : Part) : Bool :=
  let same (q : Part) : Bool :=
    match p.loc, q.loc with
    | .peer i a, .peer j b => i == j && a / 64 * 64 < b + q.n + 64 && b / 64 * 64 < a + p.n + 64
    | _, _ => false
  [g.a, g.c].any (fun st => !st.reqs.isEmpty && st.parts.any same) ||
  g.qs.toList.any (fun x => x.ents.any (fun e => match e with | .pending _ _ _ _ (some q) _ => same q | _ => false))

/-- A store of checked parts (R232, R233): requests to peers are sent first. One to an SO page waits for the responses to the
slice's earlier SO accesses (R252), one to a UO page of a peer for reads of its line that are out, whose copy of the line
would be older (R237, R250), and one of the A-slice for the loads of its queues at the same bytes (R250). One to an SO page of a
peer is done when the peer has answered it, so that what follows it in the slice sees it in tables there (R321, log 15). -/
def State.storeParts (s : State) (gid : Nat) (sl : Slice) (parts : List Part) (bs : List Byte) (pz : Bool)
    (vis : Option Nat) : Got Unit :=
  match s.grp? gid with
  | none => .lost s
  | some g =>
    let ps := splitBytes parts bs
    let behind :=
      (parts.any (fun p => p.ord == 0) && !s.soQuiet gid sl.src none) || parts.any g.reading ||
      (sl == .a && s.lqOverlaps gid none parts)
    if (g.stream sl).reqs.isEmpty && behind then .wait s
    else
    let asks := ps.flatMap (fun x => writeAsks x.1 x.2 pz)
    let (s, held) := s.sendSome false gid sl.src (g.stream sl).reqs (asks.drop (g.stream sl).reqs.length)
    let open_ := parts.any (fun p => p.ord == 0) && s.outReqs.any (fun r => held.contains r.tag)
    if held.length < asks.length || open_ then
      .wait (s.mapStream gid sl (fun st => { st with reqs := held, parts := parts.map (fun p => { p with keep := false }) }))
    else
      let s := s.mapStream gid sl (fun st => { st with reqs := [], parts := [] })
      .ok (ps.foldl (fun s x => s.storePart gid sl (g.viewer sl) x.1 x.2 pz vis) s) ()

/-- The plain stores (R233). -/
def plainStore (n : Nat) (r a : Reg) (i : BitVec 13) (s : State) : Out :=
  issue s (fun gid sl _ st =>
    if st.rp a then .next (s.loseControl gid sl)
    else
      ((s.access gid sl (st.rd a + i.signExtend 64).toNat n needW false true).bind (fun s parts =>
        (s.settleLoads gid sl).storeParts gid sl parts (leBytes n (st.rd r).toNat) (st.rp r) none)).finish gid sl .peer
        (fun s _ => s.done gid sl))

/-- `ld.b` (R233). -/
def execLdB (d a : Reg) (i : BitVec 13) (s : State) : Out := plainLoad 1 true d a i s

/-- `ld.bz` (R233). -/
def execLdBz (d a : Reg) (i : BitVec 13) (s : State) : Out := plainLoad 1 false d a i s

/-- `ld.h` (R233). -/
def execLdH (d a : Reg) (i : BitVec 13) (s : State) : Out := plainLoad 2 true d a i s

/-- `ld.hz` (R233). -/
def execLdHz (d a : Reg) (i : BitVec 13) (s : State) : Out := plainLoad 2 false d a i s

/-- `ld.w` (R233). -/
def execLdW (d a : Reg) (i : BitVec 13) (s : State) : Out := plainLoad 4 true d a i s

/-- `ld.wz` (R233). -/
def execLdWz (d a : Reg) (i : BitVec 13) (s : State) : Out := plainLoad 4 false d a i s

/-- `ld.d` (R233). -/
def execLdD (d a : Reg) (i : BitVec 13) (s : State) : Out := plainLoad 8 false d a i s

/-- `st.b` (R233). -/
def execStB (r a : Reg) (i : BitVec 13) (s : State) : Out := plainStore 1 r a i s

/-- `st.h` (R233). -/
def execStH (r a : Reg) (i : BitVec 13) (s : State) : Out := plainStore 2 r a i s

/-- `st.w` (R233). -/
def execStW (r a : Reg) (i : BitVec 13) (s : State) : Out := plainStore 4 r a i s

/-- `st.d` (R233). -/
def execStD (r a : Reg) (i : BitVec 13) (s : State) : Out := plainStore 8 r a i s

/-- `ld.acq` (R239): loads of a slice are made in order, so nothing later can be seen before it. -/
def execLdAcq (d a : Reg) (z _c : BitVec 2) (i : BitVec 12) (s : State) : Out :=
  issue s (fun gid sl _ st =>
    if st.rp a then .next (s.loseControl gid sl)
    else s.load gid sl (st.rd a + i.signExtend 64) (2 ^ z.toNat) false true false d)

/-- R415: before a release and a `fence` of system scope, the loads of the A-slice's queues are made and peers have answered
every earlier access of the slice. -/
def State.quietFor (s : State) (gid : Nat) (sl : Slice) : Bool :=
  s.peerQuiet gid sl.src && !(sl == .a && (match s.grp? gid with | some g => g.pendingFill | none => false))

/-- R243, R256: the earlier stores of a slice performed at a scope. -/
def State.release (s : State) (gid : Nat) (sl : Slice) (scope : Nat) : State :=
  match s.grp? gid with
  | some g => s.performAt gid sl (g.viewer sl) scope
  | none => s

/-- `st.rel` (R239): a release of the scope, then the store, which is performed at that scope with it (R258). -/
def execStRel (r a : Reg) (z c : BitVec 2) (i : BitVec 12) (s : State) : Out :=
  issue s (fun gid sl _ st =>
    let n := 2 ^ z.toNat
    if st.rp a then .next (s.loseControl gid sl)
    else
      ((s.access gid sl (st.rd a + i.signExtend 64).toNat n needW true false).bind (fun s parts =>
        let s := s.settleLoads gid sl
        if st.reqs.isEmpty && !s.quietFor gid sl then .wait s
        else
          (s.release gid sl c.toNat).storeParts gid sl parts (leBytes n (st.rd r).toNat) (st.rp r) (some c.toNat))).finish gid sl .peer
        (fun s _ => s.done gid sl))

/-! ### Scratchpad (R187, R240) -/

/-- R240: the checks of a group offset, from the third on; `n` bytes. Cause 0x0B records the group offset (log 48). -/
def spadCheck (g : Group) (o n : Nat) (i : Instr) : Option TrapInfo :=
  let bad : TrapInfo := { cause := 0x21, status := encodeStatus i }
  if 2 ^ 26 ≤ o then some bad
  else if o % n != 0 then some { cause := 0x0B, addr := o }
  else if g.n ≤ o / 2 ^ 22 || g.x ≤ o % 2 ^ 22 then some bad
  else none

/-- The loads of the scratchpad (R240). -/
def spadLoad (ins : Instr) (n : Nat) (signed : Bool) (d a : Reg) (i : BitVec 13) (s : State) : Out :=
  issue s (fun gid sl g st =>
    let o := (st.rd a + i.signExtend 64).toNat
    if st.rp a then .next (s.loseControl gid sl)
    else
      match spadCheck g o n ins with
      | some t => s.trapNow gid sl t
      | none =>
        let r := s.viewSpad (g.viewer sl) g o n
        (s.loaded gid sl d (extend n signed r.1) r.2).done gid sl)

/-- The stores to the scratchpad (R240): they enter the store buffer (R249). -/
def spadStore (ins : Instr) (n : Nat) (r a : Reg) (i : BitVec 13) (s : State) : Out :=
  issue s (fun gid sl g st =>
    let o := (st.rd a + i.signExtend 64).toNat
    if st.rp a then .next (s.loseControl gid sl)
    else
      match spadCheck g o n ins with
      | some t => s.trapNow gid sl t
      | none =>
        (s.storePart gid sl (g.viewer sl) { va := o, n := n, loc := .spad o, ord := 1 } (leBytes n (st.rd r).toNat)
          (st.rp r) none).done gid sl)

/-- `lds.b` (R240). -/
def execLdsB (d a : Reg) (i : BitVec 13) (s : State) : Out := spadLoad (.ldsB d a i) 1 true d a i s

/-- `lds.bz` (R240). -/
def execLdsBz (d a : Reg) (i : BitVec 13) (s : State) : Out := spadLoad (.ldsBz d a i) 1 false d a i s

/-- `lds.h` (R240). -/
def execLdsH (d a : Reg) (i : BitVec 13) (s : State) : Out := spadLoad (.ldsH d a i) 2 true d a i s

/-- `lds.hz` (R240). -/
def execLdsHz (d a : Reg) (i : BitVec 13) (s : State) : Out := spadLoad (.ldsHz d a i) 2 false d a i s

/-- `lds.w` (R240). -/
def execLdsW (d a : Reg) (i : BitVec 13) (s : State) : Out := spadLoad (.ldsW d a i) 4 true d a i s

/-- `lds.wz` (R240). -/
def execLdsWz (d a : Reg) (i : BitVec 13) (s : State) : Out := spadLoad (.ldsWz d a i) 4 false d a i s

/-- `lds.d` (R240). -/
def execLdsD (d a : Reg) (i : BitVec 13) (s : State) : Out := spadLoad (.ldsD d a i) 8 false d a i s

/-- `sts.b` (R240). -/
def execStsB (r a : Reg) (i : BitVec 13) (s : State) : Out := spadStore (.stsB r a i) 1 r a i s

/-- `sts.h` (R240). -/
def execStsH (r a : Reg) (i : BitVec 13) (s : State) : Out := spadStore (.stsH r a i) 2 r a i s

/-- `sts.w` (R240). -/
def execStsW (r a : Reg) (i : BitVec 13) (s : State) : Out := spadStore (.stsW r a i) 4 r a i s

/-- `sts.d` (R240). -/
def execStsD (r a : Reg) (i : BitVec 13) (s : State) : Out := spadStore (.stsD r a i) 8 r a i s

end Sys2Proof.Machine
end

