-- ==== Sys2Proof/Machine/Atomics.lean ====
section
/-! DEFINITION. Atomics (R241), for slices, the host and peers. -/

namespace Sys2Proof.Machine

open Sys2Proof

/-- The low `n` bytes read as a signed number, in 64 bits. -/
def signAt (n : Nat) (x : Word) : Word := if n == 4 then (x.setWidth 32).signExtend 64 else x

/-- R241: the new memory value of operation `op` for old value `m`, operand `b` and comparand `c`, and its flags. -/
def amoValue (op n : Nat) (m b c : Word) : Word × FFlags :=
  let v : Word := match op with
    | 0 => m + b
    | 1 => m &&& b
    | 2 => m ||| b
    | 3 => m ^^^ b
    | 4 => if (signAt n m).sle (signAt n b) then m else b
    | 5 => if (signAt n b).sle (signAt n m) then m else b
    | 6 => if m.ule b then m else b
    | 7 => if b.ule m then m else b
    | 8 => b
    | 9 => if m == c then b else m
    | _ => ((addF32 (m.setWidth 32) (b.setWidth 32)).1).setWidth 64
  (if n == 4 then (v.setWidth 32).setWidth 64 else v,
   if op == 10 then (addF32 (m.setWidth 32) (b.setWidth 32)).2 else 0)

/-- The low `n` bytes of a register value. -/
def lowBytes (n : Nat) (x : Word) : Word := if n == 4 then (x.setWidth 32).setWidth 64 else x

/-- The result of an AMO at a vault or host location: old value, whether it was poisoned, and flags. -/
structure AmoResult where
  old    : Word
  poison : Bool
  flags  : FFlags
  deriving DecidableEq, Repr

/-- R241, R250: the indivisible access at the home, by an agent that reads as `v`; the agent's own earlier stores to the
word come before it. -/
def State.amoAt (s : State) (v : Viewer) (l : MemLoc) (op n : Nat) (b c : Word) (pz : Bool) : State × AmoResult :=
  let s := s.drainOverlap v true l n
  let (bytes, bad) := s.viewRead v l n
  if bad then (s, { old := 0, poison := true, flags := 0 })
  else
    let m := leWord bytes
    let (w, fl) := amoValue op n m b c
    (s.performWrite l (leBytes n w.toNat) pz true, { old := m, poison := false, flags := fl })

/-- The AMOs of a slice (R241): order bit 1 is a release, bit 0 an acquire (R59). A request to a peer carries the poison of the
operands, which the peer gives the word's sector; the value that it answers with is read under R322, and the controller keeps no
older copy of the word (R250). -/
def amo (op : Nat) (d a b : Reg) (z r c : BitVec 2) (s : State) : Out :=
  issue s (fun gid sl g st =>
    let n := 2 ^ z.toNat
    let x := lowBytes n (st.rd b)
    let y := lowBytes n (st.rd d)
    let pz := st.rp b || (op == 9 && st.rp d)
    let rel := r.getLsbD 1
    if st.rp a then .next (s.loseControl gid sl)
    else
      ((s.access gid sl (st.rd a).toNat n needRW true false).bind (fun s parts =>
        match parts with
        | [p] =>
          let s := s.settleLoads gid sl
          let behind :=
            (rel && !s.quietFor gid sl) || (p.ord == 0 && !s.soQuiet gid sl.src none) || (sl == .a && s.lqOverlaps gid none parts) ||
            s.ownOut gid sl.src parts
          if st.reqs.isEmpty && behind then .wait s
          else
            let s := if rel then s.release gid sl c.toNat else s
            match p.loc with
            | .peer id addr =>
              match s.exchange gid sl.src st.reqs [{ peer := id, addr := addr, ord := p.ord, kind := .atomic (BitVec.ofNat 4 op) n x y pz }] with
              | (s, tags, none) => .wait (s.mapStream gid sl (fun st => { st with reqs := tags, parts := parts }))
              | (s, _, some data) =>
                let s := s.dropLines (fun k => k == g.ctl) (touches id addr n)
                let m := (data.map Prod.fst).flatten
                let seen := m.mapIdx (fun k x => s.peerByte (g.viewer sl) (p.loc.shift k) x)
                .ok (s.mapStream gid sl (fun st => { st with reqs := [], parts := [] }))
                  { old := leWord seen, poison := data.any Prod.snd, flags := (amoValue op n (leWord m) x y).2 }
            | l =>
              let (s, res) := s.amoAt (g.viewer sl) l op n x y pz
              .ok s res
        | _ => .lost s)).finish gid sl .peer (fun s res =>
          let s := if res.poison then s else s.mapGrp gid (fun g => g.raiseFlags res.flags)
          (s.loaded gid sl d res.old res.poison).done gid sl))

/-- `amo.add` (R241). -/
def execAmoAdd (d a b : Reg) (z r c : BitVec 2) (s : State) : Out := amo 0 d a b z r c s

/-- `amo.and` (R241). -/
def execAmoAnd (d a b : Reg) (z r c : BitVec 2) (s : State) : Out := amo 1 d a b z r c s

/-- `amo.or` (R241). -/
def execAmoOr (d a b : Reg) (z r c : BitVec 2) (s : State) : Out := amo 2 d a b z r c s

/-- `amo.xor` (R241). -/
def execAmoXor (d a b : Reg) (z r c : BitVec 2) (s : State) : Out := amo 3 d a b z r c s

/-- `amo.min` (R241). -/
def execAmoMin (d a b : Reg) (z r c : BitVec 2) (s : State) : Out := amo 4 d a b z r c s

/-- `amo.max` (R241). -/
def execAmoMax (d a b : Reg) (z r c : BitVec 2) (s : State) : Out := amo 5 d a b z r c s

/-- `amo.minn` (R241). -/
def execAmoMinn (d a b : Reg) (z r c : BitVec 2) (s : State) : Out := amo 6 d a b z r c s

/-- `amo.maxn` (R241). -/
def execAmoMaxn (d a b : Reg) (z r c : BitVec 2) (s : State) : Out := amo 7 d a b z r c s

/-- `amo.swp` (R241). -/
def execAmoSwp (d a b : Reg) (z r c : BitVec 2) (s : State) : Out := amo 8 d a b z r c s

/-- `amo.cas` (R241). -/
def execAmoCas (d a b : Reg) (z r c : BitVec 2) (s : State) : Out := amo 9 d a b z r c s

/-- `amo.fadd` (R241): its flags are raised when it returns. -/
def execAmoFadd (d a b : Reg) (z r c : BitVec 2) (s : State) : Out := amo 10 d a b z r c s

end Sys2Proof.Machine
end

