-- ==== Sys2Proof/Machine/Shake.lean ====
section
/-! DEFINITION. SHAKE256 (FIPS 202), which R422 and Ed448 (RFC 8032) name. The lane with coordinates x and y has index x + 5·y. -/

namespace Sys2Proof.Machine

open Sys2Proof

/-- The 25 lanes of the sponge. -/
abbrev Sponge := List (BitVec 64)

def Sponge.at_ (a : Sponge) (k : Nat) : BitVec 64 := a.getD k 0

/-- θ: every lane takes in the parity of the column to its left and that of the column to its right, turned by one. -/
def Sponge.theta (a : Sponge) : Sponge :=
  let parity := (List.range 5).map (fun x => [5, 10, 15, 20].foldl (fun p k => p ^^^ a.at_ (k + x)) (a.at_ x))
  let around := parity.mapIdx (fun x _ => parity.getD ((x + 4) % 5) 0 ^^^ (parity.getD ((x + 1) % 5) 0).rotateLeft 1)
  a.mapIdx (fun k v => v ^^^ around.getD (k % 5) 0)

/-- ρ and π in one walk: π takes the lane (x, y) to (y, 2x + 3y), and the t-th lane that the walk from (1, 0) meets is turned by the
t-th triangular number. The lane (0, 0) stays. -/
def Sponge.walk (a : Sponge) : (fuel t x y : Nat) → Sponge → Sponge
  | 0, _, _, _, b => b
  | fuel + 1, t, x, y, b =>
    let y' := (2 * x + 3 * y) % 5
    a.walk fuel (t + 1) y y' (b.set (y + 5 * y') ((a.at_ (x + 5 * y)).rotateLeft (t * (t + 1) / 2 % 64)))

/-- χ, row by row. -/
def Sponge.chi (a : Sponge) : Sponge :=
  a.mapIdx (fun k v =>
    let next (d : Nat) : BitVec 64 := a.at_ (k / 5 * 5 + (k % 5 + d) % 5)
    v ^^^ (next 2 &&& ~~~ next 1))

/-- The shift register of ι: one step of x^8 + x^6 + x^5 + x^4 + 1. -/
def lfsrStep (r : Nat) : Nat := if r < 128 then 2 * r else (2 * r - 256) ^^^ 0x71

/-- Seven bits of the register fill the places 0, 1, 3, 7, 15, 31 and 63 of a round's constant. -/
def iotaBits : (n j r : Nat) → BitVec 64 × Nat
  | 0, _, r => (0, r)
  | n + 1, j, r =>
    let (c, q) := iotaBits n (j + 1) (lfsrStep r)
    (c ||| BitVec.ofNat 64 (r % 2 * 2 ^ (2 ^ j - 1)), q)

/-- The rounds; `r` is the register of ι. -/
def Sponge.rounds : (fuel r : Nat) → Sponge → Sponge
  | 0, _, a => a
  | fuel + 1, r, a =>
    let a := a.theta
    let b := (a.walk 24 1 1 0 a).chi
    let (c, r) := iotaBits 7 0 r
    Sponge.rounds fuel r (b.set 0 (b.at_ 0 ^^^ c))

/-- Takes in blocks of 136 bytes, each followed by the 24 rounds; `fuel` bounds them. -/
def Sponge.absorb : (fuel : Nat) → List Byte → Sponge → Sponge
  | 0, _, a => a
  | fuel + 1, m, a =>
    let mixed := a.mapIdx (fun k v => if k < 17 then v ^^^ BitVec.ofNat 64 (leNat ((m.drop (8 * k)).take 8)) else v)
    Sponge.absorb fuel (m.drop 136) (Sponge.rounds 24 1 mixed)

/-- `n` bytes of SHAKE256, `n` at most 136: the message, the domain bits 1111, and a last bit that closes its last block. -/
def shake (n : Nat) (m : List Byte) : List Byte :=
  let blocks := m.length / 136 + 1
  let fill := 136 * blocks - m.length
  let tail := (0x1F#8 :: List.replicate (fill - 1) 0).mapIdx (fun k b => if k + 1 == fill then b ^^^ 0x80 else b)
  ((Sponge.absorb blocks (m ++ tail) (List.replicate 25 0)).flatMap wordBytes).take n

/-- The 512-bit SHAKE256 digest. -/
def shake256 (m : List Byte) : List Byte := shake 64 m

end Sys2Proof.Machine
end

