-- ==== Sys2Proof/Machine/Ed448.lean ====
section
/-! DEFINITION. Ed448 with the empty context (RFC 8032, section 5.2), which R422 and R423 name: points of the curve
x² + y² = 1 − 39081·x²·y² over the integers modulo 2^448 − 2^224 − 1. -/

namespace Sys2Proof.Machine.Ed448

open Sys2Proof

/-- The field's prime. -/
def fieldP : Nat := 2 ^ 448 - 2 ^ 224 - 1

/-- The order of the base point. -/
def order : Nat := 2 ^ 446 - 13818066809895115352007386748515426880336692474882178609894547503885

/-- b^e modulo the prime; `fuel` bounds the bits of e. -/
def power : (fuel b e : Nat) → Nat
  | 0, _, _ => 1
  | fuel + 1, b, e => (if e % 2 == 1 then b else 1) * power fuel (b * b % fieldP) (e / 2) % fieldP

/-- The difference modulo the prime of two reduced numbers. -/
def minus (a b : Nat) : Nat := (a + fieldP - b % fieldP) % fieldP

/-- A point (x/z, y/z). -/
structure Point where
  x : Nat
  y : Nat
  z : Nat
  deriving DecidableEq, Repr

def Point.zero : Point := { x := 0, y := 1, z := 1 }

def Point.base : Point :=
  { x := 224580040295924300187604334099896036246789641632564134246125461686950415467406032909029192869357953282578032075146446173674602635247710
    y := 298819210078481492676017930443930673437544040154080242095928241372331506189835876003536878655418784733982303233503462500531545062832660
    z := 1 }

/-- The sum of two points, equal or not. -/
def Point.plus (p q : Point) : Point :=
  let zz := p.z * q.z % fieldP
  let xx := p.x * q.x % fieldP
  let yy := p.y * q.y % fieldP
  -- d·x₁x₂y₁y₂ with d = −39081
  let e := minus 0 (39081 * xx * yy % fieldP)
  let s := zz * zz % fieldP
  let f := minus s e
  let g := (s + e) % fieldP
  let cross := minus (minus ((p.x + p.y) * (q.x + q.y) % fieldP) xx) yy
  { x := zz * f % fieldP * cross % fieldP, y := zz * g % fieldP * minus yy xx % fieldP, z := f * g % fieldP }

/-- The multiple of a point by `k` below 2^fuel. -/
def Point.times : (fuel k : Nat) → Point → Point
  | 0, _, _ => Point.zero
  | fuel + 1, k, p =>
    let r := Point.times fuel (k / 2) (p.plus p)
    if k % 2 == 1 then r.plus p else r

/-- Two points are one. -/
def Point.same (p q : Point) : Bool := p.x * q.z % fieldP == q.x * p.z % fieldP && p.y * q.z % fieldP == q.y * p.z % fieldP

/-- The 57 bytes of a point: y, with the low bit of x as the last bit. -/
def Point.bytes (p : Point) : List Byte :=
  let inv := power 448 p.z (fieldP - 2)
  let x := p.x * inv % fieldP
  let y := p.y * inv % fieldP
  leBytes 57 (y + x % 2 * 2 ^ 455)

/-- The point of 57 bytes, where they encode one. -/
def pointOf (bs : List Byte) : Option Point :=
  let v := leNat bs
  let y := v % 2 ^ 455
  let odd := v / 2 ^ 455 % 2
  let u := minus (y * y % fieldP) 1
  let w := minus (minus 0 (39081 * (y * y % fieldP) % fieldP)) 1
  let u3w := u * u % fieldP * u % fieldP * w % fieldP
  let x := u3w * power 448 (u3w * (u * u % fieldP) % fieldP * (w * w % fieldP) % fieldP) ((fieldP - 3) / 4) % fieldP
  if bs.length != 57 || fieldP ≤ y || w * x % fieldP * x % fieldP != u || (x == 0 && odd == 1) then none
  else some { x := if x % 2 == odd then x else fieldP - x, y := y, z := 1 }

/-- The hash of parts after the prefix that names the scheme, as a number. -/
def challenge (parts : List (List Byte)) : Nat :=
  leNat (shake 114 ([0x53, 0x69, 0x67, 0x45, 0x64, 0x34, 0x34, 0x38, 0, 0] ++ parts.flatten)) % order

/-- Whether `sig` is a signature of `msg` by `key`: 4·S·B = 4·R + 4·k·A. -/
def verify (key msg sig : List Byte) : Bool :=
  let r := sig.take 57
  let s := leNat (sig.drop 57)
  match pointOf key, pointOf r with
  | some a, some rp =>
    let k := challenge [r, key, msg]
    let four (p : Point) : Point := (p.plus p).plus (p.plus p)
    sig.length == 114 && s < order && (four (Point.times 446 s Point.base)).same (four (rp.plus (Point.times 446 k a)))
  | _, _ => false

/-- The scalar and the prefix of a secret key of 57 bytes. -/
def secretOf (seed : List Byte) : Nat × List Byte :=
  let h := shake 114 seed
  (leNat (h.take 57) % 2 ^ 447 / 4 * 4 + 2 ^ 447, h.drop 57)

/-- The public key of a secret key. -/
def publicKey (seed : List Byte) : List Byte := (Point.times 448 (secretOf seed).1 Point.base).bytes

/-- The signature of a message by a secret key. -/
def sign (seed msg : List Byte) : List Byte :=
  let (a, pre) := secretOf seed
  let key := publicKey seed
  let r := challenge [pre, msg]
  let rb := (Point.times 446 r Point.base).bytes
  let k := challenge [rb, key, msg]
  rb ++ leBytes 57 ((r + k * a) % order)

end Sys2Proof.Machine.Ed448
end

