-- ==== Sys2Proof/Machine/Fetch.lean ====
section
/-! DEFINITION. What a stream's turn does before its instruction executes (R41, R44, R64, R383), and whose turn it is. -/

namespace Sys2Proof.Machine

open Sys2Proof

/-- A turn of a stream: an instruction to execute, or a state in which nothing was issued. -/
inductive Fetched where
  | run (s : State) (i : Instr)
  | idle (s : State)

/-- R383: the line lies in the privileged range and a write to it has been performed to the stream since its `ifence`. -/
def State.privilegedWritten (s : State) (g : Group) (cx : Context) (sl : Slice) (va : Nat) : Bool :=
  cx.desc.cpbase.toNat ≤ va && va < cx.desc.cplim.toNat &&
  (let v : Viewer := { gid := some g.gid, sl := none, upTo := none, bind := g.bind }
   match (s.translate (.ctl g.ctl) (g.viewer sl) cx va needX).2 with
   | .ok l _ =>
     (match lineKey l with
      | some k => s.codeLog.any (fun e => e.1 == k && (g.stream sl).fencedAt < e.2)
      | none => false) ||
     (s.visible v).any (fun e => overlap e.2.loc e.2.bytes.length l 32)
   | _ => false)

/-- The instruction in a lane of a line, or the event of its words decoding to none (R64). -/
def lineInstr (ws : List (BitVec 32)) (k : Nat) : Instr :=
  let w1 := ws.getD k 0
  let w2 := if isLong w1 then ws.getD (k + 1) 0 else 0
  match decodeWords w1 w2 with
  | .ok i => i
  | .error _ => .illegalInstruction w1 w2

/-- R387: a resumed PC is checked under R43 before the stream executes at it; the check stays due while its line is on the way. -/
def State.recheckPc (s : State) (gid : Nat) (sl : Slice) : State :=
  match s.grp? gid with
  | none => s
  | some g =>
    match s.checkTarget gid sl (g.stream sl).pc true with
    | .ok s _ => s.mapStream gid sl (fun st => { st with recheck := false, fetches := [] })
    | .trap s t => (s.mapStream gid sl (fun st => { st with recheck := false })).trapStream gid sl t false
    | .lost s => s
    | .wait s => s.mapStream gid sl (fun st => { st with recheck := true, stall := some .peer })

/-- A turn of a stream begins: it waits for no port, and a resumed one has had its first turn. -/
def State.beginTurn (s : State) (gid : Nat) (sl : Slice) : State :=
  { (s.unwait (gid, sl.src)).mapStream gid sl (fun st => { st with fresh := false }) with cur := some (gid, sl) }

/-- The stream takes its next instruction from the line at its PC, which it fetches as its pass of the line begins (R44,
R383); what it has fetched of a peer's line then serves that pass alone (R43). Where the lane at the PC is not tagged for it the
scan goes on from there, 16 lines at most from that one, and a trap of it leaves the PC there (log 43). -/
def State.fetchInstr (s : State) (gid : Nat) (sl : Slice) : Fetched :=
  let s := s.beginTurn gid sl
  match s.grp? gid with
  | none => .idle s
  | some g =>
    match s.ctx? g.ctx with
    | none => .idle s
    | some cx =>
      let st := g.stream sl
      let va := st.pc.toNat / 32 * 32
      let lane := st.pc.toNat % 32 / 4
      if !g.mayIssue sl then .idle s
      else if st.midway then
        match st.pass with
        | some m => .run s (lineInstr m.words lane)
        | none => .idle s
      else if st.skip then .idle (s.advance gid sl)
      else if st.recheck then .idle (s.recheckPc gid sl)
      else if st.pc.toNat % 4 != 0 then .idle (s.trapStream gid sl { cause := 0x05, addr := st.pc.toNat } false)
      else if st.pc == g.code && g.code.toNat % 32 != 0 then .idle (s.trapStream gid sl { cause := 0x05, addr := g.code.toNat } false)
      else
        let again := (st.pass.map FetchedLine.va) == some va
        match s.fetchLine gid sl va with
        | .trap s t => .idle (s.trapStream gid sl t false)
        | .lost s => .idle s
        | .wait s => .idle (s.stallOn gid sl .peer)
        | .ok s ws =>
          let s := s.mapStream gid sl (fun st => { st with pass := some { va := va, words := ws } })
          if !lineOk ws then .idle (s.trapStream gid sl { cause := 0x02, addr := va } false)
          else if !again && s.privilegedWritten g cx sl va then .idle (s.trapStream gid sl { cause := 0x38, addr := va } false)
          else if lineKind ws == 0 && 1 ≤ lane && laneTag ws lane == sl.tag then
            .run (s.mapStream gid sl (fun st =>
              { st with wide := some (isLong (ws.getD lane 0)), fetches := if again then st.fetches else [] })) (lineInstr ws lane)
          else
            match s.scan gid sl 16 va lane with
            | .ok s pc => .idle (s.mapStream gid sl (fun st => st.stepTo pc))
            | .trap s t => .idle (s.trapStream gid sl t false)
            | .lost s => .idle s
            | .wait s => .idle (s.stallOn gid sl .peer)

/-! ### Whose turn it is -/

/-- The constructors that are events of the device or of the agents around it. A word that is no instruction is met only by
the stream that fetches it (R64), so its event is no turn of its own. -/
def isEvent (i : Instr) : Bool :=
  match i with
  | .illegalInstruction _ _ => false
  | i => (encode i).isEmpty

/-- The turns that may fall to the agents of a group. -/
def groupTurns (g : Group) : List Turn :=
  [.stream g.gid .a, .stream g.gid .c,
   .event (.engineCommandStart g.gid .mat), .event (.matrixCommandPerform g.gid),
   .event (.engineCommandStart g.gid .vec), .event (.vectorCommandPerform g.gid),
   .event (.engineCommandStart g.gid .cpl), .event (.copyBurst g.gid .cpl), .event (.copyPerform g.gid .cpl),
   .event (.engineCommandStart g.gid .cps), .event (.copyBurst g.gid .cps), .event (.copyPerform g.gid .cps),
   .event (.qfencePerform g.gid .mat), .event (.qfencePerform g.gid .vec),
   .event (.qfencePerform g.gid .cpl), .event (.qfencePerform g.gid .cps),
   .event (.mredRoundComplete g.gid), .event (.reductionWatchdog g.gid),
   .event (.waitReread g.gid .a), .event (.waitReread g.gid .c),
   .event (.storeBufferDrain g.gid .a 0), .event (.storeBufferDrain g.gid .c 0),
   .event (.groupStopComplete g.gid), .event (.groupSave g.gid), .event (.groupResume g.gid), .event (.jobEnd g.gid)] ++
  (List.range 4).flatMap (fun q =>
    let x := g.qs.toList.getD q Queue.reset
    (List.range x.ents.length).map (fun k => .event (.lqFill g.gid q ((x.head + k) % 32))))

/-- The turns of the device's agents in rotation, for a state whose agenda is empty (log 1). -/
def State.rotation (s : State) : List Turn :=
  s.groups.flatMap groupTurns ++
  s.launches.flatMap (fun l => [.event (.launchAdmit l.lid), .event (.groupPlacement l.lid)] ++
    l.sets.map (fun c => .event (.calve l.lid c.west))) ++
  s.groups.map (fun g => .event (.preemptionRequest g.gid)) ++
  s.ctxs.map (fun c => .event (.trapRecordWrite c.num)) ++
  (List.range s.unmaps.length).map (fun k => .event (.unmapComplete k)) ++
  (List.range (8 * s.ctxs.length)).map (fun k =>
    .event (.packetTake (8 * ((s.ctxs.map Context.num).getD (k / 8) 0) + k % 8))) ++
  s.ctxs.map (fun c => .event (.packetTake (512 + c.num))) ++
  [.event .createCtx, .event .killCtx, .event .preemptCtx, .event .resumeCtx, .event .resumeGroup, .event .unmap,
   .event .pwin, .event .frame, .event .pcfg, .event .qrel, .event .route, .event .mgmtInvalidRequest, .event .eventWrite]

/-- The turn made now, and the state with it taken from the agenda (log 1). -/
def State.takeTurn (s : State) : Turn × State :=
  match s.agenda with
  | t :: rest => (t, { s with agenda := rest })
  | [] => (s.rotation.getD (s.now % s.rotation.length) (.event .eventWrite), s)

/-- A turn as the instruction that `exec` runs: a stream fetches, an event stands for itself. -/
def State.openTurn (s : State) (t : Turn) : Fetched :=
  match t with
  | .stream gid sl => s.fetchInstr gid sl
  | .event e => if isEvent e then .run s e else .idle s
  | .hostStore a bs => .idle (s.performWrite (.host a) bs false true)
  | .peerStore peer a bs => .idle (s.peerStore peer a bs)
  | .sclFails as => .idle { s with sclBad := as }

end Sys2Proof.Machine
end

