-- ==== Sys2Proof/Machine/Operands.lean ====
section
/-! DEFINITION. The operand forms of engine commands: region descriptors and their elements (R84, R86, R87, R191 to
R195), slot and accumulator descriptors (R172), the chain configuration (R152), nest sets (R271 to R273), and the
advance of operands in a replay (R290). -/

namespace Sys2Proof.Machine

open Sys2Proof

/-! ### Region descriptors -/

/-- A region descriptor (R191). -/
structure Region where
  rsv    : Nat
  fmt    : Nat
  count  : Nat
  stride : Int
  base   : Nat
  deriving DecidableEq, Repr

def regionOf (w : Word) : Region :=
  { rsv := wbits w 63 62, fmt := wbits w 61 58, count := wbits w 57 42,
    stride := (BitVec.ofNat 16 (wbits w 41 26)).toInt, base := wbits w 25 0 }

/-- The word of a format entry in a group's working copy; 0 for a fixed entry (R81, R392). -/
def Group.fmtWord (g : Group) (i : Nat) : BitVec 32 := if i < 10 then 0 else g.fmt.toList.getD (i - 10) 0

/-- Element size in bytes for alignment: 1 for 4-bit elements (R192). -/
def Format.size (f : Format) : Nat := f.width / 8 |> max 1

/-- Bytes of one MX block (R86). -/
def Format.block (f : Format) : Nat := if f.width == 8 then 33 else 17

/-- Image size of `n` consecutive elements (R84, R86). -/
def Format.bytes (f : Format) (n : Nat) : Nat :=
  if f.mx then (n + 31) / 32 * f.block else (n * f.width + 7) / 8

/-- R192: the first byte and the nibble of element `k`; an MX element lies as in R86. -/
def elemPlace (r : Region) (f : Format) (k : Nat) : Int × Nat :=
  if f.mx then
    let b := k / 32
    let i := k % 32
    if f.width == 8 then ((r.base + 33 * b + i : Nat), 0) else ((r.base + 17 * b + i / 2 : Nat), i % 2)
  else if f.width == 4 then
    let q : Int := 2 * r.base + k * r.stride
    (q / 2, (q % 2).toNat)
  else ((r.base : Int) + k * r.stride * (f.size : Nat), 0)

/-- The scale byte of the block of element `k` (R86). -/
def scalePlace (r : Region) (f : Format) (k : Nat) : Nat := r.base + f.block * (k / 32) + (f.block - 1)

/-- The bytes, lowest and past the highest, that elements 0 to n-1 of a region touch (R87, R195). -/
def regionSpan (r : Region) (f : Format) (n : Nat) : Int × Int :=
  if f.mx then ((r.base : Int), (r.base + f.bytes n : Nat))
  else
    let a := (elemPlace r f 0).1
    let b := (elemPlace r f (n - 1)).1
    (min a b, max a b + (f.size : Nat))

/-- R195: a region of `n` elements touched, in a scratchpad row of extent `x`. -/
def regionOk (x : Nat) (r : Region) (f : Format) (n : Nat) : Bool :=
  r.rsv == 0 && r.base < 2 ^ 22 &&
  (f.width ≤ 8 || r.base % f.size == 0) &&
  (r.stride != 1 || r.base % 64 == 0) &&
  (!f.mx || r.stride == 1) &&
  (n == 0 || (0 ≤ (regionSpan r f n).1 && (regionSpan r f n).2 ≤ (x : Int)))

/-- The region restrictions of matrix commands (R174, R176, R177): unit stride, BASE[25:22] and BASE[5:0] zero.
The reserved bits [63:62] of R191 stand with them, after the formats, R172 giving their check no place (log 23). -/
def matrixRegionOk (r : Region) : Bool := r.rsv == 0 && r.stride == 1 && r.base < 2 ^ 22 && r.base % 64 == 0

/-- The group offset of row `i`, row offset `o` (R187). -/
def rowOff (i o : Nat) : Nat := i * 2 ^ 22 + o

/-- Bits of element `k` of a region in row `i`, its scale byte, and whether it met poison, in which case all are zero (R190).
Of an MX element either of its two bytes poisoned makes the element poisoned (log 44). A place outside the row, which only
an edited queue entry names, is used as it stands (log 49). -/
def Group.elem (g : Group) (i : Nat) (r : Region) (f : Format) (k : Nat) : Nat × Nat × Bool :=
  let (p, nib) := elemPlace r f k
  let a := rowOff i p.toNat
  let raw := leNat (g.spadRead a f.size)
  let bits := if f.width == 4 then (if nib == 0 then raw % 16 else raw / 16) else raw
  let bad := g.spadPoisoned a f.size
  if f.mx then
    let sa := rowOff i (scalePlace r f k)
    if bad || g.spadPoisoned sa 1 then (0, 0, true) else (bits, (g.spad.get sa).toNat, false)
  else if bad then (0, 0, true) else (bits, 0, false)

/-- The value of element `k`, and whether it met poison. -/
def Group.elemVal (g : Group) (i : Nat) (r : Region) (f : Format) (k : Nat) : XVal × Bool :=
  let (bits, x, bad) := g.elem i r f k
  (if bad then .fin false 0 0 else elemValue f bits x, bad)

/-- Writes the bits of element `k` of a non-MX region; a 4-bit element keeps its neighbour. A place outside the row as in
`elem` (log 49). -/
def Group.putElem (g : Group) (i : Nat) (r : Region) (f : Format) (k bits : Nat) : Group :=
  let (p, nib) := elemPlace r f k
  let a := rowOff i p.toNat
  if f.width == 4 then
    let old := (g.spad.get a).toNat
    let v := if nib == 0 then old / 16 * 16 + bits % 16 else old % 16 + 16 * (bits % 16)
    g.spadWrite a [BitVec.ofNat 8 v] false false
  else g.spadWrite a (leBytes f.size bits) false false

/-! ### Matrix descriptors -/

def slotCstep (w : Word) : Int := (BitVec.ofNat 16 (wbits w 47 32)).toInt
def slotRstep (w : Word) : Int := (BitVec.ofNat 16 (wbits w 31 16)).toInt

/-- R173: the slot of cell (i, col). -/
def slotAt (w : Word) (i col : Nat) : Int := (wbits w 15 0 : Nat) + i * slotRstep w + col * slotCstep w

def accV (w : Word) : Nat := wbits w 27 16 + 1
def accE (w : Word) : Nat := wbits w 11 0

/-- The fields of the chain configuration (R152). -/
def cfgCols (w : Word) : Nat := wbits w 6 0
def cfgN (w : Word) : Nat := wbits w 9 8
def cfgTol (w : Word) : Nat := wbits w 21 16

/-- The window capacity that an N or SP code names (R152). -/
def sparseN (code : Nat) : Nat := match code with | 1 => 16 | 2 => 24 | 3 => 32 | _ => 0

/-! ### Nest sets -/

/-- Iterations of a dimension that are not skipped (R273). -/
def NestDim.eff (d : NestDim) : Nat :=
  if d.limit = 0 then d.bound.toNat else min d.bound.toNat d.limit.toNat

/-- The number of tuples of a nest set that are not skipped. -/
def nestCount (n : List NestDim) : Nat := (n.map NestDim.eff).foldl (· * ·) 1

/-- R273: the source and destination offsets of the r-th tuple that is not skipped; dimension 0 varies fastest. -/
def nestOffsets : List NestDim → Nat → Int × Int
  | [], _ => (0, 0)
  | d :: rest, r =>
    let i := r % d.eff
    let (so, do_) := nestOffsets rest (r / d.eff)
    (i * d.sstr.toInt + so, i * d.dstr.toInt + do_)

/-! ### Operands of commands -/

/-- What an operand register of a command holds, for capture (R392) and replay (R290). -/
inductive OpKind where
  | region
  | va
  | goff
  | acc
  | slot
  | other
  deriving DecidableEq, Repr

/-- The kinds of D, A, B and C of an engine command whose C register holds `c`. -/
def opKinds (i : Instr) (c : Word) : List OpKind :=
  let cp : List OpKind := [if wbits c 3 2 == 0 then .va else .goff, if wbits c 1 0 == 0 then .va else .goff, .other, .other]
  match i with
  | .ml _ => [.slot, .other, .other, .other]
  | .mlT _ => [.slot, .other, .other, .other]
  | .mm _ => [.acc, .region, .other, .other]
  | .mzero _ => [.acc, .other, .other, .other]
  | .mdrain _ => [.acc, .region, .other, .other]
  | .mred _ => [.region, .region, .other, .other]
  | .mcfg _ => [.other, .other, .other, .other]
  | .mfmt _ => [.other, .other, .other, .other]
  | .mchk _ => [.other, .other, .other, .other]
  | .vadd _ => [.region, .region, .region, .other]
  | .vsub _ => [.region, .region, .region, .other]
  | .vmul _ => [.region, .region, .region, .other]
  | .vfma _ => [.region, .region, .region, .region]
  | .vmax _ => [.region, .region, .region, .other]
  | .vmin _ => [.region, .region, .region, .other]
  | .vcmp _ => [.region, .region, .region, .other]
  | .vsel _ => [.region, .region, .region, .region]
  | .vtopk _ => [.region, .region, .region, .other]
  | .vgath _ => [.region, .region, .region, .other]
  | .vscat _ => [.region, .region, .region, .other]
  | .vlut _ => [.region, .region, .region, .other]
  | .vdot8 _ => [.region, .region, .region, .region]
  | .vfill _ => [.region, .other, .other, .other]
  | .vrand _ => [.region, .other, .other, .other]
  | .cp _ => cp
  | .cpRed _ => cp
  | .cpBc _ => cp
  | _ => [.region, .region, .other, .other]

/-- R290: an operand advanced by a replay; none where it leaves its range, as an EBASE below 0 does too (log 48). -/
def advanceOp (k : OpKind) (v : Word) (d : Int) : Option Word :=
  match k with
  | .region =>
    let b : Int := (wbits v 25 0 : Nat) + d
    if b < 0 || 2 ^ 26 ≤ b then none else some (BitVec.ofNat 64 (v.toNat / 2 ^ 26 * 2 ^ 26 + b.toNat))
  | .va => some (v + BitVec.ofInt 64 d)
  | .goff =>
    let b : Int := v.toNat + d
    if b < 0 || 2 ^ 26 ≤ b then none else some (BitVec.ofNat 64 b.toNat)
  | .acc =>
    let e : Int := (accE v : Nat) + d
    if e < 0 || 4096 < e + (accV v : Nat) then none else some (BitVec.ofNat 64 (v.toNat / 2 ^ 12 * 2 ^ 12 + e.toNat))
  | .slot =>
    let b : Int := (wbits v 15 0 : Nat) + d
    if b < 0 || 65536 ≤ b then none else some (BitVec.ofNat 64 (v.toNat / 2 ^ 16 * 2 ^ 16 + b.toNat))
  | .other => some v

/-- The region formats of a command, from its captured words in the order D, A, B, C (R392). -/
def Cmd.word (c : Cmd) (k : Nat) : BitVec 32 := c.fmtw.getD k 0

def Cmd.imm (c : Cmd) : BitVec 12 := fld c.w2 0 12
def Cmd.mod (c : Cmd) : BitVec 6 := fld c.w1 0 6
def Cmd.wen (c : Cmd) : Bool := c.w1.getLsbD 21
def Cmd.wsem (c : Cmd) : BitVec 4 := fld c.w1 22 4
def Cmd.sen (c : Cmd) : Bool := c.w1.getLsbD 16
def Cmd.ssem (c : Cmd) : BitVec 4 := fld c.w1 17 4
def Cmd.pred (c : Cmd) : Nat := (fld c.w1 13 3).toNat
def Cmd.sat (c : Cmd) : Bool := c.imm.getLsbD 3

/-- A captured operand with the format of its region; `k` is its place among the captured words. -/
structure Arg where
  r : Region
  f : Format
  deriving DecidableEq, Repr

def mkArg (v : Word) (w : BitVec 32) : Option Arg :=
  let r := regionOf v
  (formatOf r.fmt w).map (fun f => { r := r, f := f })

/-- The E fields of a decoded command. -/
def Cmd.eword (c : Cmd) : EWord :=
  { wsem := c.wsem, wen := c.wen, ssem := c.ssem, sen := c.sen, pred := fld c.w1 13 3, mod := c.mod,
    d := fld c.w2 27 5, a := fld c.w2 22 5, b := fld c.w2 17 5, c := fld c.w2 12 5, imm := c.imm }

end Sys2Proof.Machine
end

