-- ==== Sys2Proof/Machine/Sync.lean ====
section
/-! DEFINITION. Semaphores and transaction barriers (R286 to R303). -/

namespace Sys2Proof.Machine

open Sys2Proof

/-! ### Semaphores -/

def Group.sem (g : Group) (k : Nat) : Sem := g.sems.toList.getD k Sem.reset

def Group.setSem (g : Group) (k : Nat) (x : Sem) : Group :=
  if h : k < 16 then { g with sems := g.sems.set k x } else g

/-- The engine queues of a group. -/
def allQueues : List EQueue := [.mat, .vec, .cpl, .cps]

/-- Marks the head of a queue as begun (R295). -/
def Group.startHead (g : Group) (q : EQueue) : Group :=
  match g.queue q with
  | c :: rest => g.setQueue q ({ c with started := true } :: rest)
  | [] => g

/-- R269: the engines of a home stack that copies hold; a copy that executes holds one while its group runs. -/
def State.enginesBusy (s : State) (home : Nat) : List Nat :=
  s.groups.flatMap (fun h =>
    if h.stack0 == home && (h.status == .running || h.status == .stopping) then
      ((h.queue .cpl).take 1 ++ (h.queue .cps).take 1).filterMap Cmd.eng
    else [])

/-- R269: the free engine of lowest index. -/
def State.freeEngine (s : State) (home : Nat) : Option Nat := (List.range 6).find? (fun k => !(s.enginesBusy home).contains k)

def isCopy : EQueue → Bool
  | .cpl => true
  | .cps => true
  | _ => false

/-- The free copy engine of lowest index takes the head of a queue: the stack's pointers move past the winner (R269, R351). -/
def State.takeEngine (s : State) (g : Group) (q : EQueue) : State :=
  let k := s.freeEngine g.stack0
  let s := s.mapGrp g.gid (fun g =>
    { (match g.queue q with
       | c :: rest => g.setQueue q ({ c with started := true, eng := k } :: rest)
       | [] => g) with lastCopy := some q })
  s.setStack g.stack0 { s.stack g.stack0 with copyPtr := (g.ctl + 1) % 256 }

/-- The head of a queue begins (R295); a copy does so with an engine (R269). -/
def State.beginHead (s : State) (g : Group) (q : EQueue) : State :=
  if isCopy q then s.takeEngine g q else s.mapGrp g.gid (fun g => g.startHead q)

/-- What a waiter does that has taken its unit: a slice goes on after its `sem.wait`, a queue head has begun. An engine takes a
copy in its turn (R269, R295). -/
def State.released (s : State) (gid : Nat) : Waiter → State
  | .slice sl => s.advance gid sl
  | .queue q => s.mapGrp gid (fun g => g.startHead q)

/-- The waiters of a semaphore are left unexecuted, and wait no more; they keep their order for a group that is not stopped after all
(R118, R388, R389). -/
def Sem.leave (x : Sem) : Sem := { x with waiters := [], left := x.left ++ x.waiters }

/-- Sets VALUE and serves the waiters (R294): the first of them take a unit each, at once, and then go on. In a group that begins
nothing (R379, R388) they are left unexecuted. -/
def State.semTo (s : State) (gid k v : Nat) : State :=
  match s.grp? gid with
  | none => s
  | some g =>
    let x := g.sem k
    if v == 0 then s.setGrp (g.setSem k { x with value := v })
    else if !g.mayBegin then s.setGrp (g.setSem k { x.leave with value := v })
    else
      (x.waiters.take v).foldl (fun s w => s.released gid w)
        (s.setGrp (g.setSem k { x with value := v - x.waiters.length, waiters := x.waiters.drop v }))

/-- The waiters that a pre-emption had left unexecuted wait again, in their order and ahead of later ones, and are served (R294). -/
def State.waitAgain (s : State) (gid k : Nat) : State :=
  match s.grp? gid with
  | none => s
  | some g =>
    let x := g.sem k
    if x.left.isEmpty then s
    else (s.setGrp (g.setSem k { x with waiters := x.left ++ x.waiters, left := [] })).semTo gid k x.value

/-- A group that cannot be saved is not pre-empted, and goes on (R389). -/
def State.stay (s : State) (gid : Nat) : State :=
  (List.range 16).foldl (fun s k => s.waitAgain gid k) (s.mapGrp gid (fun g => { g with preq := false }))

/-- R303: a wait on semaphore `k` that no agent can satisfy; `waits` says which slices wait on it. -/
def Group.starved (g : Group) (k : Nat) (waits : Slice → Bool) : Bool :=
  (g.sem k).value == 0 &&
  [Slice.a, Slice.c].all (fun sl => waits sl || (g.stream sl).joined) &&
  !g.eq.toList.any (fun q => q.any (fun c => c.qf.isNone && c.sen && c.ssem.toNat == k))

def Group.waitsOn (g : Group) (k : Nat) (sl : Slice) : Bool := (g.sem k).waiters.contains (.slice sl)

/-- A waiter takes a unit now: VALUE is above 0 and none waits ahead of it (R294). -/
def Sem.free (x : Sem) (w : Waiter) : Bool := x.value != 0 && (x.waiters.isEmpty || x.waiters.head? == some w)

/-- The decrement of a waiter. -/
def Sem.take (x : Sem) (w : Waiter) : Sem := { x with value := x.value - 1, waiters := x.waiters.filter (fun y => y != w) }

/-- A waiter that joins the queue of R294. -/
def Sem.join (x : Sem) (w : Waiter) : Sem := if x.waiters.contains w then x else { x with waiters := x.waiters ++ [w] }

/-- R303: the head of a queue that waits on a starved semaphore. -/
def Group.stuckHead (g : Group) (q : EQueue) : Option (Cmd × TrapInfo) :=
  match g.queue q with
  | c :: _ =>
    let k := c.wsem.toNat
    if c.wen && !c.started && c.qf.isNone && g.starved k (g.waitsOn k) then some (c, { cause := 0x11, addr := k }) else none
  | [] => none

/-- The traps of the queue heads of a group, as it was, that wait on starved semaphores (R303, R380). -/
def State.raiseHeads (s : State) (g : Group) : State :=
  allQueues.foldl (fun s q =>
    match g.stuckHead q with | some (c, t) => s.raise g.gid q.src t false c.idx | none => s) s

/-- R303: every wait of the group on a semaphore that has become starved traps, together: the C-slice's `sem.wait` first, whose
trap is the one recorded of the streams' (R118), then the A-slice's and the queue heads'. -/
def State.starve (s : State) (gid k : Nat) : State :=
  match s.grp? gid with
  | none => s
  | some g =>
    if !g.starved k (g.waitsOn k) then s
    else
      ([Slice.c, Slice.a].foldl (fun s sl =>
        if g.waitsOn k sl then s.trapStream gid sl { cause := 0x11, addr := k } false else s) s).raiseHeads g

/-- `sem.wait` (R299, R303). -/
def execSemWait (k : BitVec 4) (s : State) : Out :=
  issue s (fun gid sl g _ =>
    let x := g.sem k.toNat
    let me : Waiter := .slice sl
    if x.free me then (s.setGrp (g.setSem k.toNat (x.take me))).done gid sl
    else .next (((s.setGrp (g.setSem k.toNat (x.join me))).stallOn gid sl .semaphore).starve gid k.toNat))

/-- `sem.sig` (R299): a release of group scope, which waits for what R415 asks of a release. -/
def execSemSig (k : BitVec 4) (s : State) : Out :=
  issue s (fun gid sl g _ =>
    let x := g.sem k.toNat
    if x.ceil ≤ x.value then
      s.trapNow gid sl { cause := 0x18, addr := k.toNat, status := BitVec.ofNat 64 (x.value + 1) }
    else
      let s := s.settleLoads gid sl
      if !s.quietFor gid sl then .next (s.stallOn gid sl .peer)
      else ((s.release gid sl 0).semTo gid k.toNat (x.value + 1)).done gid sl)

/-- `sem.set` (R299). -/
def execSemSet (k : BitVec 4) (a : Reg) (s : State) : Out :=
  issue s (fun gid sl g st =>
    let v := (st.rd a).toNat
    if st.rp a then .next (s.loseControl gid sl)
    else if (g.sem k.toNat).ceil < v then s.trapNow gid sl { cause := 0x18, addr := k.toNat, status := st.rd a }
    else (s.semTo gid k.toNat v).done gid sl)

/-- `sem.ceil` (R299). -/
def execSemCeil (k : BitVec 4) (a : Reg) (s : State) : Out :=
  issue s (fun gid sl g st =>
    let v := (st.rd a).toNat
    let x := g.sem k.toNat
    if st.rp a then .next (s.loseControl gid sl)
    else if 65536 ≤ v || v < x.value then s.trapNow gid sl { cause := 0x18, addr := k.toNat, status := st.rd a }
    else (s.setGrp (g.setSem k.toNat { x with ceil := v })).done gid sl)

/-- `sem.rd` (R299). -/
def execSemRd (d : Reg) (k : BitVec 4) (s : State) : Out :=
  issue s (fun gid sl g st =>
    let x := g.sem k.toNat
    (s.setStream gid sl (st.wr d (BitVec.ofNat 64 (x.ceil * 65536 + x.value)) false)).done gid sl)

/-! ### Transaction barriers (R286 to R289) -/

/-- A transaction barrier. -/
structure Tbar where
  exp   : Nat
  arr   : Nat
  phase : Bool
  spare : Nat
  deriving DecidableEq, Repr

def tbarOf (bs : List Byte) : Tbar :=
  let v := leNat bs
  { exp := natBits v 31 0, arr := natBits v 63 32, phase := natBits v 64 64 == 1, spare := natBits v 127 96 }

/-- The image; bits [95:65] are written as zero (R286). -/
def Tbar.bytes (t : Tbar) : List Byte :=
  leBytes 4 t.exp ++ leBytes 4 t.arr ++ leBytes 4 (if t.phase then 1 else 0) ++ leBytes 4 t.spare

/-- The completion rule (R288). -/
def Tbar.complete (t : Tbar) : Tbar :=
  if 0 < t.exp && t.arr == t.exp then { t with phase := !t.phase, arr := 0, exp := 0 } else t

/-- A barrier of a group, with its poison, once the stores that the reader sees are performed. -/
def State.tbarAt (s : State) (v : Viewer) (gid o : Nat) : State × Option (Tbar × Bool) :=
  let s := s.drainOverlap v true (.spad o) 16
  match s.grp? gid with
  | some g => (s, some (tbarOf (g.spadRead o 16), g.spadPoisoned o 16))
  | none => (s, none)

def State.setTbar (s : State) (gid o : Nat) (t : Tbar) : State := s.mapGrp gid (fun g => g.spadWrite o t.bytes false true)

/-- The checks of R301; `max` bounds the operand. -/
def tbarCheck (g : Group) (o c max : Nat) : Bool :=
  o < 2 ^ 26 && o % 16 == 0 && o / 2 ^ 22 < g.n && o % 2 ^ 22 + 16 ≤ g.x && c < max

/-- A `tbar` instruction up to its operation on the barrier (R301). -/
def tbarOp (i : Instr) (a b : Reg) (max : Nat) (f : State → Nat → Slice → Nat → Nat → Tbar → Out) (s : State) : Out :=
  issue s (fun gid sl g st =>
    let o := (st.rd a).toNat
    let c := (st.rd b).toNat
    if st.rp a || st.rp b then .next (s.loseControl gid sl)
    else if !tbarCheck g o c max then s.trapNow gid sl { cause := 0x21, status := encodeStatus i }
    else
      match s.tbarAt (g.viewer sl) gid o with
      | (s, none) => .next s
      | (s, some (t, bad)) =>
        if bad then .next (s.loseContext g.ctx { reason := 5, src := sl.src, gid := some gid, place := some (.spad o), va := 0 })
        else f s gid sl o c t)

/-- `tbar.init` (R301). -/
def execTbarInit (a b : Reg) (s : State) : Out :=
  tbarOp (.tbarInit a b) a b (2 ^ 32) (fun s gid sl o c t =>
    (s.setTbar gid o { t with exp := c, arr := 0, phase := false }).done gid sl) s

/-- `tbar.exp` (R301). -/
def execTbarExp (a b : Reg) (s : State) : Out :=
  tbarOp (.tbarExp a b) a b (2 ^ 32) (fun s gid sl o c t =>
    if 2 ^ 32 ≤ t.exp + c then s.trapNow gid sl { cause := 0x1A, addr := o, status := BitVec.ofNat 64 (t.exp + c) }
    else (s.setTbar gid o { t with exp := t.exp + c }.complete).done gid sl) s

/-- A stalled wait begins (R245, R301): its place in the order of waits. One that has begun goes on with what it waits for as read
now, at the same place. It has read what it waits for in this step. -/
def State.beginWait (s : State) (gid : Nat) (sl : Slice) (k : Stall) (what : WaitFor) : State :=
  match s.grp? gid with
  | none => s
  | some g =>
    match (g.stream sl).waiting with
    | some w => s.mapStream gid sl (fun st => { st with stall := some k, waiting := some { w with what := what, since := s.nextTag } })
    | none =>
      { s.mapStream gid sl (fun st =>
          { st with stall := some k, waiting := some { order := s.nextWait, what := what, caught := none, ahead := [], since := s.nextTag } })
        with nextWait := s.nextWait + 1 }

/-- A stalled wait has found what it waits for since it began. -/
def Stream.caught (st : Stream) : Bool := (st.waiting.bind Waiting.caught).isSome

/-- `tbar.wait` (R301): loads of a slice are made in order, so nothing later is seen before its acquire. It completes where
PHASE differs from its operand, or has differed since it stalled. -/
def execTbarWait (a b : Reg) (s : State) : Out :=
  tbarOp (.tbarWait a b) a b 2 (fun s gid sl o c t =>
    let met := match s.grp? gid with | some g => (g.stream sl).caught | none => false
    if t.phase == (c == 1) && !met then .next (s.beginWait gid sl .barrier (.barrier o (c == 1))) else s.done gid sl) s

end Sys2Proof.Machine
end

