-- ==== Sys2Proof/Machine/Matrix.lean ====
section
/-! DEFINITION. The matrix path: tile images (R88 to R91), pairings (R93, R94), sums (R95 to R97, R168, R169), the checks
of matrix commands at issue (R173 to R182), and what each command does when it performs. -/

namespace Sys2Proof.Machine

open Sys2Proof

/-! ### Pairings -/

/-- A legal pairing (R93): its rate, whether it allows sparse tiles, and whether it is summed as a block. -/
structure Pairing where
  rate   : Nat
  sparse : Bool
  block  : Bool
  deriving DecidableEq, Repr

/-- R93, R94: weight entry `wi` with word `ww`, activation entry `ai` with word `aw`; entry `wi` itself pairs with it whatever its
word has become since the load, and another entry's word is compared with `ww`, the one that the latch captured (log 48). -/
def pairing (wi : Nat) (ww : BitVec 32) (ai : Nat) (aw : BitVec 32) : Option Pairing :=
  let pair (r : Nat) (sp bl : Bool) : Option Pairing := some { rate := r, sparse := sp, block := bl }
  if 10 ≤ wi then
    match formatOf wi ww with
    | none => none
    | some f =>
      let own := ai == wi || (10 ≤ ai && aw == ww)
      let rate := if f.width == 16 then 1 else if f.width == 8 then 2 else 4
      if ai == 0 then pair 1 false f.mx
      else if own then pair rate (!f.mx && f.width ≤ 8) f.mx
      else if f.mx && ai == 5 then pair 2 false true
      else none
  else
    match wi, ai with
    | 0, 0 => pair 1 false false
    | 1, 1 => pair 1 false false
    | 3, 3 => pair 2 true false
    | 3, 4 => pair 2 true false
    | 4, 3 => pair 2 true false
    | 4, 4 => pair 2 true false
    | 8, 8 => pair 2 true true
    | 7, 7 => pair 2 false true
    | 7, 8 => pair 2 true true
    | 5, 5 => pair 2 false true
    | 5, 3 => pair 2 true true
    | 5, 4 => pair 2 true true
    | 6, 6 => pair 4 false true
    | 6, 5 => pair 2 false true
    | 6, 3 => pair 2 true true
    | _, _ => none

/-! ### Tiles -/

/-- Image bytes of a tile (R88, R91). -/
def tileBytes (f : Format) (sp : Nat) : Nat :=
  if sp == 0 then (if f.mx then 32 * f.block else 128 * f.width)
  else if f.width == 8 then (if f.mx then 1824 else 1792)
  else (if f.mx then 1312 else 1280)

/-- The bits of an element of `width` bits, element `k` of packed elements that start at byte `a` (R84). -/
def packedElem (m : Memory) (a width k : Nat) : Nat :=
  if width == 16 then leNat (m.read (a + 2 * k) 2)
  else if width == 8 then (m.get (a + k)).toNat
  else natBits (m.get (a + k / 2)).toNat (4 * (k % 2) + 3) (4 * (k % 2))

/-- Dense tile: bits and scale byte of W[j][p] (R88, R89). -/
def denseElem (m : Memory) (f : Format) (t : Bool) (j p : Nat) : Nat × Nat :=
  let (j, p) := if t then (p, j) else (j, p)
  if f.mx then (packedElem m (f.block * j) f.width p, (m.get (f.block * j + (f.block - 1))).toNat)
  else (packedElem m (4 * f.width * j) f.width p, 0)

/-- R91: the index of position p of lane j of a sparse tile. -/
def sparseIndex (m : Memory) (f : Format) (j p : Nat) : Nat :=
  let base := if f.width == 8 then 0x400 else 0x200
  natBits (leNat (m.read (base + 24 * j) 24)) (6 * p + 5) (6 * p)

/-- Sparse tile: bits and scale byte of position p of lane j (R91). -/
def sparseElem (m : Memory) (f : Format) (j p : Nat) : Nat × Nat :=
  (packedElem m (4 * f.width * j) f.width p,
   if f.mx then (m.get ((if f.width == 8 then 0x700 else 0x500) + j)).toNat else 0)

/-- Position p of lane j of the tile of chain column `t`: its K index and weight; none at an illegal index (R90, R91). -/
def Latch.at_ (l : Latch) (f : Format) (t j p : Nat) : Option (Nat × XVal) :=
  let n := sparseN l.sp
  if n == 0 then
    let (b, x) := denseElem l.image f l.t j p
    some (32 * t + p, elemValue f b x)
  else
    let i := sparseIndex l.image f j p
    if 48 ≤ i then none
    else
      let (b, x) := sparseElem l.image f j p
      some (48 * ((32 * t + p) / n) + i, elemValue f b x)

/-- The 32 lanes of a tile, 32 positions each. -/
def Latch.tile (l : Latch) (f : Format) (t : Nat) : List (List (Option (Nat × XVal))) :=
  (List.range 32).map (fun j => (List.range 32).map (fun p => l.at_ f t j p))

/-- The lanes of an MX tile whose scale byte is 0xFF (R96). -/
def Latch.nanLanes (l : Latch) (f : Format) : List Bool :=
  (List.range 32).map (fun j =>
    f.mx && (if sparseN l.sp == 0 then denseElem l.image f false j 0 else sparseElem l.image f j 0).2 == 255)

/-- The latch with the bytes that errors have changed in it (R394). -/
def Latch.struck (l : Latch) : Latch := { l with image := l.hits.foldl (fun m h => m.write h.1 [h.2]) l.image }

/-- A vector of the latch's adder with the elements that errors have changed (R394). -/
def Latch.struckSums (l : Latch) (weighted : Bool) (a : List F32) : List F32 :=
  l.sums.foldl (fun a h => if h.1 == weighted then a.set h.2.1 h.2.2 else a) a

/-- R168: the K positions that a tile covers. -/
def Latch.kpos (l : Latch) (t : Nat) : List Nat :=
  let n := sparseN l.sp
  if n == 0 then (List.range 32).map (fun p => 32 * t + p)
  else
    let lo := 48 * (32 * t / n)
    let hi := 48 * ((32 * t + 31) / n + 1)
    (List.range (hi - lo)).map (fun k => lo + k)

/-! ### Sums -/

/-- R96: one lane of one cell; `x` gives the activation at a K index, none where the product is absent (R162), and `nan` says that
the lane's scale byte is 0xFF. -/
def laneSum (block : Bool) (x : Nat → Option XVal) (nan : Bool) (ws : List (Option (Nat × XVal))) : F32 × FFlags :=
  let prods : List (Option (XVal × FFlags)) := ws.map (fun w => w.bind (fun w => (x w.1).map (fun v => mulX w.2 v)))
  let fl := prods.foldl (fun f p => match p with | some (_, g) => f ||| g | none => f) 0
  if block then
    let (v, f1) := sumX false (prods.filterMap (fun p => p.map Prod.fst))
    let (c, f2) := toF32 (if nan then .nan else v)
    (c, fl ||| f1 ||| f2)
  else
    let t0 := prods.map (fun p => match p with | some (v, _) => toF32 v | none => (0, 0))
    let fl := t0.foldl (fun f p => f ||| p.2) fl
    let (c, f1) := treeSum 5 (t0.map (fun p => some p.1))
    (c.getD 0, fl ||| f1)

/-- R168: the checksum vector of a tile: at each K position the rounded sum of the weights, each times its lane number
where `weighted`. -/
def checkVector (weighted : Bool) (tile : List (List (Option (Nat × XVal)))) (ks : List Nat) : List F32 :=
  let ws : List (Nat × XVal) := (tile.mapIdx (fun j lane => lane.filterMap (fun w =>
    w.map (fun w => (w.1, if weighted then (mulX (XVal.ofInt (j + 1)) w.2).1 else w.2))))).flatten
  ks.map (fun k => (toF32 (sumX false ((ws.filter (fun w => w.1 == k)).map Prod.snd)).1).1)

/-- R169: a checksum lane of one cell; +0 where every product is absent (DEDUCED from R96, log 10). -/
def checkLane (a : List F32) (ks : List Nat) (x : Nat → Option XVal) : F32 :=
  let terms := (ks.zip a).map (fun ka => (x ka.1).map (fun v => (toF32 (mulX (f32Val ka.2) v).1).1))
  (treeSum 7 terms).1.getD 0

/-- The 34 lanes of a cell for one vector, with its flags. -/
def cellSums (block : Bool) (tile : List (List (Option (Nat × XVal)))) (nans : List Bool) (ks : List Nat) (a1 a2 : List F32)
    (x : Nat → Option XVal) : List F32 × FFlags :=
  let outs := tile.mapIdx (fun j lane => laneSum block x (nans.getD j false) lane)
  (outs.map Prod.fst ++ [checkLane a1 ks x, checkLane a2 ks x], outs.foldl (fun f o => f ||| o.2) 0)

/-- Lane by lane addition; the checksum lanes raise no flag (R97, R169). -/
def addLanes (a b : List F32) : List F32 × FFlags :=
  let s := (a.zip b).map (fun p => addF32 p.1 p.2)
  (s.map Prod.fst, (s.take 32).foldl (fun f o => f ||| o.2) 0)

/-- R97: the partial sum over the active columns, west to east. -/
def chainSum : List (List F32 × FFlags) → List F32 × FFlags
  | [] => (List.replicate 34 0, 0)
  | c :: rest => rest.foldl (fun ps c =>
      let (s, f) := addLanes ps.1 c.1
      (s, ps.2 ||| c.2 ||| f)) c

/-! ### Attributes at issue (R155) -/

/-- A column's latch attributes: FMT, SP and entry word. -/
abbrev Attr := Option (Nat × Nat × BitVec 32)

/-- The entry word of a command's captured words. -/
def Cmd.mlAttr (c : Cmd) (t : Bool) : Nat × Nat × BitVec 32 :=
  ((c.imm.extractLsb' 0 4).toNat, if t then 0 else (c.imm.extractLsb' 4 2).toNat, c.word 0)

/-- The attributes of active and shadow latches of row 0, column by column. -/
def Group.attrs (g : Group) : List (Attr × Attr) :=
  (List.range (24 * g.w)).map (fun col =>
    let at_ (ls : List Latch) : Attr :=
      (ls.find? (fun l => l.row == 0 && l.col == col)).map (fun l => (l.fmt, l.sp, l.eword))
    (at_ g.active, at_ g.shadow))

/-- The attributes after one queued command. -/
def attrStep (xs : List (Attr × Attr)) (c : Cmd) : List (Attr × Attr) :=
  if c.null || c.qf.isSome then xs
  else
    match c.instr? with
    | some (.ml _) => xs.mapIdx (fun col x => if col < cfgCols c.cfg then (x.1, some (c.mlAttr false)) else x)
    | some (.mlT _) => xs.mapIdx (fun col x => if col < cfgCols c.cfg then (x.1, some (c.mlAttr true)) else x)
    | some (.mm _) => if c.mod.getLsbD 0 then xs.map (fun x => (x.2, x.1)) else xs
    | _ => xs

/-- The attributes that a command issued now finds when it executes. -/
def Group.issueAttrs (g : Group) : List (Attr × Attr) := (g.queue .mat).foldl attrStep g.attrs

/-- R180: the stored chain configuration; reserved bits read 0. -/
def cfgStored (v : Word) : Word := v &&& 0x3F037F#64

/-- The chain configuration in force for a command issued now (R155). -/
def Group.issueCfg (g : Group) : Word :=
  (g.queue .mat).foldl (fun cfg c =>
    match c.instr? with
    | some (.mcfg _) => if c.null || c.qf.isSome then cfg else cfgStored c.vD
    | _ => cfg) g.cfg

/-! ### Checks at issue: none when all pass, or the cause -/

def firstBad (l : List (Bool × Nat)) : Option Nat := (l.find? (fun x => !x.1)).map Prod.snd

def accOk (d : Word) : Bool := accE d + accV d ≤ 4096

/-- R173. -/
def checkMl (g : Group) (c : Cmd) (t : Bool) : Option Nat :=
  let fi := (c.imm.extractLsb' 0 4).toNat
  let sp := if t then 0 else (c.imm.extractLsb' 4 2).toNat
  let f := formatOf fi (c.word 0)
  let inRange (i col : Nat) : Bool := 0 ≤ slotAt c.vD i col && slotAt c.vD i col ≤ 65535
  let cols := cfgCols c.cfg
  let w := match f with | some f => f.width | none => 0
  let mx := match f with | some f => f.mx | none => false
  firstBad [
    (inRange 0 0 && inRange 0 (cols - 1) && inRange (g.n - 1) 0 && inRange (g.n - 1) (cols - 1), 0x21),
    (f.isSome, 0x20),
    (fi != 2 && fi != 9, 0x20),
    (sp == 0 || w == 8 || w == 4, 0x20),
    (!t || ((w == 16 || w == 8) && !mx), 0x20)]

/-- R174. -/
def checkMm (g : Group) (c : Cmd) : Option Nat :=
  let r := regionOf c.vA
  let cols := cfgCols c.cfg
  let n := sparseN (cfgN c.cfg)
  let kmax := if n == 0 then 32 * cols else 48 * ((32 * cols - 1) / n + 1)
  let pitch := wbits c.vB 25 0
  let xs := ((g.issueAttrs.map (fun x => if c.mod.getLsbD 0 then x.2 else x.1)).take cols)
  let af := formatOf r.fmt (c.word 1)
  let bytes := match af with | some f => f.bytes r.count | none => 0
  match xs.headD none with
  | none =>
    firstBad [(accOk c.vD, 0x21), (af.isSome, 0x20), (matrixRegionOk r, 0x21), (r.count ≤ kmax, 0x21),
      (pitch % 64 == 0, 0x21), (r.base + (accV c.vD - 1) * pitch + bytes ≤ g.x, 0x21), (false, 0x20)]
  | some (fi, sp, _) =>
    let ps := xs.map (fun x => x.bind (fun x => pairing x.1 x.2.2 r.fmt (c.word 1)))
    firstBad [(accOk c.vD, 0x21), (af.isSome, 0x20), (matrixRegionOk r, 0x21), (r.count ≤ kmax, 0x21),
      (pitch % 64 == 0, 0x21), (r.base + (accV c.vD - 1) * pitch + bytes ≤ g.x, 0x21),
      (xs.all (fun x => match x with | some (f', s', _) => f' == fi && s' == sp | none => false), 0x20),
      (ps.all (fun p => match p with | some p => sp == 0 || p.sparse | none => false), 0x20),
      (sp == cfgN c.cfg, 0x20)]

/-- R176. -/
def checkMdrain (g : Group) (c : Cmd) : Option Nat :=
  let r := regionOf c.vA
  let f := formatOf r.fmt (c.word 0)
  let bytes := match f with | some f => f.bytes r.count | none => 0
  firstBad [(accOk c.vD, 0x21), (f.isSome, 0x20),
    (matrixRegionOk r && r.count == 32 * accV c.vD && r.base + bytes ≤ g.x, 0x21),
    (match f with | some f => !f.mx | none => false, 0x20)]

/-- The fields of the rendezvous operand of `mred` (R177). -/
def redMask (b : Word) : Nat := wbits b 15 0
def redRoot (b : Word) : Nat := wbits b 19 16
def redCh (b : Word) : Nat := wbits b 23 20

/-- R177: at a stack other than the root, D is not used. MASK, which needs no element size, is checked before the formats, and the
validity of both formats together, R154 giving them no order (log 23). -/
def checkMred (g : Group) (c : Cmd) : Option Nat :=
  let r := regionOf c.vA
  let d := regionOf c.vD
  let root := redRoot c.vB == g.drain
  let within (r : Region) (w : BitVec 32) : Bool :=
    match formatOf r.fmt w with | some f => r.base + f.bytes r.count ≤ g.x | none => false
  firstBad [
    ((redMask c.vB).testBit g.drain && (redMask c.vB).testBit (redRoot c.vB), 0x21),
    ((formatOf r.fmt (c.word 1)).isSome && (!root || (formatOf d.fmt (c.word 0)).isSome), 0x20),
    (matrixRegionOk r && within r (c.word 1), 0x21),
    (!root || (matrixRegionOk d && within d (c.word 0) && d.count == r.count), 0x21),
    (r.fmt == 2 && (!root || d.fmt == 2), 0x20)]

/-- R180, R153. -/
def checkMcfg (g : Group) (c : Cmd) : Option Nat :=
  firstBad [(1 ≤ cfgCols c.vD && cfgCols c.vD ≤ 24 * g.w && cfgTol c.vD ≤ 40, 0x21)]

/-- R181. -/
def checkMfmt (c : Cmd) : Option Nat := firstBad [(10 ≤ (c.imm.extractLsb' 0 4).toNat, 0x21)]

/-- R182. -/
def checkMchk (g : Group) (c : Cmd) : Option Nat :=
  firstBad [(wbits c.vD 25 22 == 0 && wbits c.vD 21 0 % 64 == 0 && wbits c.vD 21 0 + 64 ≤ g.x, 0x21)]

/-! ### Performing -/

/-- The flags and checksum verdict of one drained entry. -/
inductive Verdict where
  | unchecked
  | clean
  | corrected
  | bad (d1 d2 : F32)
  deriving DecidableEq, Repr

/-- A finite FP32 value in units of 2^-149; none for an infinity or NaN. -/
def f32Units (a : F32) : Option Int :=
  match f32Val a with
  | .fin s m e => some (signedAt s m e (-149))
  | _ => none

/-- R170: verification of an entry's 34 lanes under TOL `t`, in units of 2^-149. A reserved TOL, which only an edited image can
bring here, counts as the factor 2^-TOL, as a COLS of 0 counts as no column (log 46). -/
def verifyEntry (lanes : List F32) (t : Nat) : List F32 × Verdict :=
  let us := lanes.map f32Units
  if t == 0 || us.any Option.isNone then (lanes, .unchecked)
  else
    let u (k : Nat) : Int := (us.getD k none).getD 0
    let y := (List.range 32).map u
    let sum (f : Nat → Int → Int) : Int := (y.mapIdx f).foldl (· + ·) 0
    let d1 := u 32 - sum (fun _ v => v)
    let d2 := u 33 - sum (fun j v => ((j : Int) + 1) * v)
    let e1 : Int := (u 32).natAbs + sum (fun _ v => v.natAbs)
    let e2 : Int := (u 33).natAbs + sum (fun j v => ((j : Int) + 1) * v.natAbs)
    let within (d e : Int) : Bool := (d.natAbs : Int) * 2 ^ t ≤ e
    let f32 (v : Int) : F32 := (toF32 (.fin (v < 0) v.natAbs (-149))).1
    if within d1 e1 && within d2 e2 then (lanes, .clean)
    else
      let fit : Option Nat := if within d1 e1 then none else (List.range 32).find? (fun j => within (d2 - ((j : Int) + 1) * d1) e2)
      match fit with
      | some j => (lanes.set j (f32 (u j + d1)), .corrected)
      | none => (lanes, .bad (f32 d1) (f32 d2))

/-- Saturating count of `mchk` (R182). -/
def satAdd (a b : Nat) : Nat := min (a + b) (2 ^ 32 - 1)

def Group.mchkRow (g : Group) (i : Nat) : MchkRow := g.mchk.getD i MchkRow.reset

def Group.setMchk (g : Group) (i : Nat) (m : MchkRow) : Group :=
  { g with mchk := (List.range g.n).map (fun k => if k == i then m else g.mchkRow k) }

/-- R170, R182: a verdict counted in the row's counters. -/
def MchkRow.count (m : MchkRow) (v : Verdict) (entry : Nat) (fl : FFlags) : MchkRow :=
  let m := { m with flags := m.flags ||| fl }
  match v with
  | .clean => m
  | .unchecked => { m with unchk := satAdd m.unchk 1 }
  | .corrected => { m with corr := satAdd m.corr 1 }
  | .bad d1 d2 => { m with uncorr := satAdd m.uncorr 1, lastbad := some entry, lastd1 := d1, lastd2 := d2 }

/-! #### Accumulator entries (R164) -/

def AccEntry.clean (row entry : Nat) : AccEntry :=
  { row := row, entry := entry, lanes := List.replicate 34 0, flags := 0, dirty := false }

def Group.accEntry (g : Group) (row entry : Nat) : AccEntry :=
  (g.acc.find? (fun e => e.row == row && e.entry == entry)).getD (AccEntry.clean row entry)

def insertAcc (e : AccEntry) : List AccEntry → List AccEntry
  | [] => [e]
  | f :: rest =>
    if e.row < f.row || (e.row == f.row && e.entry < f.entry) then e :: f :: rest
    else if e.row == f.row && e.entry == f.entry then e :: rest
    else f :: insertAcc e rest

def Group.setAcc (g : Group) (e : AccEntry) : Group := { g with acc := insertAcc e g.acc }

/-- Entries that a drain leaves clean are no longer listed. -/
def Group.dropAcc (g : Group) (row e v : Nat) : Group :=
  { g with acc := g.acc.filter (fun a => !(a.row == row && e ≤ a.entry && a.entry < e + v)) }

/-! #### Latch loads -/

/-- The place of the slot that a load reads for a cell (R149, R159); a column beyond the chain lies in the stack that follows in
number (log 46). A slot outside 0 to 65,535, which only an edited entry or load record names, wraps in its vault (log 49). -/
def Group.slotPlace (g : Group) (d : Word) (i col : Nat) : Nat :=
  vaultAddr (g.stack0 + col / 24) (g.row0 + i) (col % 24) (2048 * (slotAt d i col % 65536).toNat)

/-- The cells that a load writes, in order of i and then col; COLS above 24w, which only an edited image brings, is taken as it
stands (log 46). -/
def Group.cells (g : Group) (cols : Nat) : List (Nat × Nat) :=
  (List.range g.n).flatMap (fun i => (List.range cols).map (fun col => (i, col)))

/-- R20, R160: what a latch load reads of a slot: the `n` bytes of the tile, poisoned sectors as zero, and whether any of the
slot's eight sectors is poisoned. -/
def State.slotImage (s : State) (v : Viewer) (p n : Nat) : Memory × Bool :=
  let vis := s.visible v
  let bs := (List.range n).map (fun k =>
    let l : MemLoc := .vault (p + k)
    if s.viewPoison vis l then 0 else s.viewByte v vis l)
  (Memory.write [] 0 bs, (List.range 8).any (fun k => s.viewPoison vis (.vault (p + 256 * k))))

/-- The reader that an engine command is: its group under the binding in force at issue (R320). -/
def engineViewer (gid : Nat) (b : Binding) : Viewer := { gid := some gid, sl := none, upTo := none, bind := b }

/-- A latch as a load under a binding fills it. -/
def loadLatch (b : Binding) (i col fi sp : Nat) (t : Bool) (d : Word) (imm : BitVec 12) (ew : BitVec 32) (image : Memory) : Latch :=
  { row := i, col := col, fmt := fi, sp := sp, t := t, slotD := d, imm := imm, eword := ew, image := image, hits := [], sums := [], bind := b }

/-- Any illegal sparse index in a latch (R91, R164). -/
def Latch.ic (l : Latch) (f : Format) : Bool := (l.tile f 0).any (fun lane => lane.any Option.isNone)

/-- R173: the load of every active cell into its shadow latch; an invalid captured word loads nothing (log 49). -/
def State.performMl (s : State) (gid : Nat) (c : Cmd) (t : Bool) : Except TrapInfo State :=
  match s.grp? gid with
  | none => .ok s
  | some g =>
    let (fi, sp, ew) := c.mlAttr t
    let cells := g.cells (cfgCols c.cfg)
    match cells.find? (fun x => !s.owns g.ctx (g.slotPlace c.vD x.1 x.2)) with
    | some x => .error { cause := 0x09, phys := true, addr := g.slotPlace c.vD x.1 x.2 }
    | none =>
      match formatOf fi ew with
      | none => .ok s
      | some f =>
        let v := engineViewer gid (bindOf g.ctx c.bind)
        let loads := cells.map (fun x =>
          let (m, pz) := s.slotImage v (g.slotPlace c.vD x.1 x.2) (tileBytes f sp)
          (loadLatch v.bind x.1 x.2 fi sp t c.vD c.imm ew m, pz))
        let rest := g.shadow.filter (fun l => cfgCols c.cfg ≤ l.col)
        let g := { g with shadow := rest ++ loads.map Prod.fst }
        let bad := loads.filter Prod.snd
        let g := bad.foldl (fun g x =>
          let m := g.mchkRow x.1.row
          g.setMchk x.1.row { m with pois := satAdd m.pois 1 }) g
        let s := s.setGrp g
        .ok (if bad.isEmpty then s else s.dataPoison gid)

/-! #### The pass -/

/-- R162, R163: the activations of one vector, in row 0's scratchpad; a poisoned element is +0. -/
def Group.activations (g : Group) (r : Region) (f : Format) (base : Nat) : List XVal × Bool :=
  let r := { r with base := base }
  let es := (List.range r.count).map (fun k => g.elemVal 0 r f k)
  (es.map Prod.fst, es.any Prod.snd)

/-- What one column of a row holds for the pass. -/
structure Column where
  tile  : List (List (Option (Nat × XVal)))
  nans  : List Bool
  ks    : List Nat
  a1    : List F32
  a2    : List F32
  block : Bool
  ic    : Bool

/-- The columns of a row for a pass; none stands for an empty latch, which only an edited image can bring here. An index byte that an
error has struck since the load is read as it stands, for IC too (log 46). The tile is read by the latch's own format and entry
word, and a pairing that R93 does not give, which only an edited entry brings, is summed as the Tree (log 49). -/
def Group.columns (g : Group) (i cols ai : Nat) (aw : BitVec 32) : List (Option Column) :=
  (List.range cols).map (fun col =>
    (g.active.find? (fun l => l.row == i && l.col == col)).bind (fun l =>
      (formatOf l.fmt l.eword).map (fun f =>
        -- the adder formed its vectors from the tile as loaded
        let tile := l.tile f col
        let ks := l.kpos col
        { tile := l.struck.tile f col, nans := l.struck.nanLanes f, ks := ks,
          a1 := l.struckSums false (checkVector false tile ks), a2 := l.struckSums true (checkVector true tile ks),
          block := match pairing l.fmt l.eword ai aw with | some p => p.block | none => false,
          ic := l.struck.ic f })))

/-- The sums of one cell; those of an empty latch are free values (log 9). -/
def columnSums (now i col : Nat) (c : Option Column) (x : Nat → Option XVal) : List F32 × FFlags :=
  match c with
  | some c =>
    let (l, f) := cellSums c.block c.tile c.nans c.ks c.a1 c.a2 x
    (l, f ||| flagIf c.ic flagIC)
  | none => ((List.range 34).map (fun lane => Config.emptyLatch now i col lane), 0)

/-- One vector of one row into its entry (R164, R174). -/
def passEntry (now i : Nat) (cols : List (Option Column)) (acc : Bool) (xs : List XVal) (e : AccEntry) : AccEntry :=
  let (ps, fl) := chainSum (cols.mapIdx (fun col c => columnSums now i col c (fun k => xs[k]?)))
  if acc then
    let (l, f) := addLanes e.lanes ps
    { e with lanes := l, flags := e.flags ||| fl ||| f, dirty := true }
  else { e with lanes := ps, flags := fl, dirty := true }

/-- R174. Entries beyond 4,095, which only an edited queue entry names, are used as they stand (log 46); with an invalid captured
word it only exchanges the latches (log 49). -/
def State.performMm (s : State) (gid : Nat) (c : Cmd) : State :=
  match s.grp? gid with
  | none => s
  | some g =>
    let g := if c.mod.getLsbD 0 then { g with active := g.shadow, shadow := g.active } else g
    let r := regionOf c.vA
    match formatOf r.fmt (c.word 1) with
    | none => s.setGrp g
    | some f =>
      let pitch := wbits c.vB 25 0
      let vecs := (List.range (accV c.vD)).map (fun v => g.activations r f (r.base + v * pitch))
      let g' := (List.range g.n).foldl (fun h i =>
        let cols := g.columns i (cfgCols c.cfg) r.fmt (c.word 1)
        (vecs.mapIdx (fun v x => (v, x.1))).foldl (fun h vx =>
          h.setAcc (passEntry s.now i cols (c.mod.getLsbD 1) vx.2 (h.accEntry i (accE c.vD + vx.1)))) h) g
      let s := s.setGrp g'
      if vecs.any Prod.snd then s.dataPoison gid else s

/-- R175; entries beyond 4,095 as in `mm` (log 46). -/
def State.performMzero (s : State) (gid : Nat) (c : Cmd) : State :=
  s.mapGrp gid (fun g => (List.range g.n).foldl (fun h i => (List.range (accV c.vD)).foldl (fun h v =>
    h.setAcc { AccEntry.clean i (accE c.vD + v) with dirty := true }) h) g)

/-- Packs element encodings of a format that is not MX (R84). -/
def packElems (f : Format) : List Nat → List Byte
  | [] => []
  | [a] => if f.width == 4 then [BitVec.ofNat 8 (a % 16)] else leBytes f.size a
  | a :: b :: rest =>
    if f.width == 4 then BitVec.ofNat 8 (a % 16 + 16 * (b % 16)) :: packElems f rest
    else leBytes f.size a ++ leBytes f.size b ++ packElems f rest

/-- R190: the drain path writes a row's region in accesses of one sector at most. -/
def Group.drainWrite (g : Group) (i base : Nat) (bs : List Byte) : Group :=
  (split256 (bs.length + 1) base bs.length).foldl (fun g x =>
    g.spadWrite (rowOff i x.1) ((bs.drop (x.1 - base)).take x.2) false true) g

/-- What a drain of one row gives: its bytes, the flags, and the counters after it. -/
def Group.drainRow (g : Group) (i : Nat) (c : Cmd) (f : Format) : List Byte × FFlags × MchkRow × Nat × Nat :=
  let es := (List.range (accV c.vD)).map (fun v => (g.accEntry i (accE c.vD + v), verifyEntry (g.accEntry i (accE c.vD + v)).lanes (cfgTol c.cfg)))
  let conv := es.flatMap (fun e => (e.2.1.take 32).map (fun l => roundCvt (f32Val l) f.elem c.rnd c.sat))
  let fl := es.foldl (fun fl e => fl ||| e.1.flags) (conv.foldl (fun fl x => fl ||| x.2) 0)
  let m := es.foldl (fun m e => m.count e.2.2 e.1.entry e.1.flags) (g.mchkRow i)
  let n (p : Verdict → Bool) : Nat := (es.filter (fun e => p e.2.2)).length
  (packElems f (conv.map Prod.fst), fl, m,
   n (fun v => v == .corrected), n (fun v => match v with | .bad _ _ => true | _ => false))

/-- R176, R167; entries beyond 4,095 as in `mm` (log 46). An invalid captured word writes and clears nothing, and a region beyond
the extent is written as it stands (log 49). -/
def State.performMdrain (s : State) (gid : Nat) (c : Cmd) : State :=
  match s.grp? gid with
  | none => s
  | some g =>
    let r := regionOf c.vA
    match formatOf r.fmt (c.word 0) with
    | none => s
    | some f =>
      let rows := (List.range g.n).map (fun i => (i, g.drainRow i c f))
      let g := rows.foldl (fun g x =>
        ((((g.drainWrite x.1 r.base x.2.1).raiseFlags x.2.2.1).setMchk x.1 x.2.2.2.1).dropAcc x.1 (accE c.vD) (accV c.vD))) g
      let corr := rows.foldl (fun k x => k + x.2.2.2.2.1) 0
      let bad := rows.foldl (fun k x => k + x.2.2.2.2.2) 0
      let g := if corr == 0 then g else g.setChk chkCC
      let g := if bad == 0 then g else g.setChk chkCE
      let g := { g with loop := g.loop && g.acc.any AccEntry.dirty }
      let s := s.setGrp g
      let s := if corr == 0 then s else s.count gid 6 corr
      if bad == 0 then s else s.count gid 7 bad

/-- R181: the context's table takes the word when `mfmt` performs; an index below 10, which only an edited entry holds, writes
entry 10 (log 49). -/
def State.performMfmt (s : State) (gid : Nat) (c : Cmd) : State :=
  match s.grp? gid with
  | none => s
  | some g =>
    match s.ctx? g.ctx with
    | none => s
    | some cx =>
      let k := (c.imm.extractLsb' 0 4).toNat - 10
      s.setCtx { cx with fmt := cx.fmt.mapFinIdx (fun j v _ => if j == k then entryStored (c.vD.setWidth 32) else v) }

/-- The 64-byte record of R182. -/
def MchkRow.bytes (m : MchkRow) : List Byte :=
  let last := match m.lastbad with | some e => 2 ^ 31 + e | none => 0
  leBytes 4 m.corr ++ leBytes 4 m.uncorr ++ leBytes 4 m.unchk ++ leBytes 4 last ++ leBytes 4 m.lastd1.toNat ++
  leBytes 4 m.lastd2.toNat ++ leBytes 4 (m.flags.toNat % 32) ++ leBytes 4 m.pois

/-- R182. An offset beyond the extent, which only an edited entry holds, is written as it stands (log 49). -/
def State.performMchk (s : State) (gid : Nat) (c : Cmd) : State :=
  s.mapGrp gid (fun g => (List.range g.n).foldl (fun h i =>
    let m := h.mchkRow i
    let h := h.spadWrite (rowOff i (wbits c.vD 21 0)) (m.bytes ++ List.replicate 32 0) false true
    if c.imm.getLsbD 0 then
      h.setMchk i { m with corr := 0, uncorr := 0, unchk := 0, pois := 0, lastbad := none }
    else h) g)

/-! #### `mred` (R177 to R179) -/

def State.roundOf (s : State) (ctx ch stack : Nat) : Nat :=
  match s.rounds.find? (fun r => r.ctx == ctx && r.ch == ch && r.stack == stack) with
  | some r => r.next
  | none => 0

def State.setRound (s : State) (ctx ch stack next : Nat) : State :=
  { s with rounds := { ctx := ctx, ch := ch, stack := stack, next := next } ::
      s.rounds.filter (fun r => !(r.ctx == ctx && r.ch == ch && r.stack == stack)) }

/-- The round that the `mred` at the head holds (R179). -/
def Group.roundHeld (g : Group) (c : Cmd) : Option Nat := (g.mredRound.filter (fun x => x.1 == c.uid)).map Prod.snd

/-- The round of the `mred` at the head: a withdrawn one keeps its own (R179). -/
def State.takeRound (s : State) (g : Group) (c : Cmd) : State × Nat :=
  match g.roundHeld c with
  | some k => (s, k)
  | none =>
    let ch := redCh c.vB
    let k := s.roundOf g.ctx ch g.drain
    ((s.setRound g.ctx ch g.drain (k + 1)).mapGrp g.gid (fun g => { g with mredRound := some (c.uid, k) }), k)

/-- The FP32 bits of the elements of a region in every group row; a poisoned element is 0, and sets DP at the contributing group
(log 44). -/
def Group.redRows (g : Group) (r : Region) : List (List (BitVec 32)) × Bool :=
  match formatOf 2 0 with
  | none => ([], false)
  | some f =>
    let rows := (List.range g.n).map (fun i => (List.range r.count).map (fun k => g.elem i r f k))
    (rows.map (fun row => row.map (fun e => BitVec.ofNat 32 e.1)), rows.any (fun row => row.any (fun e => e.2.2)))

/-- A group's contribution to round `k`, of FP32 words whatever an edited entry's format says (log 49). -/
def contributionOf (g : Group) (c : Cmd) (k : Nat) : Contribution × Bool :=
  let r := regionOf c.vA
  let (rows, pz) := if c.null then ([], false) else g.redRows r
  ({ ctx := g.ctx, ch := redCh c.vB, round := k, stack := g.drain, mask := redMask c.vB, root := redRoot c.vB,
     n := g.n, absent := c.null, rows := rows }, pz)

/-- Registers a contribution; one made again for the same round replaces the first (R179). -/
def State.contribute (s : State) (x : Contribution) : State :=
  { s with contribs := s.contribs.filter (fun y =>
      !(y.ctx == x.ctx && y.ch == x.ch && y.round == x.round && y.stack == x.stack)) ++ [x] }

def State.roundContribs (s : State) (ctx ch k : Nat) : List Contribution :=
  s.contribs.filter (fun y => y.ctx == ctx && y.ch == ch && y.round == k)

def State.dropRound (s : State) (ctx ch k : Nat) : State :=
  { s with contribs := s.contribs.filter (fun y => !(y.ctx == ctx && y.ch == ch && y.round == k)) }

/-- The `mred` at the head contributes; whether it performs now, which a root does only at its round's completion. Poison that
it met is held until it performs (R400). -/
def State.startMred (s : State) (gid : Nat) (c : Cmd) : State × Bool :=
  match s.grp? gid with
  | none => (s, false)
  | some g =>
    let (s, k) := s.takeRound g c
    let (x, pz) := contributionOf g c k
    let s := (s.contribute x).mapGrp gid (fun g =>
      match g.queue .mat with
      | d :: rest => g.setQueue .mat ({ d with pz := pz } :: rest)
      | [] => g)
    (s, redRoot c.vB != g.drain)

/-- R99: one element over the stacks. An operand that no partner meets up to the root goes out as it is, a NaN with its payload
too, of which R74 says otherwise (log 22). -/
def redElem (cs : List Contribution) (mask i k : Nat) : Option F32 × FFlags :=
  treeSum 4 ((List.range 16).map (fun st =>
    if mask.testBit st then
      match cs.find? (fun c => c.stack == st) with
      | some c => if c.absent then none else some ((c.rows.getD i []).getD k 0)
      | none => none
    else none))

/-- Every stack of the root's MASK has contributed to its round. -/
def State.roundReady (s : State) (g : Group) (c : Cmd) : Bool :=
  match g.roundHeld c with
  | some k =>
    (List.range 16).all (fun st => !(redMask c.vB).testBit st ||
      (s.roundContribs g.ctx (redCh c.vB) k).any (fun x => x.stack == st))
  | none => false

/-- The root's round completes (R177, R178). -/
def State.finishMred (s : State) (gid : Nat) (c : Cmd) : Except TrapInfo State :=
  match s.grp? gid with
  | none => .ok s
  | some g =>
    let k := (g.roundHeld c).getD 0
    let ch := redCh c.vB
    let cs := s.roundContribs g.ctx ch k
    let r := regionOf c.vA
    let d := regionOf c.vD
    let bad (x : Contribution) : Bool :=
      !x.absent && (x.mask != redMask c.vB || x.root != redRoot c.vB || x.n != g.n || x.rows.any (fun row => row.length != r.count))
    if !c.null && cs.any bad then .error { cause := 0x21 }
    else
      let s := s.dropRound g.ctx ch k
      if c.null then .ok s
      else
        let rows := (List.range g.n).map (fun i => (List.range r.count).map (fun e => redElem cs (redMask c.vB) i e))
        let fl := rows.foldl (fun f row => row.foldl (fun f x => f ||| x.2) f) 0
        let g := (rows.mapIdx (fun i row => (i, row))).foldl (fun g x =>
          g.drainWrite x.1 d.base (x.2.flatMap (fun e => leBytes 4 (e.1.getD 0).toNat))) g
        .ok (s.setGrp (g.raiseFlags fl))

end Sys2Proof.Machine
end

