-- ==== Sys2Proof/Machine/Special.lean ====
section
/-! DEFINITION. The special functions (R210 to R213). The value the device forms is free within the bound of R212
(log 4): a candidate of `Config.special` is taken where it lies on the FP32 grid within the bound, as decided in
integer arithmetic of 400 fraction bits; the nearest value below otherwise. -/

namespace Sys2Proof.Machine

open Sys2Proof

/-- Fraction bits of the fixed-point arithmetic below. -/
abbrev fixP : Nat := 400
def fixOne : Int := 2 ^ fixP

/-- floor of a product or quotient of fixed-point numbers. -/
def fixMul (a b : Int) : Int := a * b / fixOne
def fixDiv (a b : Int) : Int := a * fixOne / b

/-- A dyadic number in fixed point, rounded down. -/
def fixOf (neg : Bool) (m : Nat) (e : Int) : Int :=
  let v : Int := if 0 ≤ e + fixP then (m * 2 ^ (e + fixP).toNat : Nat) else (m / 2 ^ (-(e + fixP)).toNat : Nat)
  if neg then -v else v

/-- The sum of t, t*x/k, t*x^2/(k(k+1)), ...: the Taylor terms of the exponential. -/
def expSeries (x : Int) : (fuel k : Nat) → Int → Int
  | 0, _, _ => 0
  | fuel + 1, k, t => t + expSeries x fuel (k + 1) (fixMul t x / k)

/-- sum of p*q^i/(2i+1) with alternating sign where `alt`: artanh and arctan series. -/
def oddSeries (alt : Bool) (q : Int) : (fuel i : Nat) → Int → Int
  | 0, _, _ => 0
  | fuel + 1, i, p =>
    let t := p / (2 * i + 1)
    (if alt && i % 2 == 1 then -t else t) + oddSeries alt q fuel (i + 1) (fixMul p q)

def artanhFix (u : Int) : Int := oddSeries false (fixMul u u) 160 0 u
def arctanInv (n : Int) : Int := oddSeries true (fixOne / (n * n)) 180 0 (fixOne / n)

/-- ln 2 = 2 artanh(1/3). -/
def ln2Fix : Int := 2 * artanhFix (fixOne / 3)

/-- Machin's formula. -/
def piFix : Int := 16 * arctanInv 5 - 4 * arctanInv 239

/-- e^x for a fixed-point x, as n * 2^s. -/
def expFix (x : Int) : Int × Int :=
  let k := x / ln2Fix
  (expSeries (x - k * ln2Fix) 100 1 fixOne, k - fixP)

/-- ln of m * 2^e in fixed point. -/
def lnFix (m : Nat) (e : Int) : Int :=
  let l := m.log2
  let z := fixOf false m (-(l : Int))
  (e + l) * ln2Fix + 2 * artanhFix (fixDiv (z - fixOne) (z + fixOne))

/-- Integer square root by bits, from bit `k` down. -/
def sqrtFrom (n : Nat) : (k r : Nat) → Nat
  | 0, r => if (r + 1) * (r + 1) ≤ n then r + 1 else r
  | k + 1, r =>
    let t := r + 2 ^ (k + 1)
    sqrtFrom n k (if t * t ≤ n then t else r)

def natSqrt (n : Nat) : Nat := sqrtFrom n (n.log2 / 2 + 1) 0

/-- sin or cos of a fixed-point x of at most 2^20. -/
def sinFix (x : Int) (cosine : Bool) : Int :=
  let h := piFix / 2
  let j := (2 * x + h) / (2 * h)
  let r := x - j * h
  let q := fixMul r r
  let rec series : (fuel k : Nat) → Int → Int
    | 0, _, _ => 0
    | fuel + 1, k, t => t + series fuel (k + 2) (-(fixMul t q) / (k * (k + 1)))
  let s := series 60 2 r
  let c := series 60 1 fixOne
  match ((j + (if cosine then 1 else 0)) % 4).toNat with
  | 0 => s
  | 1 => c
  | 2 => -s
  | _ => -c

/-- The functions of R210, in the order of their OP codes less 8; `vsqrt` (4) is apart. -/
inductive SpecialFn where
  | exp
  | log
  | rcp
  | rsq
  | sin
  | cos
  | tanh
  deriving DecidableEq, Repr

def SpecialFn.code : SpecialFn → Nat
  | .exp => 0
  | .log => 1
  | .rcp => 2
  | .rsq => 3
  | .sin => 5
  | .cos => 6
  | .tanh => 7

/-- The bound of R212 in ulp. -/
def SpecialFn.bound : SpecialFn → Nat
  | .rcp => 1
  | .rsq => 1
  | _ => 2

/-- Drops the trailing zeros of a significand: the one form of a finite number in which its significand is odd. -/
def oddForm : (fuel m : Nat) → Int → Nat × Int
  | 0, m, e => (m, e)
  | fuel + 1, m, e => if m != 0 && m % 2 == 0 then oddForm fuel (m / 2) (e + 1) else (m, e)

/-- The bound of a function whose magnitude stays below 1: sin, cos and tanh of a nonzero number, and exp of a negative one. -/
def below1 (t : Int) : Int := max (1 - fixOne) (min (fixOne - 1) t)

/-- f(x) of a finite nonzero x as n * 2^s, within 2^20 units of 2^s. -/
def SpecialFn.approx (f : SpecialFn) (neg : Bool) (m : Nat) (e : Int) : Int × Int :=
  let x := fixOf neg m e
  match f with
  | .exp =>
    if 1000 * fixOne < x then (2 ^ fixP, 1600)
    else if x < -1000 * fixOne then (0, -(fixP : Int))
    else if neg && x == 0 then (below1 fixOne, -(fixP : Int))
    else expFix x
  | .log => (lnFix m e, -(fixP : Int))
  | .rcp => ((if neg then -1 else 1) * ((2 ^ (m.log2 + fixP) / m : Nat) : Int), -e - m.log2 - fixP)
  | .rsq =>
    -- m * 2^e = m' * 4^k
    let m' := if e % 2 == 0 then m else 2 * m
    let k := e / 2
    ((natSqrt (2 ^ (2 * (m'.log2 + fixP)) / m') : Nat), -k - m'.log2 - fixP)
  | .sin => (below1 (sinFix x false), -(fixP : Int))
  | .cos => (below1 (sinFix x true), -(fixP : Int))
  | .tanh =>
    let a := if x < 0 then -x else x
    let t : Int :=
      if 1000 * fixOne < a then fixOne
      else
        let (n, s) := expFix (-2 * a)
        let u := if 0 ≤ s + fixP then n * 2 ^ (s + fixP).toNat else n / 2 ^ (-(s + fixP)).toNat
        fixDiv (fixOne - u) (fixOne + u)
    (below1 (if x < 0 then -t else t), -(fixP : Int))

/-- log2 of the ulp of R212 for a value n * 2^s. -/
def ulpExp (n : Int) (s : Int) : Int := if n == 0 then -149 else max ((n.natAbs.log2 : Int) + s) (-126) - 23

/-- n * 2^-149 lies on the FP32 grid without upper bound. -/
def onGrid (n : Int) : Bool := n.natAbs.log2 ≤ 23 || n.natAbs % 2 ^ (n.natAbs.log2 - 23) == 0

/-- a * 2^s compared with b * 2^t: a * 2^s ≤ b * 2^t. -/
def leDyadic (a s b t : Int) : Bool :=
  let base := min s t
  a * 2 ^ (s - base).toNat ≤ b * 2 ^ (t - base).toNat

/-- The candidate is within the bound, with the error of the arithmetic counted against it: one that the bound of R212 allows may so be
refused (log 4). -/
def withinBound (cand n s : Int) (ulps : Nat) : Bool :=
  let base := min s (-149)
  let d := cand * 2 ^ (-149 - base).toNat - n * 2 ^ (s - base).toNat
  leDyadic ((d.natAbs : Int) + 2 ^ (20 + (s - base).toNat)) base ulps (ulpExp n s)

/-- The grid value at or below the magnitude of n * 2^s. -/
def gridBelow (n s : Int) : XVal :=
  let u := ulpExp n s
  .fin (n < 0) (roundAt 1 false n.natAbs s u).1 u

/-- The value y of R210 for a finite nonzero operand, and whether it differs from f(x): a function of the number, however its
significand was written. Where y is 0 its sign is that of f(x), but + where the fixed-point operand of `approx` is 0 and for a sine or
cosine beyond 2^20; `vrsq` of 4^j with 2^-j below the grid is a free value within the bound, with NX (log 4). -/
def SpecialFn.value (f : SpecialFn) (neg : Bool) (m : Nat) (e : Int) : XVal × Bool :=
  let (m, e) := oddForm (m.log2 + 1) m e
  let l := m.log2
  let pow2 := m == 2 ^ l
  let k : Int := e + l
  let cand := Config.special f.code neg m e
  let free : XVal × Bool :=
    let (n, s) := f.approx neg m e
    if onGrid cand && withinBound cand n s f.bound then (.fin (cand < 0 || (cand == 0 && n < 0)) cand.natAbs (-149), true)
    else (gridBelow n s, true)
  -- R213: beyond 2^20 no accuracy bound applies, and the result lies in [-1, 1]
  let large : Bool := 0 < cmpFin false m e false 1 20
  let unbounded : XVal × Bool :=
    if onGrid cand && cand.natAbs ≤ 2 ^ 149 then (.fin (cand < 0) cand.natAbs (-149), true) else (.fin false 0 0, true)
  match f with
  | .log => if pow2 && k == 0 then (.fin false 0 0, false) else free
  | .rcp => if pow2 && -149 ≤ -k then (.fin neg 1 (-k), false) else free
  | .rsq => if pow2 && k % 2 == 0 && -149 ≤ -(k / 2) then (.fin false 1 (-(k / 2)), false) else free
  | .sin => if large then unbounded else free
  | .cos => if large then unbounded else free
  | _ => free

/-- R211: the value and flags for any operand; NX where y differs from f(x). -/
def SpecialFn.apply (f : SpecialFn) (x : XVal) : XVal × FFlags :=
  match x with
  | .nan => (.nan, 0)
  | .inf neg =>
    match f with
    | .exp => (if neg then .fin false 0 0 else .inf false, 0)
    | .log => if neg then (.nan, flagNV) else (.inf false, 0)
    | .rcp => (.fin neg 0 0, 0)
    | .rsq => if neg then (.nan, flagNV) else (.fin false 0 0, 0)
    | .sin => (.nan, flagNV)
    | .cos => (.nan, flagNV)
    | .tanh => (.fin neg 1 0, 0)
  | .fin neg m e =>
    if m == 0 then
      match f with
      | .exp => (.fin false 1 0, 0)
      | .log => (.inf true, flagDZ)
      | .rcp => (.inf neg, flagDZ)
      | .rsq => (.inf neg, flagDZ)
      | .sin => (.fin neg 0 0, 0)
      | .cos => (.fin false 1 0, 0)
      | .tanh => (.fin neg 0 0, 0)
    else if neg && (f == .log || f == .rsq) then (.nan, flagNV)
    else
      let (y, nx) := f.value neg m e
      (y, flagIf nx flagNX)

/-- R210, R211: the square root, exact but for a sticky bit below every rounding position. -/
def sqrtX (x : XVal) : XVal × FFlags :=
  match x with
  | .nan => (.nan, 0)
  | .inf neg => if neg then (.nan, flagNV) else (.inf false, 0)
  | .fin neg m e =>
    if m == 0 then (.fin neg 0 0, 0)
    else if neg then (.nan, flagNV)
    else
      let m' := if e % 2 == 0 then m else 2 * m
      let e' := if e % 2 == 0 then e else e - 1
      -- 2k fraction bits reach below the binary point of a large root too; e' is even
      let k : Nat := 200 + e'.toNat / 2
      let n := m' * 2 ^ (2 * k)
      let r := natSqrt n
      if r * r == n then (.fin false r (e' / 2 - k), 0) else (.fin false (2 * r + 1) (e' / 2 - k - 1), 0)

end Sys2Proof.Machine
end

