-- ==== Sys2Proof/Machine/Vector.lean ====
section
/-! DEFINITION. The vector engine: the checks of its commands at issue (R193, R195 to R197, R207 to R224) and what each
command does in a row when it performs (R198 to R224). -/

namespace Sys2Proof.Machine

open Sys2Proof

/-! ### Checks at issue -/

/-- The format classes of R196, as sets of what a region may be. -/
inductive FmtClass where
  | n
  | i
  | nx
  | x
  | any
  | int8
  | int32
  deriving DecidableEq, Repr

def FmtClass.holds (k : FmtClass) (fi : Nat) (f : Format) : Bool :=
  match k with
  | .n => f.isN
  | .i => f.isInt
  | .nx => true
  | .x => f.mx
  | .any => true
  | .int8 => fi == 8
  | .int32 => fi == 9

/-- One region of a command: its descriptor, captured word, elements touched (R195) and the class it must have. -/
structure Use where
  v    : Word
  w    : BitVec 32
  n    : Nat
  cls  : FmtClass

def Use.fmt (u : Use) : Option Format := formatOf (regionOf u.v).fmt u.w

/-- R197, order 5: validity, the command's own checks, R195, the classes. -/
def checkUses (x : Nat) (us : List Use) (own : List (Bool × Nat)) : Option Nat :=
  let fits (u : Use) : Bool := match u.fmt with | some f => regionOk x (regionOf u.v) f u.n | none => false
  let cls (u : Use) : Bool := match u.fmt with | some f => u.cls.holds (regionOf u.v).fmt f | none => false
  firstBad (us.map (fun u => (u.fmt.isSome, 0x20)) ++ own ++ us.map (fun u => (fits u, 0x21)) ++ us.map (fun u => (cls u, 0x20)))

def countOf (v : Word) : Nat := (regionOf v).count

/-- The governing element count of a vector command (R193, R204). -/
def vxCount (i : Instr) (c : Cmd) : Nat :=
  match i with
  | .vredsum _ => countOf c.vA
  | .vredmax _ => countOf c.vA
  | .vargmax _ => countOf c.vA
  | .vtopk _ => countOf c.vA
  | .vscan _ => countOf c.vA
  | .vscat _ => countOf c.vA
  | .vdot8 _ => countOf c.vA
  | _ => countOf c.vD

def Cmd.use (c : Cmd) (k n : Nat) (cls : FmtClass) : Use :=
  { v := match k with | 0 => c.vD | 1 => c.vA | 2 => c.vB | _ => c.vC, w := c.word k, n := n, cls := cls }

/-- The fields of IMM12 (R205). -/
def Cmd.kTop (c : Cmd) : Nat := (c.imm.extractLsb' 4 8).toNat
def Cmd.kSwap (c : Cmd) : Nat := (c.imm.extractLsb' 4 3).toNat
def Cmd.neg (c : Cmd) : Nat := (c.imm.extractLsb' 7 2).toNat
def Cmd.kind (c : Cmd) : Nat := (c.imm.extractLsb' 4 2).toNat
def Cmd.lg (c : Cmd) : Nat := (c.imm.extractLsb' 4 4).toNat
def Cmd.cond (c : Cmd) : Nat := (c.imm.extractLsb' 4 3).toNat

/-- The checks of R197, order 5, for a vector command that is not nullified. -/
def checkVx (g : Group) (i : Instr) (c : Cmd) : Option Nat :=
  let n := vxCount i c
  let width (v : Word) (w : BitVec 32) : Nat := match formatOf (regionOf v).fmt w with | some f => f.width | none => 0
  let all (us : List Use) : Option Nat := checkUses g.x us []
  let d (m : Nat) (k : FmtClass) := c.use 0 m k
  let a (m : Nat) (k : FmtClass) := c.use 1 m k
  let b (m : Nat) (k : FmtClass) := c.use 2 m k
  let cc (m : Nat) (k : FmtClass) := c.use 3 m k
  if n == 0 then none
  else
    match i with
    | .vadd _ => all [d n .n, a n .n, b n .n]
    | .vsub _ => all [d n .n, a n .n, b n .n]
    | .vmul _ => all [d n .n, a n .n, b n .n]
    | .vmax _ => all [d n .n, a n .n, b n .n]
    | .vmin _ => all [d n .n, a n .n, b n .n]
    | .vcmp _ => all [d n .n, a n .n, b n .n]
    | .vfma _ => all [d n .n, a n .n, b n .n, cc n .n]
    | .vsel _ => all [d n .n, a n .n, b n .n, cc n .n]
    | .vcvt _ => all [d n .n, a n .nx]
    | .vredsum _ => all [d 1 .n, a n .n]
    | .vredmax _ => all [d 1 .n, a n .n]
    | .vargmax _ => all [d 1 .int32, a n .n]
    | .vtopk _ => checkUses g.x [d c.kTop .n, a n .n, b c.kTop .int32] [(1 ≤ c.kTop && c.kTop ≤ n, 0x21)]
    | .vswp2 _ => checkUses g.x [d n .n, a n .n] [(n % 2 ^ (c.kSwap + 1) == 0, 0x21)]
    | .vgath _ => all [d n .n, a (countOf c.vA) .n, b n .i]
    | .vscat _ => all [d (countOf c.vD) .n, a n .n, b n .i]
    | .vcopy _ => checkUses g.x [d n .any, a n .any] [((regionOf c.vD).fmt == (regionOf c.vA).fmt, 0x20)]
    | .vfill _ => all [d n .n]
    | .vrand _ => all [d n .n]
    | .vlut _ =>
      let w := width c.vA (c.word 1)
      checkUses g.x [d n .n, a n .n, b (2 ^ w) .n] [(w == 4 || w == 8, 0x20), (2 ^ w ≤ countOf c.vB, 0x21)]
    | .vtern _ => all [d n .n, a ((n + 4) / 5) .int8]
    | .vdot8 _ =>
      let o := (n + 2 ^ c.lg - 1) / 2 ^ c.lg
      checkUses g.x ([d o .n, a n .int8, b (min n (countOf c.vB)) .int8] ++ (if c.eword.c == 0 then [] else [cc o .n]))
        [(countOf c.vB != 0, 0x21)]
    | .vquant _ => all [d n .x, a n .n]
    | _ => all [d n .n, a n .n]

/-! ### Performing -/

/-- What a command does in one row: elements put, bytes written by row offset, flags, and whether it met poison. -/
structure RowOut where
  puts   : List (Arg × Nat × Nat) := []
  raw    : List (Nat × Byte) := []
  flags  : FFlags := 0
  poison : Bool := false

/-- A source as values, with poison. -/
def Group.src (g : Group) (i : Nat) (a : Arg) (n : Nat) : List XVal × Bool :=
  let es := (List.range n).map (fun k => g.elemVal i a.r a.f k)
  (es.map Prod.fst, es.any Prod.snd)

/-- A source as raw encodings. -/
def Group.srcBits (g : Group) (i : Nat) (a : Arg) (n : Nat) : List Nat × Bool :=
  let es := (List.range n).map (fun k => g.elem i a.r a.f k)
  (es.map Prod.fst, es.any (fun e => e.2.2))

/-- put(D, k, v) for values in order from element 0. -/
def putAll (d : Arg) (rnd : Nat) (sat : Bool) (vs : List (XVal × FFlags)) (poison : Bool) : RowOut :=
  let es := vs.map (fun v => (roundCvt v.1 d.f.elem rnd sat, v.2))
  { puts := es.mapIdx (fun k e => (d, k, e.1.1)), flags := es.foldl (fun f e => f ||| e.1.2 ||| e.2) 0, poison := poison }

/-- R208: the comparison and its flag. -/
def compareX (cond : Nat) (a b : XVal) : Bool × FFlags :=
  if a.isNan || b.isNan then
    match cond with
    | 1 => (true, 0)
    | 6 => (true, 0)
    | 0 => (false, 0)
    | 7 => (false, 0)
    | _ => (false, flagNV)
  else
    (match cond with
     | 0 => a.numEq b
     | 1 => !a.numEq b
     | 2 => a.lt b
     | 3 => a.lt b || a.numEq b
     | 4 => b.lt a
     | 5 => b.lt a || a.numEq b
     | 6 => false
     | _ => true, 0)

/-- R206, R207: the greater or the lesser of two values; NaN when either is. -/
def maxX (a b : XVal) : XVal := if a.isNan || b.isNan then .nan else if a.ordLt b then b else a
def minX (a b : XVal) : XVal := if a.isNan || b.isNan then .nan else if b.ordLt a then b else a

/-- R207: one result of an elementwise command. `vfma` of 0 × ∞ and a NaN raises NV (log 48). -/
def elementwise (i : Instr) (rdn : Bool) (a b c : XVal) : XVal × FFlags :=
  match i with
  | .vadd _ => sumX rdn [a, b]
  | .vsub _ => sumX rdn [a, b.negate]
  | .vmul _ => mulX a b
  | .vfma _ =>
    let (p, f1) := mulX a b
    let (v, f2) := sumX rdn [p, c]
    (v, f1 ||| f2)
  | .vmax _ => (maxX a b, 0)
  | .vmin _ => (minX a b, 0)
  | .vabs _ => (a.abs, 0)
  | .vneg _ => (a.negate, 0)
  | .vexp _ => SpecialFn.apply .exp a
  | .vlog _ => SpecialFn.apply .log a
  | .vrcp _ => SpecialFn.apply .rcp a
  | .vrsq _ => SpecialFn.apply .rsq a
  | .vsqrt _ => sqrtX a
  | .vsin _ => SpecialFn.apply .sin a
  | .vcos _ => SpecialFn.apply .cos a
  | .vtanh _ => SpecialFn.apply .tanh a
  | .vsel _ => (if c.isZero then b else a, 0)
  | _ => (a, 0)

/-- One level of the tree of R100 over exact values. -/
def treeLevelX : List XVal → List XVal × FFlags
  | a :: b :: rest =>
    let (v, f1) := sumX false [a, b]
    let (r, f2) := toF32 v
    let (t, f3) := treeLevelX rest
    (f32Val r :: t, f1 ||| f2 ||| f3)
  | l => (l, 0)

/-- R100: the tree of `vredsum`; a leaf without a partner passes up unrounded. -/
def treeX : (fuel : Nat) → List XVal → XVal × FFlags
  | 0, l => (l.headD XVal.zero, 0)
  | fuel + 1, l =>
    match l with
    | [] => (XVal.zero, 0)
    | [a] => (a, 0)
    | l =>
      let (t, f) := treeLevelX l
      let (r, fr) := treeX fuel t
      (r, f ||| fr)

/-- Inserts an indexed value behind every value that is not less (R215: ties to the lower index). -/
def rankInsert (x : Nat × XVal) : List (Nat × XVal) → List (Nat × XVal)
  | [] => [x]
  | y :: rest => if y.2.ordLt x.2 then x :: y :: rest else y :: rankInsert x rest

/-- Indexed values, greatest first (R206, R215). -/
def ranked (vs : List XVal) : List (Nat × XVal) := (vs.mapIdx (fun k v => (k, v))).foldl (fun l x => rankInsert x l) []

/-- R216: the running results, with their flags. -/
def scanX (kind : Nat) (exact : Bool) (rdn : Bool) : Option XVal → List XVal → List (XVal × FFlags)
  | _, [] => []
  | s, a :: rest =>
    let r : XVal × FFlags :=
      match s, kind with
      | none, 0 => if exact then (a, 0) else let (x, f) := toF32 a; (f32Val x, f)
      | none, _ => (a, 0)
      | some s, 0 =>
        let (v, f) := sumX false [s, a]
        if exact then (v, f) else let (x, f2) := toF32 v; (f32Val x, f ||| f2)
      | some s, 1 => (if s.ordLt a then a else s, 0)
      | some s, _ => (if a.ordLt s then a else s, 0)
    r :: scanX kind exact rdn (some r.1) rest

/-- The integer of an element of an integer format. -/
def XVal.toInt : XVal → Int
  | .fin s m e => signedAt s m e 0
  | _ => 0

/-- R221: the trit k of a packed byte, and whether the byte is illegal. -/
def tritOf (b k : Nat) : Int × Bool :=
  if 243 ≤ b then (0, true)
  else
    let t := b / 3 ^ (k % 5) % 3
    (if t == 2 then -1 else (t : Int), false)

/-- R223: floor(log2) of the largest finite value of an element format. -/
def emaxOf (f : Fmt) : Int :=
  match f with
  | .int _ => 0
  | .flt ew mw bias spec => let (m, e) := fltMax ew mw bias spec; (m.log2 : Int) + e

/-- |a| < |b| for values that are not NaN. -/
def absLt (a b : XVal) : Bool := a.abs.lt b.abs

/-- R223: the scale byte of a block of values, 0xFF for a NaN. -/
def quantScale (f : Fmt) (vs : List XVal) : Nat :=
  if vs.any XVal.isNan then 255
  else
    match vs.foldl (fun m v => if absLt m v then v else m) XVal.zero with
    | .fin _ 0 _ => 127
    | .fin _ m e => (min 254 (max 0 ((m.log2 : Int) + e - emaxOf f + 127))).toNat
    | _ => 254

/-- R80: an element written under scale byte `x`. -/
def mxElem (f : Format) (v : XVal) (x rnd : Nat) : Nat × FFlags := roundCvt (v.scale (127 - (x : Int) + f.frac)) f.elem rnd true

/-- The bytes of one MX block (R86): 32 encodings and the scale byte. -/
def blockBytes (f : Format) (es : List Nat) (x : Nat) : List Byte :=
  let e (k : Nat) : Nat := es.getD k 0
  (if f.width == 8 then (List.range 32).map (fun k => BitVec.ofNat 8 (e k))
   else (List.range 16).map (fun k => BitVec.ofNat 8 (e (2 * k) % 16 + 16 * (e (2 * k + 1) % 16)))) ++ [BitVec.ofNat 8 x]

/-- Bytes at consecutive row offsets. -/
def rawAt (o : Nat) (bs : List Byte) : List (Nat × Byte) := bs.mapIdx (fun k b => (o + k, b))

/-- R223: the blocks of `vquant`. -/
def quantBlocks (d : Arg) (rnd : Nat) : (b : Nat) → (fuel : Nat) → List XVal → RowOut
  | _, 0, _ => {}
  | _, _, [] => {}
  | b, fuel + 1, vs =>
    let now := vs.take 32
    let x := quantScale d.f.elem now
    let es := now.map (fun v => if x == 255 then (0, 0) else mxElem d.f v x rnd)
    let rest := quantBlocks d rnd (b + 1) fuel (vs.drop 32)
    { raw := rawAt (d.r.base + d.f.block * b) (blockBytes d.f (es.map Prod.fst) x) ++ rest.raw,
      flags := es.foldl (fun f e => f ||| e.2) rest.flags }

/-- Philox4x32-10 (R224). -/
def philoxRounds : (fuel : Nat) → (first : Bool) → (c0 c1 c2 c3 k0 k1 : BitVec 32) → List (BitVec 32)
  | 0, _, c0, c1, c2, c3, _, _ => [c0, c1, c2, c3]
  | fuel + 1, first, c0, c1, c2, c3, k0, k1 =>
    let k0 := if first then k0 else k0 + 0x9E3779B9#32
    let k1 := if first then k1 else k1 + 0xBB67AE85#32
    let p0 : BitVec 64 := 0xD2511F53#64 * c0.setWidth 64
    let p1 : BitVec 64 := 0xCD9E8D57#64 * c2.setWidth 64
    let hi (p : BitVec 64) : BitVec 32 := (p >>> 32).setWidth 32
    philoxRounds fuel false (hi p1 ^^^ c1 ^^^ k0) (p1.setWidth 32) (hi p0 ^^^ c3 ^^^ k1) (p0.setWidth 32) k0 k1

/-- R224: the word for element k of row i. -/
def randWord (key base : Word) (i k : Nat) : BitVec 32 :=
  let ctr := base + BitVec.ofNat 64 (k / 4)
  (philoxRounds 10 true (ctr.setWidth 32) ((ctr >>> 32).setWidth 32) (BitVec.ofNat 32 i) 0 (key.setWidth 32)
    ((key >>> 32).setWidth 32)).getD (k % 4) 0

/-- R87, R219: an MX copy, block by block; bits beyond N are encoding 0. A byte of a poisoned sector is zero. -/
def Group.mxCopy (g : Group) (i : Nat) (d a : Arg) (n : Nat) : RowOut :=
  let byte (o : Nat) : Nat × Bool :=
    if g.spadPoisoned (rowOff i o) 1 then (0, true) else ((g.spad.get (rowOff i o)).toNat, false)
  let elem (k : Nat) : Nat × Bool :=
    let (p, nib) := elemPlace a.r a.f k
    let (v, bad) := byte p.toNat
    (if a.f.width == 4 then natBits v (4 * nib + 3) (4 * nib) else v, bad)
  let blocks := (List.range ((n + 31) / 32)).map (fun b =>
    let es := (List.range 32).map (fun j => if 32 * b + j < n then elem (32 * b + j) else (0, false))
    let x := byte (scalePlace a.r a.f (32 * b))
    (rawAt (d.r.base + d.f.block * b) (blockBytes d.f (es.map Prod.fst) x.1), x.2 || es.any Prod.snd))
  { raw := blocks.flatMap Prod.fst, poison := blocks.any Prod.snd }

/-- What a vector command does in row `i` (R199: every source is read first). What only an edited queue entry brings, an invalid
format or a count that its issue refuses, is log 49. `vsel` reads both its values at every k, so that poison in the one it does
not take is met as well (log 44). -/
def Group.vxRow (g : Group) (ins : Instr) (c : Cmd) (i : Nat) : RowOut :=
  let n := vxCount ins c
  let rdn := c.rnd == 2
  match mkArg c.vD (c.word 0) with
  | none => {}
  | some d =>
    let arg (k : Nat) (v : Word) : Arg := (mkArg v (c.word k)).getD d
    let a := arg 1 c.vA
    let b := arg 2 c.vB
    let cc := arg 3 c.vC
    let put := putAll d c.rnd c.sat
    let int32 (k : Nat) : Nat := k % 2 ^ 32
    match ins with
    | .vcmp _ =>
      let (xs, p1) := g.src i a n
      let (ys, p2) := g.src i b n
      put ((xs.zip ys).map (fun x => let (t, f) := compareX c.cond x.1 x.2; (XVal.ofInt (if t then 1 else 0), f))) (p1 || p2)
    | .vredsum _ =>
      let (xs, p) := g.src i a n
      if a.f.isInt && d.f.isInt then put [(XVal.ofInt ((xs.map XVal.toInt).foldl (· + ·) 0), 0)] p
      else
        let (v, f) := treeX 17 xs
        put [(v, f &&& (flagNV ||| flagOF ||| flagNX))] p
    | .vredmax _ =>
      let (xs, p) := g.src i a n
      put (((ranked xs).take 1).map (fun x => (x.2, 0))) p
    | .vargmax _ =>
      let (xs, p) := g.src i a n
      put (((ranked xs).take 1).map (fun x => (XVal.ofInt x.1, 0))) p
    | .vtopk _ =>
      let (xs, p) := g.src i a n
      let top := (ranked xs).take c.kTop
      let o := put (top.map (fun x => (x.2, 0))) p
      { o with puts := ((o.puts.zip top).mapIdx (fun r x => [x.1, (b, r, int32 x.2.1)])).flatten }
    | .vscan _ =>
      let (xs, p) := g.src i a n
      put (scanX c.kind (a.f.isInt && d.f.isInt) rdn none xs) p
    | .vswp2 _ =>
      let (xs, p) := g.src i a n
      put ((List.range n).map (fun j =>
        let v := xs.getD (j ^^^ 2 ^ c.kSwap) XVal.zero
        let odd := j.testBit c.kSwap
        (if (c.neg == 1 && !odd) || (c.neg == 2 && odd) then v.negate else v, 0))) p
    | .vgath _ =>
      let m := a.r.count
      let (xs, p1) := g.src i a m
      let (js, p2) := g.src i b n
      let got := js.map (fun j => let j : Int := j.toInt; if 0 ≤ j && j < (m : Int) then xs[j.toNat]? else none)
      let o := put (got.map (fun v => match v with | some v => (v, 0) | none => (XVal.zero, flagIC))) p2
      -- only the elements that an index names are read
      let hit := js.any (fun j => let j : Int := j.toInt; 0 ≤ j && j < (m : Int) && (g.elem i a.r a.f j.toNat).2.2)
      { o with poison := o.poison || (p1 && hit) }
    | .vscat _ =>
      let m := d.r.count
      let (xs, p1) := g.src i a n
      let (js, p2) := g.src i b n
      let es := (xs.zip js).map (fun x =>
        let j : Int := x.2.toInt
        if 0 ≤ j && j < (m : Int) then (some j.toNat, roundCvt x.1 d.f.elem c.rnd c.sat) else (none, (0, flagIC)))
      { puts := es.filterMap (fun e => e.1.map (fun j => (d, j, e.2.1))),
        flags := es.foldl (fun f e => f ||| e.2.2) 0, poison := p1 || p2 }
    | .vcopy _ =>
      if d.f.mx then g.mxCopy i d a n
      else
        let (xs, p) := g.srcBits i a n
        { puts := xs.mapIdx (fun k x => (d, k, x)), poison := p }
    | .vfill _ => { puts := (List.range n).map (fun k => (d, k, c.vA.toNat % 2 ^ d.f.width)) }
    | .vlut _ =>
      let (us, p1) := g.srcBits i a n
      let vs := us.map (fun u => g.elemVal i b.r b.f u)
      put (vs.map (fun v => (v.1, 0))) (p1 || vs.any Prod.snd)
    | .vtern _ =>
      let (bs, p) := g.srcBits i a ((n + 4) / 5)
      put ((List.range n).map (fun k =>
        let (t, bad) := tritOf (bs.getD (k / 5) 0) k
        (XVal.ofInt t, flagIf bad flagIC))) p
    | .vdot8 _ =>
      let gl := 2 ^ c.lg
      let m := b.r.count
      let o := (n + gl - 1) / gl
      let (xs, p1) := g.src i a n
      let (ys, p2) := g.src i b (min n m)
      let (zs, p3) := if c.eword.c == 0 then ([], false) else g.src i cc o
      put ((List.range o).map (fun q =>
        let ts := ((xs.drop (q * gl)).take gl).mapIdx (fun j x => (mulX x (ys.getD ((q * gl + j) % m) XVal.zero)).1)
        sumX rdn (ts ++ (zs[q]?).toList))) (p1 || p2 || p3)
    | .vquant _ =>
      let (xs, p) := g.src i a n
      { quantBlocks d c.rnd 0 (n + 1) xs with poison := p }
    | .vrand _ =>
      if c.kind == 0 then
        { puts := (List.range n).map (fun k => (d, k, (randWord c.vA c.vB i k).toNat % 2 ^ d.f.width)) }
      else put ((List.range n).map (fun k => (.fin false ((randWord c.vA c.vB i k).toNat / 256) (-24), 0))) false
    | ins =>
      let (xs, p1) := g.src i a n
      let (ys, p2) := match ins with
        | .vadd _ => g.src i b n
        | .vsub _ => g.src i b n
        | .vmul _ => g.src i b n
        | .vfma _ => g.src i b n
        | .vmax _ => g.src i b n
        | .vmin _ => g.src i b n
        | .vsel _ => g.src i b n
        | _ => ([], false)
      let (zs, p3) := match ins with
        | .vfma _ => g.src i cc n
        | .vsel _ => g.src i cc n
        | _ => ([], false)
      put (xs.mapIdx (fun k x => elementwise ins rdn x (ys.getD k XVal.zero) (zs.getD k XVal.zero))) (p1 || p2 || p3)

/-- The writes of a row. -/
def Group.applyRow (g : Group) (i : Nat) (o : RowOut) : Group :=
  let g := o.puts.foldl (fun g p => g.putElem i p.1.r p.1.f p.2.1 p.2.2) g
  o.raw.foldl (fun g p => g.spadWrite (rowOff i p.1) [p.2] false false) g

/-- R198: the rows that run a command; a ROW beyond the group's, which only an edited entry names, runs (log 49). -/
def Cmd.rows (c : Cmd) (n : Nat) : List Nat :=
  if c.mod.getLsbD 4 then [(c.mod.extractLsb' 0 4).toNat] else List.range n

/-- R198 to R224: a vector command in every row that runs it. -/
def State.performVx (s : State) (gid : Nat) (ins : Instr) (c : Cmd) : State :=
  match s.grp? gid with
  | none => s
  | some g =>
    if vxCount ins c == 0 then s
    else
      let outs := (c.rows g.n).map (fun i => (i, g.vxRow ins c i))
      let g := outs.foldl (fun g o => (g.applyRow o.1 o.2).raiseFlags o.2.flags) g
      let s := s.setGrp g
      if outs.any (fun o => o.2.poison) then s.dataPoison gid else s

end Sys2Proof.Machine
end

