-- ==== Sys2Proof/Machine/Issue.lean ====
section
/-! DEFINITION. The issue of engine commands (R50 to R53, R63, R126, R154, R155, R197, R278), nest sets (R272), replays
(R290, R291) and `qfence` (R300). -/

namespace Sys2Proof.Machine

open Sys2Proof

/-! ### Queues and operands -/

/-- The three majors of engine commands. -/
inductive Major where
  | mx
  | vx
  | cx
  deriving DecidableEq, Repr

/-- The major of an engine command (R54). -/
def Instr.major? (i : Instr) : Option Major :=
  match encode i with
  | w :: _ =>
    match (fld w 26 6).toNat with
    | 0x30 => some .mx
    | 0x31 => some .vx
    | 0x32 => some .cx
    | _ => none
  | [] => none

/-- The queue that a command of a slice enters (R63). -/
def Major.queue (m : Major) (sl : Slice) : EQueue :=
  match m with
  | .mx => .mat
  | .vx => .vec
  | .cx => match sl with | .a => .cpl | .c => .cps

/-- R63: whether the slice may issue the command. -/
def Major.mayIssue (m : Major) (sl : Slice) (e : EWord) : Bool :=
  match m, sl with
  | .mx, .a => false
  | .vx, .a => false
  | .cx, .a => e.pred == 0
  | _, .c => true

/-- R52, R75: the rounding mode in force for a command issued now. -/
def Group.roundNow (g : Group) (imm : BitVec 12) : Nat :=
  let k := (imm.extractLsb' 0 3).toNat
  if k == 7 then g.round.toNat else k

/-- R392: the captured format words: weight and activation of `mm`, FMT of a load, else each region's in order. -/
def Group.captureWords (g : Group) (i : Instr) (e : EWord) (vD vA vB vC : Word) : List (BitVec 32) :=
  let word (v : Word) : BitVec 32 := g.fmtWord (regionOf v).fmt
  match i with
  | .ml _ => [g.fmtWord (e.imm.extractLsb' 0 4).toNat]
  | .mlT _ => [g.fmtWord (e.imm.extractLsb' 0 4).toNat]
  | .mm _ =>
    let x := g.issueAttrs.headD (none, none)
    [match (if e.mod.getLsbD 0 then x.2 else x.1) with | some (_, _, w) => w | none => 0, word vA]
  | i => (((opKinds i vC).zip [vD, vA, vB, vC]).filter (fun x => x.1 == .region)).map (fun x => word x.2)

/-- A command as it is captured at issue (R51, R155, R274, R320). -/
def Group.capture (g : Group) (i : Instr) (e : EWord) (vD vA vB vC : Word) : Cmd :=
  let ws := encode i
  { w1 := ws.getD 0 0, w2 := ws.getD 1 0, vD := vD, vA := vA, vB := vB, vC := vC, cursor := 0, null := false,
    started := false, qf := none,
    nest := if Instr.major? i == some .cx then g.nests.toList.getD (e.mod.extractLsb' 0 2).toNat [] else [],
    fmtw := g.captureWords i e vD vA vB vC, cfg := g.issueCfg, uid := g.nextUid, idx := g.cmdCount, bind := g.firn,
    rnd := g.roundNow e.imm, hold := none, reqs := [], fl := 0, pz := false, eng := none }

/-! ### Checks -/

/-- The fields of the control and barrier words of a copy (R276, R277). -/
def cpDgrp (w : Word) : Nat := wbits w 63 48
def cpBcnt (w : Word) : Nat := wbits w 47 44
def cpLen (w : Word) : Nat := wbits w 39 20
def cpRfmt (w : Word) : Nat := wbits w 7 6
def cpDsp (w : Word) : Nat := wbits w 3 2
def cpSsp (w : Word) : Nat := wbits w 1 0
def cpTben (w : Word) : Bool := wbits w 63 63 == 1
def cpTboff (w : Word) : Nat := wbits w 25 0

/-- R278. -/
def checkCx (red bc : Bool) (c : Cmd) : Option Nat :=
  let k := c.vC
  let es := if cpRfmt k == 0 then 4 else 2
  firstBad [
    (wbits k 43 40 == 0 && wbits k 19 8 == 0 && wbits k 5 4 == 0 && wbits c.vB 62 26 == 0 && (bc || cpBcnt k == 0) &&
      (red || cpRfmt k == 0) && cpDsp k != 3 && cpSsp k < 2, 0x21),
    (!red || cpRfmt k < 2, 0x21),
    (!bc || cpDsp k == 2, 0x21),
    ((!cpTben c.vB || cpDsp k == 1 || cpDsp k == 2) && cpTboff c.vB % 16 == 0, 0x21),
    ((cpDsp k == 0 || c.vD.toNat < 2 ^ 26) && (cpSsp k == 0 || c.vA.toNat < 2 ^ 26), 0x21),
    (!red || (cpLen k % es == 0 && c.vD.toNat % es == 0 && c.vA.toNat % es == 0 &&
      c.nest.all (fun d => d.sstr.toNat % es == 0 && d.dstr.toNat % es == 0)), 0x21)]

/-- The checks of a command that is not nullified, after the predicate. -/
def checkCmd (g : Group) (i : Instr) (c : Cmd) : Option Nat :=
  match i with
  | .ml _ => checkMl g c false
  | .mlT _ => checkMl g c true
  | .mm _ => checkMm g c
  | .mzero _ => firstBad [(accOk c.vD, 0x21)]
  | .mdrain _ => checkMdrain g c
  | .mred _ => checkMred g c
  | .mcfg _ => checkMcfg g c
  | .mfmt _ => checkMfmt c
  | .mchk _ => checkMchk g c
  | .cp _ => checkCx false false c
  | .cpRed _ => checkCx true false c
  | .cpBc _ => checkCx false true c
  | i => checkVx g i c

/-- What the issue of a command comes to: it enters, or a cause. -/
inductive Entering where
  | enter (c : Cmd)
  | trap (cause : Nat)
  deriving DecidableEq, Repr

/-- R154, R197: ROWEN (before the predicate), the predicate, the range of a replay's operands (R290), the command's own
checks. -/
def Group.accept (g : Group) (i : Instr) (e : EWord) (inRange : Bool) (c : Cmd) : Entering :=
  let vx := Instr.major? i == some .vx
  if vx && e.mod.getLsbD 4 && g.n ≤ (e.mod.extractLsb' 0 4).toNat then .trap 0x21
  else if !g.sp.getLsbD e.pred.toNat then .enter { c with null := true }
  else if !inRange then .trap 0x21
  else
    match checkCmd g i c with
    | some k => .trap k
    | none => .enter c

/-- A command enters its queue. -/
def State.enter (s : State) (gid : Nat) (i : Instr) (q : EQueue) (c : Cmd) : State :=
  let s := s.mapGrp gid (fun g =>
    let opened := g.loop || (!c.null && opensLoop i && !g.acc.any AccEntry.dirty)
    let g := { g.setQueue q (g.queue q ++ [c]) with cmdCount := g.cmdCount + 1, nextUid := g.nextUid + 1, loop := opened }
    match i with
    | .mfmt _ =>
      if c.null then g
      else
        let k := (c.imm.extractLsb' 0 4).toNat - 10
        { g with fmt := g.fmt.mapFinIdx (fun j v _ => if j == k then entryStored (c.vD.setWidth 32) else v) }
    | _ => g)
  if c.null then s.count gid 5 1 else s

/-! ### Replays -/

def Stream.mark (st : Stream) (k : Nat) : Marking := st.marks.toList.getD k Marking.reset

def Stream.setMark (st : Stream) (k : Nat) (m : Marking) : Stream :=
  if h : k < 3 then { st with marks := st.marks.set k m } else st

/-- The code of R290 for a queue. -/
def markCode : EQueue → Nat
  | .mat => 0
  | .vec => 1
  | .cpl => 2
  | .cps => 2

/-- R290: the marked command `m` as a replay of the tuple with offsets `so` and `do_`, and whether its operands stay in
range; an operand that does not is captured as it was (log 44). It keeps the rounding mode in force when the marked command was
issued, for code 7 too (log 48). -/
def replayCmd (g : Group) (i : Instr) (e : EWord) (m : Cmd) (so do_ : Int) : Cmd × Bool :=
  let ks := opKinds i m.vC
  let d := advanceOp (ks.getD 0 .other) m.vD do_
  let a := advanceOp (ks.getD 1 .other) m.vA so
  ({ g.capture i e (d.getD m.vD) (a.getD m.vA) m.vB m.vC with nest := m.nest, bind := m.bind, rnd := m.rnd }, d.isSome && a.isSome)

/-- Replays enter until the queue is full, a check fails or none is left. -/
def State.replay (s : State) (gid : Nat) (sl : Slice) (q : EQueue) : (fuel : Nat) → Got Unit
  | 0 => .wait s
  | fuel + 1 =>
    match s.grp? gid with
    | none => .lost s
    | some g =>
      let st := g.stream sl
      let m := st.mark (markCode q)
      let put (s : State) (m : Marking) : State := s.mapStream gid sl (fun st => st.setMark (markCode q) m)
      if nestCount m.nest ≤ m.next then .ok (put s Marking.reset) ()
      else
        match m.marked[m.sub]? with
        | none => (put s { m with next := m.next + 1, sub := 0 }).replay gid sl q fuel
        | some x =>
          match x.instr? with
          | none => .lost s
          | some i =>
            if 16 ≤ (g.queue q).length then .wait s
            else
              let (so, do_) := nestOffsets m.nest m.next
              let bad (k : Nat) : TrapInfo := { cause := k, status := BitVec.ofNat 64 m.next }
              let (c, inRange) := replayCmd g i x.eword x so do_
              match g.accept i x.eword inRange c with
              | .trap k => .trap s (bad k)
              | .enter c => (put (s.enter gid i q c) { m with sub := m.sub + 1 }).replay gid sl q fuel

/-- The replays of a marking that holds all its commands: `fuel` covers what one turn can enter. -/
def State.replayTurn (s : State) (gid : Nat) (sl : Slice) (q : EQueue) : Out :=
  (s.replay gid sl q 64).finish gid sl .engine (fun s _ => s.done gid sl)

/-- A marking with all its commands, whose replays the slice stalls for. -/
def Marking.full (m : Marking) : Bool := m.active && m.n ≤ m.marked.length

/-- The issue of an engine command. -/
def issueCmd (i : Instr) (e : EWord) (s : State) : Out :=
  issue s (fun gid sl g st =>
    match Instr.major? i with
    | none => s.illegal gid sl i
    | some mj =>
      let q := mj.queue sl
      if !mj.mayIssue sl e then s.illegal gid sl i
      else if (st.mark (markCode q)).full then s.replayTurn gid sl q
      else if st.rp e.d || st.rp e.a || st.rp e.b || st.rp e.c then .next (s.loseControl gid sl)
      else
        match g.accept i e true (g.capture i e (st.rd e.d) (st.rd e.a) (st.rd e.b) (st.rd e.c)) with
        | .trap k => s.trapNow gid sl { cause := k, status := encodeStatus i }
        | .enter c =>
          if 16 ≤ (g.queue q).length then .next (s.stallOn gid sl .engine)
          else
            let s := s.enter gid i q c
            let m := st.mark (markCode q)
            if !m.active then s.done gid sl
            else
              let m := { m with marked := m.marked ++ [c] }
              let s := s.mapStream gid sl (fun st => st.setMark (markCode q) m)
              if m.full then s.replayTurn gid sl q else s.done gid sl)

/-! ### `nest.set`, `erep`, `qfence` -/

/-- `nest.set` (R272). -/
def execNestSet (dim : BitVec 3) (nx : BitVec 2) (a b c : Reg) (s : State) : Out :=
  issue s (fun gid sl g st =>
    if st.rp a || st.rp b || st.rp c then .next (s.loseControl gid sl)
    else
      let d : NestDim :=
        { bound := (st.rd a).setWidth 32, limit := (st.rd a >>> 32).setWidth 32, sstr := (st.rd b).setWidth 48, dstr := (st.rd c).setWidth 48 }
      (s.setGrp { g with nests := g.nests.mapFinIdx (fun j n _ => if j == nx.toNat then n.set dim.toNat d else n) }).done gid sl)

/-- `erep` (R290, R291). -/
def execErep (q nx : BitVec 2) (n : BitVec 4) (s : State) : Out :=
  issue s (fun gid sl g st =>
    if sl == .a && q.toNat < 2 then s.illegal gid sl (.erep q nx n)
    else if (st.mark q.toNat).active then s.trapNow gid sl { cause := 0x21, status := encodeStatus (.erep q nx n) }
    else
      let m : Marking :=
        { active := true, nx := nx.toNat, nest := g.nests.toList.getD nx.toNat [], n := n.toNat + 1, marked := [], next := 1, sub := 0 }
      (s.setStream gid sl (st.setMark q.toNat m)).done gid sl)

/-- The entry of a `qfence` (R392). -/
def fenceEntry (i : Instr) (qm : BitVec 4) (g : Group) : Cmd :=
  { w1 := (encode i).getD 0 0, w2 := 0, vD := 0, vA := 0, vB := 0, vC := 0, cursor := 0, null := false, started := false,
    qf := some qm, nest := [], fmtw := [], cfg := 0, uid := g.nextUid, idx := g.cmdCount, bind := 0, rnd := 0, hold := none,
    reqs := [], fl := 0, pz := false, eng := none }

/-- `qfence` (R300): one entry in every named queue, in one step. -/
def execQfence (qm : BitVec 4) (s : State) : Out :=
  issue s (fun gid sl g _ =>
    let named := allQueues.filter (fun q => qm.getLsbD q.idx)
    if named.any (fun q => 16 ≤ (g.queue q).length) then .next (s.stallOn gid sl .engine)
    else
      let c := fenceEntry (.qfence qm) qm g
      let g := named.foldl (fun g q => g.setQueue q (g.queue q ++ [c])) g
      (s.setGrp { g with nextUid := g.nextUid + 1 }).done gid sl)

/-! ### The commands -/

/-- `ml` (R173): enters the matrix queue. -/
def execMl (e : EWord) (s : State) : Out := issueCmd (.ml e) e s

/-- `ml.t` (R173): enters the matrix queue. -/
def execMlT (e : EWord) (s : State) : Out := issueCmd (.mlT e) e s

/-- `mm` (R174): enters the matrix queue. -/
def execMm (e : EWord) (s : State) : Out := issueCmd (.mm e) e s

/-- `mzero` (R175): enters the matrix queue. -/
def execMzero (e : EWord) (s : State) : Out := issueCmd (.mzero e) e s

/-- `mdrain` (R176): enters the matrix queue. -/
def execMdrain (e : EWord) (s : State) : Out := issueCmd (.mdrain e) e s

/-- `mred` (R177): enters the matrix queue. -/
def execMred (e : EWord) (s : State) : Out := issueCmd (.mred e) e s

/-- `mcfg` (R180): enters the matrix queue. -/
def execMcfg (e : EWord) (s : State) : Out := issueCmd (.mcfg e) e s

/-- `mfmt` (R181): enters the matrix queue. -/
def execMfmt (e : EWord) (s : State) : Out := issueCmd (.mfmt e) e s

/-- `mchk` (R182): enters the matrix queue. -/
def execMchk (e : EWord) (s : State) : Out := issueCmd (.mchk e) e s

/-- `vadd` (R207): enters the vector queue. -/
def execVadd (e : EWord) (s : State) : Out := issueCmd (.vadd e) e s

/-- `vsub` (R207): enters the vector queue. -/
def execVsub (e : EWord) (s : State) : Out := issueCmd (.vsub e) e s

/-- `vmul` (R207): enters the vector queue. -/
def execVmul (e : EWord) (s : State) : Out := issueCmd (.vmul e) e s

/-- `vfma` (R207): enters the vector queue. -/
def execVfma (e : EWord) (s : State) : Out := issueCmd (.vfma e) e s

/-- `vmax` (R207): enters the vector queue. -/
def execVmax (e : EWord) (s : State) : Out := issueCmd (.vmax e) e s

/-- `vmin` (R207): enters the vector queue. -/
def execVmin (e : EWord) (s : State) : Out := issueCmd (.vmin e) e s

/-- `vabs` (R207): enters the vector queue. -/
def execVabs (e : EWord) (s : State) : Out := issueCmd (.vabs e) e s

/-- `vneg` (R207): enters the vector queue. -/
def execVneg (e : EWord) (s : State) : Out := issueCmd (.vneg e) e s

/-- `vexp` (R210): enters the vector queue. -/
def execVexp (e : EWord) (s : State) : Out := issueCmd (.vexp e) e s

/-- `vlog` (R210): enters the vector queue. -/
def execVlog (e : EWord) (s : State) : Out := issueCmd (.vlog e) e s

/-- `vrcp` (R210): enters the vector queue. -/
def execVrcp (e : EWord) (s : State) : Out := issueCmd (.vrcp e) e s

/-- `vrsq` (R210): enters the vector queue. -/
def execVrsq (e : EWord) (s : State) : Out := issueCmd (.vrsq e) e s

/-- `vsqrt` (R210): enters the vector queue. -/
def execVsqrt (e : EWord) (s : State) : Out := issueCmd (.vsqrt e) e s

/-- `vsin` (R210): enters the vector queue. -/
def execVsin (e : EWord) (s : State) : Out := issueCmd (.vsin e) e s

/-- `vcos` (R210): enters the vector queue. -/
def execVcos (e : EWord) (s : State) : Out := issueCmd (.vcos e) e s

/-- `vtanh` (R210): enters the vector queue. -/
def execVtanh (e : EWord) (s : State) : Out := issueCmd (.vtanh e) e s

/-- `vcvt` (R207): enters the vector queue. -/
def execVcvt (e : EWord) (s : State) : Out := issueCmd (.vcvt e) e s

/-- `vcmp` (R208): enters the vector queue. -/
def execVcmp (e : EWord) (s : State) : Out := issueCmd (.vcmp e) e s

/-- `vsel` (R209): enters the vector queue. -/
def execVsel (e : EWord) (s : State) : Out := issueCmd (.vsel e) e s

/-- `vredsum` (R214): enters the vector queue. -/
def execVredsum (e : EWord) (s : State) : Out := issueCmd (.vredsum e) e s

/-- `vredmax` (R214): enters the vector queue. -/
def execVredmax (e : EWord) (s : State) : Out := issueCmd (.vredmax e) e s

/-- `vargmax` (R214): enters the vector queue. -/
def execVargmax (e : EWord) (s : State) : Out := issueCmd (.vargmax e) e s

/-- `vtopk` (R215): enters the vector queue. -/
def execVtopk (e : EWord) (s : State) : Out := issueCmd (.vtopk e) e s

/-- `vscan` (R216): enters the vector queue. -/
def execVscan (e : EWord) (s : State) : Out := issueCmd (.vscan e) e s

/-- `vswp2` (R217): enters the vector queue. -/
def execVswp2 (e : EWord) (s : State) : Out := issueCmd (.vswp2 e) e s

/-- `vgath` (R218): enters the vector queue. -/
def execVgath (e : EWord) (s : State) : Out := issueCmd (.vgath e) e s

/-- `vscat` (R218): enters the vector queue. -/
def execVscat (e : EWord) (s : State) : Out := issueCmd (.vscat e) e s

/-- `vcopy` (R219): enters the vector queue. -/
def execVcopy (e : EWord) (s : State) : Out := issueCmd (.vcopy e) e s

/-- `vfill` (R219): enters the vector queue. -/
def execVfill (e : EWord) (s : State) : Out := issueCmd (.vfill e) e s

/-- `vlut` (R220): enters the vector queue. -/
def execVlut (e : EWord) (s : State) : Out := issueCmd (.vlut e) e s

/-- `vtern` (R221): enters the vector queue. -/
def execVtern (e : EWord) (s : State) : Out := issueCmd (.vtern e) e s

/-- `vdot8` (R222): enters the vector queue. -/
def execVdot8 (e : EWord) (s : State) : Out := issueCmd (.vdot8 e) e s

/-- `vquant` (R223): enters the vector queue. -/
def execVquant (e : EWord) (s : State) : Out := issueCmd (.vquant e) e s

/-- `vrand` (R224): enters the vector queue. -/
def execVrand (e : EWord) (s : State) : Out := issueCmd (.vrand e) e s

/-- `cp` (R279): enters the copy queue. -/
def execCp (e : EWord) (s : State) : Out := issueCmd (.cp e) e s

/-- `cp.red` (R280): enters the copy queue. -/
def execCpRed (e : EWord) (s : State) : Out := issueCmd (.cpRed e) e s

/-- `cp.bc` (R279): enters the copy queue. -/
def execCpBc (e : EWord) (s : State) : Out := issueCmd (.cpBc e) e s

end Sys2Proof.Machine
end

