-- ==== Sys2Proof/Machine/Copy.lean ====
section
/-! DEFINITION. Copies: the bursts of a command (R270, R273), what each checks and does (R279 to R282), arrivals (R287,
R288) and the counters (R285). -/

namespace Sys2Proof.Machine

open Sys2Proof

/-- Performs the stores that the engines of a group see (R263), so that its scratchpad and memory hold them. -/
def State.settleEngine (s : State) (gid : Nat) : State :=
  [Slice.a, Slice.c].foldl (fun s sl =>
    s.drainWhere gid sl (fun e =>
      match s.grp? gid with
      | some g => visCovers s g e.vis (engineViewer gid none)
      | none => false)) s

/-- A burst: source and destination of its first byte, and its length. -/
structure Burst where
  src : Int
  dst : Int
  n   : Nat
  deriving DecidableEq, Repr

/-- The bytes of a command (R284). -/
def Cmd.total (c : Cmd) : Nat := nestCount c.nest * cpLen c.vC

/-- R270, R284: the burst at the cursor; none when the command has moved all its bytes. -/
def Cmd.burst (c : Cmd) : Option Burst :=
  let len := cpLen c.vC
  if c.total ≤ c.cursor then none
  else
    let (so, do_) := nestOffsets c.nest (c.cursor / len)
    let o := c.cursor % len
    let d : Int := (c.vD.toNat : Int) + do_ + o
    some { src := (c.vA.toNat : Int) + so + o, dst := d, n := min (len - o) (256 - (d % 256).toNat) }

/-- A virtual address modulo 2^64. -/
def vaOf (x : Int) : Nat := (x % 2 ^ 64).toNat

/-- R287: a group offset in range of a group. -/
def Group.inRange (g : Group) (o : Int) : Bool :=
  0 ≤ o && o < 2 ^ 26 && o.toNat / 2 ^ 22 < g.n && o.toNat % 2 ^ 22 < g.x

/-- R287: the aligned 32-byte sectors of a burst. -/
def burstSectors (d : Nat) (n : Nat) : Nat := (d + n - 1) / 32 - d / 32 + 1

/-- R279: the group numbers that receive. -/
def Cmd.receivers (c : Cmd) : List Nat := (List.range (cpBcnt c.vC + 1)).map (fun k => cpDgrp c.vC + k)

/-- The receiving groups, or the missing number, or none while one is saved. -/
def State.targets (s : State) (g : Group) : List Nat → Except Nat (Option (List Nat))
  | [] => .ok (some [])
  | n :: rest =>
    match s.groups.find? (fun h => h.lid == g.lid && h.gnum == n) with
    | none => .error n
    | some h =>
      if !h.resident then .ok none
      else
        match s.targets g rest with
        | .ok (some l) => .ok (some (h.gid :: l))
        | r => r

/-- Pieces of a virtual range as the copy engine that executes the command translates them (R281, R372); a UO page is refused to
`cp.red`. Of two failing pieces the one of lower cause, then of lower address, is recorded (log 48). -/
def State.engineAccess (s : State) (g : Group) (q : EQueue) (c : Cmd) (a n : Nat) (need : Need) (uo : Bool) : Got (List Part) :=
  match s.ctx? g.ctx with
  | none => .lost s
  | some cx =>
    let h : TlbHolder := .engine g.stack0 (c.eng.getD 0)
    let v := engineViewer g.gid (bindOf g.ctx c.bind)
    let (s, rs) := s.translateAll h v cx need (pageSplit a n)
    match rs.findSome? (fun x => match x.2.2 with | .poison l => some (x.1, l) | _ => none) with
    | some (va, l) => .lost (s.loseContext g.ctx { reason := 4, src := q.src, gid := some g.gid, place := some l, va := va })
    | none =>
      match rs.foldl (fun w x => worst w (pieceFault uo x.1 x.2.2)) none with
      | some t => .trap s { t with status := BitVec.ofNat 64 c.cursor }
      | none =>
        .ok s (rs.filterMap (fun x => match x.2.2 with
          | .ok l ord => some { va := x.1, n := x.2.1, loc := l, ord := ord }
          | _ => none))

/-- The source of a burst as parts; a scratchpad byte outside the extent traps (R281). Of an edited entry SSP 2 and 3 read the
scratchpad too (log 49). -/
def State.sourceParts (s : State) (g : Group) (q : EQueue) (c : Cmd) (b : Burst) : Got (List Part) :=
  if cpSsp c.vC == 0 then s.engineAccess g q c (vaOf b.src) b.n needR true
  else
    match (List.range b.n).find? (fun (k : Nat) => !g.inRange (b.src + (k : Int))) with
    | some k => .trap s { cause := 0x21, addr := vaOf (b.src + k), status := BitVec.ofNat 64 c.cursor }
    | none => .ok s [{ va := 0, n := b.n, loc := .spad b.src.toNat, ord := 1 }]

/-- The destination of a burst where it is a virtual address. -/
def State.destParts (s : State) (g : Group) (q : EQueue) (c : Cmd) (b : Burst) (red : Bool) : Got (List Part) :=
  if cpDsp c.vC == 0 then s.engineAccess g q c (vaOf b.dst) b.n (if red then needRW else needW) (!red) else .ok s []

/-- The bytes of a part that is not a peer's, each with its poison; a poisoned byte is zero (R282). -/
def State.partNow (s : State) (v : Viewer) (g : Group) (p : Part) : List (Byte × Bool) :=
  match p.loc with
  | .spad o => (List.range p.n).map (fun k => if g.spadPoisoned (o + k) 1 then (0, true) else (g.spad.get (o + k), false))
  | l =>
    let vis := s.visible v
    (List.range p.n).map (fun k => if s.viewPoison vis (l.shift k) then (0, true) else (s.viewByte v vis (l.shift k), false))

/-- Splits `n` bytes at `a` into pieces within aligned blocks of 8 bytes. -/
def split8 : (fuel a n : Nat) → List (Nat × Nat)
  | 0, _, _ => []
  | fuel + 1, a, n =>
    if n == 0 then []
    else
      let k := min n (8 - a % 8)
      (a, k) :: split8 fuel (a + k) (n - k)

/-- The units of an engine's access to a part of peer memory (R252, R283, R414). -/
def Part.units (p : Part) (a : Nat) : List (Nat × Nat) := if p.ord == 0 then split8 (p.n + 1) a p.n else split256 (p.n + 1) a p.n

/-- The requests that reading a part needs (R414). -/
def partAsks (p : Part) : List PeerAsk :=
  match p.loc with
  | .peer id a => (p.units a).map (fun x => { peer := id, addr := x.1, ord := p.ord, kind := .read x.2 })
  | _ => []

/-- The bytes of the parts, given the answers of their requests in order. -/
def State.gather (s : State) (v : Viewer) (g : Group) : List Part → List (List Byte × Bool) → List (Byte × Bool)
  | [], _ => []
  | p :: rest, data =>
    let k := (partAsks p).length
    let here := if k == 0 then s.partNow v g p
      else ((data.take k).flatMap (fun x => x.1.map (fun b => (if x.2 then 0 else b, x.2)))).mapIdx
        (fun j x => (s.peerByte v (p.loc.shift j) x.1, x.2))
    here ++ s.gather v g rest (data.drop k)

/-! ### `cp.red` elements (R280) -/

/-- The format of the elements; an RFMT above 1, which only an edited entry holds, is BF16 (log 49). -/
def redFmt (c : Cmd) : Fmt := if cpRfmt c.vC == 0 then fmtFP32 else fmtBF16
def redSize (c : Cmd) : Nat := if cpRfmt c.vC == 0 then 4 else 2

/-- dst := round_cvt(dst + src, RFMT, RNE, 0). -/
def redAdd (c : Cmd) (dst src : Nat) : Nat × FFlags :=
  let (v, f1) := sumX false [decodeElem (redFmt c) dst, decodeElem (redFmt c) src]
  let (r, f2) := roundCvt v (redFmt c) 0 false
  (r, f1 ||| f2)

/-- The elements of a burst: offset within it, bits and poison. Bytes that make no whole element, which only an edited entry leaves
over, are not added (log 49). -/
def redElems (c : Cmd) (bs : List (Byte × Bool)) : List (Nat × Nat × Bool) :=
  let n := redSize c
  (List.range (bs.length / n)).map (fun k =>
    let e := (bs.drop (n * k)).take n
    (n * k, leNat (e.map Prod.fst), e.any Prod.snd))

/-- Poisons the sectors of `n` bytes at a location; a free page stays as it is (R308). -/
def State.poisonSectors (s : State) (l : MemLoc) (n : Nat) : State :=
  match l with
  | .vault p => if s.freePage p then s else (sectorsOf p n).foldl State.poisonVault s
  | .host p => { s with hostPoison := (sectorsOf p n).foldl NatSet.insert s.hostPoison }
  | _ => s

/-- Adds one element at a vault or host location; poison of either operand poisons the destination's sector (R282). -/
def State.redAt (s : State) (v : Viewer) (c : Cmd) (l : MemLoc) (src : Nat) (pz : Bool) : State × FFlags × Bool :=
  let n := redSize c
  let s := s.drainOverlap v true l n
  let (old, bad) := s.viewRead v l n
  if pz || bad then (s.poisonSectors l n, 0, true)
  else
    let (r, f) := redAdd c (leNat old) src
    (s.performWrite l (leBytes n r) false true, f, false)

/-- Adds one element in a scratchpad. -/
def Group.redSpad (g : Group) (c : Cmd) (o src : Nat) (pz : Bool) : Group × FFlags × Bool :=
  let n := redSize c
  if pz || g.spadPoisoned o n then ((sectorsOf o n).foldl Group.poisonSpad g, 0, true)
  else
    let (r, f) := redAdd c (leNat (g.spadRead o n)) src
    (g.spadWrite o (leBytes n r) false true, f, false)

/-! ### The burst -/

/-- What a burst has done so far: flags, poison, bytes written, sectors counted, bytes clipped, an overflow. -/
structure Tally where
  flags   : FFlags := 0
  poison  : Bool := false
  written : Nat := 0
  sectors : Nat := 0
  clipped : Nat := 0
  ovf     : Bool := false

/-- Writes the bytes of a burst in a receiving group's scratchpad. -/
def State.writeSpad (s : State) (gid : Nat) (c : Cmd) (red : Bool) (o : Nat) (bs : List (Byte × Bool)) (t : Tally) : State × Tally :=
  match s.grp? gid with
  | none => (s, t)
  | some h =>
    if red then
      let (h, t) := (redElems c bs).foldl (fun (x : Group × Tally) e =>
        let (h, f, pz) := x.1.redSpad c (o + e.1) e.2.1 e.2.2
        (h, { x.2 with flags := x.2.flags ||| f, poison := x.2.poison || pz, written := x.2.written + (if pz then 0 else redSize c) })) (h, t)
      (s.setGrp h, t)
    else (s.setGrp (h.spadWrite o (bs.map Prod.fst) (bs.any Prod.snd) true), { t with written := t.written + bs.length })

/-- An arrival of `a` sectors (R288). -/
def arrive (t : Tbar) (a : Nat) : Option Tbar := if t.arr + a ≤ t.exp then some { t with arr := t.arr + a }.complete else none

/-- Performs the stores of a group's slices that overlap a range of its scratchpad: a copy's write comes after them (R250). -/
def State.settleSpad (s : State) (gid o n : Nat) : State :=
  [Slice.a, Slice.c].foldl (fun s sl => s.drainWhere gid sl (fun e => overlap e.loc e.bytes.length (.spad o) n)) s

/-- The burst into one receiving group: its bytes in range, then its arrival, of no sectors where it is clipped (R279); none where its
barrier is poisoned. Everything that happens before an arrival is performed with it (R259, R266; log 8). -/
def State.burstInto (s : State) (c : Cmd) (red : Bool) (b : Burst) (bs : List (Byte × Bool)) (gid : Nat)
    (t : Tally) : Option (State × Tally) :=
  match s.grp? gid with
  | none => some (s, t)
  | some h =>
    let kept := h.inRange b.dst
    let o := b.dst.toNat
    let (s, t) := if kept then (s.settleSpad gid o b.n).writeSpad gid c red o bs t else (s, { t with clipped := t.clipped + b.n })
    let n := if kept then burstSectors o b.n else 0
    if !cpTben c.vB then some (s, t)
    else
      match s.drainAll.tbarAt (engineViewer gid none) gid (cpTboff c.vB) with
      | (_, some (_, true)) => none
      | (s, some (x, false)) =>
        (match arrive x n with
         | some y => some (s.setTbar gid (cpTboff c.vB) y, { t with sectors := t.sectors + n })
         | none => some (s, { t with ovf := true }))
      | (s, none) => some (s, t)

/-- The burst into every receiving group, ascending. -/
def State.burstAll (s : State) (c : Cmd) (red : Bool) (b : Burst) (bs : List (Byte × Bool)) :
    List Nat → Tally → Option (State × Tally)
  | [], t => some (s, t)
  | gid :: rest, t =>
    match s.burstInto c red b bs gid t with
    | none => none
    | some (s, t) => s.burstAll c red b bs rest t

/-- A write to a location is discarded (R308). -/
def State.discards (s : State) (l : MemLoc) : Bool := match l with | .vault p => s.freePage p | _ => false

/-- The burst to vault or host memory; only bytes that are written count (R285). -/
def State.burstMem (s : State) (v : Viewer) (c : Cmd) (red : Bool) (p : Part) (bs : List (Byte × Bool)) (t : Tally) : State × Tally :=
  if red then
    let (s, t) := (redElems c bs).foldl (fun (x : State × Tally) e =>
      let (s, f, pz) := x.1.redAt v c (p.loc.shift e.1) e.2.1 e.2.2
      let kept := pz || s.discards (p.loc.shift e.1)
      (s, { x.2 with flags := x.2.flags ||| f, poison := x.2.poison || pz, written := x.2.written + (if kept then 0 else redSize c) })) (s, t)
    (s, t)
  else
    let s := s.drainOverlap v false p.loc p.n
    (s.performWrite p.loc (bs.map Prod.fst) (bs.any Prod.snd) true,
     { t with written := t.written + (if s.discards p.loc then 0 else bs.length) })

/-- The requests that writing to a peer needs; an element with poison is sent with its mark, so that the peer poisons the destination
and leaves it unchanged (R282; log 12). -/
def destAsks (c : Cmd) (red : Bool) (p : Part) (bs : List (Byte × Bool)) : List PeerAsk :=
  match p.loc with
  | .peer id a =>
    if red then
      (redElems c bs).map (fun e =>
        { peer := id, addr := a + e.1, ord := p.ord,
          kind := .atomic (if cpRfmt c.vC == 0 then 10 else 11) (redSize c) (BitVec.ofNat 64 e.2.1) 0 e.2.2 })
    else (p.units a).map (fun x =>
      { peer := id, addr := x.1, ord := p.ord, kind := .write (((bs.map Prod.fst).drop (x.1 - a)).take x.2) (bs.any Prod.snd) })
  | _ => []

/-- R280: flags and poison of the answers to the atomics of `cp.red`, and the bytes they wrote. -/
def redAnswers (c : Cmd) (bs : List (Byte × Bool)) (data : List (List Byte × Bool)) : Tally :=
  ((redElems c bs).zip data).foldl (fun (t : Tally) e =>
    if e.1.2.2 || e.2.2 then { t with poison := true }
    else { t with flags := t.flags ||| (redAdd c (leNat e.2.1) e.1.2.1).2, written := t.written + redSize c })
    { poison := bs.any Prod.snd }

/-- Replaces the head of a queue. -/
def Group.setHead (g : Group) (q : EQueue) (c : Cmd) : Group := g.setQueue q (c :: (g.queue q).drop 1)

/-- The end of a burst: counters, cursor, the poison it met, and the trap of an overflow (R279, R285, R288). -/
def State.burstEnd (s : State) (gid : Nat) (q : EQueue) (c : Cmd) (b : Burst) (t : Tally) : State :=
  let c := { c with cursor := c.cursor + b.n, hold := none, reqs := [], fl := c.fl ||| t.flags, pz := c.pz || t.poison }
  let s := s.mapGrp gid (fun g => g.setHead q c)
  let s := if t.written == 0 then s else s.count gid 11 t.written
  let s := if t.sectors == 0 then s else s.count gid 12 t.sectors
  let s := if t.clipped == 0 then s else s.count gid 13 t.clipped
  if t.ovf then
    s.raise gid q.src { cause := 0x1A, addr := cpTboff c.vB, status := BitVec.ofNat 64 c.cursor } false c.idx
  else s

/-- A trap of the copy at the head, which keeps its cursor (R281). -/
def State.copyTrap (s : State) (gid : Nat) (q : EQueue) (c : Cmd) (t : TrapInfo) : State :=
  (s.mapGrp gid (fun g => g.setHead q { c with hold := none, reqs := [] })).raise gid q.src
    { t with status := BitVec.ofNat 64 c.cursor } false c.idx

/-- R279: the checks of a burst on its receiving groups: their gids, a trap, or none to wait. DSP 3, which only an edited entry
holds, is taken as DSP 2 (log 49). -/
def State.burstTargets (s : State) (g : Group) (c : Cmd) : Except TrapInfo (Option (List Nat)) :=
  let ts : Except Nat (Option (List Nat)) :=
    match cpDsp c.vC with
    | 0 => .ok (some [])
    | 1 => .ok (some [g.gid])
    | _ => s.targets g c.receivers
  match ts with
  | .error n => .error { cause := 0x21, addr := n }
  | .ok none => .ok none
  | .ok (some l) =>
    let fits (gid : Nat) : Bool :=
      match s.grp? gid with
      | some h => cpTboff c.vB / 2 ^ 22 < h.n && cpTboff c.vB % 2 ^ 22 + 16 ≤ h.x
      | none => true
    if cpTben c.vB && !l.all fits then .error { cause := 0x21, addr := cpTboff c.vB } else .ok (some l)

/-- The peers of the requests that writing a part takes, one each: a slot of the peer's port is held for it (R416). -/
def destPeers (c : Cmd) (red : Bool) (p : Part) : List Nat :=
  match p.loc with
  | .peer id a => List.replicate (if red then p.n / redSize c else (p.units a).length) id
  | _ => []

/-- The writes of a burst whose bytes are at hand. The requests to a peer are sent first, and those of `cp.red` answered; the
bytes that a peer writes count when it answers (R285). -/
def State.burstWrite (s : State) (gid : Nat) (q : EQueue) (g : Group) (c : Cmd) (red : Bool) (b : Burst) (h : BurstHold)
    (bs : List (Byte × Bool)) : State :=
  let v := engineViewer gid (bindOf g.ctx c.bind)
  let asks := h.dps.flatMap (fun p => destAsks c red p bs)
  let (s, held) := s.sendSome true gid q.src c.reqs (asks.drop c.reqs.length)
  let answered := if red then s.answers held asks else some []
  if held.length < asks.length || answered.isNone then
    let h := { h with got := some bs, owed := (asks.drop held.length).map PeerAsk.peer }
    s.mapGrp gid (fun g => g.setHead q { c with hold := some h, reqs := held })
  else
    let s := { s with replies := s.replies.filter (fun r => !held.contains r.tag) }
    match cpDsp c.vC with
    | 0 =>
      match h.dps with
      | [p] =>
        (match p.loc with
         | .peer _ _ => s.burstEnd gid q c b (redAnswers c bs (answered.getD []))
         | _ =>
           let (s, t) := s.burstMem v c red p bs { poison := bs.any Prod.snd }
           s.burstEnd gid q c b t)
      | _ => s
    | _ =>
      match s.burstAll c red b bs h.targets { poison := bs.any Prod.snd } with
      | some (s, t) => s.burstEnd gid q c b t
      | none => s.loseContext g.ctx { reason := 5, src := q.src, gid := some gid, place := some (.spad (cpTboff c.vB)), va := 0 }

/-- What the reading of a burst's source has come to: the requests that its first part still to be read holds, those parts, and the
bytes read. -/
structure SourceRead where
  reqs : List Nat
  sps  : List Part
  read : List (Byte × Bool)

/-- The parts of a burst's source are read in their order, each once those before it are (R252, R270). -/
def State.readSource (s : State) (gid : Nat) (q : EQueue) (v : Viewer) (g : Group) (reqs : List Nat) (read : List (Byte × Bool)) :
    List Part → State × SourceRead
  | [] => (s, { reqs := [], sps := [], read := read })
  | p :: rest =>
    let asks := partAsks p
    let (s, held) := s.sendSome true gid q.src reqs (asks.drop reqs.length)
    match s.answers held asks with
    | none => (s, { reqs := held, sps := p :: rest, read := read })
    | some data =>
      let s : State := { s with replies := s.replies.filter (fun r => !held.contains r.tag) }
      s.readSource gid q v g [] (read ++ s.gather v g [p] data) rest

/-- A burst in progress: its source is read once, then its bytes are written (R270). -/
def State.copyMove (s : State) (gid : Nat) (q : EQueue) (g : Group) (c : Cmd) (red : Bool) (b : Burst) (h : BurstHold) : State :=
  match h.got with
  | some bs => s.burstWrite gid q g c red b h bs
  | none =>
    match s.readSource gid q (engineViewer gid (bindOf g.ctx c.bind)) g c.reqs h.read h.sps with
    | (s, x) =>
      if x.sps.isEmpty then s.burstWrite gid q g { c with reqs := [] } red b { h with sps := [] } x.read
      else
        let h := { h with sps := x.sps, read := x.read,
                          owed := ((x.sps.flatMap partAsks).drop x.reqs.length).map PeerAsk.peer ++ h.dps.flatMap (destPeers c red) }
        s.mapGrp gid (fun g => g.setHead q { c with hold := some h, reqs := x.reqs })

/-- R416: the slots that a burst needs are free on every port, for this copy (R351); where they are not, it waits at its burst
boundary for the first port that lacks them. -/
def State.burstSlots (s : State) (gid : Nat) (q : EQueue) (peers : List Nat) : State × Bool :=
  let need (k : Nat) : Nat := (peers.filter (fun p => s.route p == some k && !s.peerDown p)).length
  match (List.range 16).find? (fun k => need k != 0 && !s.portFree k (need k) (gid, q.src)) with
  | some k => (s.waitPort k (gid, q.src), false)
  | none => (s, true)

/-- One burst of the copy at the head of a queue (R279 to R282). Its bytes are translated once, when it starts (R374): the source
is checked before the destination (log 48). What the queue's copies have
written to peers is answered before it is read (R250). A destination that is saved holds the copy at its burst boundary, and its
engine is free for other queues. -/
def State.copyStep (s : State) (gid : Nat) (q : EQueue) (g : Group) (c : Cmd) (red : Bool) (b : Burst) : State :=
  match c.hold with
  | some h => s.copyMove gid q g c red b h
  | none =>
    match s.burstTargets g c with
    | .error t => s.copyTrap gid q c t
    | .ok none => s.mapGrp gid (fun g => g.setHead q { c with eng := none })
    | .ok (some targets) =>
      let r := (s.sourceParts g q c b).bind (fun s sps => (s.destParts g q c b red).bind (fun s dps => .ok s (sps, dps)))
      match r with
      | .trap s t => s.copyTrap gid q c t
      | .lost s => s
      | .wait s => s
      | .ok s (sps, dps) =>
        if ((sps ++ dps).any (fun p => p.ord == 0) && !s.soQuiet gid q.src none) ||
          s.ownOut gid q.src (if red then sps ++ dps else sps) then s
        else
          match s.burstSlots gid q ((sps.flatMap partAsks).map PeerAsk.peer ++ dps.flatMap (destPeers c red)) with
          | (s, false) => s
          | (s, true) => s.copyMove gid q g c red b { targets := targets, sps := sps, dps := dps, owed := [], read := [], got := none }

end Sys2Proof.Machine
end

