-- ==== Sys2Proof/Machine/Engines.lean ====
section
/-! DEFINITION. The engines of a group: the start of a queue head (R269, R295, R303), the performance of matrix, vector and
copy commands with their SEN signals (R156, R283, R296, R297), `qfence` (R300), `mred` rounds (R177 to R179) and the
reduction watchdog (R166). -/

namespace Sys2Proof.Machine

open Sys2Proof

/-! ### Start -/

/-- A stream of a resumed group has had no turn yet: the waits of the slices, which begin with the resume, come before those of the
queue heads, and take their units before them (R294). -/
def Group.resuming (g : Group) : Bool := g.a.fresh || g.c.fresh

/-- The WEN wait of a command is satisfied (R295). -/
def Group.wenFree (g : Group) (q : EQueue) (c : Cmd) : Bool := !c.wen || (!g.resuming && (g.sem c.wsem.toNat).free (.queue q))

/-- R279: the copy stands at a burst boundary before a burst whose destination is saved. -/
def State.copyHeld (s : State) (g : Group) (c : Cmd) : Bool :=
  c.hold.isNone && c.burst.isSome && (match s.burstTargets g c with | .ok none => true | _ => false)

/-- R269: the head of a copy queue that an engine may take: its wait is satisfied, or it has begun before. -/
def State.copyReady (s : State) (g : Group) (q : EQueue) : Bool :=
  g.mayBegin &&
  (match g.queue q with
   | c :: _ => c.eng.isNone && c.qf.isNone && (c.started || g.wenFree q c) && (c.null || !s.copyHeld g c)
   | [] => false)

/-- The copy queue that goes first within a group (R269). -/
def Group.nextCopy (g : Group) : EQueue := if g.lastCopy == some .cpl then .cps else .cpl

/-- R351: places from a stack's pointer to a leading row controller. -/
def State.copyDistance (s : State) (g : Group) : Nat := (g.ctl + 256 - (s.stack g.stack0).copyPtr) % 256

/-- R269, R351: an engine of the home stack is free and no other ready copy head ranks before this one. -/
def State.copyTurn (s : State) (g : Group) (q : EQueue) : Bool :=
  (s.freeEngine g.stack0).isSome && s.copyReady g q &&
  !(q != g.nextCopy && s.copyReady g g.nextCopy) &&
  !s.groups.any (fun h =>
    h.gid != g.gid && h.stack0 == g.stack0 && (s.copyReady h .cpl || s.copyReady h .cps) &&
    (g.prio < h.prio || (g.prio == h.prio && s.copyDistance h < s.copyDistance g)))

/-- ENGINE_COMMAND_START (R295, R269, R303): the head of a queue waits on its semaphore, or takes a unit and begins; a copy
that has begun without an engine takes one. A head begins only when the one before it has performed: the overlaps that R156
permits are not taken (log 45). -/
def execEngineCommandStart (grp : Nat) (q : EQueue) (s : State) : Out :=
  match s.grp? grp with
  | none => .next s
  | some g =>
    match g.queue q with
    | [] => .next s
    | c :: _ =>
      let k := c.wsem.toNat
      let x := g.sem k
      if !g.mayBegin || c.qf.isSome then .next s
      else if c.started then
        if isCopy q && s.copyTurn g q then .next (s.takeEngine g q) else .next s
      else if g.wenFree q c then
        if isCopy q && !s.copyTurn g q then .next s
        else if !c.wen then .next (s.beginHead g q)
        else .next ((s.mapGrp grp (fun g => g.setSem k (x.take (.queue q)))).beginHead g q)
      else if g.resuming then .next s
      else .next ((s.mapGrp grp (fun g => g.setSem k (x.join (.queue q)))).starve grp k)

/-- R294, R295: the head of a queue that has come to wait for its WEN takes a unit and has begun, or joins the waiters. -/
def State.meetHead (s : State) (gid : Nat) (q : EQueue) : State :=
  match s.grp? gid with
  | none => s
  | some g =>
    match g.queue q with
    | [] => s
    | c :: _ =>
      let k := c.wsem.toNat
      if !g.mayBegin || g.resuming || c.qf.isSome || c.started || !c.wen then s
      else if (g.sem k).free (.queue q) then s.setGrp ((g.setSem k ((g.sem k).take (.queue q))).startHead q)
      else s.setGrp (g.setSem k ((g.sem k).join (.queue q)))

/-- The heads of a group's queues, in the order of R294, wait from the moment they are heads. -/
def State.meetHeads (s : State) : State :=
  s.groups.foldl (fun s g => allQueues.foldl (fun s q => s.meetHead g.gid q) s) s

/-! ### Performance -/

/-- A command that does not perform stays at the head as if it had not begun: its WEN unit is returned (R295, R392). What waits on
the semaphore is left unexecuted, as the group stops (R118, R379), the command itself ahead of it (R294). -/
def Group.unbegin (g : Group) (q : EQueue) : Group :=
  match g.queue q with
  | [] => g
  | c :: rest =>
    if !c.started then g
    else
      let g := g.setQueue q ({ c with started := false, cursor := 0 } :: rest)
      if !c.wen then g
      else
        let x := g.sem c.wsem.toNat
        g.setSem c.wsem.toNat { x with value := min x.ceil (x.value + 1), waiters := [], left := .queue q :: (x.left ++ x.waiters) }

/-- The head of a queue has performed: it leaves, and its SEN signal is made or traps (R296, R297). -/
def State.completeHead (s : State) (gid : Nat) (q : EQueue) (c : Cmd) : State :=
  let s := s.mapGrp gid (fun g => g.setQueue q ((g.queue q).drop 1))
  if !c.sen then s
  else
    match s.grp? gid with
    | none => s
    | some g =>
      let k := c.ssem.toNat
      let x := g.sem k
      if x.ceil ≤ x.value then
        s.raise gid q.src { cause := 0x18, addr := k, status := BitVec.ofNat 64 (x.value + 1) } false c.idx
      else s.semTo gid k (x.value + 1)

/-- The poison that a command met sets DP as it performs (R400). -/
def State.settlePoison (s : State) (gid : Nat) (c : Cmd) : State := if c.pz then s.dataPoison gid else s

/-- A running or stopping group: one whose engines complete what they execute (R379). -/
def Group.working (g : Group) : Bool := g.status == .running || g.status == .stopping

/-- The head of a queue that has begun. -/
def Group.begun (g : Group) (q : EQueue) : Option Cmd :=
  match g.queue q with
  | c :: _ => if c.started && g.working then some c else none
  | [] => none

/-- The effect of a matrix command other than `mred` (R173 to R176, R180 to R182); a trap leaves it unperformed. -/
def State.matrixEffect (s : State) (gid : Nat) (i : Instr) (c : Cmd) : Except TrapInfo State :=
  match i with
  | .ml _ => s.performMl gid c false
  | .mlT _ => s.performMl gid c true
  | .mm _ => .ok (s.performMm gid c)
  | .mzero _ => .ok (s.performMzero gid c)
  | .mdrain _ => .ok (s.performMdrain gid c)
  | .mcfg _ => .ok (s.mapGrp gid (fun g => { g with cfg := cfgStored c.vD }))
  | .mfmt _ => .ok (s.performMfmt gid c)
  | .mchk _ => .ok (s.performMchk gid c)
  | _ => .ok s

/-- A matrix command at the head traps at its performance (R159, R177). -/
def State.matrixTrap (s : State) (gid : Nat) (c : Cmd) (t : TrapInfo) : State :=
  (s.mapGrp gid (fun g => g.unbegin .mat)).raise gid 2 t false c.idx

/-- The `mred` at the head: a contribution is made once; a stack that is not the root then performs (R177, R178). -/
def State.performMred (s : State) (gid : Nat) (g : Group) (c : Cmd) : State :=
  if !g.mayBegin || c.cursor != 0 then s
  else
    let s := s.settleEngine gid
    let (s, ends) := s.startMred gid c
    let c := ((s.grp? gid).bind (fun g => (g.queue .mat).head?)).getD c
    if ends then ((s.mapGrp gid (fun g => { g with mredRound := none })).settlePoison gid c).completeHead gid .mat c
    else s.mapGrp gid (fun g => g.setHead .mat { c with cursor := 1 })

/-- MATRIX_COMMAND_PERFORM (R156): the begun head of the matrix queue performs. -/
def execMatrixCommandPerform (grp : Nat) (s : State) : Out :=
  match s.grp? grp with
  | none => .next s
  | some g =>
    match g.begun .mat with
    | none => .next s
    | some c =>
      match c.instr? with
      | some (.mred _) => .next (s.performMred grp g c)
      | some i =>
        if c.null then .next (s.completeHead grp .mat c)
        else
          match (s.settleEngine grp).matrixEffect grp i c with
          | .error t => .next ((s.settleEngine grp).matrixTrap grp c t)
          | .ok t => .next (t.completeHead grp .mat c)
      | none => .next s

/-- MRED_ROUND_COMPLETE (R177, R178): the root's round has every contribution. A group that stops completes it too (R179). -/
def execMredRoundComplete (grp : Nat) (s : State) : Out :=
  match s.grp? grp with
  | none => .next s
  | some g =>
    match g.begun .mat with
    | none => .next s
    | some c =>
      match c.instr? with
      | some (.mred _) =>
        if c.cursor == 0 || !s.roundReady g c then .next s
        else
          match s.finishMred grp c with
          | .error t => .next (s.matrixTrap grp c t)
          | .ok t => .next (((t.mapGrp grp (fun g => { g with mredRound := none })).settlePoison grp c).completeHead grp .mat c)
      | _ => .next s

/-- VECTOR_COMMAND_PERFORM (R198): the begun head of the vector queue performs. -/
def execVectorCommandPerform (grp : Nat) (s : State) : Out :=
  match s.grp? grp with
  | none => .next s
  | some g =>
    match g.begun .vec with
    | none => .next s
    | some c =>
      match c.instr? with
      | some i =>
        if c.null then .next (s.completeHead grp .vec c)
        else .next (((s.settleEngine grp).performVx grp i c).completeHead grp .vec c)
      | none => .next s

/-- The command adds (R280). -/
def Cmd.isRed (c : Cmd) : Bool := match c.instr? with | some (.cpRed _) => true | _ => false

/-- COPY_BURST (R279 to R282): the begun head of a copy queue moves one burst. -/
def execCopyBurst (grp : Nat) (q : EQueue) (s : State) : Out :=
  match s.grp? grp with
  | none => .next s
  | some g =>
    match g.begun q with
    | none => .next s
    | some c =>
      if !isCopy q || c.null || c.eng.isNone || (!g.mayBegin && c.hold.isNone) then .next s
      else
        match c.burst with
        | none => .next s
        | some b =>
          let s := (s.settleEngine grp).unwait (grp, q.src)
          match s.grp? grp with
          | some g => .next (s.copyStep grp q g c c.isRed b)
          | none => .next s

/-- R288: the copy has trapped in this stop, and performs after it. -/
def Group.trapped (g : Group) (q : EQueue) : Bool := g.status != .running && g.recs.any (fun r => r.src == q.src)

/-- COPY_PERFORM (R283): the begun head of a copy queue has moved every burst, and every peer has answered its writes. -/
def execCopyPerform (grp : Nat) (q : EQueue) (s : State) : Out :=
  match s.grp? grp with
  | none => .next s
  | some g =>
    match g.begun q with
    | none => .next s
    | some c =>
      if !isCopy q || c.eng.isNone || g.trapped q || !(c.null || (c.burst.isNone && c.reqs.isEmpty && s.peerQuiet grp q.src)) then .next s
      else .next (((s.mapGrp grp (fun g => g.raiseFlags c.fl)).settlePoison grp c).completeHead grp q c)

/-- QFENCE_PERFORM (R300): the `qfence` at the head of a queue performs once it heads every queue it names; entries of one
mask stand in the same order in all of them. -/
def execQfencePerform (grp : Nat) (q : EQueue) (s : State) : Out :=
  match s.grp? grp with
  | none => .next s
  | some g =>
    match g.queue q with
    | [] => .next s
    | c :: _ =>
      match c.qf with
      | none => .next s
      | some qm =>
        let named := allQueues.filter (fun r => qm.getLsbD r.idx)
        if !g.mayBegin || !named.all (fun r => match g.queue r with | d :: _ => d.qf == c.qf | [] => false) then .next s
        else .next (s.mapGrp grp (fun g => named.foldl (fun g r => g.setQueue r ((g.queue r).drop 1)) g))

/-- R166: the watchdog's count exceeds the launch's bound; its trap stands until the stop is complete (R380). -/
def Group.overBound (g : Group) : Bool :=
  g.working && g.loopOpen && g.rbound != 0 && g.rbound < g.watch && !g.recs.any (fun r => r.src == 6)

/-- The trap of the watchdog, which restarts from 0 (R166). -/
def State.watchdog (s : State) (gid : Nat) : State :=
  match s.grp? gid with
  | some g =>
    if g.overBound then
      (s.mapGrp gid (fun g => { g with watch := 0 })).raise gid 6 { cause := 0x22, status := BitVec.ofNat 64 g.rbound } false g.cmdCount
    else s
  | none => s

/-- REDUCTION_WATCHDOG (R166). -/
def execReductionWatchdog (grp : Nat) (s : State) : Out := .next (s.watchdog grp)

end Sys2Proof.Machine
end

