-- ==== Sys2Proof/Machine/Device.lean ====
section
/-! DEFINITION. Accesses of the device's own agents to structures at virtual addresses of a context: trap rings, save
images, launch queues, spill rings and completion records. They use no translation cache (R372), ask for the page's
permission, and refuse pages of kind UO. -/

namespace Sys2Proof.Machine

open Sys2Proof

/-- What came of an access: done, refused, poisoned (`table` says in a page-table entry), or waiting for a peer. -/
inductive Dev (α : Type) where
  | ok (s : State) (a : α)
  | bad (s : State)
  | poison (s : State) (l : MemLoc) (va : Nat) (table : Bool)
  | wait (s : State)

def Dev.bind {α β : Type} (x : Dev α) (f : State → α → Dev β) : Dev β :=
  match x with
  | .ok s a => f s a
  | .bad s => .bad s
  | .poison s l va t => .poison s l va t
  | .wait s => .wait s

/-- The parts of a range, one per page. -/
def State.devParts (s : State) (cx : Context) (need : Need) : List (Nat × Nat) → Dev (List Part)
  | [] => .ok s []
  | (va, n) :: rest =>
    match walk s cx va need (s.viewEntry viewDevice) with
    | .fault _ => .bad s
    | .poison l => .poison s l va true
    | .ok l =>
      if 2 ≤ l.ord then .bad s
      else (s.devParts cx need rest).bind (fun s ps => .ok s ({ va := va, n := n, loc := l.locOf va, ord := l.ord } :: ps))

/-- 64 KiB pieces of a range. -/
def pagePieces : (fuel a n : Nat) → List (Nat × Nat)
  | 0, _, _ => []
  | fuel + 1, a, n =>
    if n == 0 then []
    else
      let k := min n (65536 - a % 65536)
      (a % 2 ^ 64, k) :: pagePieces fuel (a + k) (n - k)

def State.devRange (s : State) (cx : Context) (need : Need) (va n : Nat) : Dev (List Part) :=
  s.devParts cx need (pagePieces (n / 65536 + 2) va n)

/-- The tag of a request of the event being made: it is sent once, as soon as R415 and R416 let it, and stays until that event is
over. -/
def State.devSend (s : State) (a : PeerAsk) : State × Option Nat :=
  match s.devReqs.find? (fun r => r.ask == a) with
  | some r => ({ s with devReqs := s.devReqs.map (fun x => if x.tag == r.tag then { x with used := true } else x) }, some r.tag)
  | none =>
    match s.sendPeer deviceGid 7 a with
    | (s, some tag) => ({ s with devReqs := s.devReqs ++ [{ ask := a, tag := tag, used := true }] }, some tag)
    | (s, none) => (s, none)

/-- Sends requests in order; whether all are sent. -/
def State.devSendAll (s : State) : List PeerAsk → State × Bool
  | [] => (s, true)
  | a :: rest =>
    match s.devSend a with
    | (s, some _) => s.devSendAll rest
    | (s, none) => (s, false)

/-- The event that asked is over: its answers are dropped. -/
def State.devDone (s : State) : State :=
  { s with
    replies := s.replies.filter (fun x => !s.devReqs.any (fun r => r.used && r.tag == x.tag))
    devReqs := s.devReqs.filter (fun r => !r.used) }

/-- The event waits for answers: of what it did only its requests remain. -/
def State.withLinks (s t : State) : State :=
  { s with outReqs := t.outReqs, replies := t.replies, devReqs := t.devReqs.map (fun r => { r with used := false }),
           nextTag := t.nextTag, codeLog := t.codeLog, codeSeq := t.codeSeq, peerTab := t.peerTab, ports := t.ports }

/-- Waits until peers have answered every request of the event. -/
def State.devAwait (s : State) : Dev Unit :=
  if s.outReqs.any (fun r => s.devReqs.any (fun d => d.used && d.tag == r.tag)) then .wait s else .ok s ()

/-- The answers to reads of peer memory, in order: the bytes of each, and whether it was poisoned. -/
def State.devAskAll (s : State) : List PeerAsk → State × Option (List (List Byte × Bool))
  | [] => (s, some [])
  | a :: rest =>
    match s.devSend a with
    | (s, none) => (s, none)
    | (s, some tag) =>
      match s.replyOf tag with
      | none => (s, none)
      | some r =>
        match s.devAskAll rest with
        | (s, none) => (s, none)
        | (s, some data) => (s, some ((r.bytes, r.poison) :: data))

/-- The offset in a vault or host part of its first poisoned sector, or of the part's start within it; none where it has no poison. -/
def State.poisonAt (s : State) (p : Part) : Option Nat :=
  let vis := s.visible viewDevice
  let first := match p.loc with | .vault a => a % 256 | .host a => a % 256 | _ => 0
  let starts := 0 :: (List.range (p.n / 256 + 1)).map (fun k => 256 * (k + 1) - first)
  starts.find? (fun k => k < p.n && s.viewPoison vis (p.loc.shift k))

/-- The offset of the first poisoned answer among those to a part's requests: its 256-byte block. -/
def poisonedAnswer : List (List Byte × Bool) → Option Nat
  | [] => none
  | (b, pz) :: rest => if pz then some 0 else (poisonedAnswer rest).map (· + b.length)

/-- The bytes of a part as the device's own agents read them, and the offset of the first poison. -/
def State.devPart (s : State) (p : Part) : State × Option (List Byte × Option Nat) :=
  match p.loc with
  | .peer _ _ =>
    (match s.devAskAll (partAsks p) with
     | (s, some data) =>
       (s, some ((data.flatMap Prod.fst).mapIdx (fun k x => s.peerByte viewDevice (p.loc.shift k) x), poisonedAnswer data))
     | (s, none) => (s, none))
  | l => (s, some ((s.viewRead viewDevice l p.n).1, s.poisonAt p))

/-- Reads the parts; a poisoned sector of one is reported where `control` says so, else its bytes read as zero. -/
def State.devBytes (s : State) (control : Bool) : List Part → Dev (List Byte)
  | [] => .ok s []
  | p :: rest =>
    match s.devPart p with
    | (s, none) => .wait s
    | (s, some (b, pz)) =>
      match pz.filter (fun _ => control) with
      | some k => .poison s (p.loc.shift k) (p.va + k) false
      | none => (s.devBytes control rest).bind (fun s bs => .ok s ((if pz.isSome then List.replicate p.n 0 else b) ++ bs))

/-- Reads `n` bytes of control state. -/
def State.devRead (s : State) (cx : Context) (va n : Nat) : Dev (List Byte) :=
  (s.devRange cx needR va n).bind (fun s ps => s.devBytes true ps)

/-- Reads a dword of control state. -/
def State.devWord (s : State) (cx : Context) (va : Nat) : Dev Nat := (s.devRead cx va 8).bind (fun s b => .ok s (leNat b))

/-- The requests that writing a part needs, unit by unit (R252, R414). -/
def putAsks (p : Part) (bs : List Byte) (pz : Bool) : List PeerAsk :=
  match p.loc with
  | .peer id a => (p.units a).map (fun x => { peer := id, addr := x.1, ord := p.ord, kind := .write ((bs.drop (x.1 - a)).take x.2) pz })
  | _ => []

/-- Performs a write of the parts at every scope; one to a peer is sent. -/
def State.devPut (s : State) : List Part → List Byte → Bool → Dev Unit
  | [], _, _ => .ok s ()
  | p :: rest, bs, pz =>
    let mine := bs.take p.n
    match p.loc with
    | .peer _ _ =>
      (match s.devSendAll (putAsks p mine pz) with
       | (s, true) => s.devPut rest (bs.drop p.n) pz
       | (s, false) => .wait s)
    | l => ((s.drainOverlap viewDevice false l p.n).performWrite l mine pz false).devPut rest (bs.drop p.n) pz

/-- R415: a release of the device's own agents waits for the responses to their requests, but those of the write itself. -/
def State.devQuiet (s : State) (own : List PeerAsk) : Bool :=
  !s.outReqs.any (fun r => r.gid == deviceGid && !s.devReqs.any (fun d => d.tag == r.tag && own.contains d.ask))

/-- Writes bytes, with a release of system scope before where `rel` says so. -/
def State.devWrite (s : State) (cx : Context) (va : Nat) (bs : List Byte) (rel : Bool) : Dev Unit :=
  (s.devRange cx needW va bs.length).bind (fun s ps =>
    if rel && !s.devQuiet (ps.flatMap (fun p => putAsks p ((bs.drop (p.va - va)).take p.n) false)) then .wait s
    else (if rel then s.drainAll else s).devPut ps bs false)

/-- The end of an event on a structure of context `c`; one that cannot be reached or is poisoned loses the context (R384,
R389, R358, R337). `s0` is the state before the event. -/
def Dev.orLose (x : Dev Unit) (s0 : State) (c : Nat) (gid : Option Nat) : State :=
  match x with
  | .ok s _ => s.devDone
  | .wait s => s0.withLinks s
  | .bad s => (s.loseContext c { reason := 6, src := 0, gid := gid, place := none, va := 0 }).devDone
  | .poison s l va t => (s.loseContext c { reason := if t then 4 else 6, src := 0, gid := gid, place := some l, va := va }).devDone

end Sys2Proof.Machine
end

