-- ==== Sys2Proof/Machine/Sys.lean ====
section
/-! DEFINITION. Slice control, software traps and the control registers (R119, R129, R360, R400 to R405). -/

namespace Sys2Proof.Machine

open Sys2Proof

/-- `nop` (R129). -/
def execNop (s : State) : Out := issue s (fun gid sl _ _ => s.done gid sl)

/-- `yield` (R129): no effect on any state. -/
def execYieldSlice (s : State) : Out := issue s (fun gid sl _ _ => s.done gid sl)

/-- A stream that has executed `join` (R119, R291): its loop state and markings are discarded, its PC is the `join`. -/
def Stream.join (st : Stream) : Stream :=
  { st with joined := true, stall := none, nesting := [], marks := Vector.replicate 3 Marking.reset,
            lc := st.lc.map (fun l => { l with active := false }) }

/-- `join` (R119). -/
def execJoin (s : State) : Out := issue s (fun gid sl _ st => .next (s.setStream gid sl st.join))

/-- The slice can no longer find the copies of lines that its controller holds (R44). -/
def Group.forgetCode (g : Group) (sl : Slice) : Group :=
  let other (st : Stream) : Stream := { st with fetches := st.fetches.map (fun f => { f with both := false }) }
  { g.setStream sl.partner (other (g.stream sl.partner)) with
    icache := g.icache.map (fun m => match sl with | .a => { m with forA := false } | .c => { m with forC := false }) }

/-- `ifence` (R129, R44): waits for the stream's own stores; its next fetches find memory as it stands then. -/
def execIfence (s : State) : Out :=
  issue s (fun gid sl _ _ =>
    let s := s.drainAll
    if s.peerQuiet gid sl.src then
      ((s.mapGrp gid (fun g => g.forgetCode sl)).mapStream gid sl (fun st => { st with pass := none, fetches := [], fencedAt := s.codeSeq })).done
        gid sl
    else .next (s.stallOn gid sl .peer))

/-- `trap` (R403): the value only reaches the record, so its poison is ignored. -/
def execTrapSw (a : Reg) (s : State) : Out :=
  issue s (fun gid sl _ st => .next (s.trapStream gid sl { cause := 0x30, addr := (st.rd a).toNat } true))

/-- `brk` (R403). -/
def execBrk (s : State) : Out := issue s (fun gid sl _ _ => .next (s.trapStream gid sl { cause := 0x31 } true))

/-- A word that decodes to no instruction (R55, R64). -/
def execIllegalInstruction (w1 w2 : BitVec 32) (s : State) : Out :=
  issue s (fun gid sl _ _ => s.trapNow gid sl { cause := 0x01, status := (w2 ++ w1 : BitVec 64) })

/-- `stepb` (R355, R360). -/
def execStepb (s : State) : Out :=
  issue s (fun gid sl _ st => (s.setStream gid sl { st with atStep := true }).done gid sl)

/-- Every command issued before `mark` has left the group's queues. -/
def Group.performedBelow (g : Group) (mark : Nat) : Bool :=
  g.eq.toList.all (fun q => q.all (fun c => mark ≤ c.uid))

/-- `chk.err` (R404): `chkMark` remembers which commands were present at its issue. -/
def execChkErr (d : Reg) (s : State) : Out :=
  issue s (fun gid sl g st =>
    let mark := st.chkMark.getD g.nextUid
    if g.performedBelow mark then
      (s.setStream gid sl ({ st with chkMark := none }.wr d (g.chk.setWidth 64) false)).done gid sl
    else .next (s.setStream gid sl { st with chkMark := some mark, stall := some .engine }))

/-- The group word of R360. -/
def Group.word (g : Group) : Word :=
  BitVec.ofNat 64 (g.gnum + g.stack0 * 2 ^ 16 + g.row0 * 2 ^ 20 + g.n.log2 * 2 ^ 24 + g.w.log2 * 2 ^ 28)

/-- `grpid` (R360). -/
def execGrpid (d : Reg) (s : State) : Out :=
  issue s (fun gid sl g st => (s.setStream gid sl (st.wr d g.word false)).done gid sl)

/-- The value of control register `n` (R56, R401); reserved fields read 0. -/
def State.crValue (s : State) (g : Group) (n : Nat) : Word :=
  let desc (f : CtxDesc → Nat) : Nat := match s.ctx? g.ctx with | some cx => f cx.desc | none => 0
  match n with
  | 0 => BitVec.ofNat 64 (g.chk.toNat + desc CtxDesc.interval * 2 ^ 40)
  | 1 => g.fflags.setWidth 64
  | 2 => g.round.setWidth 64
  | 3 => g.slipLim.setWidth 64
  | 4 => g.tol.setWidth 64
  | 5 => g.firn
  | 6 => BitVec.ofNat 64 (desc CtxDesc.lease)
  | 7 => BitVec.ofNat 64 g.prio
  | 8 => g.word
  | 9 => BitVec.ofNat 64 g.ctx
  | 10 => g.cycle
  | _ => 0

/-- Control register `n` written with `v` by the access code of each field (R401, R405). -/
def Group.wrcr (g : Group) (n : Nat) (v : Word) : Group :=
  match n with
  | 0 => { g with chk := g.chk &&& ~~~(v.setWidth 3) }
  | 1 => { g with fflags := v.setWidth 6 }
  | 2 => if wbits v 2 0 ≤ 4 then { g with round := v.setWidth 3 } else g
  | 3 => { g with slipLim := v.setWidth 7 }
  | 4 => { g with tol := v.setWidth 6 }
  | _ => g

/-- `rdcr` (R405). -/
def execRdcr (d : Reg) (n : BitVec 5) (s : State) : Out :=
  issue s (fun gid sl g st => (s.setStream gid sl (st.wr d (s.crValue g n.toNat) false)).done gid sl)

/-- `wrcr` (R405): a poisoned value is control poison (R105). -/
def execWrcr (a : Reg) (n : BitVec 5) (s : State) : Out :=
  issue s (fun gid sl _ st =>
    if st.rp a then .next (s.loseControl gid sl)
    else (s.mapGrp gid (fun g => g.wrcr n.toNat (st.rd a))).done gid sl)

/-- R427: what `rdcnt` of counter `n` returns to a group. -/
def State.counterValue (s : State) (g : Group) (n : Nat) : Word :=
  if n < 8 then g.counters.toList.getD n 0
  else
    let j := n - 8
    let w := match s.boot with | some b => b.ssel.getD j 0 | none => 0
    if wbits w 14 14 == 1 && wbits w 13 8 == g.ctx then (s.stack g.stack0).counters.toList.getD j 0 else 0

/-- `rdcnt` (R405). -/
def execRdcnt (d : Reg) (n : BitVec 5) (s : State) : Out :=
  issue s (fun gid sl g st => (s.setStream gid sl (st.wr d (s.counterValue g n.toNat) false)).done gid sl)

end Sys2Proof.Machine
end

