-- ==== Sys2Proof/Machine/Image.lean ====
section
/-! DEFINITION. The save image (R108, R144, R161, R182, R271, R286 to R292, R390 to R392): its fixed part as pieces of
bytes, and how each piece is read back (R387, R393). -/

namespace Sys2Proof.Machine

open Sys2Proof

/-! ### Writing -/

/-- A queue entry as its 16-byte image (R108). -/
def QEntry.bytes (e : QEntry) : List Byte :=
  let im (v : Word) (kind size cause : Nat) : List Byte := wordBytes v ++ leBytes 8 (cause + 64 * size + 256 * kind)
  match e with
  | .data v => im v 0 0 0
  | .poison cause size a => im a 1 size cause
  | .fault cause size a => im a 2 size cause
  | .pending _ size a _ _ _ => im a 1 size 0

/-- Where the entries of queue `q` lie. -/
def queueBase (q : Nat) : Nat := if q < 4 then 0x680 + 512 * q else 0xE80 + 128 * (q - 4)

def NestDim.bytes (d : NestDim) : List Byte :=
  leBytes 4 d.bound.toNat ++ leBytes 4 d.limit.toNat ++ leBytes 4 0 ++ leBytes 6 d.sstr.toNat ++ leBytes 6 d.dstr.toNat

def nestBytes (n : List NestDim) : List Byte := n.flatMap NestDim.bytes

/-- A loop counter with its nesting position (R390); of an inactive one, the values that it keeps and the number of active loops
(log 24). -/
def Stream.loopBytes (st : Stream) (c : Nat) : List Byte :=
  let l := st.loopAt (BitVec.ofNat 2 c)
  wordBytes l.count ++ wordBytes l.head ++ wordBytes l.end_ ++
  leBytes 8 ((if l.active then 1 else 0) + 2 * (st.nesting.idxOf (BitVec.ofNat 2 c) % 4))

/-- The stream word (R391). -/
def Group.streamWord (g : Group) : Nat :=
  (if g.a.joined then 1 else 0) + (if g.c.joined then 2 else 0) + (if g.a.skip then 4 else 0) + (if g.c.skip then 8 else 0) +
  2 ^ 24 * g.slip + 2 ^ 32 * g.sp.toNat

/-- A latch load record (R390), with the reserved bits of the slot descriptor as they were captured (log 24). -/
def latchRecord (ls : List Latch) (col : Nat) : List Byte :=
  match ls.find? (fun l => l.row == 0 && l.col == col) with
  | some l =>
    wordBytes l.slotD ++ leBytes 4 (l.imm.toNat + (if l.t then 2 ^ 12 else 0) + 2 ^ 13) ++
    leBytes 4 (if l.fmt < 10 then 0 else l.eword.toNat)
  | none => leBytes 16 0

/-- The stream and code of each of the four markings of an image (R390). -/
def imageMarks : List (Slice × Nat) := [(.a, 2), (.c, 0), (.c, 1), (.c, 2)]

def Marking.bytes (m : Marking) (code : Nat) : List Byte :=
  if !m.active then leBytes 160 0
  else
    leBytes 8 (m.nx + 4 * code + 16 * (m.n - 1) + 512 * m.marked.length + 2 ^ 63) ++ leBytes 8 m.next ++ nestBytes m.nest

/-- An engine-queue entry (R392); STARTED is set for copies only. -/
def Cmd.bytes (c : Cmd) (q : EQueue) : List Byte :=
  let w (k : Nat) : Nat := (c.fmtw.getD k 0).toNat
  let qf : Nat := match c.qf with | some m => 8 + 16 * m.toNat | none => 0
  leBytes 4 c.w1.toNat ++ leBytes 4 c.w2.toNat ++ wordBytes c.vD ++ wordBytes c.vA ++ wordBytes c.vB ++ wordBytes c.vC ++
  leBytes 8 (if isCopy q then c.cursor else 0) ++
  leBytes 8 (1 + (if c.null then 2 else 0) + (if c.started && isCopy q then 4 else 0) + qf) ++
  (nestBytes c.nest ++ leBytes 144 0).take 144 ++ leBytes 4 (w 0) ++ leBytes 4 (w 1) ++ wordBytes c.cfg ++
  leBytes 4 (w 2) ++ leBytes 4 (w 3)

/-- The fixed part of a group's image as pieces at their offsets (R390). -/
def Group.imagePieces (g : Group) (crs : List Word) : List (Nat × List Byte) :=
  [(0x000, g.a.g.toList.flatMap wordBytes), (0x200, g.c.g.toList.flatMap wordBytes),
   (0x400, leBytes 8 g.a.p.toNat ++ leBytes 8 g.c.p.toNat), (0x410, wordBytes g.a.pc ++ wordBytes g.c.pc),
   (0x420, leBytes 8 g.streamWord),
   (0x430, (List.range 4).flatMap g.a.loopBytes ++ (List.range 4).flatMap g.c.loopBytes),
   (0x530, g.sems.toList.flatMap (fun x => leBytes 4 (x.value + 65536 * x.ceil))),
   (0x570, crs.flatMap wordBytes), (0x5B0, wordBytes g.cfg), (0x5B8, g.fmt.toList.flatMap (fun w => leBytes 4 w.toNat)),
   (0x600, g.counters.toList.flatMap wordBytes),
   (0x640, (List.range 6).flatMap (fun q =>
     let x := g.q q
     leBytes 8 (x.head + 256 * ((x.head + x.ents.length) % queueDepth q) + 65536 * x.ents.length))),
   (0x1000, g.a.bp.toList.flatMap (fun b => b.toList)), (0x1200, g.c.bp.toList.flatMap (fun b => b.toList)),
   (0x1400, g.nests.toList.flatMap nestBytes), (0x1640, g.mchk.flatMap MchkRow.bytes),
   (0x1840, (List.range (24 * g.w)).flatMap (fun col => latchRecord g.active col ++ latchRecord g.shadow col)),
   (0x2440, imageMarks.flatMap (fun x => ((g.stream x.1).mark x.2).bytes x.2))] ++
  (List.range 6).flatMap (fun q =>
    let x := g.q q
    (x.ents.mapIdx (fun k e => (queueBase q + 16 * ((x.head + k) % queueDepth q), e.bytes)))) ++
  allQueues.flatMap (fun q => (g.queue q).mapIdx (fun k c => (0x4000 + 4096 * q.idx + 256 * k, c.bytes q)))

/-- The control registers of an image, in its order (R390). -/
def State.imageCrs (s : State) (g : Group) : List Word := [0, 1, 2, 3, 4, 5, 10].map (s.crValue g)

/-- The 32 KiB of the fixed part; what the map does not list is zero. -/
def State.imageBytes (s : State) (g : Group) : List Byte :=
  Memory.read ((g.imagePieces (s.imageCrs g)).foldl (fun m x => m.write x.1 x.2) []) 0 0x8000

/-! ### Reading back -/

/-- An image as read: the value of `n` bytes at an offset. -/
def imgNat (im : List Byte) (o n : Nat) : Nat := leNat ((im.drop o).take n)
def imgWord (im : List Byte) (o : Nat) : Word := BitVec.ofNat 64 (imgNat im o 8)

/-- A queue entry from its image; KIND 3 is a poison marker (R108). -/
def entryOf (lo hi : Nat) : QEntry :=
  let a := BitVec.ofNat 64 lo
  match natBits hi 9 8 with
  | 0 => .data a
  | 2 => .fault (natBits hi 5 0) (natBits hi 7 6) a
  | _ => .poison (natBits hi 5 0) (natBits hi 7 6) a

/-- A queue from an image (R390). -/
def queueFrom (im : List Byte) (q : Nat) : Queue :=
  let w := imgNat im (0x640 + 8 * q) 8
  let d := queueDepth q
  let head := natBits w 4 0 % d
  { head := head,
    ents := (List.range (min (natBits w 21 16) d)).map (fun k =>
      let o := queueBase q + 16 * ((head + k) % d)
      entryOf (imgNat im o 8) (imgNat im (o + 8) 8)) }

def nestDimFrom (im : List Byte) (o : Nat) : NestDim :=
  { bound := BitVec.ofNat 32 (imgNat im o 4), limit := BitVec.ofNat 32 (imgNat im (o + 4) 4),
    sstr := BitVec.ofNat 48 (imgNat im (o + 12) 6), dstr := BitVec.ofNat 48 (imgNat im (o + 18) 6) }

def nestFrom (im : List Byte) (o : Nat) : List NestDim := (List.range 6).map (fun d => nestDimFrom im (o + 24 * d))

/-- A semaphore from its image (R292). -/
def semFrom (v : Nat) : Sem := { value := min (natBits v 15 0) (natBits v 31 16), ceil := natBits v 31 16, waiters := [] }

/-- The loop counters that an image marks active, by nesting position, outermost first; of two that an edited image gives one
position, the lower-numbered is the outer one (log 46). -/
def nestingFrom (im : List Byte) (o : Nat) : List (BitVec 2) :=
  (List.range 4).flatMap (fun pos => (List.range 4).filterMap (fun c =>
    let w := imgNat im (o + 32 * c + 24) 8
    if natBits w 0 0 == 1 && natBits w 2 1 == pos then some (BitVec.ofNat 2 c) else none))

/-- A marking from an image; the captured commands are the device's own record (log 14). -/
def Marking.from_ (m : Marking) (im : List Byte) (o : Nat) : Marking :=
  let w := imgNat im o 8
  let next := imgNat im (o + 8) 8
  if natBits w 63 63 == 0 then Marking.reset
  else
    { active := true, nx := natBits w 1 0, nest := nestFrom im (o + 16), n := natBits w 8 4 + 1,
      marked := m.marked.take (natBits w 13 9), next := next, sub := if next == m.next then m.sub else 0 }

/-- A stream from an image: registers at `og`, poison at `op`, PC at `opc`, loops at `ol`, pattern slots at `ob`. -/
def Stream.from_ (st : Stream) (im : List Byte) (og op opc ol ob : Nat) (joined skip : Bool) : Stream :=
  { st.unstall with
    g := Vector.ofFn (fun r => if r.val = 0 then 0 else imgWord im (og + 8 * r.val))
    p := BitVec.ofNat 32 (imgNat im op 4) &&& ~~~1#32
    pc := imgWord im opc
    lc := Vector.ofFn (fun c =>
      let o := ol + 32 * c.val
      { count := imgWord im o, head := imgWord im (o + 8), end_ := imgWord im (o + 16),
        active := natBits (imgNat im (o + 24) 8) 0 0 == 1 })
    nesting := nestingFrom im ol
    bp := Vector.ofFn (fun k => Vector.ofFn (fun e => BitVec.ofNat 8 (imgNat im (ob + 64 * k.val + e.val) 1)))
    joined := joined
    skip := skip
    pass := none, wide := none, kv := none, asks := [], recheck := false, reqs := [], parts := [], past := false, fetches := [] }

/-- R52, R75: the rounding mode that a command's second word names, `now` for code 7. -/
def wordRound (w2 : BitVec 32) (now : Nat) : Nat :=
  let k := (fld w2 0 3 : BitVec 3).toNat
  if k == 7 then now else k

/-- A captured B without the bits that its command's operand ignores or reserves (R10, R172, R177, R191, R277). -/
def Cmd.meantB (i : Option Instr) (vC vB : Word) : Word :=
  match i with
  | some (.mm _) => vB &&& 0x3FF_FFFF
  | some (.mred _) => vB &&& 0xFF_FFFF
  | some (.cp _) => vB &&& 0x8000_0000_03FF_FFFF
  | some (.cpBc _) => vB &&& 0x8000_0000_03FF_FFFF
  | some (.cpRed _) => vB &&& 0x8000_0000_03FF_FFFF
  | some i => if (opKinds i vC)[2]? == some .region then vB &&& 0x3FFF_FFFF_FFFF_FFFF else vB
  | none => vB

/-- A queue entry from an image; what it does not hold comes from `old`, the entry saved in that place, or from `new` where the
entry is another one, which a handler has written there: that one rounds as its own words say. -/
def Cmd.from_ (im : List Byte) (o : Nat) (q : EQueue) (old new : Cmd) : Cmd :=
  let f := imgNat im (o + 0x30) 8
  let w1 := BitVec.ofNat 32 (imgNat im o 4)
  let w2 := BitVec.ofNat 32 (imgNat im (o + 4) 4)
  let words := [0xC8, 0xCC, 0xD8, 0xDC].map (fun k => entryStored (BitVec.ofNat 32 (imgNat im (o + k) 4)))
  let vB := imgWord im (o + 24)
  let meant := Cmd.meantB old.instr? old.vC
  let same := w1 == old.w1 && w2 == old.w2 && meant vB == meant old.vB
  { (if same then old else new) with
    w1 := w1, w2 := w2
    vD := imgWord im (o + 8), vA := imgWord im (o + 16), vB := vB, vC := imgWord im (o + 32)
    cursor := if isCopy q then imgNat im (o + 0x28) 8 else 0
    null := natBits f 1 1 == 1
    started := natBits f 2 2 == 1 && isCopy q
    qf := if natBits f 3 3 == 1 then some (BitVec.ofNat 4 (natBits f 7 4)) else none
    nest := nestFrom im (o + 0x38)
    fmtw := words
    cfg := cfgStored (imgWord im (o + 0xD0))
    rnd := if same then old.rnd else wordRound w2 new.rnd
    hold := none, reqs := [], eng := none }

/-- An entry that a handler has written in place `k` of the queues: a command of its own, issued before those to come, in the rounding
mode of the restored group (R75, log 24). -/
def Group.blankCmd (g : Group) (round k : Nat) : Cmd :=
  { w1 := 0, w2 := 0, vD := 0, vA := 0, vB := 0, vC := 0, cursor := 0, null := false, started := false, qf := none, nest := [],
    fmtw := [], cfg := 0, uid := g.nextUid + k, idx := g.cmdCount, bind := g.firn, rnd := round, hold := none, reqs := [], fl := 0,
    pz := false, eng := none }

/-- The entries of queue `q` with VALID set, in order. -/
def Group.engineQueueFrom (g : Group) (round : Nat) (im : List Byte) (q : EQueue) : List Cmd :=
  (List.range 16).filterMap (fun k =>
    let o := 0x4000 + 4096 * q.idx + 256 * k
    if natBits (imgNat im (o + 0x30) 8) 0 0 == 1 then
      let new := g.blankCmd round (16 * q.idx + k)
      some (Cmd.from_ im o q ((g.queue q)[k]?.getD new) new)
    else none)

/-- The counters of `mchk` from an image (R182). -/
def mchkFrom (im : List Byte) (o : Nat) : MchkRow :=
  let w (k : Nat) : Nat := imgNat im (o + 4 * k) 4
  { corr := w 0, uncorr := w 1, unchk := w 2, lastbad := if natBits (w 3) 31 31 == 1 then some (natBits (w 3) 11 0) else none,
    lastd1 := BitVec.ofNat 32 (w 4), lastd2 := BitVec.ofNat 32 (w 5), flags := BitVec.ofNat 6 (natBits (w 6) 4 0), pois := w 7 }

/-- A latch load record: slot descriptor, IMM12, T and entry word, whose reserved bits read as zero (R10, R82, R172); none where it
is not valid. -/
def recordFrom (im : List Byte) (o : Nat) : Option (Word × BitVec 12 × Bool × BitVec 32) :=
  let w := imgNat im (o + 8) 8
  if natBits w 13 13 == 0 then none
  else some (imgWord im o &&& 0xFFFF_FFFF_FFFF, BitVec.ofNat 12 (natBits w 11 0), natBits w 12 12 == 1, entryStored (BitVec.ofNat 32 (natBits w 63 32)))

/-- R161: the load that a record describes, made again into one column of every row, under a firn binding. A format, a sparsity or a T that no `ml` could issue is loaded as it stands
(log 49). -/
def State.reloadColumn (s : State) (g : Group) (b : Binding) (col : Nat) (r : Word × BitVec 12 × Bool × BitVec 32) :
    Except TrapInfo (List (Latch × Bool)) :=
  let (d, imm, t, w) := r
  let fi := (imm.extractLsb' 0 4).toNat
  let sp := if t then 0 else (imm.extractLsb' 4 2).toNat
  let ew := if fi < 10 then 0 else w
  match formatOf fi ew with
  | none => .ok []
  | some f =>
    match (List.range g.n).find? (fun i => !s.owns g.ctx (g.slotPlace d i col)) with
    | some i => .error { cause := 0x09, phys := true, addr := g.slotPlace d i col }
    | none => .ok ((List.range g.n).map (fun i =>
        let (m, pz) := s.slotImage (engineViewer g.gid b) (g.slotPlace d i col) (tileBytes f sp)
        (loadLatch b i col fi sp t d imm ew m, pz)))

/-- The binding that a record's load is made under again: its own, which the device keeps of a saved group, or the group's at the
resume where a handler has changed the record (R101, R320; log 45). -/
def Group.loadBinding (g : Group) (off col : Nat) (r : Word × BitVec 12 × Bool × BitVec 32) : Binding :=
  let was := (g.loads.filter (fun x => x.1 == off)).map Prod.snd
  if recordFrom (latchRecord was col) 0 == some r then ((was.find? (fun l => l.col == col)).map Latch.bind).getD g.bind else g.bind

/-- The latches of one side from the records of an image. A latch whose record still names the tile it holds is kept; reserved bits
have no part in that (R10). -/
def State.latchesFrom (s : State) (g : Group) (im : List Byte) (off : Nat) (held : List Latch) : List (Except TrapInfo (List (Latch × Bool))) :=
  (List.range (24 * g.w)).map (fun col =>
    let o := 0x1840 + 32 * col + off
    match recordFrom im o with
    | none => .ok []
    | some r =>
      if recordFrom (latchRecord held col) 0 == some r then
        .ok ((held.filter (fun l => l.col == col)).map (fun l => (l, false)))
      else s.reloadColumn g (g.loadBinding off col r) col r)

def okList {α : Type} (x : Except TrapInfo (List α)) : List α := match x with | .ok l => l | .error _ => []
def errOf {α : Type} (x : Except TrapInfo α) : Option TrapInfo := match x with | .ok _ => none | .error t => some t

/-- The group restored from the fixed part of an image, but for its latches (R387, R393). -/
def Group.from_ (g : Group) (im : List Byte) : Group :=
  let sw := imgNat im 0x420 8
  let cr (k : Nat) : Word := imgWord im (0x570 + 8 * k)
  let a := g.a.from_ im 0 0x400 0x410 0x430 0x1000 (natBits sw 0 0 == 1) (natBits sw 2 2 == 1)
  let c := g.c.from_ im 0x200 0x408 0x418 0x4B0 0x1200 (natBits sw 1 1 == 1) (natBits sw 3 3 == 1)
  let round := if wbits (cr 2) 2 0 ≤ 4 then (cr 2).setWidth 3 else g.round
  let mark (k : Nat) (st : Stream) (code : Nat) : Stream := st.setMark code ((st.mark code).from_ im (0x2440 + 160 * k))
  { g with
    a := mark 0 a 2
    c := mark 3 (mark 2 (mark 1 c 0) 1) 2
    sp := BitVec.ofNat 8 (natBits sw 39 32) ||| 1#8
    slip := min (natBits sw 30 24) 64
    qs := Vector.ofFn (fun q => queueFrom im q.val)
    sems := Vector.ofFn (fun k => semFrom (imgNat im (0x530 + 4 * k.val) 4))
    nests := Vector.ofFn (fun m => nestFrom im (0x1400 + 144 * m.val))
    chk := (cr 0).setWidth 3
    fflags := (cr 1).setWidth 6
    round := round
    slipLim := (cr 3).setWidth 7
    tol := (cr 4).setWidth 6
    cycle := cr 6
    cfg := cfgStored (imgWord im 0x5B0)
    fmt := Vector.ofFn (fun k => entryStored (BitVec.ofNat 32 (imgNat im (0x5B8 + 4 * k.val) 4)))
    counters := Vector.ofFn (fun k => imgWord im (0x600 + 8 * k.val))
    mchk := (List.range g.n).map (fun i => mchkFrom im (0x1640 + 32 * i))
    eq := Vector.ofFn (fun k => g.engineQueueFrom round.toNat im (allQueues.getD k.val .mat))
    nextUid := g.nextUid + 64 }

/-- R161, R387, R393: the restored group with its latches; a load whose slot is not owned leaves its latch empty and traps. Of
several such loads the record names the first of the active columns west to east, then of the shadow ones, and of a column the
first row; the other columns stay loaded (log 28). -/
def State.restoreFrom (s : State) (g : Group) (im : List Byte) : State × Option TrapInfo :=
  let g' := g.from_ im
  let act := s.latchesFrom g' im 0 g.active
  let sha := s.latchesFrom g' im 16 g.shadow
  let all := (act ++ sha).flatMap okList
  let g' := { g' with active := (act.flatMap okList).map Prod.fst, shadow := (sha.flatMap okList).map Prod.fst, loads := [] }
  let bad := all.filter Prod.snd
  let g' := bad.foldl (fun g x =>
    let m := g.mchkRow x.1.row
    g.setMchk x.1.row { m with pois := satAdd m.pois 1 }) g'
  let s := s.setGrp g'
  (if bad.isEmpty then s else s.dataPoison g.gid, (act ++ sha).findSome? errOf)

/-- R392: an entry whose words are illegal, or that stands in a queue other than the one its words name; one whose QF or qm disagrees
with its words is taken as illegal too (log 49). -/
def Cmd.misplaced (c : Cmd) (q : EQueue) : Bool :=
  match c.instr? with
  | none => true
  | some (.qfence m) => c.qf.isNone || !m.getLsbD q.idx
  | some i =>
    c.qf.isSome ||
    (match Instr.major? i with
     | some .mx => q != .mat
     | some .vx => q != .vec
     | some .cx => !isCopy q
     | none => true)

end Sys2Proof.Machine
end

