-- ==== Sys2Proof/Machine/Groups.lean ====
section
/-! DEFINITION. Stops, trap records, pre-emption and resumption of groups (R118, R379 to R393), and the host's event ring
(R412). -/

namespace Sys2Proof.Machine

open Sys2Proof

/-! ### Completion words and PREEMPT (R385) -/

/-- Writes a completion word of R385, with a release of system scope. -/
def State.finishReq (s : State) (addr status ctx : Nat) : State :=
  s.drainAll.performWrite (.host addr) (leBytes 8 (2 ^ 63 + status + 256 * ctx)) false true

/-- A group of the context that still has to be saved for a PREEMPT. -/
def Group.leaving (g : Group) : Bool := g.status == .stopping || (g.status == .running && g.preq)

/-- Completes every PREEMPT whose groups are saved, stopped by a trap, or cannot be saved (R385, R389), once peers have answered the
device: its completion word is a release (R415). -/
def State.settlePreempts (s : State) : State :=
  if !s.deviceIdle then s else
  let mine (p : PreemptReq) : List Group := s.groups.filter (fun g => g.ctx == p.ctx)
  let open_ := s.preempts.filter (fun p => (mine p).any Group.leaving)
  let done_ := s.preempts.filter (fun p => !(mine p).any Group.leaving)
  done_.foldl (fun t p => t.finishReq p.compl (if (mine p).any (fun g => g.status == .running) then 5 else 0) 0)
    { s with preempts := open_ }

/-! ### Stopping -/

/-- A stream gives up the fetches and the reads of tables it has under way; their requests complete as R417 says, for nobody. -/
def Stream.dropFetch (st : Stream) : Stream := { st.dropReads with fetches := [] }

/-- R179: the `mred` that executes is withdrawn, unless it is the root's and its round is complete; it keeps its round. -/
def State.withdraw (s : State) (gid : Nat) : State :=
  match s.grp? gid with
  | none => s
  | some g =>
    match g.begun .mat with
    | none => s
    | some c =>
      match c.instr? with
      | some (.mred _) => if c.cursor != 0 && s.roundReady g c then s else s.setGrp (g.unbegin .mat)
      | _ => s

/-- R379: withdraws an `mred`, completes pending fills and gives up fetches. -/
def State.settleGroup (s : State) (gid : Nat) : State :=
  (((s.withdraw gid).fillAll gid).mapGrp gid (fun g => { g with a := g.a.dropFetch, c := g.c.dropFetch })).dropOrphans

/-- Every part of a group has stopped (R379); instructions that are midway and bursts in progress complete first (R388). -/
def Group.quiet (g : Group) : Bool :=
  !(g.queue .mat).any (fun c => c.started) && !(g.queue .vec).any (fun c => c.started) &&
  ((g.queue .cpl) ++ (g.queue .cps)).all (fun c => c.reqs.isEmpty && c.hold.isNone) &&
  !g.a.midway && !g.c.midway && !g.pendingFill

/-- Every part of a group has stopped, and peers have answered all that it has sent: what they answer counts in the group whose image is
written then (R285, R417, R426). -/
def State.groupQuiet (s : State) (g : Group) : Bool := g.quiet && !s.outReqs.any (fun r => r.gid == g.gid)

/-- The copy engines that served a group are free once it has stopped (R269, R379). -/
def Group.freeEngines (g : Group) : Group :=
  let free (q : EQueue) (g : Group) : Group := g.setQueue q ((g.queue q).map (fun c => { c with eng := none }))
  free .cps (free .cpl g)

/-- The lowest free image of a context (R389). -/
def Context.freeImage (cx : Context) : Option Nat := (List.range cx.desc.savecnt).find? (fun i => !cx.images.contains i)

/-- Where image `i` of a context lies (R390). -/
def Context.imageAt (cx : Context) (i : Nat) : Nat := (cx.desc.savebase.toNat + i * cx.desc.imgsize * 32768) % 2 ^ 64

/-- A trap record as eight dwords (R381). -/
def trapDwords (g : Group) (r : TrapRec) (image : Option Nat) (stopno : Nat) : List Word :=
  let bit (b : Bool) (k : Nat) : Nat := if b then 2 ^ k else 0
  let info := r.cause + 256 * r.src + bit r.skip 11 + bit g.a.joined 12 + bit g.c.joined 13 + bit r.phys 14 + 2 ^ 15 * r.level +
    2 ^ 18 * r.reason
  [BitVec.ofNat 64 (info + 2 ^ 32 * g.gnum + 2 ^ 48 * g.ctx + 2 ^ 56 * (g.stack0 + 16 * g.row0)), BitVec.ofNat 64 r.cmdidx,
   g.a.pc, g.c.pc, r.addr, r.status, r.cycle,
   BitVec.ofNat 64 (image.getD 0xFFFF + 2 ^ 16 * r.qsel + 2 ^ 24 * r.slot + 2 ^ 32 * stopno)]

/-- Records in SRC order (R380). -/
def sortRecs (rs : List TrapRec) : List TrapRec := (List.range 8).flatMap (fun k => rs.filter (fun r => r.src == k))

/-- The stop of a group is complete: its image, its number, its records (R380, R381, R389). -/
def State.recordStop (s : State) (gid : Nat) (g : Group) (cx : Context) (image : Option Nat) : State :=
  let stops := (cx.stops + 1) % 2 ^ 32
  let recs := (sortRecs g.recs).map (fun r => { gid := gid, dwords := trapDwords g r image stops : WaitingRec })
  let images := match image with | some i => NatSet.insert cx.images i | none => cx.images
  let s := s.setCtx { cx with stops := stops, images := images, waiting := cx.waiting ++ recs }
  s.mapGrp gid (fun g => { g.halt.freeEngines with status := .stopped image, recs := [], stopno := recs.length })

/-- GROUP_STOP_COMPLETE (R379, R380, R389): a stopping group whose parts have stopped. -/
def execGroupStopComplete (grp : Nat) (s : State) : Out :=
  match s.grp? grp with
  | none => .next s
  | some g =>
    if g.status != .stopping then .next s
    else
      let s := s.settleGroup grp
      match s.grp? grp with
      | none => .next s
      | some g =>
        match s.ctx? g.ctx with
        | none => .next s
        | some cx =>
          if !s.groupQuiet g then .next s
          else
            match cx.freeImage with
            | none => .next (s.recordStop grp g cx none).settlePreempts
            | some i =>
              .next (((s.devWrite cx (cx.imageAt i) (s.imageBytes g) true).bind (fun s _ => s.devAwait.bind (fun s _ =>
                .ok (s.recordStop grp g cx (some i)).settlePreempts ()))).orLose s g.ctx (some grp))

/-! ### Rings -/

/-- A ring header: RING, LOG2N, WPTR and RPTR, with whether it is well formed. -/
structure Ring where
  base : Nat
  log2 : Nat
  wptr : Nat
  rptr : Nat
  good : Bool
  deriving DecidableEq, Repr

/-- A header of 136 bytes: RING aligned to `al`, LOG2N from 1 to `top`, the rest zero (R336, R384, R410). That a ring which is not
aligned cannot be used is the model's choice where no rule says so (log 31). -/
def ringOf (al top : Nat) (bs : List Byte) : Ring :=
  let n (o k : Nat) : Nat := imgNat bs o k
  { base := n 0 8, log2 := n 8 4, wptr := n 0x40 8, rptr := n 0x80 8,
    good := n 0 8 % al == 0 && 1 ≤ n 8 4 && n 8 4 ≤ top && n 0x0C 52 == 0 && n 0x48 56 == 0 }

/-- Entries between the pointers, modulo 2^64. -/
def Ring.used (r : Ring) : Nat := (r.wptr + 2 ^ 64 - r.rptr) % 2 ^ 64

/-- Slot of a pointer value, in entries of `size` bytes. -/
def Ring.slotAt (r : Ring) (p size : Nat) : Nat := (r.base + size * (p % 2 ^ r.log2)) % 2 ^ 64

/-- Drops the oldest waiting record of a context; the last one of a stop gives its event of TYPE 1. -/
def State.recordWritten (s : State) (c : Nat) (w : WaitingRec) : State :=
  match s.ctx? c with
  | none => s
  | some cx =>
    let s := s.setCtx { cx with waiting := cx.waiting.drop 1 }
    let d0 := w.dwords.getD 0 0
    let d7 := w.dwords.getD 7 0
    let left := cx.waiting.drop 1
    let s := s.mapGrp w.gid (fun g => { g with stopno := g.stopno - 1 })
    if left.any (fun x => x.gid == w.gid) then s
    else
      s.pushEvent [BitVec.ofNat 64 (1 + 2 ^ 8 * c + 2 ^ 16 * wbits d0 47 32 + 2 ^ 32 * wbits d7 63 32),
        BitVec.ofNat 64 (wbits d0 63 56), 0, 0]

/-- TRAP_RECORD_WRITE (R384): the oldest waiting record of a context, when the ring has room. Pointers further apart than the ring is
long make it malformed (log 30). -/
def execTrapRecordWrite (ctx : Nat) (s : State) : Out :=
  match s.ctx? ctx with
  | none => .next s
  | some cx =>
    match cx.waiting with
    | [] => .next s
    | w :: _ =>
      let q := cx.desc.trapq.toNat
      let done_ : Dev Unit :=
        (s.devRead cx q 136).bind (fun s h =>
          let r := ringOf 64 12 h
          if !r.good || 2 ^ r.log2 < r.used then .bad s
          else if r.used == 2 ^ r.log2 then .ok s ()
          else
            (s.devWrite cx (r.slotAt r.wptr 64) (w.dwords.flatMap wordBytes) true).bind (fun s _ =>
              (s.devWrite cx (q + 0x40) (leBytes 8 ((r.wptr + 1) % 2 ^ 64)) true).bind (fun s _ => .ok (s.recordWritten ctx w) ())))
      .next (done_.orLose s ctx (some w.gid))

/-- A ring header in host memory. -/
def State.hostRing (s : State) (a al : Nat) : Ring := ringOf al 12 ((s.viewRead viewDevice (.host a) 136).1)

/-- EVENT_WRITE (R412): the oldest waiting event, when the ring has room and peers have answered the device (R415); none is written
to a malformed ring. -/
def execEventWrite (s : State) : Out :=
  match s.events, s.boot with
  | e :: rest, some b =>
    let r := s.hostRing b.evtq 32
    if b.evtq == 0 || b.evtq % 256 != 0 || !r.good || 2 ^ r.log2 < r.used then .next { s with events := rest }
    else if r.used == 2 ^ r.log2 || !s.devQuiet [] then .next s
    else
      let s := s.drainAll.performWrite (.host (r.slotAt r.wptr 32)) (e.flatMap wordBytes) false true
      let s := s.performWrite (.host (b.evtq + 0x40)) (leBytes 8 ((r.wptr + 1) % 2 ^ 64)) false true
      .next { s with events := rest }
  | _, _ => .next s

/-! ### Saving -/

/-- The stacks and rows of two groups' rectangles meet. -/
def Group.meets (g h : Group) : Bool :=
  g.stack0 < h.stack0 + h.w && h.stack0 < g.stack0 + g.w && g.row0 < h.row0 + h.n && h.row0 < g.row0 + g.n

/-- The scratchpad extent in sectors: group offset and place in the image (R390). -/
def Group.spadSectors (g : Group) : List (Nat × Nat) :=
  (List.range g.n).flatMap (fun i => (List.range (g.x / 256)).map (fun k => (rowOff i (256 * k), 0x8000 + i * g.x + 256 * k)))

/-- Writes the scratchpad part of an image; a poisoned sector is saved as zeros and poisons the image's (R390). -/
def State.saveSpad (s : State) (cx : Context) (g : Group) (at_ : Nat) : Dev Unit :=
  g.spadSectors.foldl (fun x k => x.bind (fun s _ =>
    let pz := g.spadPoisoned k.1 256
    let bs := if pz then leBytes 256 0 else g.spadRead k.1 256
    (s.devRange cx needW ((at_ + k.2) % 2 ^ 64) 256).bind (fun s ps => s.devPut ps bs pz))) (.ok s ())

/-- A saved group: its rectangle is free, and what the image holds is no longer in the device, which keeps the bindings of its latches'
loads (R101; log 45). -/
def Group.saved (g : Group) (i : Nat) : Group :=
  let bare (off : Nat) (ls : List Latch) : List (Nat × Latch) := (ls.filter (fun l => l.row == 0)).map (fun l => (off, { l with image := [], hits := [], sums := [] }))
  { g.halt.freeEngines with status := .saved i, preq := false, active := [], shadow := [], loads := bare 0 g.active ++ bare 16 g.shadow, acc := [], spad := [], spadPoison := [], loop := false }

/-- R389: every group of `gs` can be saved: an image is free for each, and its scratchpad fits. -/
def Context.canSave (cx : Context) (gs : List Group) : Bool :=
  gs.all (fun g => g.n * g.x ≤ (cx.desc.imgsize - 1) * 32768) &&
  gs.length ≤ ((List.range cx.desc.savecnt).filter (fun i => !cx.images.contains i)).length

/-- A burst of another group in progress writes the scratchpad of `g` (R279). -/
def State.burstTo (s : State) (g : Group) : Bool :=
  s.groups.any (fun h => ((h.queue .cpl) ++ (h.queue .cps)).any (fun c => c.hold.any (fun b => b.targets.contains g.gid)))

/-- Copies that a saved destination holds at their burst boundary want no slot of a port (R279, R416). -/
def State.dropHeldCopies (s : State) : State :=
  let held (w : Nat × Nat) : Bool := (s.grp? w.1).any (fun h =>
    [EQueue.cpl, EQueue.cps].any (fun q => w.2 == q.src && (h.queue q).head?.any (s.copyHeld h)))
  { s with ports := s.ports.map (fun p => { p with waiting := p.waiting.filter (fun w => !held w) }) }

/-- Writes the image of one group and frees its rectangle (R389, R390). -/
def State.saveGroup (s : State) (gid : Nat) : Dev Unit :=
  match s.grp? gid with
  | none => .ok s ()
  | some g =>
    match s.ctx? g.ctx with
    | none => .ok s ()
    | some cx =>
      match cx.freeImage with
      | none => .ok s ()
      | some i =>
        (s.devWrite cx (cx.imageAt i) (s.imageBytes g) true).bind (fun s _ => (s.saveSpad cx g (cx.imageAt i)).bind (fun s _ =>
          s.devAwait.bind (fun s _ =>
            .ok ((s.setCtx { cx with images := NatSet.insert cx.images i }).mapGrp gid (fun g => g.saved i)).dropHeldCopies ())))

/-- The groups that leave together with a pre-empting group (R350). -/
def State.leavingWith (s : State) (g : Group) : List Group :=
  if g.cor then s.groups.filter (fun h => h.lid == g.lid && h.status == .running) else [g]

/-- GROUP_SAVE (R388 to R390): a pre-empting group whose loop is closed and whose parts have stopped, with every running group of
its launch where that is co-resident (R350). Groups that cannot be saved stay resident and are not pre-empted: what waited on their
semaphores waits on, in its order (R294). -/
def execGroupSave (grp : Nat) (s : State) : Out :=
  match s.grp? grp with
  | none => .next s
  | some g =>
    let all := s.leavingWith g
    let stopping := g.cor && s.groups.any (fun h => h.lid == g.lid && h.status == .stopping)
    if g.status != .running || stopping || !all.all Group.held then .next s
    else
      match s.ctx? g.ctx with
      | none => .next s
      | some cx =>
        let s := all.foldl (fun s h => s.settleGroup h.gid) s
        let now := s.leavingWith ((s.grp? grp).getD g)
        if !now.all (fun h => s.groupQuiet h && !s.burstTo h) then .next s
        else if !cx.canSave now then .next (now.foldl (fun (s : State) (h : Group) => s.stay h.gid) s).settlePreempts
        else
          let x := now.foldl (fun (x : Dev Unit) (h : Group) => x.bind (fun s _ => s.saveGroup h.gid)) (.ok s.drainAll ())
          .next ((x.bind (fun s _ => .ok s.settlePreempts ())).orLose s g.ctx (some grp))

/-! ### Restarting -/

/-- R387, R392: what a restarted group is checked for before any part of it runs: its queue entries, a latch that could
not be reloaded, then each resumed PC under R43, the C-slice's first. -/
def State.restartChecks (s : State) (gid : Nat) (latch : Option TrapInfo) : State :=
  match s.grp? gid with
  | none => s
  | some g =>
    let bad := allQueues.flatMap (fun q => ((g.queue q).filter (fun c => c.misplaced q)).map (fun c => (q, c)))
    match bad, latch with
    | [], none =>
      let check (s : State) (sl : Slice) : State :=
        match s.grp? gid with
        | none => s
        | some g =>
          let st := g.stream sl
          if st.joined || st.skip || st.pc == g.code || g.status != .running then s
          else
            s.recheckPc gid sl
      check (check s .c) .a
    | bad, latch =>
      let s := bad.foldl (fun s x =>
        s.raise gid x.1.src { cause := 0x01, status := (x.2.w2 ++ x.2.w1 : BitVec 64) } false x.2.idx) s
      match latch with
      | some t => s.raise gid 2 t false g.cmdCount
      | none => s

/-- Releases an image index. -/
def State.freeImageIndex (s : State) (c : Nat) (i : Nat) : State :=
  match s.ctx? c with
  | some cx => s.setCtx { cx with images := NatSet.erase cx.images i }
  | none => s

/-- Reads the scratchpad part of an image back; a poisoned sector is poisoned again (R390). -/
def State.loadSpad (s : State) (cx : Context) (gid : Nat) (g : Group) (at_ : Nat) : Dev Unit :=
  g.spadSectors.foldl (fun x k => x.bind (fun s _ =>
    (s.devRange cx needR ((at_ + k.2) % 2 ^ 64) 256).bind (fun s ps =>
      match s.devBytes true ps with
      | .ok s bs => .ok (s.mapGrp gid (fun g => g.spadWrite k.1 bs false true)) ()
      | .poison s _ _ _ => .ok (s.mapGrp gid (fun g => g.spadWrite k.1 (leBytes 256 0) true true)) ()
      | .bad s => .bad s
      | .wait s => .wait s))) (.ok s ())

/-- The streams of a restarted group that go on at an instruction come to it, and to the waits of semaphores, before the queue heads wait
or take units (R294). The watchdog starts from 0 at every resume, of which R166 speaks under its own trap (log 26). -/
def Group.resume (g : Group) : Group :=
  let due (st : Stream) : Stream := { st with fresh := !st.joined && !st.skip }
  { g with status := .running, watch := 0, a := due g.a, c := due g.c }

/-- R387: the group stopped by a trap restarts from its image, or unchanged where it has none. -/
def State.restart (s : State) (gid : Nat) (g : Group) (cx : Context) (image : Option Nat) : Dev Unit :=
  let go (s : State) : State := s.mapGrp gid Group.resume
  match image with
  | none => .ok ((go s).restartChecks gid none) ()
  | some i =>
    (s.devRead cx (cx.imageAt i) 0x8000).bind (fun s im =>
      let (s, t) := s.restoreFrom g im
      .ok (((go s).freeImageIndex cx.num i).restartChecks gid t) ())

/-- Restores one saved group into its rectangle (R393). -/
def State.bringBack (s : State) (gid : Nat) : Dev Unit :=
  match s.grp? gid with
  | none => .ok s ()
  | some g =>
    match g.status, s.ctx? g.ctx with
    | .saved i, some cx =>
      (s.devRead cx (cx.imageAt i) 0x8000).bind (fun s im =>
        let (s, t) := s.restoreFrom g im
        let s := s.mapGrp gid Group.resume
        (s.loadSpad cx gid g (cx.imageAt i)).bind (fun s _ => .ok ((s.freeImageIndex cx.num i).restartChecks gid t) ()))
    | _, _ => .ok s ()

end Sys2Proof.Machine
end

