-- ==== Sys2Proof/Machine/Jobs.lean ====
section
/-! DEFINITION. The start of a job: what the group's resources and registers hold, and the first scan (R36, R41, R102,
R152, R181, R188, R344, R401). -/

namespace Sys2Proof.Machine

open Sys2Proof

/-- R152: the chain configuration at job start. -/
def startCfg (w : Nat) (tol : BitVec 6) : Word :=
  BitVec.ofNat 64 ((if tol.toNat ≤ 40 then tol.toNat else 0) * 65536 + 24 * w)

/-- A slice at job start: index registers g1 to g8 and arguments g20 to g27 (R344). -/
def startStream (code : Word) (seq : Nat) (idx : List Nat) (args : List Word) : Stream :=
  let st := Stream.reset code seq
  { st with g := Vector.ofFn (fun r =>
      if 1 ≤ r.val && r.val ≤ 8 then BitVec.ofNat 64 (idx.getD (r.val - 1) 0)
      else if 20 ≤ r.val && r.val ≤ 27 then args.getD (r.val - 20) 0
      else 0) }

/-- The resources of a job at its start (R36); what belongs to the group for longer is kept. The instruction cache is empty then
(log 3). The end of the job before it, whose streams have joined, was a step boundary (R355). -/
def Group.startJob (g : Group) (cx : Context) (seq : Nat) (idx : List Nat) (args : List Word) : Group :=
  { g with
    status := .running
    idle := false
    a := { startStream g.code seq idx args with atStep := g.a.joined }
    c := { startStream g.code seq idx args with atStep := g.c.joined }
    sp := 1
    qs := Vector.replicate 6 Queue.reset
    slip := 0
    sems := Vector.replicate 16 Sem.reset
    nests := Vector.replicate 4 NestSet.reset
    chk := 0, fflags := 0, round := 0, slipLim := 64, firn := 0, cycle := 0
    cfg := startCfg g.w g.tol
    icache := []
    fmt := cx.fmt
    counters := Vector.replicate 8 0
    mchk := List.replicate g.n MchkRow.reset
    active := [], shadow := [], loads := [], acc := []
    eq := Vector.replicate 4 []
    cmdCount := 0, nextUid := 0, lastCopy := none, loop := false, watch := 0, mredRound := none
    spad := [], spadPoison := []
    recs := [] }

/-- A group placed for the first time, before its first job: its identity and cr.tol from CHKDEF (R401). -/
def Group.placed (cx : Context) (gid lid gnum stack0 row0 n w x prio rbound : Nat) (cor : Bool) (code : Word)
    (work : Work) : Group :=
  { gid := gid, ctx := cx.num, lid := lid, gnum := gnum, stack0 := stack0, row0 := row0, n := n, w := w, x := x,
    prio := prio, rbound := rbound, cor := cor, code := code, status := .running, preq := false,
    unit := work.unit, chunk := work.chunk, iter := work.iter, idle := false,
    a := Stream.reset code 0, c := Stream.reset code 0, sp := 1, qs := Vector.replicate 6 Queue.reset, slip := 0,
    sems := Vector.replicate 16 Sem.reset, nests := Vector.replicate 4 NestSet.reset, chk := 0, fflags := 0, round := 0,
    slipLim := 64, tol := if cx.desc.tol.toNat ≤ 40 then cx.desc.tol else 0, firn := 0, cycle := 0, cfg := 0, fmt := cx.fmt,
    counters := Vector.replicate 8 0, mchk := [], active := [], shadow := [], loads := [], acc := [], eq := Vector.replicate 4 [],
    cmdCount := 0, nextUid := 0, lastCopy := none, loop := false, watch := 0, mredRound := none, spad := [], spadPoison := [],
    newPoison := 0, icache := [], recs := [], stopno := 0 }

/-- R41: the first scan of a stream, from the code address; a failing one is raised at job start. -/
def State.firstScan (s : State) (gid : Nat) (sl : Slice) : State :=
  match s.grp? gid with
  | none => s
  | some g =>
    if g.code.toNat % 32 != 0 then s.trapStream gid sl { cause := 0x05, addr := g.code.toNat } false
    else
      match s.scan gid sl 16 g.code.toNat 1 with
      | .ok s pc => s.mapStream gid sl (fun st => st.goTo pc)
      | .trap s t => s.trapStream gid sl t false
      | .lost s => s
      | .wait s => s

/-- A job of a group starts (R344): the C-slice scans first, so that its trap is the one recorded (R118). -/
def State.startJob (s : State) (gid : Nat) (idx : List Nat) (args : List Word) : State :=
  match s.grp? gid with
  | none => s
  | some g =>
    match s.ctx? g.ctx with
    | none => s
    | some cx => ((s.setGrp (g.startJob cx s.codeSeq idx args)).firstScan gid .c).firstScan gid .a

end Sys2Proof.Machine
end

