-- ==== Sys2Proof/Machine/Kv.lean ====
section
/-! DEFINITION. The KV instructions (R304 to R335): the context's pool, the sequence table and the firn windows. An event on a
sequence is made in one step; one that copies recurrent state to or from peer memory lies over several, and every other event of
its sequence waits for it (R317, R319). -/

namespace Sys2Proof.Machine

open Sys2Proof

/-! ### Accesses -/

/-- The pieces of an access one by one, each refused on a UO page. -/
def State.kvPieces (s : State) (gid : Nat) (sl : Slice) (need : Need) : List (Nat × Nat) → Got (List Part)
  | [] => .ok s []
  | (va, n) :: rest =>
    (s.access gid sl va n need false false).bind (fun s ps =>
      (s.kvPieces gid sl need rest).bind (fun s qs => .ok s (ps ++ qs)))

/-- R325, check 4: `n` bytes at an address, page by page. An access over several pieces finds each of its pages in one state (R377). -/
def State.kvAccess (s : State) (gid : Nat) (sl : Slice) (need : Need) (l : List (Nat × Nat)) : Got (List Part) :=
  match s.grp? gid with
  | some g => (s.walkAnew (.ctl g.ctl) g.ctx (l.map Prod.fst)).kvPieces gid sl need l
  | none => .lost s

def State.kvRange (s : State) (gid : Nat) (sl : Slice) (need : Need) (va n : Nat) : Got (List Part) :=
  s.kvAccess gid sl need (pagePieces (n / 65536 + 2) va n)

/-- Stores that the slice sees to a part are performed, so that the part reads as memory. -/
def State.settlePart (s : State) (gid : Nat) (sl : Slice) (p : Part) : State :=
  match s.grp? gid with
  | some g => s.drainOverlap (g.viewer sl) true p.loc p.n
  | none => s

/-- R306, R309: the loss of a context to poison in a table (reason 5), found at byte `k` of a part of it. -/
def State.loseTable (s : State) (gid : Nat) (sl : Slice) (p : Part) (k : Nat) : State :=
  match s.grp? gid with
  | some g => s.loseContext g.ctx { reason := 5, src := sl.src, gid := some gid, place := some (p.loc.shift k), va := p.va + k }
  | none => s

/-- The part lies in a peer's memory. -/
def Part.onPeer (p : Part) : Bool := match p.loc with | .peer _ _ => true | _ => false

/-- A write to `n` bytes at a place is out: a table is read after it, so that no write falls within the access (R312), and that its slice
reads its own (R237). -/
def State.writeOut (s : State) (l : MemLoc) (n : Nat) : Bool :=
  s.outReqs.any (fun r => r.kind.bytes != 0 && shareBytes (.peer r.peer r.addr) r.kind.bytes l n)

/-- Units of a table on a peer's page, by offset in a part of it: each is read once for the instruction, with one request (R415). A
poisoned answer, and a timeout's, loses the context (R306, R309, R417). What was answered stands in `peerTab` until the instruction is
over: a write that falls into the access makes it read again (R312). The controller keeps no older copy of it (R250). -/
def State.readUnits (s : State) (gid : Nat) (sl : Slice) (p : Part) (id a0 : Nat) : List (Nat × Nat) → Got Unit
  | [] => .ok s ()
  | (a, n) :: rest =>
    let loc : MemLoc := .peer id a
    let put (s : State) (r : TableRead) : State :=
      s.mapStream gid sl (fun st => { st with reads := r :: st.reads.filter (fun x => !(x.loc == loc && x.n == n)) })
    let take (s : State) (tag : Nat) : Got Unit :=
      match s.replyOf tag with
      | none => .wait s
      | some y =>
        let s : State := { s with replies := s.replies.filter (fun r => r.tag != tag) }
        if y.poison then .lost (s.loseTable gid sl p (a - a0))
        else
          let s := match s.grp? gid with | some g => s.dropOwn g.ctl loc n | none => s
          .ok { put s { loc := loc, n := n, tag := tag, got := some y.bytes } with peerTab := noteBytes id a y.bytes s.peerTab } ()
    match ((s.grp? gid).bind (fun g => (g.stream sl).reads.find? (fun r => r.loc == loc && r.n == n))) with
    | some { got := some _, .. } => s.readUnits gid sl p id a0 rest
    | some r => (take s r.tag).bind (fun s _ => s.readUnits gid sl p id a0 rest)
    | none =>
      if s.writeOut loc n then .wait s
      else
      match s.sendPeer gid sl.src { peer := id, addr := a, ord := p.ord, kind := .read n } with
      | (s, none) => .wait s
      | (s, some tag) => (take (put s { loc := loc, n := n, tag := tag, got := none }) tag).bind (fun s _ => s.readUnits gid sl p id a0 rest)

/-- Parts of a table as control state: what lies on a peer's page is read from the peer; poison loses the context. -/
def State.controlParts (s : State) (gid : Nat) (sl : Slice) : List Part → Got Unit
  | [] => .ok s ()
  | p :: rest =>
    match p.loc with
    | .peer id a => (s.readUnits gid sl p id a (split256 (p.n + 1) a p.n)).bind (fun s _ => s.controlParts gid sl rest)
    | _ =>
      let s := s.settlePart gid sl p
      match (List.range p.n).find? (fun k => s.basePoison (p.loc.shift k)) with
      | some k => .lost (s.loseTable gid sl p k)
      | none => s.controlParts gid sl rest

/-- A stream has begun with tables of its context on peer pages, or copies recurrent state. -/
def Stream.inTables (st : Stream) : Bool := !st.reads.isEmpty || !st.asks.isEmpty || st.kv.isSome

/-- Tables on a peer's page serve one instruction of the context at a time: each is one event on what it finds there (R317). -/
def State.tablesFree (s : State) (gid : Nat) (sl : Slice) : Bool :=
  match s.grp? gid with
  | none => true
  | some g =>
    (g.stream sl).inTables ||
    !s.groups.any (fun h => h.ctx == g.ctx && [Slice.a, Slice.c].any (fun x => !(h.gid == gid && x == sl) && (h.stream x).inTables))

/-- The parts of a table once they are readable as memory (R415). -/
def State.tableParts (s : State) (gid : Nat) (sl : Slice) (ps : List Part) : Got (List Part) :=
  if ps.any Part.onPeer && !s.tablesFree gid sl then .wait s
  else (s.controlParts gid sl ps).bind (fun s _ => .ok s ps)

/-- A range of a table, checked and readable as memory: an SO access, which follows the slice's earlier ones to peers, and the loads
of its queues (R252, R415). -/
def State.kvTable (s : State) (gid : Nat) (sl : Slice) (need : Need) (va n : Nat) : Got (List Part) :=
  if !s.soQuiet gid sl.src none || (sl == .a && (s.grp? gid).any Group.pendingFill) then .wait s
  else (s.kvRange gid sl need va n).bind (fun s ps => s.tableParts gid sl ps)

/-! ### Rows (R309, R316) -/

/-- A row of the sequence table as read. -/
structure SeqRow where
  loc   : MemLoc
  phase : Nat
  flags : Nat
  version : Nat
  clen  : Nat
  slack : Int
  firn  : Nat
  rsptr : Nat
  rsb   : Nat
  ckmax : Nat
  bytes : List Byte
  deriving DecidableEq, Repr

def rowOf (l : MemLoc) (bs : List Byte) : SeqRow :=
  let n (o k : Nat) : Nat := leNat ((bs.drop o).take k)
  { loc := l, version := n 0 8, phase := n 0x08 4, flags := n 0x0C 4, clen := n 0x10 8, slack := (BitVec.ofNat 64 (n 0x18 8)).toInt,
    firn := n 0x20 32, rsptr := n 0x48 8, rsb := n 0x50 4, ckmax := n 0x54 2, bytes := bs }

/-- A row, checked under R325. -/
def State.seqRow (s : State) (gid : Nat) (sl : Slice) (cx : Context) (need : Need) (seq : Nat) : Got SeqRow :=
  (s.kvTable gid sl need (rowVa cx seq % 2 ^ 64) 256).bind (fun s ps =>
    match ps with
    | p :: _ => .ok s (rowOf p.loc (s.baseRead p.loc 256))
    | [] => .lost s)

def SeqRow.isOpen (r : SeqRow) (w : Nat) : Bool := r.firn.testBit w
def SeqRow.isBound (r : SeqRow) (w : Nat) : Bool := r.firn.testBit (16 + w)
def SeqRow.base (r : SeqRow) : Nat := natBits r.firn 63 32
def SeqRow.written (r : SeqRow) (w : Nat) : Nat := natBits r.firn (64 + 12 * w + 11) (64 + 12 * w)

/-- A field of `width` bits at `lo` replaced. -/
def putBits (v lo width x : Nat) : Nat := v - natBits v (lo + width - 1) lo * 2 ^ lo + x % 2 ^ width * 2 ^ lo

/-- The request that writes bytes of a table on a peer's page. -/
def tableAsk (id a : Nat) (bs : List Byte) : PeerAsk := { peer := id, addr := a, ord := 0, kind := .write bs false }

/-- Writes bytes of a table: performed in memory, or left for the slice to send where the table lies on a peer's page, of which its
controller then keeps no copy (R250). They stand there once the peer has answered (R417, log 15). -/
def State.putTable (s : State) (gid : Nat) (sl : Slice) (l : MemLoc) (bs : List Byte) : State :=
  match l with
  | .peer id a =>
    (match s.grp? gid with | some g => s.dropOwn g.ctl l bs.length | none => s).mapStream gid sl
      (fun st => { st with asks := st.asks ++ [tableAsk id a bs] })
  | l => s.performWrite l bs false true

/-- The one access of `seq.claim`, `seq.adv` and `seq.rel` to a row is made when its write of `n` bytes can be sent at once, so that
no other write falls within it (R312, R335). -/
def State.rowWritable (s : State) (gid : Nat) (sl : Slice) (l : MemLoc) (n : Nat) : Got Unit :=
  match l with
  | .peer id a =>
    (match s.sendPeer gid sl.src (tableAsk id a (List.replicate n 0)) with
     | (_, some _) => .ok s ()
     | (s, none) => .wait s)
  | _ => .ok s ()

/-- Writes a row's FIRN field. -/
def State.putFirn (s : State) (gid : Nat) (sl : Slice) (row : MemLoc) (v : Nat) : State :=
  s.putTable gid sl (row.shift 0x20) (leBytes 32 v)

/-- Bit `w` of OPEN in a FIRN field, and the limit that `k` positions past its BASE set (R316, R331). -/
def firnOpen (firn w : Nat) : Bool := firn.testBit w
def firnBase (firn : Nat) : Nat := natBits firn 63 32
def firnWritten (firn w : Nat) : Nat := natBits firn (64 + 12 * w + 11) (64 + 12 * w)

/-- R311: the written count a window may reach. -/
def SeqRow.limit (r : SeqRow) : Nat := if r.rsb == 0 then 4095 else r.ckmax

/-- R326, error 11. -/
def SeqRow.badLayout (r : SeqRow) (w : Nat) : Bool :=
  r.rsptr % 256 != 0 || r.rsb % 256 != 0 || r.ckmax == 0 || 65535 < w * r.ckmax + r.ckmax

/-- R311: the address of checkpoint slot `c` of window `w`; the spec writes no wrap of one beyond 64 bits, which is taken modulo 2^64
(log 15). -/
def SeqRow.slotVa (r : SeqRow) (w c : Nat) : Nat := (r.rsptr + r.rsb * (1 + r.ckmax * w + c - 1)) % 2 ^ 64

/-! ### Pages (R308) -/

/-- A page that becomes free, or is allocated, holds zero in all its bytes. A page word that names no frame of the context has
no effect, nor has one whose SLOT is no multiple of 32, which begins no frame (R2, R305, R306). -/
def State.zeroPage (s : State) (c : Nat) (w : Word) : State :=
  let p := pageBase w
  if w == 0 || p % 65536 != 0 || !s.owns c p then s
  else
    let s := s.logWrite (.vault p) 65536
    { s with vault := s.vault.clear p (p + 65536), vaultPoison := s.vaultPoison.filter (fun a => a < p || p + 65536 ≤ a) }

/-- An entry of the pool's table as a KV instruction reads it: index, place and value. -/
structure PoolSlot where
  idx : Nat
  loc : MemLoc
  e   : KvEntry
  deriving DecidableEq, Repr

/-- The address of pool entry `i`. -/
def entryVa (cx : Context) (i : Nat) : Nat := (cx.desc.ptbase.toNat + 16 * i) % 2 ^ 64

/-- The pool's entries, read through the table's parts as translated. -/
def State.pool (s : State) (cx : Context) (ps : List Part) : List PoolSlot :=
  (List.range cx.desc.np).filterMap (fun i =>
    (ps.find? (fun q => q.va ≤ entryVa cx i && entryVa cx i < q.va + q.n)).map (fun q =>
      let l := q.loc.shift (entryVa cx i - q.va)
      { idx := i, loc := l, e := kvEntryOf (leNat (s.baseRead l 8)) (leNat (s.baseRead (l.shift 8) 8)) }))

/-- R325, check 4, for the whole table as read and for the entries that will be written. The table's parts. An entry that is written
through another translation than it was read by is read again: the page is in one state for the whole access (R377). -/
def State.poolAccess (s : State) (gid : Nat) (sl : Slice) (cx : Context) (pick : List PoolSlot → List PoolSlot) : Got (List Part) :=
  (s.kvTable gid sl needR (entryVa cx 0) (16 * cx.desc.np)).bind (fun s ps =>
    let picked := pick (s.pool cx ps)
    (s.kvAccess gid sl needRW (picked.map (fun x => (entryVa cx x.idx, 16)))).bind (fun s qs =>
      if (picked.zip qs).all (fun x => x.1.loc == x.2.loc) then .ok s ps else .wait s))

/-- Writes the low dword of a pool entry. -/
def State.putEntry (s : State) (gid : Nat) (sl : Slice) (x : PoolSlot) (e : KvEntry) : State :=
  s.putTable gid sl x.loc (leBytes 8 e.low.toNat)

def State.freeEntry (s : State) (gid : Nat) (sl : Slice) (cx : Context) (x : PoolSlot) : State :=
  (s.putEntry gid sl x { x.e with state := 0 }).zeroPage cx.num x.e.pword

/-- The entry is provisional to a window. -/
def KvEntry.provisional (e : KvEntry) (seq w : Nat) : Bool := e.state == 2 && e.seq == seq && e.win == w

/-- R308, R322: the entries of a window become free. -/
def State.freeWindow (s : State) (gid : Nat) (sl : Slice) (cx : Context) (ps : List Part) (seq w : Nat) : State :=
  ((s.pool cx ps).filter (fun x => x.e.provisional seq w)).foldl (fun s x => s.freeEntry gid sl cx x) s

/-- R317: a window closes: VALID of the group bound to it is cleared, and the module's count falls. -/
def State.closeWindow (s : State) (c seq w : Nat) : State :=
  { s with
    windows := s.windows.filter (fun x => x != (c, seq, w))
    groups := s.groups.map (fun g =>
      if g.ctx == c && bindOf c g.firn == some (c, seq, w) then { g with firn := g.firn &&& 0x7FFF_FFFF_FFFF_FFFF } else g) }

/-! ### Recurrent state (R311, R330, R331) -/

/-- The 256-byte sectors of parts. -/
def sectorParts (ps : List Part) : List Part :=
  ps.flatMap (fun p => (List.range (p.n / 256)).map (fun k => { va := p.va + 256 * k, n := 256, loc := p.loc.shift (256 * k), ord := p.ord }))

/-- Performs the sectors that are not a peer's. -/
def State.putSectors (s : State) (v : Viewer) : List (Part × (List Byte × Bool)) → State
  | [] => s
  | (p, b) :: rest =>
    let s := match p.loc with
      | .peer _ _ => s
      | l => (s.drainOverlap v true l 256).performWrite l b.1 b.2 true
    s.putSectors v rest

/-- The sectors of a checkpoint slot as stored, poison included, given the answers of peers in order (R331, step 2). -/
def State.sectorBytes (s : State) (v : Viewer) (g : Group) : List Part → List (List Byte × Bool) → List (List Byte × Bool)
  | [], _ => []
  | p :: rest, data =>
    let k := (partAsks p).length
    let bs := s.gather v g [p] (data.take k)
    (if bs.any Prod.snd then (leBytes p.n 0, true) else (bs.map Prod.fst, false)) :: s.sectorBytes v g rest (data.drop k)

/-- R331, steps 3 to 6, of a seal of `k` positions. -/
def State.sealWindow (s : State) (gid : Nat) (sl : Slice) (cx : Context) (m : KvMove) (k : Nat) : State :=
  let lim := firnBase m.firn + k
  let s := ((s.pool cx m.table).filter (fun x => x.e.state == 2 && x.e.seq == m.seq)).foldl (fun s x =>
    if x.e.win == m.win && x.e.p0 < lim then s.putEntry gid sl x { x.e with state := 1, win := 0 } else s.freeEntry gid sl cx x) s.drainAll
  let s := ((List.range 16).foldl (fun s v => if firnOpen m.firn v then s.closeWindow cx.num m.seq v else s) s).putFirn gid sl m.row 0
  s.putTable gid sl (m.row.shift 0x10) (leBytes 8 lim)

/-- The event of a seal or checkpoint, once its sectors are performed at system scope. WRITTEN, of 12 bits, goes from 4,095 to 0
where CKMAX is larger (log 48). -/
def State.endMove (s : State) (gid : Nat) (sl : Slice) (cx : Context) (m : KvMove) : State :=
  let s : State := { s with sealing := s.sealing.filter (fun x => x != (cx.num, m.seq, m.win)) }
  let s := s.mapStream gid sl (fun st => { st with kv := none, reqs := [] })
  match m.sealK with
  | some k => s.sealWindow gid sl cx m k
  | none => s.putFirn gid sl m.row (putBits m.firn (64 + 12 * m.win) 12 (firnWritten m.firn m.win + 1))

/-- The writes of a seal or checkpoint: those to peers are answered before the others are performed and the event is made. -/
def State.moveOut (s : State) (gid : Nat) (sl : Slice) (g : Group) (cx : Context) (m : KvMove) (got : List (List Byte × Bool))
    (held : List Nat) : Got Unit :=
  let xs := m.dst.zip got
  let asks := xs.flatMap (fun x => putAsks x.1 x.2.1 x.2.2)
  let s := xs.foldl (fun s x => s.dropOwn g.ctl x.1.loc x.1.n) s
  let (s, held) := s.sendSome false gid sl.src held (asks.drop held.length)
  if held.length < asks.length || s.outReqs.any (fun r => held.contains r.tag) then
    .wait (s.mapStream gid sl (fun st => { st with kv := some { m with got := some got }, reqs := held }))
  else .ok ((s.putSectors (g.viewer sl) xs).endMove gid sl cx m) ()

/-- Goes on with the seal or checkpoint at the PC: what it copies is read once, with the window's own view. -/
def State.moveOn (s : State) (gid : Nat) (sl : Slice) : Got Unit :=
  match s.grp? gid with
  | none => .lost s
  | some g =>
    match (g.stream sl).kv, s.ctx? g.ctx with
    | some m, some cx =>
      match m.got with
      | some got => s.moveOut gid sl g cx m got (g.stream sl).reqs
      | none =>
        let asks := m.src.flatMap partAsks
        let (s, held) := s.sendSome false gid sl.src (g.stream sl).reqs (asks.drop (g.stream sl).reqs.length)
        match s.answers held asks with
        | none => .wait (s.mapStream gid sl (fun st => { st with reqs := held }))
        | some data =>
          let s : State := { s with replies := s.replies.filter (fun r => !held.contains r.tag) }
          let s := m.src.foldl (fun s p => s.dropOwn g.ctl p.loc p.n) s
          let v : Viewer := { g.viewer sl with bind := some (cx.num, m.seq, m.win) }
          s.moveOut gid sl g cx m (s.sectorBytes v g m.src data) []
    | _, _ => .ok s ()

/-- A seal or checkpoint has passed its checks: no other event of its sequence falls into it. -/
def State.startMove (s : State) (gid : Nat) (sl : Slice) (c : Nat) (m : KvMove) : State :=
  { s.mapStream gid sl (fun st => { st with kv := some m }) with sealing := (c, m.seq, m.win) :: s.sealing }

/-! ### Shape of the instructions -/

/-- A trap with a firn error (R325, R326). -/
def firnError (e : Nat) (addr : Word) : TrapInfo := { cause := 0x28, addr := addr.toNat, status := BitVec.ofNat 64 e }

/-- R415: a release of system scope waits for the responses of peers, before the state checks of its instruction. -/
def State.releaseSystem (s : State) (gid : Nat) (sl : Slice) : Got Unit :=
  let s := s.settleLoads gid sl
  if s.quietFor gid sl then .ok s.drainAll () else .wait s

/-- R317, R319: an event of a sequence waits for a seal or checkpoint of it that is in progress. -/
def State.eventFree (s : State) (c seq : Nat) : Got Unit :=
  if s.sealing.any (fun w => w.1 == c && w.2.1 == seq) then .wait s else .ok s ()

/-- The writes of tables on peer pages that the instruction at the PC makes, each sent when R415 lets it; whether peers have answered
them all, so that they are performed (R325). -/
def State.sendTables (s : State) (gid : Nat) (sl : Slice) : State × Bool :=
  match s.grp? gid with
  | none => (s, true)
  | some g =>
    let st := g.stream sl
    let (s, sent) := s.sendSome false gid sl.src st.reqs (st.asks.drop st.reqs.length)
    if sent.length < st.asks.length || s.outReqs.any (fun r => sent.contains r.tag) then
      (s.mapStream gid sl (fun st => { st with reqs := sent }), false)
    else
      (((st.asks.foldl (fun s a => match s.grp? gid with | some g => s.dropOwn g.ctl (.peer a.peer a.addr) a.kind.bytes | none => s) s)).mapStream
        gid sl (fun st => { st with asks := [], reqs := [], reads := [] }), true)

/-- The instruction is done once its writes of tables are performed. -/
def State.kvSend (s : State) (gid : Nat) (sl : Slice) : Out :=
  match s.sendTables gid sl with
  | (s, true) => s.done gid sl
  | (s, false) => .next (s.stallOn gid sl .peer)

/-- An instruction whose checks are passed: its copies of recurrent state, then its writes of tables on peer pages. -/
def State.kvEnd (s : State) (gid : Nat) (sl : Slice) : Out :=
  (s.moveOn gid sl).finish gid sl .peer (fun s _ => s.kvSend gid sl)

/-- A KV instruction with source registers `srcs`: poison, then `f`; its result is written to `d` with no poison. One that is
midway goes on (R325). What it has read of tables on peer pages stays its own until its writes are made (R312). -/
def kvOp (srcs : List Reg) (d : Option Reg) (f : State → Nat → Slice → Group → Stream → Context → Got Word) (s : State) : Out :=
  issue s (fun gid sl g st =>
    if st.kv.isSome || !st.asks.isEmpty then s.kvEnd gid sl
    else if srcs.any st.rp then .next (s.loseControl gid sl)
    else
      match s.ctx? g.ctx with
      | none => .next s
      | some cx =>
        (f (s.settleLoads gid sl) gid sl g st cx).finish gid sl .peer (fun s v =>
          let s := match d with
            | some r => s.mapStream gid sl (fun st => st.wr r v false)
            | none => s
          s.kvEnd gid sl))

/-- A descriptor fault of an instruction (R382). -/
def badOperand {α : Type} (s : State) (i : Instr) : Got α := .trap s { cause := 0x21, status := encodeStatus i }

/-- The row of a window that an event names, when no seal or checkpoint of its sequence is in progress (R317). -/
def State.windowRow (s : State) (gid : Nat) (sl : Slice) (cx : Context) (seq : Nat) : Got SeqRow :=
  (s.seqRow gid sl cx needRW seq).bind (fun s r => (s.eventFree cx.num seq).bind (fun s _ => .ok s r))

/-- R314: sequence and window of a name, where it is valid. -/
def windowName (cx : Context) (v : Word) : Option (Nat × Nat) :=
  if wbits v 63 20 == 0 && wbits v 15 0 ≤ cx.desc.sqrows then some (wbits v 15 0, wbits v 19 16) else none

/-! ### Pages: `kv.alloc`, `kv.free` -/

/-- R327: an entry's page matches a filter. -/
def filterMatches (f : Word) (e : KvEntry) : Bool :=
  (!f.getLsbD 50 || wbits e.pword 63 60 == wbits f 63 60) && (!f.getLsbD 49 || wbits e.pword 59 56 == wbits f 59 56) &&
  (!f.getLsbD 48 || wbits e.pword 55 51 == wbits f 55 51)

/-- `kv.alloc` (R327). -/
def execKvAlloc (d a b : Reg) (s : State) : Out :=
  kvOp [a, b] (some d) (fun s gid sl g st cx =>
    let f := st.rd a
    let t := st.rd b
    let seq := wbits t 47 32
    if wbits f 47 0 != 0 || wbits t 63 50 != 0 || 1 < wbits t 49 48 || 2 ^ 32 - 32 < wbits t 31 0 || cx.desc.sqrows < seq then
      badOperand s (.kvAlloc d a b)
    else
      let pick (l : List PoolSlot) : Option PoolSlot := l.find? (fun x => x.e.state == 0 && filterMatches f x.e)
      (s.poolAccess gid sl cx (fun l => (pick l).toList)).bind (fun s ps =>
        match pick (s.pool cx ps) with
        | none => .ok (s.count gid 14 1) 0
        | some x =>
          let prov := wbits g.firn 63 63 == 1 && wbits g.firn 15 0 == seq
          let e : KvEntry :=
            { pword := x.e.pword, state := if prov then 2 else 1, pw := wbits t 49 48, seq := seq,
              win := if prov then wbits g.firn 19 16 else 0, p0 := wbits t 31 0 }
          .ok ((s.drainAll.zeroPage cx.num x.e.pword).putEntry gid sl x e) x.e.pword)) s

/-- `kv.free` (R327). -/
def execKvFree (a : Reg) (s : State) : Out :=
  kvOp [a] none (fun s gid sl _ st cx =>
    let v := st.rd a
    let pick (l : List PoolSlot) : Option PoolSlot := l.find? (fun x => x.e.pword == v && (x.e.state == 1 || x.e.state == 2))
    (s.poolAccess gid sl cx (fun l => (pick l).toList)).bind (fun s ps =>
      match pick (s.pool cx ps) with
      | none => .trap s (firnError 8 v)
      | some x => .ok (s.drainAll.freeEntry gid sl cx x) 0)) s

/-! ### Windows -/

/-- The module's open windows but one, which counts once however often a program has undone its row (R2, R318). -/
def State.windowsBut (s : State) (c seq w : Nat) : List (Nat × Nat × Nat) := s.windows.filter (fun x => x != (c, seq, w))

/-- A window opens; as the first of its row it fixes the row's recurrent-state area (R309). -/
def State.openWindow (s : State) (cx : Context) (seq w : Nat) (r : SeqRow) : State :=
  let t : State := { s with windows := (cx.num, seq, w) :: s.windowsBut cx.num seq w }
  if s.windows.any (fun x => x.1 == cx.num && x.2.1 == seq) then t
  else
    match t.ctx? cx.num with
    | some c => t.setCtx { c with areas := (seq, r.rsptr, r.rsb, r.ckmax) :: c.areas.filter (fun a => a.1 != seq) }
    | none => t

/-- `firn.open` (R328). -/
def execFirnOpen (d a : Reg) (s : State) : Out :=
  kvOp [a] (some d) (fun s gid sl _ st cx =>
    match windowName cx (st.rd a) with
    | none => badOperand s (.firnOpen d a)
    | some (seq, w) =>
      (s.windowRow gid sl cx seq).bind (fun s r =>
        if r.isOpen w then .trap s (firnError 1 (st.rd a))
        else if 2 ^ 32 - 4096 ≤ r.clen then .trap s (firnError 10 (st.rd a))
        else if 4096 ≤ (s.windowsBut cx.num seq w).length then .ok (s.count gid 15 1) 0
        else
          let v := putBits r.firn (64 + 12 * w) 12 0
          let v := if natBits v 15 0 == 0 then putBits v 32 32 r.clen else v
          let s := s.putFirn gid sl r.loc (putBits v w 1 1)
          .ok (s.openWindow cx seq w r) 1)) s

/-- `firn.bind` *ga*, 0 (R329). -/
def execFirnBind (a : Reg) (s : State) : Out :=
  kvOp [a] none (fun s gid sl g st cx =>
    let name := st.rd a
    match windowName cx name with
    | none => badOperand s (.firnBind a)
    | some (seq, w) =>
      (s.windowRow gid sl cx seq).bind (fun s r =>
        let mine := g.bind
        if !r.isOpen w then .trap s (firnError 2 name)
        else if mine.isSome && mine != some (cx.num, seq, w) then .trap s (firnError 4 name)
        else if mine.isSome then .ok s 0
        else if r.isBound w then .trap s (firnError 3 name)
        else
          let s := s.putFirn gid sl r.loc (putBits r.firn (16 + w) 1 1)
          .ok (s.mapGrp gid (fun g => { g with firn := BitVec.ofNat 64 (2 ^ 63 + w * 2 ^ 16 + seq) })) 0)) s

/-- `firn.bind g0`, 1 (R329): unbinds. -/
def execFirnUnbind (s : State) : Out :=
  kvOp [] none (fun s gid sl g _ cx =>
    match g.bind with
    | none => .ok s 0
    | some (_, seq, w) =>
      (s.windowRow gid sl cx seq).bind (fun s r =>
        .ok ((s.putFirn gid sl r.loc (putBits r.firn (16 + w) 1 0)).mapGrp gid (fun g => { g with firn := 0 })) 0)) s

/-- R332: the window closes and its provisional pages become free. -/
def State.dropWindow (s : State) (gid : Nat) (sl : Slice) (cx : Context) (ps : List Part) (r : SeqRow) (seq w : Nat) : State :=
  let v := putBits (putBits (putBits r.firn (64 + 12 * w) 12 0) w 1 0) (16 + w) 1 0
  ((s.drainAll.freeWindow gid sl cx ps seq w).putFirn gid sl r.loc v).closeWindow cx.num seq w

/-- `firn.drop` (R332): what it touches is translated before the window's state is checked (R325). -/
def execFirnDrop (a : Reg) (s : State) : Out :=
  kvOp [a] none (fun s gid sl _ st cx =>
    match windowName cx (st.rd a) with
    | none => badOperand s (.firnDrop a)
    | some (seq, w) =>
      (s.windowRow gid sl cx seq).bind (fun s r =>
        (s.poolAccess gid sl cx (fun l => l.filter (fun x => x.e.provisional seq w))).bind (fun s ps =>
          if !r.isOpen w then .trap s (firnError 2 (st.rd a)) else .ok (s.dropWindow gid sl cx ps r seq w) 0))) s

/-! ### Recurrent state: `rs.ckpt`, `firn.seal` -/

/-- R330: the group offset of a state: a multiple of 256 with all its bytes in one row's extent. -/
def ckptOffsetOk (g : Group) (o n : Nat) : Bool :=
  o < 2 ^ 26 && o % 256 == 0 && o / 2 ^ 22 < g.n && o % 2 ^ 22 + n ≤ g.x

/-- `rs.ckpt` (R330). -/
def execRsCkpt (a b : Reg) (s : State) : Out :=
  kvOp [a, b] none (fun s gid sl g st cx =>
    let name := st.rd a
    let o := (st.rd b).toNat
    match windowName cx name with
    | none => badOperand s (.rsCkpt a b)
    | some (seq, w) =>
      (s.windowRow gid sl cx seq).bind (fun s r =>
        if r.rsb != 0 && !ckptOffsetOk g o r.rsb then badOperand s (.rsCkpt a b)
        else if !r.isOpen w then .trap s (firnError 2 name)
        else if g.bind != some (cx.num, seq, w) then .trap s (firnError 9 name)
        else if r.rsb != 0 && r.badLayout w then .trap s (firnError 11 name)
        else if r.limit ≤ r.written w then .trap s (firnError 6 name)
        else
          (if r.rsb == 0 then Got.ok s [] else s.kvRange gid sl needW (r.slotVa w (r.written w + 1)) r.rsb).bind (fun s ps =>
            let dst := sectorParts ps
            let h := (s.grp? gid).getD g
            let got := dst.mapIdx (fun k _ =>
              let (bs, pz) := s.viewSpad (h.viewer sl) h (o + 256 * k) 256
              (if pz then leBytes 256 0 else bs, pz))
            .ok (s.startMove gid sl cx.num
              { sealK := none, seq := seq, win := w, row := r.loc, firn := r.firn, table := [], src := [], dst := dst, got := some got }) 0))) s

/-- `firn.seal` (R331), from the C-slice only (R325). Its release waits for peers first; then what it touches is translated, and
the window's state is checked (log 47). -/
def execFirnSeal (a b : Reg) (s : State) : Out :=
  issue s (fun gid sl _ _ =>
    if sl == .a then s.illegal gid sl (.firnSeal a b)
    else
      kvOp [a, b] none (fun s gid sl _ st cx =>
        let name := st.rd a
        let k := (st.rd b).toNat
        match windowName cx name with
        | none => badOperand s (.firnSeal a b)
        | some (seq, w) =>
          if 4096 ≤ k then badOperand s (.firnSeal a b)
          else
            (if k == 0 then Got.ok s () else s.releaseSystem gid sl).bind (fun s _ =>
            (s.windowRow gid sl cx seq).bind (fun s r =>
            (s.poolAccess gid sl cx (fun l => l.filter (fun x => x.e.state == 2 && x.e.seq == seq && (k != 0 || x.e.win == w)))).bind (fun s ps =>
            (if k == 0 || r.rsb == 0 then Got.ok s [] else s.kvRange gid sl needR (r.slotVa w k) r.rsb).bind (fun s src =>
            (if k == 0 || r.rsb == 0 then Got.ok s [] else s.kvRange gid sl needW r.rsptr r.rsb).bind (fun s dst =>
              if !r.isOpen w then .trap s (firnError 2 name)
              else if r.written w < k then .trap s (firnError 5 name)
              else if k == 0 then .ok (s.dropWindow gid sl cx ps r seq w) 0
              else if r.rsb != 0 && r.badLayout w then .trap s (firnError 11 name)
              else
                .ok (s.startMove gid sl cx.num
                  { sealK := some k, seq := seq, win := w, row := r.loc, firn := r.firn, table := ps, src := sectorParts src,
                    dst := sectorParts dst, got := none }) 0)))))) s)

/-! ### Rows: `seq.claim`, `seq.adv`, `seq.rel` -/

/-- R312: a row that a claim in phase `p` may take. -/
def SeqRow.claimable (r : SeqRow) (p : Nat) : Bool := r.phase == p && r.flags % 2 == 0 && r.version % 2 == 0

/-- R312: the claimable row of least SLACK, the first from the pointer upward among equals. -/
def chooseRow (rows : List (Nat × SeqRow)) (ptr n : Nat) : Option (Nat × SeqRow) :=
  let rank (x : Nat × SeqRow) : Int × Nat := (x.2.slack, (x.1 + n - ptr) % n)
  rows.foldl (fun best x =>
    match best with
    | none => some x
    | some y => if (rank x).1 < (rank y).1 || ((rank x).1 == (rank y).1 && (rank x).2 < (rank y).2) then some x else some y) none

/-- A snapshot written as the slice's `sts` (R334). -/
def State.snapshot (s : State) (gid : Nat) (sl : Slice) (v : Viewer) (o : Nat) (bs : List Byte) : State :=
  (List.range (bs.length / 8)).foldl (fun s k =>
    s.storePart gid sl v { va := o + 8 * k, n := 8, loc := .spad (o + 8 * k), ord := 1 } ((bs.drop (8 * k)).take 8) false none) s

/-- `seq.claim` (R312, R313, R334). A row that its write would reach through another translation than it was read by is read again
(R377). -/
def execSeqClaim (d a : Reg) (p : BitVec 4) (s : State) : Out :=
  kvOp [a] (some d) (fun s gid sl g st cx =>
    let o := (st.rd a).toNat
    let n := cx.desc.sqrows + 1
    if !(o < 2 ^ 26 && o % 64 == 0 && o / 2 ^ 22 < g.n && o % 2 ^ 22 + 256 ≤ g.x) then badOperand s (.seqClaim d a p)
    else
      (s.kvTable gid sl needR cx.desc.sqbase.toNat (256 * n)).bind (fun s ps =>
        let rows := (List.range n).filterMap (fun i =>
          let va := rowVa cx i % 2 ^ 64
          (ps.find? (fun q => q.va ≤ va && va < q.va + q.n)).map (fun q =>
            let l := q.loc.shift (va - q.va)
            (i, rowOf l (s.baseRead l 256))))
        match chooseRow (rows.filter (fun x => x.2.claimable p.toNat)) (cx.phasePtr.toList.getD p.toNat 0) n with
        | none => .ok s (BitVec.allOnes 64)
        | some (i, r) =>
          (s.seqRow gid sl cx needRW i).bind (fun s x =>
            if x != r then .wait s else (s.rowWritable gid sl (r.loc.shift 0x0C) 4).bind (fun s _ =>
            let s := s.putTable gid sl (r.loc.shift 0x0C) (leBytes 4 (r.flags + 1))
            let bs := r.bytes.take 0x0C ++ leBytes 4 (r.flags + 1) ++ r.bytes.drop 0x10
            let next := if i == cx.desc.sqrows then 0 else i + 1
            let s := match s.ctx? cx.num with
              | some c => s.setCtx { c with phasePtr := c.phasePtr.mapFinIdx (fun j v _ => if j == p.toNat then next else v) }
              | none => s
            .ok (s.snapshot gid sl (g.viewer sl) o bs) (BitVec.ofNat 64 i))))) s

/-- `seq.adv` and `seq.rel`: the dword at 0x08 of a claimed row written with a release (R335). -/
def rowRelease (i : Instr) (a : Reg) (phase : SeqRow → Nat) (s : State) : Out :=
  kvOp [a] none (fun s gid sl _ st cx =>
    let v := (st.rd a).toNat
    if cx.desc.sqrows < v then badOperand s i
    else
      (s.releaseSystem gid sl).bind (fun s _ => (s.seqRow gid sl cx needRW v).bind (fun s r => (s.eventFree cx.num v).bind (fun s _ =>
        if r.flags % 2 == 0 then .trap s (firnError 7 (st.rd a))
        else
          (s.rowWritable gid sl (r.loc.shift 0x08) 8).bind (fun s _ =>
            .ok (s.putTable gid sl (r.loc.shift 0x08) (leBytes 4 (phase r) ++ leBytes 4 (r.flags - 1))) 0))))) s

/-- `seq.adv` (R335). -/
def execSeqAdv (a : Reg) (p : BitVec 4) (s : State) : Out := rowRelease (.seqAdv a p) a (fun _ => p.toNat) s

/-- `seq.rel` (R335). -/
def execSeqRel (a : Reg) (s : State) : Out := rowRelease (.seqRel a) a SeqRow.phase s

/-! ### The end of a job -/

/-- The row of the window that a group is bound to, as the device finds it at the end of a job: control state (R309, R367), read
with requests where it lies on a peer's page; none where it does not translate. -/
def State.boundRow (s : State) (g : Group) : Got (Option (SeqRow × Nat × Nat)) :=
  match g.bind, s.ctx? g.ctx with
  | some (_, seq, w), some cx =>
    let va := rowVa cx seq % 2 ^ 64
    (match walk s cx va needNone (s.viewEntry viewDevice) with
     | .fault _ => .ok s none
     | .poison l => .lost (s.loseContext g.ctx { reason := 4, src := 1, gid := some g.gid, place := some l, va := va })
     | .ok l =>
       (s.tableParts g.gid .c [{ va := va, n := 256, loc := l.locOf va, ord := l.ord }]).bind (fun s _ =>
         .ok s (some (rowOf (l.locOf va) (s.baseRead (l.locOf va) 256), seq, w))))
  | _, _ => .ok s none

/-- R317: the job of a bound group ends: its window is no longer bound. That waits for a seal or checkpoint of the sequence in
progress (R319), and for the answers of peers where the row lies on a peer's page (R415). -/
def State.unbindAtEnd (s : State) (gid : Nat) : Got Unit :=
  match s.grp? gid with
  | none => .ok s ()
  | some g =>
    (s.boundRow g).bind (fun s x =>
      match x with
      | none => .ok (s.mapGrp gid (fun g => { g with firn := 0 })) ()
      | some (r, seq, w) =>
        (s.eventFree g.ctx seq).bind (fun s _ =>
          let s := (s.mapGrp gid (fun g => { g with firn := 0 })).putFirn gid .c r.loc (putBits r.firn (16 + w) 1 0)
          match s.sendTables gid .c with
          | (s, true) => .ok s ()
          | (s, false) => .wait s))

end Sys2Proof.Machine
end

