-- ==== Sys2Proof/Machine/Walk.lean ====
section
/-! DEFINITION. The walker: units, chunks and iterations of a loop table (R342, R343), what a chain set hands out (R347,
R356), the end of a job and of a launch (R302, R341, R348), `walk.next` (R363) and `coresid` (R360). -/

namespace Sys2Proof.Machine

open Sys2Proof

/-! ### Enumeration (R343) -/

/-- The levels in enumeration order, with their numbers; a co-resident launch takes kind 2 as kind 1 (R353). -/
def Launch.ranked (l : Launch) : List (Nat × Level) :=
  (List.range 8).flatMap (fun r => ((l.levels.mapIdx (fun k v => (k, v))).filter (fun x => x.2.rank == r)).map (fun x =>
    (x.1, if l.cor && x.2.kind == 2 then { x.2 with kind := 1 } else x.2)))

/-- The levels of a kind, outermost first. -/
def Launch.ofKind (l : Launch) (k : Nat) : List (Nat × Level) := l.ranked.filter (fun x => x.2.kind == k)

def boundProduct (ls : List (Nat × Level)) : Nat := (ls.map (fun x => x.2.bound)).foldl (· * ·) 1

/-- Units of the launch, chunks of a unit, iterations of a chunk. -/
def Launch.units (l : Launch) : Nat := boundProduct (l.ofKind 2)
def Launch.chunks (l : Launch) : Nat := boundProduct (l.ofKind 1)
def Launch.iters (l : Launch) : Nat := boundProduct (l.ofKind 0)

/-- The launch has levels spatial over stacks (R347). -/
def Launch.byStack (l : Launch) : Bool := !(l.ofKind 2).isEmpty

/-- The indices of the levels in `ls` for the number `v`; the last level varies fastest. -/
def digits : List (Nat × Level) → Nat → List (Nat × Nat)
  | [], _ => []
  | x :: rest, v =>
    let below := boundProduct rest
    (x.1, if below == 0 then 0 else v / below % x.2.bound) :: digits rest (if below == 0 then 0 else v % below)

/-- Level numbers and indices of an iteration. -/
def Launch.indices (l : Launch) (w : Work) : List (Nat × Nat) :=
  digits (l.ofKind 2) w.unit ++ digits (l.ofKind 1) w.chunk ++ digits (l.ofKind 0) w.iter

/-- The indices by level number (R344). -/
def Launch.index (l : Launch) (w : Work) : List Nat :=
  (List.range 8).map (fun k => match (l.indices w).find? (fun x => x.1 == k) with | some x => x.2 | none => 0)

/-- The position of an iteration in enumeration order. -/
def Launch.position (l : Launch) (w : Work) : Nat :=
  l.ranked.foldl (fun acc x => acc * x.2.bound + (match (l.indices w).find? (fun y => y.1 == x.1) with | some y => y.2 | none => 0)) 0

/-- Inserts returned work in enumeration order (R356). -/
def Launch.insertWork (l : Launch) (w : Work) : List Work → List Work
  | [] => [w]
  | v :: rest => if l.position w < l.position v then w :: v :: rest else v :: l.insertWork w rest

/-! ### Handing out -/

def Launch.set? (l : Launch) (west : Nat) : Option ChainSet := l.sets.find? (fun c => c.west == west)

def Launch.putSet (l : Launch) (c : ChainSet) : Launch := { l with sets := l.sets.map (fun d => if d.west == c.west then c else d) }

/-- Work not yet handed out. -/
def Launch.workLeft (l : Launch) : Bool :=
  !l.returned.isEmpty ||
  (if l.byStack then l.nextUnit < l.units || l.sets.any (fun c => !c.calved && c.unit.isSome && c.next < l.chunks)
   else l.nextChunk < l.chunks)

/-- What a walker gives a group: work with the launch after it, nothing, or work that must be waited for: returned work whose chunk is
still running elsewhere, or work for which a group that became free earlier still waits (R347). -/
inductive Given where
  | work (l : Launch) (w : Work)
  | nothing
  | wait

/-- The chain set of a group. -/
def Group.west (g : Group) : Nat := g.stack0

/-- A group that waits for work may take it: one that is stopped or leaves takes nothing, unless its `walk.next` completes first (R388). -/
def Group.mayTake (g : Group) : Bool := (g.status == .running && !g.held) || g.a.past

/-- R347: the groups of a launch that became free before group `who` and wait for work, in their order. -/
def State.takersBefore (s : State) (l : Launch) (who : Option Nat) : List Group :=
  ((l.takers.takeWhile (fun k => some k != who)).filterMap s.grp?).filter (fun g => g.lid == l.lid && g.mayTake)

/-- R347, R356: the next work on a chain set, for the group `who` that has become free there, or for a new one. The groups that became
free earlier go first: to the chunks of the chain set's unit those on it, to all else every one. -/
def State.giveWork (s : State) (l : Launch) (west : Nat) (who : Option Nat) : Given :=
  match l.set? west with
  | none => .nothing
  | some c =>
    if c.calved then .nothing
    else
      match c.unit with
      | some u =>
        if l.byStack && c.next < l.chunks then
          if (s.takersBefore l who).any (fun g => g.west == west) then .wait
          else .work (l.putSet { c with next := c.next + 1 }) { unit := u, chunk := c.next, iter := 0 }
        else fresh c
      | none => fresh c
where
  /-- The walker asks the dispatcher: returned work first, then what was never handed out. -/
  fresh (c : ChainSet) : Given :=
    match l.returned with
    | w :: rest =>
      if !(s.takersBefore l who).isEmpty ||
        s.groups.any (fun g => g.lid == l.lid && g.unit == w.unit && g.chunk == w.chunk && !g.idle) then .wait
      else .work { l with returned := rest } w
    | [] =>
      if (if l.byStack then l.nextUnit < l.units else l.nextChunk < l.chunks) && !(s.takersBefore l who).isEmpty then .wait
      else if l.byStack then
        if l.nextUnit < l.units then
          .work ({ l with nextUnit := l.nextUnit + 1 }.putSet { c with unit := some l.nextUnit, next := 1 })
            { unit := l.nextUnit, chunk := 0, iter := 0 }
        else .nothing
      else if l.nextChunk < l.chunks then .work { l with nextChunk := l.nextChunk + 1 } { unit := 0, chunk := l.nextChunk, iter := 0 }
      else .nothing

/-! ### Calved chain sets (R355, R356) -/

/-- A saved group waits for its rectangle. -/
def Group.isSaved (g : Group) : Bool := match g.status with | .saved _ => true | _ => false

def State.dispatching (s : State) (c : Nat) : Bool := match s.ctx? c with | some cx => !cx.held | none => false

/-- Chain sets that a launch needs and may hold (R345). -/
def Launch.least (l : Launch) : Nat := (l.minst + 1) / l.w
def Launch.most (l : Launch) : Nat := (l.maxst + 1) / l.w

/-- The stacks of a chain set. -/
def onStacks (west w : Nat) (g : Group) : Bool := g.stack0 < west + w && west < g.stack0 + g.w

/-- Waiting work of the launch's priority or above, which a calved chain set could serve. -/
def State.workWaits (s : State) (l : Launch) (west : Nat) : Bool :=
  s.launches.any (fun m => !m.admitted && l.prio ≤ m.prio && s.dispatching m.ctx) ||
  s.groups.any (fun g => g.isSaved && g.lid != l.lid && l.prio ≤ g.prio && onStacks west l.w g)

/-- The chain sets that a launch holds. -/
def Launch.held (l : Launch) : List ChainSet := l.sets.filter (fun c => !c.calved)

/-- R355, step 2. -/
def Group.atBoundary (g : Group) : Bool := (g.a.joined || g.a.atStep) && (g.c.joined || g.c.atStep)

/-- R356: the work of a chain set that it has not started. -/
def State.unstarted (s : State) (l : Launch) (c : ChainSet) : List Work :=
  (s.groups.filter (fun g => g.lid == l.lid && g.west == c.west && !g.idle && g.iter + 1 < l.iters)).map (fun g =>
    { unit := g.unit, chunk := g.chunk, iter := g.iter + 1 : Work }) ++
  (match c.unit with
   | some u => (List.range (l.chunks - c.next)).map (fun k => { unit := u, chunk := c.next + k, iter := 0 : Work })
   | none => [])

/-- R347, R356: the accesses of one job of a chunk happen before those of the next, wherever that runs: peers have answered them all,
but the `lq` fills `dropped`, which the job's end discards (R302). -/
def State.chunkQuiet (s : State) (lid : Nat) (dropped : List Nat) (w : Work) : Bool :=
  w.iter == 0 ||
  !s.outReqs.any (fun r => r.lid == some lid && r.chunk == some (w.unit, w.chunk) && !dropped.contains r.tag)

/-- The calved chain set of a launch leaves it once it holds no group (R355). -/
def State.shedSet (s : State) (lid west : Nat) : State :=
  match s.launch? lid with
  | none => s
  | some l =>
    if s.groups.any (fun g => g.lid == lid && g.west == west) then s
    else s.setLaunch { l with sets := l.sets.filter (fun c => !(c.west == west && c.calved)) }

/-- R355, step 3: every group of the launch on the chain set has reached a step boundary, and none is saved. -/
def State.calveDue (s : State) (l : Launch) (c : ChainSet) : Bool :=
  let here := s.groups.filter (fun g => g.lid == l.lid && g.west == c.west)
  c.request && !c.calved && s.workWaits l c.west && l.least < l.held.length && !here.any Group.isSaved && here.all Group.atBoundary

/-- The chain set is calved where that is due: what it has not started goes back to the dispatcher (R356). -/
def State.calve (s : State) (lid west : Nat) : State :=
  match s.launch? lid with
  | none => s
  | some l =>
    match l.set? west with
    | none => s
    | some c =>
      if !s.calveDue l c then s
      else
        let l' := { l with returned := (s.unstarted l c).foldl (fun r w => l.insertWork w r) l.returned }
        (s.setLaunch (l'.putSet { c with request := false, calved := true, unit := none, next := 0 })).shedSet lid west

/-- Calving that is due is made at once (R355, step 3), and a request whose waiting work is gone, or whose launch has no chain set to
spare, is withdrawn. -/
def State.settleCalving (s : State) : State :=
  s.launches.foldl (fun s l => l.sets.foldl (fun s c =>
    match s.launch? l.lid with
    | none => s
    | some l =>
      match l.set? c.west with
      | none => s
      | some c =>
        if c.request && !c.calved && (!s.workWaits l c.west || l.held.length ≤ l.least) then s.setLaunch (l.putSet { c with request := false })
        else s.calve l.lid c.west) s) s

/-- R348: what a group whose iteration has ended takes next: a further iteration of its chunk, unless its chain set is
calved, or the walker's next chunk. -/
def State.nextWork (s : State) (l : Launch) (g : Group) : Given :=
  let calved := match l.set? g.west with | some c => c.calved | none => true
  if !calved && !g.idle && g.iter + 1 < l.iters then .work l { unit := g.unit, chunk := g.chunk, iter := g.iter + 1 }
  else s.giveWork l g.west (some g.gid)

/-! ### The end of a launch -/

/-- A queue-error event (R337, R340, R341), in every stack counter that selects it (R426). -/
def State.queueError (s : State) (c : Nat) : State := (List.range 16).foldl (fun s k => s.countStack k 32 1 (some c)) s

/-- The completion record of R341, released; one that cannot be written counts a queue error. -/
def State.writeRecord (s : State) (c compl status jobs : Nat) (ffl : BitVec 6) (chk : BitVec 3) : Dev Unit :=
  if compl == 0 then .ok s ()
  else if compl % 32 != 0 then .ok (s.queueError c) ()
  else
    match s.ctx? c with
    | none => .ok s ()
    | some cx =>
      let bs := leBytes 8 (status + chk.toNat * 2 ^ 32 + ffl.toNat * 2 ^ 40) ++ leBytes 8 jobs ++ leBytes 16 0
      match s.devWrite cx compl bs true with
      | .ok s _ => .ok s ()
      | .bad s => .ok (s.queueError c) ()
      | .poison s l va _ => .ok (s.loseContext c { reason := 4, src := 0, gid := none, place := some l, va := va }) ()
      | .wait s => .wait s

/-- A child of a launch has not ended (R359). -/
def State.hasChild (s : State) (lid : Nat) : Bool :=
  s.launches.any (fun l => l.parent == some lid) ||
  s.ctxs.any (fun c => c.devq.any (fun p => p.parent == lid) || c.spilled.contains lid)

/-- R348: every iteration has completed, every group is freed, every child has ended; and, for the release of its record, peers
have answered every access of its jobs (R268, R415). -/
def State.launchDone (s : State) (l : Launch) : Bool :=
  l.admitted && !l.workLeft && !s.groups.any (fun g => g.lid == l.lid) && !s.hasChild l.lid &&
  !s.outReqs.any (fun r => r.lid == some l.lid)

/-- Completes a launch that is done, then its parent, and so on; `fuel` bounds the chain. A launch whose record waits for a peer's
port stays until it can be sent. -/
def State.completeLaunches (s : State) (lid : Nat) : (fuel : Nat) → State
  | 0 => s
  | fuel + 1 =>
    match s.launch? lid with
    | none => s
    | some l =>
      if !s.launchDone l then s
      else
        match s.writeRecord l.ctx l.compl.toNat 0 l.jobs l.ffl l.chk with
        | .ok t _ =>
          let t : State := { t.devDone with launches := t.launches.filter (fun x => x.lid != lid) }
          (match l.parent with
           | some p => t.completeLaunches p fuel
           | none => t)
        | .wait t => s.withLinks t
        | .bad t => t
        | .poison t _ _ _ => t

/-- A launch has ended in some way: its parents may complete. -/
def State.childEnded (s : State) (parent : Option Nat) : State :=
  match parent with
  | some p => s.completeLaunches p (s.launches.length + 1)
  | none => s

/-! ### The end of an iteration -/

/-- Counts a completed iteration in its launch (R341, R363). -/
def State.countJob (s : State) (g : Group) : State :=
  match s.launch? g.lid with
  | none => s
  | some l =>
    s.setLaunch { l with jobs := if g.idle then l.jobs else l.jobs + 1, ffl := l.ffl ||| g.fflags, chk := l.chk ||| g.chk }

/-- A group is freed: its rectangle returns to the chain set (R348). -/
def State.freeGroup (s : State) (g : Group) : State :=
  let t := s.countPoison
  let s := { t with groups := t.groups.filter (fun h => h.gid != g.gid) }
  let s := s.shedSet g.lid g.west
  s.completeLaunches g.lid (s.launches.length + 1)

/-- A group that waits for no work any more. -/
def Launch.served (l : Launch) (gid : Nat) : Launch := { l with takers := l.takers.erase gid }

/-- A group has become free and waits for work: it keeps its place before those that become free later (R347, R363). -/
def State.awaitWork (s : State) (gid lid : Nat) : State :=
  match s.launch? lid with
  | none => s
  | some l => if l.takers.contains gid then s else s.setLaunch { l with takers := l.takers ++ [gid] }

/-- Starts the job of a group on a piece of work (R344, R306). -/
def State.startWork (s : State) (gid : Nat) (l : Launch) (w : Work) : State :=
  let s := s.setLaunch (l.served gid)
  let s := s.mapGrp gid (fun g => { g with unit := w.unit, chunk := w.chunk, iter := w.iter })
  let s := match s.ctx? l.ctx with | some cx => s.setCtx { cx with started := true } | none => s
  s.startJob gid (l.index w) l.args

/-- R302, R348: both streams have joined and the engine queues are empty. The job of a pre-empting group whose reduction loop is still
open ends too, of which R349's table does not speak (log 29). -/
def Group.jobOver (g : Group) : Bool := g.status == .running && !g.held && g.a.joined && g.c.joined && g.eq.toList.all List.isEmpty

/-- The job of a group is over and its window unbound: the group takes its next iteration or chunk, or is freed. One that has to wait
for returned work, or for the accesses of that work's earlier jobs, keeps its place (R347). -/
def State.endJob (s : State) (g : Group) : State :=
  let t := (s.countJob g).calve g.lid g.west
  match t.launch? g.lid with
  | none => t.freeGroup g
  | some l =>
    match t.nextWork l g with
    | .wait => s.awaitWork g.gid g.lid
    | .work l' w =>
      if s.chunkQuiet g.lid g.fillTags w then (t.startWork g.gid l' w).dropOrphans
      else if l' == l then s
      else s.awaitWork g.gid g.lid
    | .nothing => (t.freeGroup g).settlePreempts.dropOrphans

/-- JOB_END (R302, R317, R348). What the unbinding of its window waits for holds the group's rectangle, and nothing else. -/
def execJobEnd (grp : Nat) (s : State) : Out :=
  match s.grp? grp with
  | none => .next s
  | some g =>
    if g.c.joined && g.c.midway && g.working then .next (s.sendTables grp .c).1
    else if !g.jobOver then .next s
    else
      match s.drainAll.unbindAtEnd grp with
      | .ok s _ => .next (match s.grp? grp with | some g => s.endJob g | none => s)
      | .wait s => .next s
      | .lost s => .next s
      | .trap s _ => .next s

/-! ### `walk.next` and `coresid` -/

/-- Both slices receive the indices of R344 and 1, or 0 alone, and go on after their `walk.next`. -/
def Stream.walked (st : Stream) (d : Reg) (idx : Option (List Nat)) : Stream :=
  let st := match idx with
    | some l =>
      (l.mapIdx (fun k v => (k, v))).foldl
        (fun (st : Stream) (x : Nat × Nat) => st.wr (BitVec.ofNat 5 (x.1 + 1)) (BitVec.ofNat 64 x.2) false) st
    | none => st
  { st.wr d (if idx.isSome then 1 else 0) false with wn := none, past := false }

/-- Ends the `walk.next` of both slices. -/
def State.endWalk (s : State) (gid : Nat) (da dc : Reg) (idx : Option (List Nat)) : State :=
  let s := s.mapGrp gid (fun g => { g with a := g.a.walked da idx, c := g.c.walked dc idx })
  (s.advance gid .c).advance gid .a

/-- Loads of the group's queues are still to be made. -/
def State.fillsDue (s : State) (gid : Nat) : Bool := (s.grp? gid).any Group.pendingFill

/-- The `walk.next` of both slices waits for peers' answers alone, or for other groups (R388). -/
def State.walkPast (s : State) (gid : Nat) (b : Bool) : State :=
  s.mapGrp gid (fun g => { g with a := { g.a with past := b }, c := { g.c with past := b } })

/-- The current iteration completes and the next is taken (R363). Its queues go on, so that the pending loads of an iteration are made
before the next one of its chunk, here or elsewhere (R347, R356); where work has to be waited for, the group keeps its
place (R347). What waits for peers' answers alone completes before a stop (R388). -/
def State.walkOn (s0 : State) (gid : Nat) (g : Group) (da dc : Reg) : State :=
  let s := s0.fillAll gid
  if (s.grp? gid).isNone then s else
  let t := (s.drainAll.countJob g).calve g.lid g.west
  match t.launch? g.lid with
  | none => (t.mapGrp gid (fun g => { g with idle := true })).endWalk gid da dc none
  | some l =>
    match t.nextWork l g with
    | .wait => (s.walkPast gid false).awaitWork gid g.lid
    | .nothing =>
      if s.fillsDue gid then s.walkPast gid true
      else ((t.setLaunch (l.served gid)).mapGrp gid (fun g => { g with idle := true })).endWalk gid da dc none
    | .work l' w =>
      if !s.chunkQuiet g.lid [] w || (w.iter != 0 && s.fillsDue gid) then
        let s := s.walkPast gid true
        if l' == l then s else s.awaitWork gid g.lid
      else
      ((t.setLaunch (l'.served gid)).mapGrp gid (fun g => { g with unit := w.unit, chunk := w.chunk, iter := w.iter, idle := false })).endWalk gid da dc
        (some (l'.index w))

/-- `walk.next` (R363): waits for the partner and for the engine queues. -/
def execWalkNext (d : Reg) (s : State) : Out :=
  issue s (fun gid sl g st =>
    let other := g.stream sl.partner
    if other.joined then s.trapNow gid sl { cause := 0x11 }
    else
      let t := s.setStream gid sl { st with wn := some d, atStep := true, stall := some .walkNext }
      match other.wn with
      | none => .next t
      | some e =>
        if !g.eq.toList.all List.isEmpty then .next t
        else .next (t.walkOn gid g (if sl == .a then d else e) (if sl == .a then e else d)))

/-- `coresid` (R353, R360). -/
def execCoresid (d : Reg) (s : State) : Out :=
  issue s (fun gid sl g st =>
    let n := match s.launch? g.lid with | some l => if g.cor then l.chunks else 0 | none => 0
    (s.setStream gid sl (st.wr d (BitVec.ofNat 64 n) false)).done gid sl)

end Sys2Proof.Machine
end

