-- ==== Sys2Proof/Machine/Launch.lean ====
section
/-! DEFINITION. Launch queues and packets (R336 to R342), admission and placement (R338, R345 to R347, R353), pre-emption
for waiting work (R350), chain sets that join and leave (R354 to R356) and child launches (R357 to R359, R362). -/

namespace Sys2Proof.Machine

open Sys2Proof

/-! ### Packets -/

/-- A launch packet (R339). -/
structure Packet where
  rows   : Nat
  span   : Nat
  nlev   : Nat
  minst  : Nat
  maxst  : Nat
  prio   : Nat
  cor    : Bool
  rbound : Nat
  xpages : Nat
  code   : Word
  ltab   : Word
  compl  : Word
  args   : List Word
  /-- Every must-be-zero field is zero. -/
  clean  : Bool
  deriving DecidableEq, Repr

def packetOf (ws : List Word) : Packet :=
  let w (k : Nat) : Word := ws.getD k 0
  let d := w 0
  { rows := wbits d 2 0, span := wbits d 5 4, nlev := wbits d 11 8, minst := wbits d 19 16, maxst := wbits d 23 20,
    prio := wbits d 30 28, cor := d.getLsbD 31, rbound := wbits d 63 32, xpages := wbits (w 1) 15 0, code := w 2, ltab := w 3,
    compl := w 4, args := (List.range 8).map (fun k => w (8 + k)),
    clean := wbits d 3 3 == 0 && wbits d 7 6 == 0 && wbits d 15 12 == 0 && wbits d 27 24 == 0 && wbits (w 1) 63 16 == 0 &&
      w 5 == 0 && w 6 == 0 && w 7 == 0 }

/-- The chain span and the rows of a packet. -/
def Packet.w (p : Packet) : Nat := 2 ^ p.span
def Packet.n (p : Packet) : Nat := 2 ^ p.rows

/-- R340, STATUS 1. -/
def Packet.valid (p : Packet) : Bool :=
  p.clean && p.rows ≤ 4 && p.span ≤ 2 && p.nlev ≤ 8 && p.xpages ≤ 1024 && p.minst ≤ p.maxst && (p.minst + 1) % p.w == 0 &&
  (p.maxst + 1) % p.w == 0 && (p.nlev == 0 || p.ltab.toNat % 8 == 0) && p.compl.toNat % 32 == 0

/-- A level from a loop-table entry (R342), where it is legal. -/
def levelOf (v : Nat) : Option Level :=
  if natBits v 63 38 != 0 || natBits v 35 35 != 0 || natBits v 37 36 == 3 then none
  else some { kind := natBits v 37 36, rank := natBits v 34 32, bound := natBits v 31 0 }

/-- The levels of a loop table; none where STATUS 2 applies (R340). -/
def levelsOf (bs : List Byte) (n : Nat) : Option (List Level) :=
  let ls := (List.range n).map (fun k => levelOf (leNat ((bs.drop (8 * k)).take 8)))
  if ls.all Option.isSome then
    let ls := ls.filterMap id
    if (List.range 8).all (fun r => ls.countP (fun l => l.rank == r) ≤ 1) then some ls else none
  else none

/-- A launch from a packet and its levels. -/
def Packet.launch (p : Packet) (lid ctx queue : Nat) (parent : Option Nat) (prio : Nat) (levels : List Level) : Launch :=
  { lid := lid, ctx := ctx, queue := queue, parent := parent, n := p.n, w := p.w, minst := p.minst, maxst := p.maxst, nlev := p.nlev,
    prio := prio, cor := p.cor, rbound := p.rbound, xpages := p.xpages, code := p.code, compl := p.compl, args := p.args,
    levels := levels, admitted := false, sets := [], asked := [], nextUnit := 0, nextChunk := 0, takers := [], returned := [], jobs := 0, ffl := 0, chk := 0 }

/-- R353: co-residency is impossible. -/
def Launch.corImpossible (l : Launch) : Bool := l.cor && (l.minst != l.maxst || l.least * (16 / l.n) < l.chunks)

/-- A launch that the dispatcher takes: refused (R340), complete at once without iterations (R343), or waiting. The refusal of R353 comes
before the completion of R343 where both apply (log 31). -/
def State.takeLaunch (s : State) (cx : Context) (p : Packet) (queue : Nat) (parent : Option Nat) : Dev Unit :=
  let prio := match parent.bind s.launch? with | some l => min p.prio l.prio | none => p.prio
  let refuse (s : State) (status : Nat) : Dev Unit :=
    (s.writeRecord cx.num p.compl.toNat status 0 0 0).bind (fun s _ => .ok (s.childEnded parent) ())
  if !p.valid then refuse s 1
  else
    let go (s : State) (levels : Option (List Level)) : Dev Unit :=
      match levels with
      | none => refuse s 2
      | some ls =>
        let l := p.launch s.nextLid cx.num queue parent prio ls
        if l.corImpossible then refuse s 3
        else if boundProduct l.ranked == 0 then refuse s 0
        else .ok { s with launches := s.launches ++ [l], nextLid := s.nextLid + 1 } ()
    if p.nlev == 0 then go s (some [])
    else
      match s.devRead cx p.ltab.toNat (8 * p.nlev) with
      | .ok s bs => go s (levelsOf bs p.nlev)
      | .bad s => go s none
      | .poison s l va true => .poison s l va true
      | .poison s _ _ false => go s none
      | .wait s => .wait s

/-! ### Queues -/

/-- A queue error is counted once while its cause stands (R337). -/
def State.queueBad (s : State) (c k : Nat) : State :=
  match s.ctx? c with
  | none => s
  | some cx => if cx.qerr.contains k then s else (s.setCtx { cx with qerr := NatSet.insert cx.qerr k }).queueError c

def State.queueGood (s : State) (c k : Nat) : State :=
  match s.ctx? c with
  | none => s
  | some cx => s.setCtx { cx with qerr := NatSet.erase cx.qerr k }

/-- The queue holds a packet that waits for admission (R338). -/
def State.queueWaits (s : State) (queue : Nat) : Bool := s.launches.any (fun l => l.queue == queue && !l.admitted)

/-- The words of a packet. -/
def packetWords (bs : List Byte) : List Word := (List.range 16).map (fun k => imgWord bs (8 * k))

/-- R337 on host queue `k`: the next pending packet is taken; a header or ring that cannot be used is a queue error, one whose RPTR cannot
be written too. Of the ring the slot being taken is looked at alone, and none while no packet is pending (log 31). -/
def State.takeHost (s : State) (cx : Context) (k : Nat) : Dev Unit :=
  let h := (cx.desc.lqh.getD k 0).toNat
  match s.devRead cx h 136 with
  | .bad s => .ok (s.queueBad cx.num k) ()
  | .wait s => .wait s
  | .poison s l va t => .poison s l va t
  | .ok s hb =>
    let r := ringOf 128 16 hb
    if !r.good || 2 ^ r.log2 < r.used then .ok (s.queueBad cx.num k) ()
    else if r.used == 0 then .ok (s.queueGood cx.num k) ()
    else
      match s.devRead cx (r.slotAt r.rptr 128) 128 with
      | .bad s => .ok (s.queueBad cx.num k) ()
      | .wait s => .wait s
      | .poison s l va t => .poison s l va t
      | .ok s pb =>
        match s.devWrite cx (h + 0x80) (leBytes 8 ((r.rptr + 1) % 2 ^ 64)) true with
        | .bad s => .ok (s.queueBad cx.num k) ()
        | .wait s => .wait s
        | .poison s l va t => .poison s l va t
        | .ok s _ => (s.queueGood cx.num k).takeLaunch cx (packetOf (packetWords pb)) (9 * cx.num + k) none

/-- R358: the device queue takes the oldest spilled packet back. -/
def State.unspill (s : State) (cx : Context) : Dev Unit :=
  match cx.spilled with
  | [] => .ok s ()
  | p :: rest =>
    (s.devRead cx ((cx.desc.spill.toNat + 128 * cx.spillHead) % 2 ^ 64) 128).bind (fun s bs =>
      match s.ctx? cx.num with
      | none => .ok s ()
      | some cx =>
        .ok (s.setCtx { cx with
          spilled := rest
          spillHead := (cx.spillHead + 1) % cx.desc.squota
          devq := cx.devq ++ [{ parent := p, words := packetWords bs }] }) ())

/-- R357 on the device queue of a context. -/
def State.takeDevice (s : State) (cx : Context) : Dev Unit :=
  match cx.devq with
  | [] => .ok s ()
  | p :: rest =>
    let cx' := { cx with devq := rest }
    ((s.setCtx cx').unspill cx').bind (fun s _ => s.takeLaunch cx' (packetOf p.words) (9 * cx.num + 8) (some p.parent))

/-- PACKET_TAKE (R337, R357): the next packet of a queue: 8·c + q names host queue q of context c, 512 + c its device
queue. A pre-empted context dispatches nothing (R385). -/
def execPacketTake (queue : Nat) (s : State) : Out :=
  let c := if queue < 512 then queue / 8 else queue - 512
  let k := if queue < 512 then queue % 8 else 8
  match s.ctx? c with
  | none => .next s
  | some cx =>
    if cx.held || s.queueWaits (9 * c + k) || (k < 8 && cx.desc.lqh.getD k 0 == 0) then .next s
    else .next ((if k < 8 then s.takeHost cx k else s.takeDevice cx).orLose s c none)

/-! ### Admission (R338, R345) -/

/-- R345: the chain set is free for a launch, once the groups that `gone` names have left their rectangles. -/
def State.setFree (s : State) (l : Launch) (gone : Group → Bool) (west : Nat) : Bool :=
  !s.groups.any (fun g => onStacks west l.w g && (if g.resident then !gone g else l.prio ≤ g.prio))

/-- The free chain sets of a launch's span, lowest stack first. -/
def State.freeSets (s : State) (l : Launch) (gone : Group → Bool) : List Nat :=
  (List.range 16).filter (fun west => west % l.w == 0 && s.setFree l gone west)

/-- The launch waits for admission at the head of its queue, and its context dispatches. -/
def State.waits (s : State) (l : Launch) : Bool :=
  !l.admitted && s.dispatching l.ctx &&
  (s.launches.find? (fun m => m.queue == l.queue && !m.admitted)).any (fun m => m.lid == l.lid)

/-- Enough chain sets are free for a launch that waits. -/
def State.admissible (s : State) (l : Launch) : Bool := s.waits l && l.least ≤ (s.freeSets l (fun _ => false)).length

/-- R338: places from the round-robin pointer to a queue. -/
def State.queueDistance (s : State) (q : Nat) : Nat := (q + 576 - s.queuePtr) % 576

/-! ### Placement (R346, R347, R353) -/

/-- The rectangle of a launch at a stack and row is free. -/
def State.rectFree (s : State) (l : Launch) (west row0 : Nat) : Bool :=
  !s.groups.any (fun g => onStacks west l.w g && g.row0 < row0 + l.n && row0 < g.row0 + g.n && (g.resident || l.prio ≤ g.prio))

/-- R345: another launch has come to hold rectangles on a chain set that the launch had left empty, and neither had it added under
R354: the launch places nothing beside it. -/
def State.takenOver (s : State) (l : Launch) (c : ChainSet) : Bool :=
  !c.added &&
  s.groups.any (fun g =>
    g.lid != l.lid && g.resident && onStacks c.west l.w g && !(s.launch? g.lid).any (fun m => (m.set? g.west).any ChainSet.added))

/-- The free rectangles of a launch, lowest westernmost stack and then lowest row first. -/
def State.freeRects (s : State) (l : Launch) : List (Nat × Nat) :=
  (List.range 16).flatMap (fun west =>
    if l.sets.any (fun c => c.west == west && !c.calved && !s.takenOver l c) then
      ((List.range (16 / l.n)).map (fun k => (west, k * l.n))).filter (fun x => s.rectFree l x.1 x.2)
    else [])

/-- R346: the lowest number that no other group of the launch holds. -/
def State.freeNumber (s : State) (lid : Nat) : Nat :=
  let used := (s.groups.filter (fun g => g.lid == lid)).map Group.gnum
  ((List.range (used.length + 1)).find? (fun k => !used.contains k)).getD 0

/-- A new group in a rectangle. -/
def State.placeGroup (s : State) (cx : Context) (l : Launch) (rect : Nat × Nat) (gnum : Nat) (w : Work) : State × Nat :=
  let g := Group.placed cx s.nextGid l.lid gnum rect.1 rect.2 l.n l.w (4096 * l.xpages) l.prio l.rbound l.cor l.code w
  ({ s with groups := s.groups ++ [g], nextGid := s.nextGid + 1 }, s.nextGid)

/-- The groups of a co-resident launch, all at once; they start when every one is placed (R353). -/
def State.placeAll (s : State) (cx : Context) (l : Launch) : State :=
  let rects := (s.freeRects l).take l.chunks
  if rects.length < l.chunks then s
  else
    let l := { l with nextChunk := l.chunks }
    let (s, gids) := (rects.mapIdx (fun k r => (k, r))).foldl (fun (x : State × List (Nat × Nat)) kr =>
      let (s, gid) := x.1.placeGroup cx l kr.2 kr.1 { unit := 0, chunk := kr.1, iter := 0 }
      (s, x.2 ++ [(gid, kr.1)])) (s.setLaunch l, [])
    gids.foldl (fun s x => s.startWork x.1 l { unit := 0, chunk := x.2, iter := 0 }) s

/-- The free rectangle that comes first among those with work gets a group. Returned work waits for the accesses of its chunk's earlier
jobs (R356), and goes to the groups that became free and wait for it before a new one (R347). Units and chunks go to rectangles in
the order of R346, so that a walker may hold a second unit before another has its first (log 31). -/
def State.placeOne (s : State) (cx : Context) (l : Launch) : Option State :=
  match (s.freeRects l).findSome? (fun r =>
      match s.giveWork l r.1 none with
      | .work l w => if s.chunkQuiet l.lid [] w then some (r, l, w) else none
      | _ => none) with
  | none => none
  | some (r, l, w) =>
    let (s, gid) := s.placeGroup cx l r (s.freeNumber l.lid) w
    some (s.startWork gid l w)

/-- Groups of a launch are placed while it has work and rectangles (R344, R346, R347, R353), up to `fuel` of them. -/
def State.place (s : State) (lid : Nat) : (fuel : Nat) → State
  | 0 => s
  | fuel + 1 =>
    match s.launch? lid with
    | none => s
    | some l =>
      match s.ctx? l.ctx with
      | none => s
      | some cx =>
        if !l.admitted || cx.held || !l.workLeft then s
        else if l.cor then s.placeAll cx l
        else
          match s.placeOne cx l with
          | some t => t.place lid fuel
          | none => s

/-- GROUP_PLACEMENT (R346 to R348, R355): a launch whose last group has gone completes; else one group is placed. -/
def execGroupPlacement (lid : Nat) (s : State) : Out :=
  let s := s.completeLaunches lid (s.launches.length + 1)
  match s.launch? lid with
  | none => .next s
  | some l => .next ((l.sets.foldl (fun s c => s.calve lid c.west) s).place lid 1)

/-- LAUNCH_ADMIT (R338, R345, R353): the launch takes its chain sets, if no other head that can be admitted ranks before it, and
its groups are placed in them. -/
def execLaunchAdmit (lid : Nat) (s : State) : Out :=
  match s.launch? lid with
  | none => .next s
  | some l =>
    let ahead (m : Launch) : Bool :=
      m.lid != l.lid && s.admissible m &&
      (l.prio < m.prio || (l.prio == m.prio && s.queueDistance m.queue < s.queueDistance l.queue))
    if !s.admissible l || s.launches.any ahead then .next s
    else
      let sets := ((s.freeSets l (fun _ => false)).take l.most).map (fun west =>
        { west := west, unit := none, next := 0, request := false, calved := false : ChainSet })
      .next (State.place { s.setLaunch { l with admitted := true, sets := sets } with queuePtr := (l.queue + 1) % 576 } lid 256)

/-! ### Pre-emption for waiting work (R350) -/

/-- A group that pre-emption for work of priority `p` may take, or has taken, from its rectangle. -/
def Group.below (g : Group) (p : Nat) : Bool := g.status == .running && g.prio < p

/-- A group that could be pre-empted now for work of priority `p`. -/
def Group.yields (g : Group) (p : Nat) : Bool := g.below p && !g.preq

/-- R350: the lowest priority first, then the group placed most recently. -/
def firstChoice (gs : List Group) (g : Group) : Bool :=
  gs.all (fun h => g.prio < h.prio || (g.prio == h.prio && h.gid ≤ g.gid))

/-- Of the chain sets `may`, the `k` that are freed for a waiting launch: those of groups already leaving first, then in the order
of R350. -/
def State.pickSets (s : State) (l : Launch) : (k : Nat) → List Nat → List Nat
  | 0, _ => []
  | k + 1, may =>
    let on := s.groups.filter (fun g => g.resident && may.any (fun west => onStacks west l.w g))
    let first := on.filter Group.preq
    match (if first.isEmpty then on else first).find? (firstChoice (if first.isEmpty then on else first)) with
    | none => []
    | some g =>
      match may.find? (fun west => onStacks west l.w g) with
      | none => []
      | some west => west :: s.pickSets l k (may.erase west)

/-- The groups that hold rectangles on a chain set. -/
def State.holders (s : State) (l : Launch) (west : Nat) : List Nat :=
  (s.groups.filter (fun g => g.resident && onStacks west l.w g)).map Group.gid

/-- The chain sets for which a waiting launch has had groups asked to leave, and which no other group has come to since. -/
def State.askedStill (s : State) (l : Launch) : List (Nat × List Nat) :=
  l.asked.filter (fun x => (s.holders l x.1).all x.2.contains)

/-- R350: the chain sets that have to be freed for a waiting launch: as many as it lacks, where groups of lower priority alone
hold enough. Those on which a group has been asked to leave come first, in the order in which they were, so that no more groups go
than the launch needs. -/
def State.required (s : State) (l : Launch) : List Nat :=
  let free := s.freeSets l (fun _ => false)
  let may := (s.freeSets l (fun g => g.below l.prio)).filter (fun west => !free.contains west)
  let kept := (((s.askedStill l).map Prod.fst).filter may.contains).take (l.least - free.length)
  if l.least ≤ free.length + may.length then
    kept ++ s.pickSets l (l.least - free.length - kept.length) (may.filter (fun west => !kept.contains west))
  else []

/-- The chain sets that a waiting launch waits for: the free ones it takes, and those required. -/
def State.claims (s : State) (l : Launch) : List Nat :=
  let free := s.freeSets l (fun _ => false)
  if l.least ≤ free.length then free.take l.most
  else if (s.required l).isEmpty then [] else free ++ s.required l

/-- R349: a launch of higher priority waits for the rectangle of a group. -/
def State.claimed (s : State) (g : Group) : Bool :=
  s.launches.any (fun l => s.waits l && g.prio < l.prio && (s.claims l).any (fun west => onStacks west l.w g))

/-- The group's chain set is to be calved, and its saved groups are resumed first (R355, step 3). -/
def State.calving (s : State) (g : Group) : Bool :=
  (s.launch? g.lid).any (fun l => (l.set? g.west).any ChainSet.request)

/-- Waiting work for which a group may be pre-empted now (R350): a saved group whose rectangle only lower ones hold, or a launch. -/
def State.wanted (s : State) (g : Group) : Bool :=
  s.groups.any (fun h =>
    let on := s.groups.filter (fun x => x.resident && h.meets x)
    h.isSaved && s.dispatching h.ctx && h.meets g && !s.claimed h && on.all (fun x => x.below h.prio) && g.yields h.prio &&
    firstChoice (on.filter (fun x => x.yields h.prio)) g) ||
  s.launches.any (fun l =>
    let on := s.groups.filter (fun x => x.yields l.prio && (s.required l).any (fun west => onStacks west l.w x))
    s.waits l && on.any (fun x => x.gid == g.gid) && firstChoice on g)

/-- The waiting launches for which groups are asked to leave note the chain sets, of those they require now, that the groups are on,
with the groups there; one that is free or held by others by now is forgotten (R350). -/
def State.noteAsked (s : State) (gs : List Group) : State :=
  { s with launches := s.launches.map (fun l =>
      let now := s.required l
      let on := now.filter (fun west => gs.any (fun g => g.yields l.prio && onStacks west l.w g))
      if s.waits l && !on.isEmpty then
        let old := (s.askedStill l).filter (fun x => now.contains x.1)
        { l with asked := old ++ ((on.filter (fun west => !old.any (fun x => x.1 == west))).map (fun west => (west, s.holders l west))) }
      else l) }

/-- PREEMPTION_REQUEST (R350, R388): the group, with the others of its co-resident launch, enters pre-emption. -/
def execPreemptionRequest (grp : Nat) (s : State) : Out :=
  match s.grp? grp with
  | none => .next s
  | some g =>
    if !s.wanted g then .next s
    else
      let goes (h : Group) : Bool := h.gid == grp || (g.cor && h.lid == g.lid && h.resident)
      .next { s.noteAsked (s.groups.filter goes) with groups := s.groups.map (fun h => if goes h then { h with preq := true } else h) }

/-! ### Saved groups (R349, R393) -/

/-- R349: the rectangle is free, and nothing of higher priority waits for it. -/
def State.mayBringBack (s : State) (g : Group) : Bool :=
  g.isSaved && s.dispatching g.ctx &&
  !s.groups.any (fun h => h.gid != g.gid && h.meets g && (h.resident || (g.prio < h.prio && s.dispatching h.ctx))) &&
  (s.calving g || !s.claimed g)

/-- GROUP_RESUME (R349, R350, R393): a saved group returns to its rectangle; those of a co-resident launch together. -/
def execGroupResume (grp : Nat) (s : State) : Out :=
  match s.grp? grp with
  | none => .next s
  | some g =>
    let all := if g.cor then s.groups.filter (fun h => h.lid == g.lid) else [g]
    let back := all.filter (fun h => !h.resident)
    if back.isEmpty || all.any Group.leaving || !back.all s.mayBringBack then .next s
    else
      .next ((back.foldl (fun (x : Dev Unit) (h : Group) => x.bind (fun s _ => s.bringBack h.gid)) (.ok s ())).orLose s g.ctx (some grp))

/-! ### Calving (R354 to R356) -/

/-- CALVING_REQUEST (R355, step 1). -/
def execCalvingRequest (lid set : Nat) (s : State) : Out :=
  match s.launch? lid with
  | none => .next s
  | some l =>
    match l.set? set with
    | none => .next s
    | some c =>
      if !l.admitted || l.cor || c.calved || c.request || l.held.length ≤ l.least || !s.workWaits l set then .next s
      else
        let s := s.setLaunch (l.putSet { c with request := true })
        .next { s with groups := s.groups.map (fun g =>
          if g.lid == lid && g.west == set then { g with a := { g.a with atStep := g.a.wn.isSome }, c := { g.c with atStep := g.c.wn.isSome } }
          else g) }

/-- CALVE (R355, steps 3 and 4, R356); a request whose waiting work is gone is withdrawn. -/
def execCalve (lid set : Nat) (s : State) : Out :=
  match s.launch? lid with
  | none => .next s
  | some l =>
    match l.set? set with
    | none => .next s
    | some c =>
      if c.request && !c.calved && (!s.workWaits l set || l.held.length ≤ l.least) then .next (s.setLaunch (l.putSet { c with request := false }))
      else .next (s.calve lid set)

/-- CHAIN_SET_ADD (R354): an admitted launch below its maximum takes a chain set with a free rectangle of its shape; where part of it
is in use, the launch shares it (R345). -/
def execChainSetAdd (lid set : Nat) (s : State) : Out :=
  match s.launch? lid with
  | none => .next s
  | some l =>
    if !l.admitted || l.cor || l.most ≤ l.held.length || 16 ≤ set || set % l.w != 0 || (l.set? set).isSome ||
      !(List.range (16 / l.n)).any (fun k => s.rectFree l set (k * l.n)) then .next s
    else
      let inUse := s.groups.any (fun g => g.resident && onStacks set l.w g)
      .next (s.setLaunch { l with
        sets := l.sets ++ [{ west := set, unit := none, next := 0, request := false, calved := false, added := inUse }] })

/-! ### `launch` (R357, R358, R362) -/

/-- A packet enters the device queue, or the spill ring behind earlier spilled ones; none while both are full. -/
def State.enterPacket (s : State) (cx : Context) (lid : Nat) (ws : List Word) : Option (Dev Unit) :=
  if cx.spilled.isEmpty && cx.devq.length < 64 then
    some (.ok (s.setCtx { cx with devq := cx.devq ++ [{ parent := lid, words := ws }] }) ())
  else if cx.spilled.length < cx.desc.squota then
    let slot := (cx.spillHead + cx.spilled.length) % cx.desc.squota
    some ((s.devWrite cx ((cx.desc.spill.toNat + 128 * slot) % 2 ^ 64) (ws.flatMap wordBytes) false).bind (fun s _ =>
      match s.ctx? cx.num with
      | some cx => .ok (s.setCtx { cx with spilled := cx.spilled ++ [lid] }) ()
      | none => .ok s ()))
  else none

/-- R351: places from the dispatcher's pointer to a leading row controller. -/
def State.launchDistance (s : State) (g : Group) : Nat := (g.ctl + 256 - s.launchPtr) % 256

/-- A packet of the context could be entered now. -/
def Context.hasRoom (cx : Context) : Bool := (cx.spilled.isEmpty && cx.devq.length < 64) || cx.spilled.length < cx.desc.squota

/-- R351: another group's stalled `launch` for which there is room ranks before one of `g`. -/
def State.launchAhead (s : State) (g : Group) : Bool :=
  s.groups.any (fun h =>
    h.gid != g.gid && h.mayBegin && (h.a.stall == some .launch || h.c.stall == some .launch) && (s.ctx? h.ctx).any Context.hasRoom &&
    (g.prio < h.prio || (g.prio == h.prio && s.launchDistance h < s.launchDistance g)))

/-- The packet that a `launch` has read is entered, or the stream stalls with it while there is no room or others go first. -/
def State.launchPacket (s : State) (gid : Nat) (sl : Slice) (g : Group) (ws : List Word) : Out :=
  let stay (s : State) : Out := .next (s.mapStream gid sl (fun st => { st with packet := some ws, stall := some .launch }))
  match s.ctx? g.ctx with
  | none => .next s
  | some cx =>
    if !cx.hasRoom || s.launchAhead g then stay s
    else
      match s.enterPacket cx g.lid ws with
      | none => stay s
      | some x =>
        match x with
        | .ok s _ =>
          let s : State := { s.devDone.mapStream gid sl (fun st => { st with packet := none }) with launchPtr := (g.ctl + 1) % 256 }
          s.done gid sl
        | .wait t =>
          -- the spill ring lies on a peer's page whose port is full
          stay (s.withLinks t)
        | x => .next (x.orLose s g.ctx (some gid))

/-- `launch` (R362): the address is checked, earlier accesses are released, the packet is read once and entered. From its checks until
it has the packet it waits for peers alone, and completes that before a stop (R388). A poisoned packet is control state (log 17). -/
def execLaunch (d : Reg) (s : State) : Out :=
  issue s (fun gid sl g st =>
    match st.packet with
    | some ws => s.launchPacket gid sl g ws
    | none =>
      if st.rp d then .next (s.loseControl gid sl)
      else
        ((s.access gid sl (st.rd d).toNat 128 needR true false).bind (fun s parts =>
          let s := (if st.reqs.isEmpty then s.settleLoads gid sl else s).mapStream gid sl (fun st => st.passed parts)
          if st.reqs.isEmpty && !s.quietFor gid sl then .wait s
          else
            (s.drainAll.readSlice gid sl parts).bind (fun s r =>
              .ok (s.mapStream gid sl (fun st => { st with past := false })) (r, parts.head?)))).finish gid sl .peer (fun s x =>
            let (r, part) := x
            if r.2 then
              .next (s.loseContext g.ctx { reason := 6, src := sl.src, gid := some gid, place := part.map Part.loc, va := (st.rd d).toNat })
            else s.launchPacket gid sl g (packetWords r.1)))

end Sys2Proof.Machine
end

