-- ==== Sys2Proof/Machine/Mgmt.lean ====
section
/-! DEFINITION. The management ring and its requests (R375 to R378, R385 to R387, R409 to R413, R415 to R417). -/

namespace Sys2Proof.Machine

open Sys2Proof

/-! ### Taking requests from the ring (R410) -/

/-- The module takes requests while STATE is 2; of STATE 4 the spec does not say it (log 41). -/
def State.managed (s : State) : Option BootCfg := if s.bring.state == .up then s.boot else none

/-- Requests of the ring taken one after the other, each with its release of RPTR + 1. -/
def State.takeReqs (s : State) (mgmt : Nat) (r : Ring) : List Nat → State
  | [] => s
  | p :: rest =>
    let bs := (s.viewRead viewDevice (.host (r.slotAt p 64)) 64).1
    let q : MgmtReq := { dwords := (List.range 8).map (fun k => imgWord bs (8 * k)) }
    let s := s.drainAll.performWrite (.host (mgmt + 0x80)) (leBytes 8 ((p + 1) % 2 ^ 64)) false true
    State.takeReqs { s with mgmtQ := s.mgmtQ ++ [q] } mgmt r rest

/-- R410: every pending request is taken, unless the ring cannot be used. -/
def State.takeRequests (s : State) (b : BootCfg) : State :=
  let r := s.hostRing b.mgmt 64
  if b.mgmt % 256 != 0 || !r.good || 2 ^ r.log2 < r.used then s
  else s.takeReqs b.mgmt r ((List.range r.used).map (fun k => (r.rptr + k) % 2 ^ 64))

/-! ### Fields of a request (R411) -/

def MgmtReq.dword (r : MgmtReq) (k : Nat) : Word := r.dwords.getD k 0
def MgmtReq.opc (r : MgmtReq) : Nat := wbits (r.dword 0) 31 0
def MgmtReq.compl (r : MgmtReq) : Nat := (r.dword 1).toNat
/-- Bits [hi:lo] of the request's dword `k`. -/
def MgmtReq.fld (r : MgmtReq) (k hi lo : Nat) : Nat := wbits (r.dword k) hi lo
/-- Context of a context request. -/
def MgmtReq.ctx (r : MgmtReq) : Nat := r.fld 2 5 0

def MgmtReq.isModule (r : MgmtReq) : Bool := 7 ≤ r.opc && r.opc ≤ 11
def MgmtReq.isUnmap (r : MgmtReq) : Bool := r.opc == 6
/-- A context request that names a context; CREATE names none. -/
def MgmtReq.names (r : MgmtReq) (c : Nat) : Bool := 2 ≤ r.opc && r.opc ≤ 5 && r.ctx == c

/-- Dwords from `k` on are zero. -/
def MgmtReq.zeroFrom (r : MgmtReq) (k : Nat) : Bool := (r.dwords.drop k).all (fun w => w == 0)

/-- The operands are in range and every must-be-zero byte and bit is zero (R409 to R411, R375, R378, R413, R416). -/
def MgmtReq.valid (r : MgmtReq) : Bool :=
  r.fld 0 63 32 == 0 &&
  (match r.opc with
   | 1 => r.fld 2 5 0 == 0 && r.zeroFrom 3
   | 2 | 3 | 4 => r.fld 2 63 6 == 0 && r.zeroFrom 3
   | 5 => r.fld 2 7 6 == 0 && r.fld 2 15 12 == 0 && r.fld 2 63 20 == 0 && r.zeroFrom 3
   | 6 => r.fld 2 63 1 == 0 && r.fld 3 31 6 == 0 && r.fld 4 15 0 == 0 && r.dword 5 == r.dword 1 && r.zeroFrom 6
   | 7 => r.fld 2 63 6 == 0 && r.dword 3 == 0 && r.dword 4 == 0 && r.fld 5 7 0 == 0 && r.fld 5 15 12 == 0 &&
      r.fld 6 15 0 == 0 && r.fld 7 15 0 == 0
   | 8 => r.fld 2 63 0 < 12582912 && r.fld 3 63 16 == 0 && r.fld 3 11 6 == 0 && r.fld 3 13 12 != 3 && r.zeroFrom 4
   | 9 => r.fld 2 63 4 == 0 && r.fld 3 63 40 == 0 && r.fld 3 31 0 != 0 && r.zeroFrom 4
   | 10 => r.fld 2 15 4 == 0 && r.fld 2 63 26 == 0 && r.zeroFrom 3
   | 11 => r.fld 2 15 10 == 0 && r.fld 2 63 20 == 0 && r.zeroFrom 3
   | _ => false)

/-- R409: what may not yet begin behind the requests `before` it. -/
def State.eligible (s : State) (before : List MgmtReq) (r : MgmtReq) : Bool :=
  !before.any MgmtReq.isModule &&
  (if r.isModule then before.all MgmtReq.isUnmap && s.preempts.isEmpty
   else !(2 ≤ r.opc && r.opc ≤ 5) || (!before.any (fun q => q.names r.ctx) && !s.preempts.any (fun p => p.ctx == r.ctx)))

/-- The place in the queue of the first request of a kind that may perform. -/
def State.nextReq (s : State) (mine : MgmtReq → Bool) : Option Nat :=
  (List.range s.mgmtQ.length).find? (fun k =>
    match s.mgmtQ[k]? with
    | some r => mine r && s.eligible (s.mgmtQ.take k) r
    | none => false)

/-- A management event: pending requests are taken, PREEMPTs that are over complete, and the next request of the event's
kind performs. Its writes are releases, for which peers must have answered the device (R415). Where it has to wait for a peer, only
its own requests remain of it. -/
def State.manage (s : State) (mine : MgmtReq → Bool) (f : State → MgmtReq → Dev Unit) : Out :=
  match s.managed with
  | none => .next s
  | some b =>
    if !s.devQuiet [] then .next s else
    let s := (s.takeRequests b).settlePreempts
    match s.nextReq mine with
    | none => .next s
    | some k =>
      match s.mgmtQ[k]? with
      | none => .next s
      | some r =>
        match f { s with mgmtQ := s.mgmtQ.eraseIdx k } r with
        | .ok t _ => .next t.devDone
        | .wait t => .next (s.withLinks t)
        | .bad t => .next t.devDone
        | .poison t _ _ _ => .next t.devDone

/-- A valid request of an OPC with an aligned completion word. -/
def wellFormedReq (opc : Nat) (r : MgmtReq) : Bool := r.opc == opc && r.valid && r.compl % 8 == 0

/-- A management event of one OPC whose request is complete with a status. -/
def State.manageNow (s : State) (opc : Nat) (f : State → MgmtReq → State × Nat) : Out :=
  s.manage (wellFormedReq opc) (fun s r =>
    let (s, status) := f s r
    .ok (s.finishReq r.compl status 0) ())

/-- MGMT_INVALID_REQUEST (R409, R410): STATUS 2, or nothing at all where the completion word is misaligned. -/
def execMgmtInvalidRequest (s : State) : Out :=
  s.manage (fun r => !r.valid || r.compl % 8 != 0) (fun s r => .ok (if r.compl % 8 != 0 then s else s.finishReq r.compl 2 0) ())

/-! ### CREATE (R386) -/

/-- The 256 bytes of a context descriptor meet R386. -/
def descOk (d : List Byte) : Bool :=
  let n (o k : Nat) : Nat := imgNat d o k
  let root := n 0 8
  natBits root 63 54 == 0 && natBits root 11 8 == 0 && natBits root 6 1 == 0 && (natBits root 7 7 == 1 || natBits root 53 40 == 0) &&
  1 ≤ n 0x08 8 && n 0x08 8 ≤ 2 ^ 20 && n 0x10 8 % 256 == 0 && n 0x18 8 % 64 == 0 && n 0x20 8 % 32768 == 0 &&
  1 ≤ n 0x28 4 && n 0x28 4 ≤ 2049 && n 0x2C 4 ≤ 65535 && n 0x30 8 % 128 == 0 &&
  natBits (n 0x3C 4) 7 6 == 0 && natBits (n 0x3C 4) 15 8 ≤ 24 && natBits (n 0x3C 4) 31 16 == 0 &&
  n 0x80 4 == 0 && n 0x88 8 % 16 == 0 && n 0x90 6 == 0 && n 0x98 8 % 65536 == 0 &&
  n 0xA0 8 % 32 == 0 && n 0xA8 8 % 32 == 0 && n 0xB0 80 == 0

/-- The descriptor in those bytes. -/
def descFrom (d : List Byte) : CtxDesc :=
  let n (o k : Nat) : Nat := imgNat d o k
  let w (o : Nat) : Word := imgWord d o
  { root := w 0, lease := n 0x08 8, trapq := w 0x10, lostrec := n 0x18 8, savebase := w 0x20, imgsize := n 0x28 4,
    savecnt := n 0x2C 4, spill := w 0x30, squota := n 0x38 4, tol := BitVec.ofNat 6 (n 0x3C 4), interval := natBits (n 0x3C 4) 15 8,
    lqh := (List.range 8).map (fun k => w (0x40 + 8 * k)), sqbase := w 0x98, sqrows := n 0x96 2, ptbase := w 0x88,
    np := n 0x84 4, cpbase := w 0xA0, cplim := w 0xA8 }

/-- A new context. -/
def Context.fresh (num : Nat) (d : CtxDesc) : Context :=
  { num := num, desc := d, fmt := Vector.replicate 6 0, phasePtr := Vector.replicate 16 0, held := false, started := false,
    stops := 0, images := [], waiting := [], devq := [], spillHead := 0, spilled := [], qerr := [], areas := [] }

/-- The lowest context number that is free. -/
def State.freeCtx (s : State) : Option Nat := (List.range 64).find? (fun c => (s.ctx? c).isNone)

/-- CREATE (R385, R386). A poisoned descriptor is an invalid one. -/
def execCreateCtx (s : State) : Out :=
  s.manage (wellFormedReq 1) (fun s r =>
    let (d, pz) := s.viewRead viewDevice (.host (r.dword 2).toNat) 256
    if pz || !descOk d then .ok (s.finishReq r.compl 2 0) ()
    else
      match s.freeCtx with
      | none => .ok (s.finishReq r.compl 1 0) ()
      | some c => .ok (State.finishReq { s with ctxs := s.ctxs ++ [Context.fresh c (descFrom d)] } r.compl 0 c) ())

/-! ### KILL, PREEMPT, RESUMECTX, RESUME (R385, R387, R396) -/

/-- KILL (R396, steps 1 to 3). -/
def execKillCtx (s : State) : Out :=
  s.manageNow 2 (fun s r => if (s.ctx? r.ctx).isSome then (s.endContext r.ctx, 0) else (s, 3))

/-- Every group of a context. -/
def State.mapGroupsOf (s : State) (c : Nat) (f : Group → Group) : State :=
  { s with groups := s.groups.map (fun g => if g.ctx == c then f g else g) }

/-- PREEMPT (R385, R388): dispatch stops and a request stands on every resident group; it completes in
`State.settlePreempts`. -/
def execPreemptCtx (s : State) : Out :=
  s.manage (wellFormedReq 3) (fun s r =>
    match s.ctx? r.ctx with
    | none => .ok (s.finishReq r.compl 3 0) ()
    | some cx =>
      let s := (s.setCtx { cx with held := true }).mapGroupsOf r.ctx (fun g => if g.resident then { g with preq := true } else g)
      .ok (State.settlePreempts { s with preempts := s.preempts ++ [{ ctx := r.ctx, compl := r.compl }] }) ())

/-- RESUMECTX (R385): dispatch goes on; saved groups come back as GROUP_RESUME finds their rectangles free, and the
PREEMPT stands no longer on groups that a trap stopped. -/
def execResumeCtx (s : State) : Out :=
  s.manageNow 4 (fun s r =>
    match s.ctx? r.ctx with
    | none => (s, 3)
    | some cx =>
      ((s.setCtx { cx with held := false }).mapGroupsOf r.ctx (fun g => if g.status == .running then g else { g with preq := false }), 0))

/-- The group that a trap stopped in the rectangle that a RESUME names (R387). -/
def State.stoppedAt (s : State) (r : MgmtReq) : Option Group :=
  s.groups.find? (fun g => g.ctx == r.ctx && g.stack0 == r.fld 2 11 8 && g.row0 == r.fld 2 19 16 &&
    (match g.status with | .stopped _ => true | _ => false))

/-- A record of the stop still waits for the trap ring, and the RESUME for it (R384). -/
def State.recordsWait (s : State) (r : MgmtReq) : Bool := (s.stoppedAt r).any (fun g => g.stopno != 0)

/-- RESUME (R387, R389): the group that a trap stopped in the rectangle restarts. It waits while a record of the stop waits
(R384), and requests of other contexts go on (R409). An image that cannot be read loses the context with reason 6. -/
def execResumeGroup (s : State) : Out :=
  s.manage (fun r => wellFormedReq 5 r && !s.recordsWait r) (fun s r =>
    match s.ctx? r.ctx with
    | none => .ok (s.finishReq r.compl 3 0) ()
    | some cx =>
      match s.stoppedAt r with
      | none => .ok (s.finishReq r.compl 4 0) ()
      | some g =>
        match g.status with
        | .stopped image =>
          if g.stopno != 0 then .wait s
          else
            match s.restart g.gid g cx image with
            | .ok s _ => .ok (s.finishReq r.compl 0 0) ()
            | .wait s => .wait s
            | .bad t =>
              .ok (State.finishReq (t.loseContext r.ctx { reason := 6, src := 0, gid := some g.gid, place := none, va := 0 }) r.compl 3 0) ()
            | .poison t l va table =>
              .ok (State.finishReq (t.loseContext r.ctx { reason := if table then 4 else 6, src := 0, gid := some g.gid, place := some l, va := va })
                r.compl 3 0) ()
        | _ => .ok s ())

/-! ### UNMAP (R375 to R377) -/

/-- The entry overlaps the range of an unmap. -/
def UnmapReq.covers (u : UnmapReq) (e : TlbEntry) : Bool :=
  e.ctx == u.ctx && (u.npg == 0 || (e.base < u.vbase + 65536 * u.npg && u.vbase < e.base + 2 ^ e.bits))

/-- Removes every cached entry that overlaps (R376). -/
def State.recall (s : State) (u : UnmapReq) : State := { s with tlb := s.tlb.filter (fun e => !u.covers e) }

/-- UNMAP (R375, R376): recalls at once with RECALL, and stays until UNMAP_COMPLETE. -/
def execUnmap (s : State) : Out :=
  s.manage (wellFormedReq 6) (fun s r =>
    let u : UnmapReq := { ctx := r.fld 3 5 0, vbase := (r.dword 4).toNat, npg := r.fld 3 63 32, compl := r.compl }
    if (s.ctx? u.ctx).isNone then .ok (s.finishReq r.compl 2 0) ()
    else
      let s : State := if r.fld 2 0 0 == 1 then s.recall u else s
      .ok { s with unmaps := s.unmaps ++ [u] } ())

/-- The parts of accesses that a stream has under way. -/
def Stream.heldParts (st : Stream) : List Part :=
  (if st.reqs.isEmpty && !st.past then [] else st.parts) ++
  st.fetches.filterMap (fun f => if f.words.isNone then some f.part else none) ++
  (match st.kv with | some m => m.table ++ m.src ++ m.dst | none => [])

/-- A KV instruction has still to write tables at places that it has translated (R325). -/
def Stream.mustWrite (st : Stream) : Bool := st.kv.isSome || !st.asks.isEmpty

/-- The parts of accesses that a group has under way: translated, and neither performed nor abandoned (R374). -/
def Group.heldParts (g : Group) : List Part :=
  g.a.heldParts ++ g.c.heldParts ++
  g.qs.toList.flatMap (fun q => q.ents.flatMap (fun e => match e with | .pending _ _ _ _ p _ => p.toList | _ => [])) ++
  g.eq.toList.flatMap (fun q => q.flatMap (fun c => match c.hold with | some b => b.sps ++ b.dps | none => []))

/-- The part may have been translated by an entry that overlaps the range of an unmap: it lies in a page of the largest size that
does (R364, R376; log 35). -/
def UnmapReq.meets (u : UnmapReq) (p : Part) : Bool :=
  let page (va : Nat) : Nat := va / 2 ^ 30 * 2 ^ 30
  (match p.loc with | .spad _ => false | _ => true) &&
  (u.npg == 0 || (page p.va < u.vbase + 65536 * u.npg && u.vbase < page (p.va + p.n - 1) + 2 ^ 30))

/-- An access of a context that may have used an entry of the range is neither performed nor abandoned (R376): one under way there,
a write of tables to come, or a request to a peer, of its groups, also of those that are gone, or of the device. -/
def State.unmapHeld (s : State) (u : UnmapReq) : Bool :=
  s.outReqs.any (fun r => r.gid == deviceGid || r.ctx == some u.ctx) ||
  s.groups.any (fun g => g.ctx == u.ctx && (g.heldParts.any u.meets || g.a.mustWrite || g.c.mustWrite))

/-- UNMAP_COMPLETE (R376, R377): every entry of the range is recalled, and every access that used one is performed: pending
stores are, and no other is under way. -/
def execUnmapComplete (k : Nat) (s : State) : Out :=
  match s.unmaps[k]? with
  | none => .next s
  | some u =>
    let s := s.recall u
    if s.unmapHeld u then .next s
    else .next (State.finishReq { s with unmaps := s.unmaps.eraseIdx k } u.compl 0 0)

/-! ### Module requests -/

/-- PWIN (R378). -/
def execPwin (s : State) : Out :=
  s.manageNow 7 (fun s r =>
    let w : PeerWindow :=
      { vabase := r.dword 7, wbase := r.dword 6, size := r.fld 5 63 32, peer := r.fld 5 31 22, ctx := r.fld 5 21 16,
        aw := r.fld 5 11 11 == 1, ww := r.fld 5 10 10 == 1, rw := r.fld 5 9 9 == 1, vw := r.fld 5 8 8 == 1 }
    (if h : r.fld 2 5 0 < 64 then { s with pwins := s.pwins.set (r.fld 2 5 0) w } else s, 0))

/-- FRAME (R413). -/
def execFrame (s : State) : Out :=
  s.manageNow 8 (fun s r =>
    let o := s.ownerEntry (r.fld 2 63 0)
    let valid := r.fld 3 15 15 == 1
    let c := r.fld 3 5 0
    if valid && (o.retired || (o.valid && o.ctx != c && (s.ctx? o.ctx).isSome)) then (s, 2)
    else (s.setOwner { o with valid := valid, ord := r.fld 3 13 12, ctx := c }, 0))

/-- PCFG (R416). -/
def execPcfg (s : State) : Out :=
  s.manageNow 9 (fun s r =>
    let k := r.fld 2 3 0
    (s.setPort k { s.port k with tmo := r.fld 3 31 0, qth := r.fld 3 39 32 }, 0))

/-- QREL (R417). -/
def execQrel (s : State) : Out :=
  s.manageNow 10 (fun s r =>
    let k := r.fld 2 3 0
    let peer := r.fld 2 25 16
    let p := s.port k
    (s.setPort k { p with quarantined := NatSet.erase p.quarantined peer, streak := p.streak.filter (fun x => x.1 != peer) }, 0))

/-- ROUTE (R415). -/
def execRoute (s : State) : Out :=
  s.manageNow 11 (fun s r =>
    let peer := r.fld 2 9 0
    ({ s with routes := (peer, r.fld 2 19 16) :: s.routes.filter (fun x => x.1 != peer) }, 0))

end Sys2Proof.Machine
end

