-- ==== Sys2Proof/Machine/Links.lean ====
section
/-! DEFINITION. Requests of the host over the SCL (R407, R408), inbound and outbound UALink requests (R378, R414 to R417). -/

namespace Sys2Proof.Machine

open Sys2Proof

/-- AMO operations and sizes of R241. -/
def amoLegal (op : BitVec 4) (size : BitVec 2) : Bool :=
  op.toNat ≤ 10 && (size == 2 || size == 3) && (op != 10 || size == 2)

/-- The answer of an atomic. -/
def amoReply (n : Nat) (r : AmoResult) : LinkReply := .data (leBytes n r.old.toNat) r.poison

/-- Writes `n` bytes at a vault or host location for an agent that is no slice: after the stores it follows in coherence
order, 64 KiB frame by frame. -/
def State.agentWrite (s : State) (l : MemLoc) (bs : List Byte) : State :=
  match l with
  | .vault p =>
    ((pagePieces (bs.length / 65536 + 2) p bs.length).foldl (fun (x : State × List Byte) (q : Nat × Nat) =>
      ((x.1.drainOverlap viewHost false (.vault q.1) q.2).performWrite (.vault q.1) (x.2.take q.2) false true, x.2.drop q.2)) (s, bs)).1
  | l => (s.drainOverlap viewHost false l bs.length).performWrite l bs false true

/-! ### Host requests -/

/-- The device-physical address of a host address in the aperture (R407). -/
def State.aperture (s : State) (addr : Nat) : Option Nat :=
  match s.managed with
  | some b => if b.aperture ≤ addr && addr < b.aperture + 2 ^ 40 then some (addr - b.aperture) else none
  | none => none

/-- The kind of a frame to host accesses (R413). -/
def State.hostKind (s : State) (p : Nat) : Nat :=
  let o := s.ownerEntry (frameIndex p)
  if o.valid then o.ord else 0

/-- A host request to `n` bytes at `addr` runs `f` at the device-physical address, unless it addresses a hole or, where
`ordered`, a UO frame (R408). -/
def State.hostRequest (s : State) (addr n : Nat) (ordered : Bool) (f : State → Nat → State) : Out :=
  match s.aperture addr with
  | none => .next { s with reply := .error }
  | some p =>
    let frames := (pagePieces (n / 65536 + 2) p n).map Prod.fst
    if 2 ^ 40 < p + n || vaultHole p || frames.any vaultHole || (ordered && (s.hostKind p == 2 || frames.any (fun q => s.hostKind q == 2))) then
      .next { s with reply := .error }
    else .next (f s p)

/-- A host read. -/
def State.hostRead (s : State) (p n : Nat) : State :=
  let (b, pz) := s.viewRead viewHost (.vault p) n
  { s with reply := .data b pz }

/-- HOST_PLAIN_ACCESS (R408). -/
def execHostPlainAccess (_tag addr n : Nat) (write : Option (List Byte)) (s : State) : Out :=
  match write with
  | none => s.hostRequest addr n false (fun s p => s.hostRead p n)
  | some bs => s.hostRequest addr bs.length false (fun s p => { s.agentWrite (.vault p) bs with reply := .done })

/-- HOST_ACQUIRE (R408). -/
def execHostAcquire (_tag addr n : Nat) (s : State) : Out := s.hostRequest addr n true (fun s p => s.hostRead p n)

/-- HOST_RELEASE (R408): what the host agent has seen is performed at every scope first. -/
def execHostRelease (_tag addr : Nat) (bytes : List Byte) (s : State) : Out :=
  s.hostRequest addr bytes.length true (fun s p => { s.drainAll.agentWrite (.vault p) bytes with reply := .done })

/-- HOST_ATOMIC (R408): order acqrel; one that is not naturally aligned, or that R241 does not have, receives an error. -/
def execHostAtomic (_tag addr : Nat) (op : BitVec 4) (size : BitVec 2) (operand comparand : Word) (s : State) : Out :=
  let n := 2 ^ size.toNat
  if !amoLegal op size || addr % n != 0 then .next { s with reply := .error }
  else
    s.hostRequest addr n true (fun s p =>
      let (s, r) := s.drainAll.amoAt viewHost (.vault p) op.toNat n (lowBytes n operand) (lowBytes n comparand) false
      { s with reply := amoReply n r })

/-! ### Inbound UALink requests -/

/-- The stack whose translation cache serves a port (R378). -/
def portStack (p : Nat) : Nat := if p < 8 then 4 * (p % 4) else 4 * (p % 4) + 3

/-- The first window that a request matches (R378). -/
def State.window (s : State) (src addr : Nat) : Option PeerWindow :=
  s.pwins.toList.find? (fun w => w.vw && w.peer == src && w.wbase.toNat ≤ addr && addr < w.wbase.toNat + 65536 * w.size)

def peerSize (op : PeerOp) : Nat :=
  match op with
  | .read n => n
  | .write bs => bs.length
  | .atomic _ z _ _ => 2 ^ z.toNat

/-- What a request needs of its page, and whether its window permits it. -/
def PeerWindow.permits (w : PeerWindow) (op : PeerOp) : Bool :=
  match op with
  | .read _ => w.rw
  | .write _ => w.ww
  | .atomic _ _ _ _ => w.aw

def peerNeed (op : PeerOp) : Need :=
  match op with
  | .read _ => needR
  | .write _ => needW
  | .atomic _ _ _ _ => needRW

/-- A request that R414 and R241 allow: at most 256 bytes within one aligned block, an atomic naturally aligned. -/
def peerForm (addr : Nat) (op : PeerOp) : Bool :=
  let n := peerSize op
  1 ≤ n && n ≤ 256 && addr % 256 + n ≤ 256 &&
  (match op with | .atomic o z _ _ => amoLegal o z && addr % n == 0 | _ => true)

/-- Serves an inbound request at a translated place. -/
def State.serve (s : State) (l : MemLoc) (op : PeerOp) : State :=
  match op with
  | .read n =>
    let (b, pz) := s.viewRead viewHost l n
    { s with reply := .data b pz }
  | .write bs => { s.agentWrite l bs with reply := .done }
  | .atomic o z b c =>
    let n := 2 ^ z.toNat
    let (s, r) := s.amoAt viewHost l o.toNat n (lowBytes n b) (lowBytes n c) false
    { s with reply := amoReply n r }

/-- PEER_INBOUND_REQUEST (R378, R414, R417): served through the first window that matches, or answered with an error. A
poisoned page-table entry loses the window's context (R367, R395). A peer without a route is as one quarantined (R415);
one quarantined on a port is so on that port alone (log 37). -/
def execPeerInboundRequest (port src addr : Nat) (op : PeerOp) (s : State) : Out :=
  let refuse (s : State) : Out := .next { s with reply := .error }
  if s.managed.isNone || 16 ≤ port || (s.route src).isNone || (s.port port).quarantined.contains src || !peerForm addr op then refuse s
  else
    match s.window src addr with
    | none => refuse s
    | some w =>
      match s.ctx? w.ctx with
      | none => refuse s
      | some cx =>
        if !w.permits op then refuse s
        else
          let va := (w.vabase.toNat + (addr - w.wbase.toNat)) % 2 ^ 64
          match s.translate (.stack (portStack port)) viewDevice cx va (peerNeed op) with
          | (s, .fault _) => refuse s
          | (s, .poison l) => refuse (s.loseContext w.ctx { reason := 4, src := 0, gid := none, place := some l, va := va })
          | (s, .ok l ord) =>
            let atomic := match op with | .atomic _ _ _ _ => true | _ => false
            match l with
            | .peer _ _ => refuse s
            | l => if ord == 3 || (atomic && ord == 2) then refuse s else .next (s.serve l op)

/-! ### Outbound requests -/

/-- Removes an outstanding request. -/
def State.closeReq (s : State) (tag : Nat) : State := { s with outReqs := s.outReqs.filter (fun r => r.tag != tag) }

/-- The run of timeouts to a peer on a port. -/
def Port.run (p : Port) (peer : Nat) : Nat :=
  match p.streak.find? (fun x => x.1 == peer) with
  | some x => x.2
  | none => 0

def Port.setRun (p : Port) (peer n : Nat) : Port := { p with streak := (peer, n) :: p.streak.filter (fun x => x.1 != peer) }

/-- The value that an atomic of the device leaves at a peer: op 11 adds BF16 elements (R241, R280). -/
def peerAtomic (op : BitVec 4) (n : Nat) (m b c : Word) : Word :=
  if op == 11 then
    BitVec.ofNat 64 (roundCvt (sumX false [decodeElem fmtBF16 m.toNat, decodeElem fmtBF16 b.toNat]).1 fmtBF16 0 false).1
  else (amoValue op.toNat n m b c).1

/-- An event of a request is counted for its group, or, where that is gone, by its home stack alone (R426, R427). -/
def State.countReq (s : State) (r : OutReq) (src n : Nat) : State :=
  if (s.grp? r.gid).isSome then s.count r.gid src n
  else if r.ctx.isSome then s.countStack r.home src n r.ctx
  else s

/-- A write of a copy that a peer has performed counts its bytes (R285). -/
def State.countSent (s : State) (r : OutReq) : State :=
  if r.src == EQueue.cpl.src || r.src == EQueue.cps.src then s.countReq r 11 r.kind.bytes else s

/-- The bytes that a request has left at a peer, or found there, by its response; none where it was poisoned. -/
def OutReq.left (r : OutReq) (bs : List Byte) : List Byte :=
  match r.kind with
  | .read _ => bs
  | .write data pz => if pz then [] else data
  | .atomic op n x y pz => if pz then [] else leBytes n (peerAtomic op n (leWord bs) x y).toNat

/-- What a response says: a write is performed, in which code may lie (R383), and what stands at the bytes of the peer, but for those that a write has changed since; of the requests sent before a write
that is answered, later responses do not say what stands at its bytes (log 15). -/
def State.noteReply (s : State) (r : OutReq) (bs : List Byte) : State :=
  let s := s.logWrite (.peer r.peer r.addr) r.kind.bytes
  { s with
    peerTab := noteEach r.peer (freshBytes r.stale r.addr (r.left bs)) s.peerTab
    outReqs := s.outReqs.map (fun x => if x.tag < r.tag then x.outdate r.peer r.addr r.kind.bytes else x) }

/-- A request that fails (R417). -/
def State.failReq (s : State) (r : OutReq) : State := ((s.closeReq r.tag).countReq r 16 1).peerFail r.gid r.tag r.kind

/-- PEER_RESPONSE (R417): one for a request that is complete is discarded; an error completes it as R417 says. -/
def execPeerResponse (tag : Nat) (error poisoned : Bool) (bytes : List Byte) (s : State) : Out :=
  match s.outReqs.find? (fun r => r.tag == tag) with
  | none => .next s
  | some r =>
    let s := s.setPort r.port ((s.port r.port).setRun r.peer 0)
    if error then .next (s.failReq r).dropOrphans
    else if r.kind.isWrite then .next (((s.closeReq tag).countSent r).noteReply r [])
    else
      let bs := (bytes ++ List.replicate r.kind.size 0).take r.kind.size
      let s := if poisoned then s.closeReq tag else (s.closeReq tag).noteReply r bs
      .next (State.dropOrphans { s with replies := s.replies ++ [{ tag := tag, poison := poisoned, bytes := bs }] })

/-- Completes every request to a peer on a port as a timeout (R417). -/
def State.failPeer (s : State) (port peer : Nat) : State :=
  (s.outReqs.filter (fun r => r.port == port && r.peer == peer)).foldl State.failReq s

/-- PEER_TIMEOUT (R417): QTH consecutive ones quarantine the peer on the port, and its requests complete at once. -/
def execPeerTimeout (tag : Nat) (s : State) : Out :=
  match s.outReqs.find? (fun r => r.tag == tag) with
  | none => .next s
  | some r =>
    let p := s.port r.port
    let n := p.run r.peer + 1
    let p := p.setRun r.peer n
    let s := s.failReq r
    if p.qth != 0 && p.qth ≤ n then
      .next ((s.setPort r.port { p with quarantined := NatSet.insert p.quarantined r.peer }).failPeer r.port r.peer).dropOrphans
    else .next (s.setPort r.port p).dropOrphans

end Sys2Proof.Machine
end

