-- ==== Sys2Proof/Machine/Boot.lean ====
section
/-! DEFINITION. Module reset, the bring-up window, BOOT and QUOTE (R31, R420 to R423). -/

namespace Sys2Proof.Machine

open Sys2Proof

/-- MODULE_RESET (R31, R420, R422, R425): every register returns to its reset value and every context is destroyed. Stores
already issued are performed, and memory keeps its contents. The numbers of groups, launches and requests go on, so that
nothing that belongs to the time before is taken for new. -/
def execModuleReset (s : State) : Out :=
  let t := s.drainAll
  .next { State.reset with
    agenda := t.agenda, now := t.now, vault := t.vault, vaultPoison := t.vaultPoison, host := t.host, hostPoison := t.hostPoison,
    codeLog := t.codeLog, codeSeq := t.codeSeq, peerTab := t.peerTab, nextGid := t.nextGid, nextLid := t.nextLid, nextTag := t.nextTag }

/-- The code of STATE (R420). -/
def ModState.code : ModState → Nat
  | .held => 0
  | .busy => 1
  | .up => 2
  | .failed => 3
  | .fatal => 4

/-- The 32 bytes of the bring-up window as the host reads them (R420): CMD reads as 0. -/
def BringUp.window (b : BringUp) : List Byte :=
  wordBytes b.bootrec ++ wordBytes b.qaddr ++ leBytes 4 0 ++ leBytes 4 (b.state.code + 2 ^ 8 * (b.err % 256)) ++ leBytes 8 0

/-! ### BOOT (R421, R422) -/

/-- The conditions of R421. -/
def bootRecordOk (d : List Byte) : Bool :=
  let n (o k : Nat) : Nat := imgNat d o k
  n 0 8 % 256 == 0 && n 8 4 % 256 == 0 && 1024 ≤ n 8 4 && n 8 4 ≤ 2 ^ 24 && 1000 ≤ n 0x0C 4 && n 0x0C 4 ≤ 10000 &&
  n 0x10 8 % 2 ^ 40 == 0 && n 0x20 8 % 4096 == 0 && (n 0x28 8 == 0 || (10 ≤ n 0x28 8 && n 0x28 8 ≤ 30)) &&
  n 0x78 8 % 256 == 0 && n 0x80 128 == 0

/-- What the module takes from the boot record (R422, step 7). Selectors 8 to 15 have no place in it and select nothing. -/
def bootCfgOf (d : List Byte) (svn : Nat) : BootCfg :=
  let n (o k : Nat) : Nat := imgNat d o k
  { pcap := n 0x0C 4, aperture := n 0x10 8, mgmt := n 0x18 8, cntbase := n 0x20 8, snap := n 0x28 8,
    gsel := (List.range 8).map (fun k => n (0x30 + k) 1), ssel := (List.range 8).map (fun j => imgWord d (0x38 + 8 * j)),
    evtq := n 0x78 8, svn := svn }

/-- BOOT stops with STATE 3 and an ERR. -/
def State.bootFails (s : State) (err : Nat) : State := { s with bring := { s.bring with state := .failed, err := err } }

/-- BOOT (R420, R422): the steps in order, the first that fails ending it. Bytes that come back poisoned, and a boot
record that is not aligned, fail the step that reads them. -/
def State.bootNow (s : State) : State :=
  if s.bring.state != .held then s
  else
    let rec_ := s.viewRead viewDevice (.host s.bring.bootrec.toNat) 256
    if s.bring.bootrec.toNat % 256 != 0 || rec_.2 || !bootRecordOk rec_.1 then s.bootFails 5
    else
      let im := s.viewRead viewDevice (.host (imgNat rec_.1 0 8)) (imgNat rec_.1 8 4)
      if im.2 then s.bootFails 1
      else
        let key := (im.1.drop 8).take 57
        let body := im.1.take (im.1.length - 114)
        let d1 := shake256 body
        let svn := imgNat im.1 0 4
        if shake256 key != Config.fusedKeyDigest then s.bootFails 2
        else if !Ed448.verify key d1 (im.1.drop (im.1.length - 114)) then s.bootFails 3
        else if svn < Config.fusedMinSvn then s.bootFails 4
        else
          let mr := shake256 (shake256 (s.mr ++ d1) ++ shake256 rec_.1)
          { s with mr := mr, boot := some (bootCfgOf rec_.1 svn), bring := { s.bring with state := .up } }

/-- BOOT_CMD (R420, R422). -/
def execBootCmd (s : State) : Out := .next s.bootNow

/-! ### QUOTE (R423) -/

/-- The secret key of the identity that goes with MR. -/
def identitySecret (mr : List Byte) : List Byte := (Config.identitySeed mr ++ List.replicate 57 0).take 57

/-- Bytes 0x000 to 0x0FF of a quote. -/
def quoteBody (nonce mr : List Byte) (svn count : Nat) : List Byte :=
  let b := nonce ++ mr ++ leBytes 4 svn ++ leBytes 4 count ++ Ed448.publicKey (identitySecret mr)
  b ++ List.replicate (256 - b.length) 0

/-- QUOTE (R420, R423). A poisoned nonce is signed as its bytes stand (log 38). -/
def State.quoteNow (s : State) : State :=
  if s.bring.state != .up then s
  else
    let q := s.bring.qaddr.toNat
    let count := (s.quotes + 1) % 2 ^ 32
    let nonce := (s.viewRead viewDevice (.host q) 64).1
    let body := quoteBody nonce s.mr (match s.boot with | some b => b.svn | none => 0) count
    let sig := Ed448.sign (identitySecret s.mr) body
    let out := body.drop 64 ++ sig ++ List.replicate (256 - sig.length) 0
    ({ s with quotes := count } : State).agentWrite (.host (q + 64)) out

/-- QUOTE_CMD (R420, R423). -/
def execQuoteCmd (s : State) : Out := .next s.quoteNow

/-! ### The window -/

/-- BRINGUP_WINDOW_WRITE (R420): BOOTREC and QADDR are set; of the dword at 0x10 only CMD is writable, and its values 1 and 2 are
the commands; the last eight bytes are not writable. -/
def execBringupWindowWrite (off : Nat) (value : Word) (s : State) : Out :=
  match off with
  | 0 => .next { s with bring := { s.bring with bootrec := value } }
  | 8 => .next { s with bring := { s.bring with qaddr := value } }
  | 16 =>
    match wbits value 31 0 with
    | 1 => .next s.bootNow
    | 2 => .next s.quoteNow
    | _ => .next s
  | _ => .next s

end Sys2Proof.Machine
end

