-- ==== Sys2Proof/Machine/Control.lean ====
section
/-! DEFINITION. Control flow, zero-overhead loops and stage predicates (R120 to R125). -/

namespace Sys2Proof.Machine

open Sys2Proof

/-- R121: the stream goes to a target that passes the checks of R43; otherwise it stops at the instruction. -/
def State.jump (s : State) (gid : Nat) (sl : Slice) (target : Word) (jr leaves : Bool) : Out :=
  (s.checkTarget gid sl target jr).finish gid sl .peer (fun s _ => .next (s.transfer gid sl target leaves))

/-- A branch on two registers (R120, R121); a poisoned condition is control poison (R105). -/
def branch {n : Nat} (a b : Reg) (t : BitVec n) (taken : Word → Word → Bool) (s : State) : Out :=
  issue s (fun gid sl _ st =>
    if st.rp a || st.rp b then .next (s.loseControl gid sl)
    else if taken (st.rd a) (st.rd b) then s.jump gid sl (branchTarget st.pc n t) false true
    else s.done gid sl)

/-- `beq` (R120). -/
def execBeq (a b : Reg) (t : BitVec 13) (s : State) : Out := branch a b t (fun x y => x == y) s

/-- `bne` (R120). -/
def execBne (a b : Reg) (t : BitVec 13) (s : State) : Out := branch a b t (fun x y => x != y) s

/-- `blt` (R120). -/
def execBlt (a b : Reg) (t : BitVec 13) (s : State) : Out := branch a b t (fun x y => x.slt y) s

/-- `bge` (R120). -/
def execBge (a b : Reg) (t : BitVec 13) (s : State) : Out := branch a b t (fun x y => !x.slt y) s

/-- `bltn` (R120). -/
def execBltn (a b : Reg) (t : BitVec 13) (s : State) : Out := branch a b t (fun x y => x.ult y) s

/-- `bgen` (R120). -/
def execBgen (a b : Reg) (t : BitVec 13) (s : State) : Out := branch a b t (fun x y => !x.ult y) s

/-- `bz` (R120). -/
def execBz (a : Reg) (t : BitVec 16) (s : State) : Out := branch a 0 t (fun x _ => x == 0) s

/-- `bnz` (R120). -/
def execBnz (a : Reg) (t : BitVec 16) (s : State) : Out := branch a 0 t (fun x _ => x != 0) s
/-- `b` (R121). -/
def execBr (t : BitVec 26) (s : State) : Out :=
  issue s (fun gid sl _ st => s.jump gid sl (branchTarget st.pc 26 t) false true)

/-- `call` (R121): the link is where the scan from the lane after it stops. -/
def execCall (t : BitVec 26) (s : State) : Out :=
  issue s (fun gid sl _ st =>
    let target := branchTarget st.pc 26 t
    ((s.checkTarget gid sl target false).bind (fun s _ => s.scanAfter gid sl st.pc)).finish gid sl .peer
      (fun s link => .next ((s.mapStream gid sl (fun st => st.wr 31 link false)).transfer gid sl target false)))

/-- `jr` (R121). -/
def execJr (a : Reg) (s : State) : Out :=
  issue s (fun gid sl _ st =>
    if st.rp a then .next (s.loseControl gid sl) else s.jump gid sl (st.rd a) true true)

/-- `bqz` and `bqnz` (R121): the pop takes effect only with the branch; a poisoned value is control poison. -/
def branchQueue (i : Instr) (q : BitVec 1) (d : Reg) (t : BitVec 16) (taken : Word → Bool) (s : State) : Out :=
  issue s (fun gid sl g st =>
    if sl == .c then s.illegal gid sl i
    else
      (s.headValue g sl (4 + q.toNat)).finish gid sl .queueEmpty (fun s v =>
        if v.2 then .next (s.loseControl gid sl)
        else
          let take (s : State) : State :=
            (s.mapGrp gid (fun g => (g.popQueue (4 + q.toNat)).setStream sl ((g.stream sl).wr d v.1 false))).count gid 1 1
          let target := branchTarget st.pc 16 t
          if taken v.1 then
            (s.checkTarget gid sl target false).finish gid sl .peer
              (fun s _ => .next ((take s).transfer gid sl target true))
          else (take s).done gid sl))

/-- `bqz` (R121). -/
def execBqz (q : BitVec 1) (d : Reg) (t : BitVec 16) (s : State) : Out :=
  branchQueue (.bqz q d t) q d t (fun v => v == 0) s

/-- `bqnz` (R121). -/
def execBqnz (q : BitVec 1) (d : Reg) (t : BitVec 16) (s : State) : Out :=
  branchQueue (.bqnz q d t) q d t (fun v => v != 0) s

/-- R122: majors 0x12 to 0x18 and `join` may not end a body. -/
def endsNoBody (w : BitVec 32) : Bool :=
  let m := (fld w 26 6).toNat
  (0x12 ≤ m && m ≤ 0x18) || w == 1

/-- R122: a loop of `n` iterations, with its checks; a poisoned count is control poison (R105), read after them. A scan of the
loop itself, for the head or past the end, that fails stops the stream at the loop instruction, without effect and with SKIP
clear (log 43). It transfers no control (R43), so the pass of a line goes on (R44). -/
def State.startLoop (s : State) (gid : Nat) (sl : Slice) (c : BitVec 2) (n : Word) (poison : Bool) (t : BitVec 16) : Out :=
  match s.grp? gid with
  | none => .next s
  | some g =>
    let st := g.stream sl
    let end_ := branchTarget st.pc 16 t
    let bad : TrapInfo := { cause := 0x06, addr := end_.toNat }
    ((s.checkTarget gid sl end_ false).bind (fun s ws =>
        if end_ ≤ st.pc then .trap s bad
        else if endsNoBody (ws.getD (end_.toNat % 32 / 4) 0) then .trap s bad
        else if (st.loopAt c).active then .trap s bad
        else if st.nesting.any (fun k => (st.loopAt k).end_ < end_) then .trap s bad
        else if poison then .lost (s.loseControl gid sl)
        else if n = 0 then s.scanAfter gid sl end_
        else s.scanAfter gid sl st.pc)).finish gid sl .peer (fun s pc =>
      if n = 0 then .next (s.mapStream gid sl (fun st => st.stepTo pc))
      else
        .next (s.mapStream gid sl (fun st =>
          ({ st.setLoop c { count := n, head := pc, end_ := end_, active := true } with nesting := st.nesting ++ [c] }).stepTo pc)))

/-- `loop` (R122). -/
def execLoop (c : BitVec 2) (a : Reg) (t : BitVec 16) (s : State) : Out :=
  issue s (fun gid sl _ st => s.startLoop gid sl c (st.rd a) (st.rp a) t)

/-- `loopi` (R122). -/
def execLoopi (c : BitVec 2) (n : BitVec 7) (t : BitVec 16) (s : State) : Out :=
  issue s (fun gid sl _ _ => s.startLoop gid sl c (n.setWidth 64) false t)

/-- The stage predicate register (R125): bit 0 is fixed at 1. -/
def spOf (high : Word) : BitVec 8 := high.setWidth 8 ||| 1

/-- `spset` (R125): a poisoned value is control poison (R105). -/
def execSpset (a : Reg) (i : BitVec 8) (s : State) : Out :=
  issue s (fun gid sl _ st =>
    if sl == .a then s.illegal gid sl (.spset a i)
    else if st.rp a then .next (s.loseControl gid sl)
    else (s.mapGrp gid (fun g => { g with sp := spOf (st.rd a ||| i.setWidth 64) })).done gid sl)

/-- `spshift` (R125). -/
def execSpshift (i : BitVec 1) (s : State) : Out :=
  issue s (fun gid sl g _ =>
    if sl == .a then s.illegal gid sl (.spshift i)
    else
      let sp : Word := ((g.sp &&& 0x7e#8) <<< 1).setWidth 64 ||| (i.setWidth 64 <<< 1)
      (s.mapGrp gid (fun g => { g with sp := spOf sp })).done gid sl)

/-- `spget` (R125). -/
def execSpget (d : Reg) (s : State) : Out :=
  issue s (fun gid sl g st =>
    if sl == .a then s.illegal gid sl (.spget d)
    else (s.setStream gid sl (st.wr d (g.sp.setWidth 64) false)).done gid sl)

end Sys2Proof.Machine
end

