-- ==== Sys2Proof/Machine/Errors.lean ====
section
/-! DEFINITION. Errors that ECC finds, write-backs and scrubbing (R394, R398, R399), refresh, power windows, counter
snapshots and chain crossings (R157, R418, R424, R428). -/

namespace Sys2Proof.Machine

open Sys2Proof

/-! ### Errors in memory (R394, R398, R399) -/

/-- The context that owns the frame of a vault address (R413). -/
def State.ownerOf (s : State) (p : Nat) : Option Nat :=
  let o := s.ownerEntry (frameIndex p)
  if o.valid && !o.retired then some o.ctx else none

/-- An error found in a vault sector: corrected, or poisoned; counted for the frame's owner (R394, R398, R427). -/
def State.vaultError (s : State) (p : Nat) (found : EccResult) : State :=
  let p := p / 256 * 256
  if vaultHole p then s
  else
    match found with
    | .correctable => s.countStack (vaultStack p) 35 1 (s.ownerOf p)
    | .uncorrectable => s.poisonVault p

/-- CACHE_WRITEBACK (R229, R398): a sector that the stack cache holds is written back if dirty, and leaves the cache where
it is evicted. -/
def execCacheWriteback (sector : Nat) (evict : Bool) (found : Option EccResult) (s : State) : Out :=
  let p := sector / 256 * 256
  let k := vaultStack p
  let t := s.stack k
  let bit := sectorBit p
  match t.cache.find? (fun c => c.line == sectorLine p && c.held &&& bit != 0) with
  | none => .next s
  | some c =>
    let c' : CacheLine := { c with held := if evict then c.held &&& ~~~bit else c.held, dirty := c.dirty &&& ~~~bit }
    let cache := t.cache.map (fun x => if x.line == c.line then c' else x)
    let s := s.setStack k { t with cache := cache.filter (fun x => x.held != 0) }
    match found with
    | some e => .next (if c.dirty &&& bit != 0 then s.vaultError p e else s)
    | none => .next s

/-- SCRUB (R399): a sector of a frame whose owner's INTERVAL is 1 to 24. -/
def execScrub (sector : Nat) (found : Option EccResult) (s : State) : Out :=
  match (s.ownerOf sector).bind s.ctx?, found with
  | some cx, some e => .next (if cx.desc.interval == 0 then s else s.vaultError sector e)
  | _, _ => .next s

/-! ### Errors in other holders (R394) -/

/-- A correction in a holder of a group, counted on the stack that it lies on (R427, source 35). -/
def State.corrected (s : State) (g : Group) (stack : Nat) : State := s.countStack stack 35 1 (some g.ctx)

/-- Drops what the instruction, scalar data and translation caches of a stack hold; all of it is found again (R230, R373).
A line whose instruction is stalled, or waits for a peer, stays until the instruction is complete: what waits is the same one (R294,
R303). -/
def State.discardCaches (s : State) (k : Nat) : State :=
  let shed (st : Stream) : Stream := if st.midway || st.stall.isSome then st else { st with pass := none }
  { s with
    tlb := s.tlb.filter (fun e => e.holder.home != k)
    peerLines := s.peerLines.filter (fun l => l.ctl / 16 != k)
    groups := s.groups.map (fun g => if g.stack0 == k then { g with a := shed g.a, c := shed g.c, icache := [] } else g) }

/-- Changes the latch of a cell. -/
def Group.mapLatch (g : Group) (row col : Nat) (shadow : Bool) (f : Latch → Latch) : Group :=
  let at_ (l : Latch) : Latch := if l.row == row && l.col == col then f l else l
  if shadow then { g with shadow := g.shadow.map at_ } else { g with active := g.active.map at_ }

/-- UNCORRECTABLE_ERROR (R394): an error found in a holder, and what the holder's row says of it. A correction in a cache is of the
context whose access found it, or of none (R427). -/
def execUncorrectableError (holder : EccHolder) (found : EccResult) (s : State) : Out :=
  let resident (grp : Nat) (f : Group → State) : Out :=
    match s.grp? grp with
    | none => .next s
    | some g => .next (if g.resident then f g else s)
  let onGroup (grp : Nat) (f : Group → State) : Out :=
    resident grp (fun g => if found == .correctable then s.corrected g g.stack0 else f g)
  match holder with
  | .vault p => .next (s.vaultError p found)
  | .spad grp off =>
    -- the scratchpad lies in the drain stack (R185)
    resident grp (fun g =>
      if g.n ≤ off / 2 ^ 22 || g.x ≤ off % 2 ^ 22 then s
      else if found == .correctable then s.corrected g g.drain
      else s.mapGrp grp (fun g => g.poisonSpad (off / 256 * 256)))
  | .cache k by_ =>
    .next ((if found == .correctable then s else s.discardCaches k).countStack k 35 1 ((by_.bind s.grp?).map Group.ctx))
  | .reg grp sl r => onGroup grp (fun _ => s.mapStream grp sl (fun st => st.wr r (st.rd r) true))
  | .queueEntry grp q k =>
    onGroup grp (fun _ => s.mapGrp grp (fun g =>
      if h : q < 6 then
        let x := g.qs[q]
        { g with qs := g.qs.set q { x with ents := x.ents.mapIdx (fun j e => if j == k then .poison 0 0 0 else e) } }
      else g) |>.dropOrphans)
  | .control grp => onGroup grp (fun g => s.loseContext g.ctx { reason := 3, src := 0, gid := some grp, place := none, va := 0 })
  | .acc grp row entry lane value =>
    resident grp (fun g =>
      let e := g.accEntry row entry
      if row < g.n && entry < 4096 && lane < e.lanes.length then s.setGrp (g.setAcc { e with lanes := e.lanes.set lane value }) else s)
  | .latch grp row col shadow off value =>
    resident grp (fun g => s.setGrp (g.mapLatch row col shadow (fun l => { l with hits := l.hits ++ [(off, value)] })))
  | .adder grp row col shadow weighted pos value =>
    resident grp (fun g => s.setGrp (g.mapLatch row col shadow (fun l => { l with sums := l.sums ++ [(weighted, pos, value)] })))

/-! ### Refresh, power, snapshots, crossings -/

/-- REFRESH (R157, R427): counted; the clk that it stalls a rectangle are part of `Config.stalled` (log 2). -/
def execRefresh (stack row col : Nat) (s : State) : Out :=
  .next (if stack < 16 && row < 16 && col < 24 then s.countStack stack 34 1 none else s)

/-- POWER_WINDOW (R424): the grant of the stack's next window; of the one that begins, where none of its clk has passed. -/
def execPowerWindow (stack grant : Nat) (s : State) : Out :=
  .next (if 64 ≤ grant && grant ≤ 1024 then
      let t := s.stack stack
      s.setStack stack { t with next := grant, grant := if t.clk.toNat % 1024 = 0 then grant else t.grant }
    else s)

/-- COUNTER_SNAPSHOT (R428): a release, for which peers must have answered the device (R415). None is made in STATE 4 (log 41). -/
def execCounterSnapshot (stack : Nat) (s : State) : Out :=
  match s.managed with
  | none => .next s
  | some b =>
    if b.cntbase == 0 || b.snap == 0 || 16 ≤ stack || !s.deviceIdle then .next s
    else
      let t := s.stack stack
      .next (s.drainAll.agentWrite (.host (b.cntbase + 256 * stack)) (t.counters.toList.flatMap wordBytes ++ wordBytes t.clk))

/-- CROSSING_RETRY (R418, R427): counted; its stall is part of `Config.stalled` (log 2). -/
def execCrossingRetry (stack row : Nat) (s : State) : Out :=
  .next (if stack < 16 && row < 16 then s.countStack stack 37 1 none else s)

/-- MODULE_FATAL_ERROR (R412, R418): STATE 4, an event of TYPE 3, and the loss of every context with reason 7. A module that
failed to boot stays in STATE 3 (R420). The north edges of stacks 0 to 3 and the south edges of stacks 12 to 15 join nothing (R16). -/
def execModuleFatalError (stack edge : Nat) (s : State) : Out :=
  if s.bring.state == .failed || s.bring.state == .fatal || 16 ≤ stack || 4 ≤ edge ||
    (edge == 0 && stack < 4) || (edge == 2 && 12 ≤ stack) then .next s
  else
    let s : State := { s with bring := { s.bring with state := .fatal } }
    let s := s.pushEvent [BitVec.ofNat 64 (3 + 2 ^ 16 * 0xFFFF), BitVec.ofNat 64 (2 ^ 8 * stack + 2 ^ 16 * edge), 0, 0]
    .next ((s.ctxs.map Context.num).foldl (fun (s : State) (c : Nat) =>
      s.loseContext c { reason := 7, src := 0, gid := none, place := none, va := 0 }) s)

end Sys2Proof.Machine
end

