-- ==== Sys2Proof/Machine/FenceOps.lean ====
section
/-! DEFINITION. Fences, promotion, waits and cache control (R242 to R246, R251, R261). -/

namespace Sys2Proof.Machine

open Sys2Proof

/-- `fence` (R243): at system scope it waits for peers' responses and discards the controller's peer lines, those too that reads
of its other slice would still bring (R230, R254, R415). -/
def execFence (c : BitVec 2) (s : State) : Out :=
  issue s (fun gid sl g _ =>
    let s := (s.settleLoads gid sl).release gid sl c.toNat
    let pending := sl == .a && (match s.grp? gid with | some g => g.pendingFill | none => false)
    if pending || (c.toNat == 3 && !s.peerQuiet gid sl.src) then .next (s.stallOn gid sl .peer)
    else
      let s := if c.toNat == 3 then s.dropLines (fun k => k == g.ctl) (fun _ _ => true) else s
      s.done gid sl)

/-- The part of the aligned word of 4 bytes that holds a byte. -/
def Part.word (p : Part) : Part :=
  let k := p.va % 4
  let down : MemLoc := match p.loc with
    | .vault a => .vault (a - k)
    | .host a => .host (a - k)
    | .peer i a => .peer i (a - k)
    | .spad a => .spad (a - k)
  { p with va := p.va - k, n := 4, loc := down }

/-- `prom` (R244, R261): every pending store of the module is performed, so whatever precedes the latest release to the
word is. Its scope makes no difference then (log 8). A poisoned word makes no
observation of poison (log 44). -/
def execProm (a : Reg) (_c : BitVec 2) (s : State) : Out :=
  issue s (fun gid sl _ st =>
    if st.rp a then .next (s.loseControl gid sl)
    else
      ((s.access gid sl (st.rd a).toNat 1 needR false false).bind (fun s parts =>
        ((s.settleLoads gid sl).drainAll).readSlice gid sl (parts.map Part.word))).finish gid sl .peer
        (fun s _ => s.done gid sl))

/-- R245: the value satisfies the wait. -/
def satisfies (v want n : Nat) (eq : Bool) : Bool := (v == want % 2 ^ (8 * n)) == eq

/-- R245: of two waits on one word the one that began earlier is not passed over: it goes on first where it has caught a value, and
where `w` waits for its next read. -/
def State.passedOver (s : State) (w : Waiting) (p : Part) : Bool :=
  s.groups.any (fun h => [Slice.a, Slice.c].any (fun sl =>
    h.mayIssue sl &&
    (match (h.stream sl).waiting with
     | some x => x.order < w.order && (x.caught.isSome || w.ahead.contains x.order) &&
        (match x.what with | .word q _ _ => shareBytes q.loc q.n p.loc p.n | .barrier _ _ => false)
     | none => false)))

/-- The offset of a word of peer memory within another that holds it. -/
def wordWithin (q p : Part) : Option Nat :=
  match q.loc, p.loc with
  | .peer i a, .peer j b => if i == j && b ≤ a && a + q.n ≤ b + p.n then some (a - b) else none
  | _, _ => none

/-- The word of a stalled wait at the place where it lies now: each read is an access of its own, which translates (R374, R377). -/
def State.wordNow (s : State) (h : Group) (sl : Slice) (q : Part) : Option Part :=
  match (s.ctx? h.ctx).map (fun cx => (s.translate (.ctl h.ctl) (h.viewer sl) cx q.va needR).2) with
  | some (.ok l ord) => if ord < 2 then some { q with loc := l, ord := ord } else none
  | _ => none

/-- R245: a read of a word of peer memory by the wait of place `o`, sent as request `sent`, serves every stalled wait of its binding on a
word that lies within it now and that has not read since then, so that no wait finds what is older than its own latest read, or than what
it knew when it began (R250, R252, R259); that wait has made its read, for those that waited for it. -/
def State.shareRead (s : State) (b : Binding) (p : Part) (v o sent : Nat) : State :=
  match p.loc with
  | .peer _ _ =>
    let serve (h : Group) (sl : Slice) : Stream :=
      let st := h.stream sl
      { st with waiting := st.waiting.map (fun x =>
          let x := { x with ahead := x.ahead.erase o }
          match x.what with
          | .word q want eq =>
            (match (s.wordNow h sl q).bind (fun q => wordWithin q p) with
             | some k =>
               let u := v / 2 ^ (8 * k) % 2 ^ (8 * q.n)
               if h.bind == b && x.caught.isNone && (x.order == o || x.since ≤ sent) && satisfies u want q.n eq then { x with caught := some u } else x
             | none => x)
          | .barrier _ _ => x) }
    { s with groups := s.groups.map (fun h => { h with a := serve h .a, c := serve h .c }) }
  | _ => s

/-- The places of the stalled waits on bytes of a word of peer memory, before place `o`, that the read of it, sent as request `sent`, does
not serve: each reads once more before the wait of place `o` goes on (R245). -/
def State.mustRead (s : State) (b : Binding) (p : Part) (o sent : Nat) : List Nat :=
  match p.loc with
  | .peer _ _ =>
    s.groups.flatMap (fun h => [h.a, h.c].filterMap (fun st =>
      match st.waiting with
      | some { order := k, what := .word q _ _, caught := none, since := t, .. } =>
        if k < o && shareBytes q.loc q.n p.loc p.n && !(h.bind == b && (wordWithin q p).isSome && t ≤ sent) then some k else none
      | _ => none))
  | _ => []

/-- The stalled wait goes on after the reads of the waits of those places. -/
def Stream.awaits (st : Stream) (ahead : List Nat) : Stream := { st with waiting := st.waiting.map (fun x => { x with ahead := ahead }) }

/-- The wait completes with the value a read found at a part; a read that it has out is given up, and its controller `ctl` keeps no
older copy of the word (R250). -/
def State.endWait (s : State) (gid : Nat) (sl : Slice) (ctl : Nat) (p : Part) (d : Reg) (v : Nat) : Out :=
  ((s.dropOwn ctl p.loc p.n).mapStream gid sl (fun st => { st.wr d (BitVec.ofNat 64 v) false with reqs := [], parts := [] })).done gid sl

/-- `wait.eq` and `wait.ne` (R245): a value caught since it stalled, or one read of the word; unsatisfied, the instruction stays
stalled. A poisoned comparand loses the context before any check of the address (log 44). -/
def waitWord (d a b : Reg) (z : BitVec 1) (eq : Bool) (s : State) : Out :=
  issue s (fun gid sl g st =>
    let n := if z = 0 then 4 else 8
    let want := (st.rd b).toNat
    if st.rp a || st.rp b then .next (s.loseControl gid sl)
    else
      match st.waiting with
      | some { order := o, what := .word p _ _, caught := some v, ahead := ahead, since := t } =>
        if s.passedOver { order := o, what := .word p want eq, caught := none, ahead := ahead, since := t } p then .next (s.stallOn gid sl .wait)
        else s.endWait gid sl g.ctl p d v
      | _ =>
        match s.access gid sl (st.rd a).toNat n needR true false with
        | .trap s t => s.trapNow gid sl t
        | .lost s => .next s
        | .wait s => .next (s.stallOn gid sl .wait)
        | .ok s parts =>
          ((s.settleLoads gid sl).readSlice gid sl parts).finish gid sl .wait (fun s r =>
            match parts with
            | p :: _ =>
              let w : WaitFor := .word p want eq
              let mine := (st.waiting.map Waiting.order).getD s.nextWait
              let sent := st.reqs.headD s.nextTag
              if r.2 then
                .next (s.loseContext g.ctx { reason := 2, src := sl.src, gid := some gid, place := some p.loc, va := (st.rd a).toNat })
              else
                let s := s.shareRead g.bind p (leNat r.1) mine sent
                let met := satisfies (leNat r.1) want n eq
                let ahead := if met then s.mustRead g.bind p mine sent else []
                if met && !s.passedOver { order := mine, what := w, caught := none, ahead := ahead, since := s.nextTag } p then
                  s.endWait gid sl g.ctl p d (leNat r.1)
                else .next (((s.beginWait gid sl .wait w).mapStream gid sl (fun st => st.awaits ahead)).shareRead g.bind p (leNat r.1) mine sent)
            | [] => .next s))

/-- `wait.eq` (R245). -/
def execWaitEq (d a b : Reg) (_c : BitVec 2) (z : BitVec 1) (s : State) : Out := waitWord d a b z true s

/-- `wait.ne` (R245). -/
def execWaitNe (d a b : Reg) (_c : BitVec 2) (z : BitVec 1) (s : State) : Out := waitWord d a b z false s

/-- WAIT_REREAD (R245): a stalled wait reads again. -/
def execWaitReread (grp : Nat) (sl : Slice) (s : State) : Out :=
  match s.grp? grp with
  | none => .next s
  | some g =>
    let st := g.stream sl
    if st.stall == some .wait && g.mayIssue sl then
      let s := { s.unwait (grp, sl.src) with cur := some (grp, sl) }
      match st.pass with
      | some m =>
        match lineInstr m.words (st.pc.toNat % 32 / 4) with
        | .waitEq d a b _ z => waitWord d a b z true s
        | .waitNe d a b _ z => waitWord d a b z false s
        | _ => .next s
      | none => .next s
    else .next s

/-- A clean copy of a vault sector in its home's stack cache (R246). -/
def State.bringSector (s : State) (sector : Nat) : State := s.cacheSector sector false

/-- The stack cache's copy of a vault sector is written back and, if `drop`, discarded (R246). -/
def State.cleanSector (s : State) (sector : Nat) (drop : Bool) : State :=
  let k := vaultStack sector
  let t := s.stack k
  let off := ~~~sectorBit sector
  s.setStack k { t with cache := t.cache.map (fun c =>
    if c.line == sectorLine sector then { c with dirty := c.dirty &&& off, held := if drop then c.held &&& off else c.held } else c) }

/-- `pf` (R246): a hint; dropped where it would fault, where its base register is poisoned, or where its walk meets a poisoned
page-table entry (log 48). Lines of a UO page of a peer come into the controller's scalar data cache, for which the instruction
waits; other memory has no copy that a program sees. -/
def execPf (a : Reg) (s : State) : Out :=
  issue s (fun gid sl _ st =>
    if st.rp a then s.done gid sl
    else
      match s.access gid sl (st.rd a).toNat 1 needR false true with
      | .ok s [p] =>
        (match p.loc with
         | .vault x => (s.bringSector (x / 256 * 256)).done gid sl
         | .peer id x =>
           if p.ord == 2 then
             let block : Part := { va := p.va / 256 * 256, n := 256, loc := .peer id (x / 256 * 256), ord := 2 }
             (s.readSlice gid sl [if st.reqs.isEmpty then block else p]).finish gid sl .peer (fun s _ => s.done gid sl)
           else s.done gid sl
         | _ => s.done gid sl)
      | _ => s.done gid sl)

/-- R246, R248: a row controller lies in the instance of a scope that holds a group's agents. -/
def ctlWithin (g : Group) (scope k : Nat) : Bool :=
  match scope with
  | 0 => k == g.ctl
  | 1 => k / 16 == g.stack0
  | _ => true

/-- `cln` and `inv` (R246): timing only for vault and host memory; `inv` removes every copy of a peer's lines in the sector
that the controllers of the scope hold, and those that reads which are out would bring them. -/
def cacheControl (a : Reg) (c : BitVec 2) (drop : Bool) (s : State) : Out :=
  issue s (fun gid sl g st =>
    if st.rp a then .next (s.loseControl gid sl)
    else
      (s.access gid sl (st.rd a).toNat 1 needR false true).finish gid sl .peer (fun s parts =>
        (parts.foldl (fun s p =>
          match p.loc with
          | .vault x => if 2 ≤ c.toNat then s.cleanSector (x / 256 * 256) drop else s
          | .peer id x =>
            if drop then s.dropLines (ctlWithin g c.toNat) (fun i line => i == id && line / 256 == x / 256) else s
          | _ => s) s).done gid sl))

/-- `cln` (R246). -/
def execCln (a : Reg) (c : BitVec 2) (s : State) : Out := cacheControl a c false s

/-- `inv` (R246). -/
def execInv (a : Reg) (c : BitVec 2) (s : State) : Out := cacheControl a c true s

/-- STORE_BUFFER_DRAIN (R228, R251): the k-th store of a slice's buffer leaves it; one that overlaps an earlier store takes the
earlier ones with it (R250). -/
def execStoreBufferDrain (grp : Nat) (sl : Slice) (k : Nat) (s : State) : Out :=
  match s.grp? grp with
  | none => .next s
  | some g =>
    let sb := (g.stream sl).sb
    match sb[k]? with
    | none => .next s
    | some e =>
      if (sb.take k).any (fun f => overlap e.loc e.bytes.length f.loc f.bytes.length) then
        .next (s.drainWhere grp sl (fun f => f.seq == e.seq))
      else .next ((s.performEntry grp e).dropEntry grp sl e.seq)

/-- SCALAR_CACHE_REPLACEMENT (R230): the k-th copy of a peer's line is replaced. -/
def execScalarCacheReplacement (k : Nat) (s : State) : Out := .next { s with peerLines := s.peerLines.eraseIdx k }

/-- LEASE_EXPIRY (R373): the lease of the k-th entry runs out. -/
def execLeaseExpiry (k : Nat) (s : State) : Out :=
  .next { s with tlb := s.tlb.mapIdx (fun j e => if j == k then { e with lease := 0 } else e) }

/-- TRANSLATION_ENTRY_DROP (R373): the device drops the k-th entry. -/
def execTranslationEntryDrop (k : Nat) (s : State) : Out := .next { s with tlb := s.tlb.eraseIdx k }

end Sys2Proof.Machine
end

