-- ==== Sys2Proof/Machine/Scalar.lean ====
section
/-! DEFINITION. Scalar arithmetic, bit fields and the bit network (chapter 05: R130 to R147). -/

namespace Sys2Proof.Machine

open Sys2Proof

/-- 1 or 0 as a register value. -/
def boolWord (b : Bool) : Word := if b then 1 else 0

/-- R135: the quotient of `div`. -/
def sdivQ (x y : Word) : Word :=
  if y = 0 then BitVec.allOnes 64
  else if x = BitVec.intMin 64 && y = BitVec.allOnes 64 then BitVec.intMin 64
  else BitVec.ofInt 64 (x.toInt.tdiv y.toInt)

/-- R135: the remainder of `rem`, with the sign of the dividend. -/
def sdivR (x y : Word) : Word :=
  if y = 0 then x
  else if x = BitVec.intMin 64 && y = BitVec.allOnes 64 then 0
  else BitVec.ofInt 64 (x.toInt.tmod y.toInt)

/-- An instruction of two source registers (R131, R134). -/
def alu (d a b : Reg) (f : Word → Word → Word) (s : State) : Out :=
  issueReg d (fun st => f (st.rd a) (st.rd b)) (fun st => st.rp a || st.rp b) s

/-- An instruction of one source register and an immediate (R136). -/
def aluk (d a : Reg) (i : Word) (f : Word → Word → Word) (s : State) : Out :=
  issueReg d (fun st => f (st.rd a) i) (fun st => st.rp a) s

/-- An instruction of one source register. -/
def alu1 (d a : Reg) (f : Word → Word) (s : State) : Out := issueReg d (fun st => f (st.rd a)) (fun st => st.rp a) s

/-- R139: the field of `v` at `off`, and its width. -/
def fieldExt (v : Word) (off wid : Nat) : Nat × Nat :=
  if wid = 0 || 64 ≤ off then (0, 0) else (v.toNat / 2 ^ off % 2 ^ min wid 64, min wid 64)

/-- R139: `d` with the low bits of `x` in the field. -/
def fieldIns (d x : Word) (off wid : Nat) : Word :=
  if wid = 0 || 64 ≤ off then d
  else
    let m : Word := BitVec.ofNat 64 ((2 ^ min wid (64 - off) - 1) * 2 ^ off)
    (d &&& ~~~m) ||| ((x <<< off) &&& m)

/-- R139: the field as a number with the sign bit w - 1. -/
def signField (f w : Nat) : Word :=
  if w = 0 then 0
  else if 64 ≤ w then BitVec.ofNat 64 f
  else if f < 2 ^ (w - 1) then BitVec.ofNat 64 f else BitVec.ofInt 64 ((f : Int) - 2 ^ w)

def fieldZero (v : Word) (off wid : Nat) : Word := BitVec.ofNat 64 (fieldExt v off wid).1
def fieldSign (v : Word) (off wid : Nat) : Word := signField (fieldExt v off wid).1 (fieldExt v off wid).2

/-- R143: the number of leading zero bits among the low `n`. -/
def clzIn (x : Word) : Nat → Nat
  | 0 => 0
  | n + 1 => if x.getLsbD n then 0 else 1 + clzIn x n

/-- R143: the number of trailing zero bits from bit `k`, `n` bits left. -/
def ctzIn (x : Word) (k : Nat) : Nat → Nat
  | 0 => 0
  | n + 1 => if x.getLsbD k then 0 else 1 + ctzIn x (k + 1) n

/-- R143: the number of one bits among the low `n`. -/
def popIn (x : Word) : Nat → Nat
  | 0 => 0
  | n + 1 => (if x.getLsbD n then 1 else 0) + popIn x n

/-- A value made of 64 chosen bits. -/
def bitsWord (f : Nat → Bool) : Word :=
  BitVec.ofNat 64 ((List.range 64).foldr (fun k v => (if f k then 1 else 0) + 2 * v) 0)

/-- R143: bit k is bit 63 - k. -/
def brevWord (x : Word) : Word := bitsWord (fun k => x.getLsbD (63 - k))

/-- R143: byte k is byte 7 - k. -/
def bswapWord (x : Word) : Word := BitVec.ofNat 64 (leNat (wordBytes x).reverse)

/-- `add` (R134). -/
def execAdd (d a b : Reg) (s : State) : Out := alu d a b (fun x y => x + y) s

/-- `sub` (R134). -/
def execSub (d a b : Reg) (s : State) : Out := alu d a b (fun x y => x - y) s

/-- `mul` (R134). -/
def execMul (d a b : Reg) (s : State) : Out := alu d a b (fun x y => x * y) s

/-- `mulh` (R134). -/
def execMulh (d a b : Reg) (s : State) : Out := alu d a b (fun x y => BitVec.ofInt 64 (x.toInt * y.toInt / 2 ^ 64)) s

/-- `mulhn` (R134). -/
def execMulhn (d a b : Reg) (s : State) : Out := alu d a b (fun x y => BitVec.ofNat 64 (x.toNat * y.toNat / 2 ^ 64)) s

/-- `div` (R134, R135). -/
def execDiv (d a b : Reg) (s : State) : Out := alu d a b (fun x y => sdivQ x y) s

/-- `divn` (R134, R135). -/
def execDivn (d a b : Reg) (s : State) : Out := alu d a b (fun x y => if y = 0 then BitVec.allOnes 64 else x / y) s

/-- `rem` (R134, R135). -/
def execRem (d a b : Reg) (s : State) : Out := alu d a b (fun x y => sdivR x y) s

/-- `remn` (R134, R135). -/
def execRemn (d a b : Reg) (s : State) : Out := alu d a b (fun x y => if y = 0 then x else x % y) s

/-- `and` (R134). -/
def execAnd (d a b : Reg) (s : State) : Out := alu d a b (fun x y => x &&& y) s

/-- `or` (R134). -/
def execOr (d a b : Reg) (s : State) : Out := alu d a b (fun x y => x ||| y) s

/-- `xor` (R134). -/
def execXor (d a b : Reg) (s : State) : Out := alu d a b (fun x y => x ^^^ y) s

/-- `andn` (R134). -/
def execAndn (d a b : Reg) (s : State) : Out := alu d a b (fun x y => x &&& ~~~y) s

/-- `orn` (R134). -/
def execOrn (d a b : Reg) (s : State) : Out := alu d a b (fun x y => x ||| ~~~y) s

/-- `sll` (R134). -/
def execSll (d a b : Reg) (s : State) : Out := alu d a b (fun x y => x <<< (y.toNat % 64)) s

/-- `srl` (R134). -/
def execSrl (d a b : Reg) (s : State) : Out := alu d a b (fun x y => x >>> (y.toNat % 64)) s

/-- `sra` (R134). -/
def execSra (d a b : Reg) (s : State) : Out := alu d a b (fun x y => x.sshiftRight (y.toNat % 64)) s

/-- `slt` (R134). -/
def execSlt (d a b : Reg) (s : State) : Out := alu d a b (fun x y => boolWord (x.slt y)) s

/-- `sltn` (R134). -/
def execSltn (d a b : Reg) (s : State) : Out := alu d a b (fun x y => boolWord (x.ult y)) s

/-- `min` (R134). -/
def execMin (d a b : Reg) (s : State) : Out := alu d a b (fun x y => if x.sle y then x else y) s

/-- `max` (R134). -/
def execMax (d a b : Reg) (s : State) : Out := alu d a b (fun x y => if y.sle x then x else y) s

/-- `minn` (R134). -/
def execMinn (d a b : Reg) (s : State) : Out := alu d a b (fun x y => if x.ule y then x else y) s

/-- `maxn` (R134). -/
def execMaxn (d a b : Reg) (s : State) : Out := alu d a b (fun x y => if y.ule x then x else y) s

/-- `sel` (R134): the old value of gd chooses. -/
def execSel (d a b : Reg) (s : State) : Out :=
  issueReg d (fun st => if st.rd d = 0 then st.rd b else st.rd a) (fun st => st.rp a || st.rp b || st.rp d) s

/-- `addi` (R136). -/
def execAddi (d a : Reg) (i : BitVec 12) (s : State) : Out := aluk d a (i.signExtend 64) (fun x y => x + y) s

/-- `andi` (R136). -/
def execAndi (d a : Reg) (i : BitVec 12) (s : State) : Out := aluk d a (i.setWidth 64) (fun x y => x &&& y) s

/-- `ori` (R136). -/
def execOri (d a : Reg) (i : BitVec 12) (s : State) : Out := aluk d a (i.setWidth 64) (fun x y => x ||| y) s

/-- `xori` (R136). -/
def execXori (d a : Reg) (i : BitVec 12) (s : State) : Out := aluk d a (i.setWidth 64) (fun x y => x ^^^ y) s

/-- `slti` (R136). -/
def execSlti (d a : Reg) (i : BitVec 12) (s : State) : Out := aluk d a (i.signExtend 64) (fun x y => boolWord (x.slt y)) s

/-- `sltni` (R136). -/
def execSltni (d a : Reg) (i : BitVec 12) (s : State) : Out := aluk d a (i.signExtend 64) (fun x y => boolWord (x.ult y)) s

/-- `mini` (R136). -/
def execMini (d a : Reg) (i : BitVec 12) (s : State) : Out := aluk d a (i.signExtend 64) (fun x y => if x.sle y then x else y) s

/-- `maxi` (R136). -/
def execMaxi (d a : Reg) (i : BitVec 12) (s : State) : Out := aluk d a (i.signExtend 64) (fun x y => if y.sle x then x else y) s

/-- `slli` (R136). -/
def execSlli (d a : Reg) (i : BitVec 6) (s : State) : Out := alu1 d a (fun x => x <<< i.toNat) s

/-- `srli` (R136). -/
def execSrli (d a : Reg) (i : BitVec 6) (s : State) : Out := alu1 d a (fun x => x >>> i.toNat) s

/-- `srai` (R136). -/
def execSrai (d a : Reg) (i : BitVec 6) (s : State) : Out := alu1 d a (fun x => x.sshiftRight i.toNat) s
/-- `li16` (R137). -/
def execLi16 (d : Reg) (i : BitVec 16) (s : State) : Out := issueReg d (fun _ => i.signExtend 64) (fun _ => false) s

/-- `ins16` (R138): the poison bit is kept. -/
def execIns16 (d : Reg) (h : BitVec 2) (i : BitVec 16) (s : State) : Out :=
  issueReg d (fun st => fieldIns (st.rd d) (i.setWidth 64) (16 * h.toNat) 16) (fun st => st.rp d) s

/-- `bext` (R140). -/
def execBext (d a : Reg) (o : BitVec 6) (w : BitVec 7) (s : State) : Out :=
  alu1 d a (fun x => fieldZero x o.toNat w.toNat) s

/-- `bexts` (R140). -/
def execBexts (d a : Reg) (o : BitVec 6) (w : BitVec 7) (s : State) : Out :=
  alu1 d a (fun x => fieldSign x o.toNat w.toNat) s

/-- `bins` (R140). -/
def execBins (d a : Reg) (o : BitVec 6) (w : BitVec 7) (s : State) : Out :=
  issueReg d (fun st => fieldIns (st.rd d) (st.rd a) o.toNat w.toNat) (fun st => st.rp a || st.rp d) s

/-- `bextv` (R141). -/
def execBextv (d a b : Reg) (s : State) : Out := alu d a b (fun x y => fieldZero x (wbits y 7 0) (wbits y 15 8)) s

/-- `bextsv` (R141). -/
def execBextsv (d a b : Reg) (s : State) : Out := alu d a b (fun x y => fieldSign x (wbits y 7 0) (wbits y 15 8)) s

/-- `binsv` (R141). -/
def execBinsv (d a b : Reg) (s : State) : Out :=
  issueReg d (fun st => fieldIns (st.rd d) (st.rd a) (wbits (st.rd b) 7 0) (wbits (st.rd b) 15 8))
    (fun st => st.rp a || st.rp b || st.rp d) s

/-- `fsh` (R142). -/
def execFsh (d a b : Reg) (h : BitVec 6) (s : State) : Out :=
  alu d a b (fun x y => BitVec.ofNat 64 ((x.toNat * 2 ^ 64 + y.toNat) / 2 ^ h.toNat)) s

/-- The entries of a pattern slot (R144). -/
def Stream.pattern (st : Stream) (p : BitVec 3) : Vector Byte 64 := st.bp.toList.getD p.toNat identityPattern

/-- R146: result bit k is the source bit that entry k names. -/
def netWord (pat : Vector Byte 64) (x y : Word) : Word :=
  bitsWord (fun k =>
    let e := (pat.toList.getD k 0).toNat % 128
    if e < 64 then y.getLsbD e else x.getLsbD (e - 64))

/-- R144: some entry is poisoned. -/
def netPoison (pat : Vector Byte 64) : Bool := pat.toList.any (fun e => e.getLsbD 7)

/-- `bnet` (R146). -/
def execBnet (d a b : Reg) (p : BitVec 3) (s : State) : Out :=
  issueReg d (fun st => netWord (st.pattern p) (st.rd a) (st.rd b))
    (fun st => st.rp a || st.rp b || netPoison (st.pattern p)) s

/-- R145: the slot with the masked entries of a step written. -/
def netLoad (pat : Vector Byte 64) (x mask : Word) (step : Nat) (poison : Bool) : Vector Byte 64 :=
  pat.mapFinIdx (fun k e _ =>
    let j := k - 8 * step
    if 8 * step ≤ k && j < 8 && mask.getLsbD j then
      BitVec.ofNat 8 (wbits x (8 * j + 6) (8 * j) + (if poison then 128 else 0))
    else e)

/-- `bnld` (R145). -/
def execBnld (a b : Reg) (p h : BitVec 3) (s : State) : Out :=
  issue s (fun gid sl _ st =>
    let pat := netLoad (st.pattern p) (st.rd a) (st.rd b) h.toNat (st.rp a || st.rp b)
    (s.setStream gid sl { st with bp := st.bp.set p.toNat pat p.isLt }).done gid sl)

/-- `clz` (R143). -/
def execClz (d a : Reg) (s : State) : Out := alu1 d a (fun x => BitVec.ofNat 64 (clzIn x 64)) s

/-- `ctz` (R143). -/
def execCtz (d a : Reg) (s : State) : Out := alu1 d a (fun x => BitVec.ofNat 64 (ctzIn x 0 64)) s

/-- `popc` (R143). -/
def execPopc (d a : Reg) (s : State) : Out := alu1 d a (fun x => BitVec.ofNat 64 (popIn x 64)) s

/-- `brev` (R143). -/
def execBrev (d a : Reg) (s : State) : Out := alu1 d a brevWord s

/-- `bswap` (R143). -/
def execBswap (d a : Reg) (s : State) : Out := alu1 d a bswapWord s

/-- `lea` (R143). -/
def execLea (d a b : Reg) (h : BitVec 2) (s : State) : Out := alu d a b (fun x y => x + (y <<< h.toNat)) s

end Sys2Proof.Machine
end

