-- ==== Sys2Proof/Machine/Dispatch.lean ====
section
/-! DEFINITION. One arm per row of the opcode table, in the table's order. -/

namespace Sys2Proof.Machine

open Sys2Proof

/-- The meaning of an instruction of the issuing stream, or of an event. -/
def exec (i : Instr) (s : State) : Host.Outcome State Fault Refusal :=
  match i with
  | .nop => Sys2Proof.Machine.execNop s
  | .join => Sys2Proof.Machine.execJoin s
  | .yieldSlice => Sys2Proof.Machine.execYieldSlice s
  | .trapSw a => Sys2Proof.Machine.execTrapSw a s
  | .chkErr d => Sys2Proof.Machine.execChkErr d s
  | .rdcr d n => Sys2Proof.Machine.execRdcr d n s
  | .wrcr a n => Sys2Proof.Machine.execWrcr a n s
  | .rdcnt d n => Sys2Proof.Machine.execRdcnt d n s
  | .stepb => Sys2Proof.Machine.execStepb s
  | .grpid d => Sys2Proof.Machine.execGrpid d s
  | .coresid d => Sys2Proof.Machine.execCoresid d s
  | .brk => Sys2Proof.Machine.execBrk s
  | .ifence => Sys2Proof.Machine.execIfence s
  | .add d a b => Sys2Proof.Machine.execAdd d a b s
  | .sub d a b => Sys2Proof.Machine.execSub d a b s
  | .mul d a b => Sys2Proof.Machine.execMul d a b s
  | .mulh d a b => Sys2Proof.Machine.execMulh d a b s
  | .mulhn d a b => Sys2Proof.Machine.execMulhn d a b s
  | .div d a b => Sys2Proof.Machine.execDiv d a b s
  | .divn d a b => Sys2Proof.Machine.execDivn d a b s
  | .rem d a b => Sys2Proof.Machine.execRem d a b s
  | .remn d a b => Sys2Proof.Machine.execRemn d a b s
  | .and d a b => Sys2Proof.Machine.execAnd d a b s
  | .or d a b => Sys2Proof.Machine.execOr d a b s
  | .xor d a b => Sys2Proof.Machine.execXor d a b s
  | .andn d a b => Sys2Proof.Machine.execAndn d a b s
  | .orn d a b => Sys2Proof.Machine.execOrn d a b s
  | .sll d a b => Sys2Proof.Machine.execSll d a b s
  | .srl d a b => Sys2Proof.Machine.execSrl d a b s
  | .sra d a b => Sys2Proof.Machine.execSra d a b s
  | .slt d a b => Sys2Proof.Machine.execSlt d a b s
  | .sltn d a b => Sys2Proof.Machine.execSltn d a b s
  | .min d a b => Sys2Proof.Machine.execMin d a b s
  | .max d a b => Sys2Proof.Machine.execMax d a b s
  | .minn d a b => Sys2Proof.Machine.execMinn d a b s
  | .maxn d a b => Sys2Proof.Machine.execMaxn d a b s
  | .sel d a b => Sys2Proof.Machine.execSel d a b s
  | .addi d a imm => Sys2Proof.Machine.execAddi d a imm s
  | .andi d a imm => Sys2Proof.Machine.execAndi d a imm s
  | .ori d a imm => Sys2Proof.Machine.execOri d a imm s
  | .xori d a imm => Sys2Proof.Machine.execXori d a imm s
  | .slti d a imm => Sys2Proof.Machine.execSlti d a imm s
  | .sltni d a imm => Sys2Proof.Machine.execSltni d a imm s
  | .slli d a imm => Sys2Proof.Machine.execSlli d a imm s
  | .srli d a imm => Sys2Proof.Machine.execSrli d a imm s
  | .srai d a imm => Sys2Proof.Machine.execSrai d a imm s
  | .mini d a imm => Sys2Proof.Machine.execMini d a imm s
  | .maxi d a imm => Sys2Proof.Machine.execMaxi d a imm s
  | .li16 d imm => Sys2Proof.Machine.execLi16 d imm s
  | .ins16 d h imm => Sys2Proof.Machine.execIns16 d h imm s
  | .bext d a o w => Sys2Proof.Machine.execBext d a o w s
  | .bexts d a o w => Sys2Proof.Machine.execBexts d a o w s
  | .bins d a o w => Sys2Proof.Machine.execBins d a o w s
  | .bextv d a b => Sys2Proof.Machine.execBextv d a b s
  | .bextsv d a b => Sys2Proof.Machine.execBextsv d a b s
  | .binsv d a b => Sys2Proof.Machine.execBinsv d a b s
  | .fsh d a b x => Sys2Proof.Machine.execFsh d a b x s
  | .bnet d a b p => Sys2Proof.Machine.execBnet d a b p s
  | .bnld a b p x => Sys2Proof.Machine.execBnld a b p x s
  | .clz d a => Sys2Proof.Machine.execClz d a s
  | .ctz d a => Sys2Proof.Machine.execCtz d a s
  | .popc d a => Sys2Proof.Machine.execPopc d a s
  | .brev d a => Sys2Proof.Machine.execBrev d a s
  | .bswap d a => Sys2Proof.Machine.execBswap d a s
  | .lea d a b x => Sys2Proof.Machine.execLea d a b x s
  | .ldB d a imm => Sys2Proof.Machine.execLdB d a imm s
  | .ldBz d a imm => Sys2Proof.Machine.execLdBz d a imm s
  | .ldH d a imm => Sys2Proof.Machine.execLdH d a imm s
  | .ldHz d a imm => Sys2Proof.Machine.execLdHz d a imm s
  | .ldW d a imm => Sys2Proof.Machine.execLdW d a imm s
  | .ldWz d a imm => Sys2Proof.Machine.execLdWz d a imm s
  | .ldD d a imm => Sys2Proof.Machine.execLdD d a imm s
  | .stB x a imm => Sys2Proof.Machine.execStB x a imm s
  | .stH x a imm => Sys2Proof.Machine.execStH x a imm s
  | .stW x a imm => Sys2Proof.Machine.execStW x a imm s
  | .stD x a imm => Sys2Proof.Machine.execStD x a imm s
  | .ldAcq d a z c imm => Sys2Proof.Machine.execLdAcq d a z c imm s
  | .stRel x a z c imm => Sys2Proof.Machine.execStRel x a z c imm s
  | .ldsB d a imm => Sys2Proof.Machine.execLdsB d a imm s
  | .ldsBz d a imm => Sys2Proof.Machine.execLdsBz d a imm s
  | .ldsH d a imm => Sys2Proof.Machine.execLdsH d a imm s
  | .ldsHz d a imm => Sys2Proof.Machine.execLdsHz d a imm s
  | .ldsW d a imm => Sys2Proof.Machine.execLdsW d a imm s
  | .ldsWz d a imm => Sys2Proof.Machine.execLdsWz d a imm s
  | .ldsD d a imm => Sys2Proof.Machine.execLdsD d a imm s
  | .stsB x a imm => Sys2Proof.Machine.execStsB x a imm s
  | .stsH x a imm => Sys2Proof.Machine.execStsH x a imm s
  | .stsW x a imm => Sys2Proof.Machine.execStsW x a imm s
  | .stsD x a imm => Sys2Proof.Machine.execStsD x a imm s
  | .amoAdd d a b z r c => Sys2Proof.Machine.execAmoAdd d a b z r c s
  | .amoAnd d a b z r c => Sys2Proof.Machine.execAmoAnd d a b z r c s
  | .amoOr d a b z r c => Sys2Proof.Machine.execAmoOr d a b z r c s
  | .amoXor d a b z r c => Sys2Proof.Machine.execAmoXor d a b z r c s
  | .amoMin d a b z r c => Sys2Proof.Machine.execAmoMin d a b z r c s
  | .amoMax d a b z r c => Sys2Proof.Machine.execAmoMax d a b z r c s
  | .amoMinn d a b z r c => Sys2Proof.Machine.execAmoMinn d a b z r c s
  | .amoMaxn d a b z r c => Sys2Proof.Machine.execAmoMaxn d a b z r c s
  | .amoSwp d a b z r c => Sys2Proof.Machine.execAmoSwp d a b z r c s
  | .amoCas d a b z r c => Sys2Proof.Machine.execAmoCas d a b z r c s
  | .amoFadd d a b z r c => Sys2Proof.Machine.execAmoFadd d a b z r c s
  | .fence c => Sys2Proof.Machine.execFence c s
  | .prom a c => Sys2Proof.Machine.execProm a c s
  | .waitEq d a b c z => Sys2Proof.Machine.execWaitEq d a b c z s
  | .waitNe d a b c z => Sys2Proof.Machine.execWaitNe d a b c z s
  | .pf a => Sys2Proof.Machine.execPf a s
  | .cln a c => Sys2Proof.Machine.execCln a c s
  | .inv a c => Sys2Proof.Machine.execInv a c s
  | .push q a => Sys2Proof.Machine.execPush q a s
  | .pop q d => Sys2Proof.Machine.execPop q d s
  | .peek q d => Sys2Proof.Machine.execPeek q d s
  | .qcnt q d => Sys2Proof.Machine.execQcnt q d s
  | .qdrop q => Sys2Proof.Machine.execQdrop q s
  | .slip => Sys2Proof.Machine.execSlip s
  | .slipCatch => Sys2Proof.Machine.execSlipCatch s
  | .slipset a => Sys2Proof.Machine.execSlipset a s
  | .lq q z a imm => Sys2Proof.Machine.execLq q z a imm s
  | .lqNf q z a imm => Sys2Proof.Machine.execLqNf q z a imm s
  | .beq a b t => Sys2Proof.Machine.execBeq a b t s
  | .bne a b t => Sys2Proof.Machine.execBne a b t s
  | .blt a b t => Sys2Proof.Machine.execBlt a b t s
  | .bge a b t => Sys2Proof.Machine.execBge a b t s
  | .bltn a b t => Sys2Proof.Machine.execBltn a b t s
  | .bgen a b t => Sys2Proof.Machine.execBgen a b t s
  | .bz a t => Sys2Proof.Machine.execBz a t s
  | .bnz a t => Sys2Proof.Machine.execBnz a t s
  | .br t => Sys2Proof.Machine.execBr t s
  | .call t => Sys2Proof.Machine.execCall t s
  | .jr a => Sys2Proof.Machine.execJr a s
  | .bqz q d t => Sys2Proof.Machine.execBqz q d t s
  | .bqnz q d t => Sys2Proof.Machine.execBqnz q d t s
  | .loop c a t => Sys2Proof.Machine.execLoop c a t s
  | .loopi c n t => Sys2Proof.Machine.execLoopi c n t s
  | .spset a imm => Sys2Proof.Machine.execSpset a imm s
  | .spshift imm => Sys2Proof.Machine.execSpshift imm s
  | .spget d => Sys2Proof.Machine.execSpget d s
  | .ml e => Sys2Proof.Machine.execMl e s
  | .mlT e => Sys2Proof.Machine.execMlT e s
  | .mm e => Sys2Proof.Machine.execMm e s
  | .mzero e => Sys2Proof.Machine.execMzero e s
  | .mdrain e => Sys2Proof.Machine.execMdrain e s
  | .mred e => Sys2Proof.Machine.execMred e s
  | .mcfg e => Sys2Proof.Machine.execMcfg e s
  | .mfmt e => Sys2Proof.Machine.execMfmt e s
  | .mchk e => Sys2Proof.Machine.execMchk e s
  | .vadd e => Sys2Proof.Machine.execVadd e s
  | .vsub e => Sys2Proof.Machine.execVsub e s
  | .vmul e => Sys2Proof.Machine.execVmul e s
  | .vfma e => Sys2Proof.Machine.execVfma e s
  | .vmax e => Sys2Proof.Machine.execVmax e s
  | .vmin e => Sys2Proof.Machine.execVmin e s
  | .vabs e => Sys2Proof.Machine.execVabs e s
  | .vneg e => Sys2Proof.Machine.execVneg e s
  | .vexp e => Sys2Proof.Machine.execVexp e s
  | .vlog e => Sys2Proof.Machine.execVlog e s
  | .vrcp e => Sys2Proof.Machine.execVrcp e s
  | .vrsq e => Sys2Proof.Machine.execVrsq e s
  | .vsqrt e => Sys2Proof.Machine.execVsqrt e s
  | .vsin e => Sys2Proof.Machine.execVsin e s
  | .vcos e => Sys2Proof.Machine.execVcos e s
  | .vtanh e => Sys2Proof.Machine.execVtanh e s
  | .vcvt e => Sys2Proof.Machine.execVcvt e s
  | .vcmp e => Sys2Proof.Machine.execVcmp e s
  | .vsel e => Sys2Proof.Machine.execVsel e s
  | .vredsum e => Sys2Proof.Machine.execVredsum e s
  | .vredmax e => Sys2Proof.Machine.execVredmax e s
  | .vargmax e => Sys2Proof.Machine.execVargmax e s
  | .vtopk e => Sys2Proof.Machine.execVtopk e s
  | .vscan e => Sys2Proof.Machine.execVscan e s
  | .vswp2 e => Sys2Proof.Machine.execVswp2 e s
  | .vgath e => Sys2Proof.Machine.execVgath e s
  | .vscat e => Sys2Proof.Machine.execVscat e s
  | .vcopy e => Sys2Proof.Machine.execVcopy e s
  | .vfill e => Sys2Proof.Machine.execVfill e s
  | .vlut e => Sys2Proof.Machine.execVlut e s
  | .vtern e => Sys2Proof.Machine.execVtern e s
  | .vdot8 e => Sys2Proof.Machine.execVdot8 e s
  | .vquant e => Sys2Proof.Machine.execVquant e s
  | .vrand e => Sys2Proof.Machine.execVrand e s
  | .cp e => Sys2Proof.Machine.execCp e s
  | .cpRed e => Sys2Proof.Machine.execCpRed e s
  | .cpBc e => Sys2Proof.Machine.execCpBc e s
  | .semWait x => Sys2Proof.Machine.execSemWait x s
  | .semSig x => Sys2Proof.Machine.execSemSig x s
  | .semSet x a => Sys2Proof.Machine.execSemSet x a s
  | .semCeil x a => Sys2Proof.Machine.execSemCeil x a s
  | .semRd d x => Sys2Proof.Machine.execSemRd d x s
  | .qfence qm => Sys2Proof.Machine.execQfence qm s
  | .tbarInit a b => Sys2Proof.Machine.execTbarInit a b s
  | .tbarExp a b => Sys2Proof.Machine.execTbarExp a b s
  | .tbarWait a b => Sys2Proof.Machine.execTbarWait a b s
  | .kvAlloc d a b => Sys2Proof.Machine.execKvAlloc d a b s
  | .kvFree a => Sys2Proof.Machine.execKvFree a s
  | .firnOpen d a => Sys2Proof.Machine.execFirnOpen d a s
  | .firnBind a => Sys2Proof.Machine.execFirnBind a s
  | .firnUnbind => Sys2Proof.Machine.execFirnUnbind s
  | .firnSeal a b => Sys2Proof.Machine.execFirnSeal a b s
  | .firnDrop a => Sys2Proof.Machine.execFirnDrop a s
  | .rsCkpt a b => Sys2Proof.Machine.execRsCkpt a b s
  | .seqClaim d a p => Sys2Proof.Machine.execSeqClaim d a p s
  | .seqAdv a p => Sys2Proof.Machine.execSeqAdv a p s
  | .seqRel a => Sys2Proof.Machine.execSeqRel a s
  | .launch d => Sys2Proof.Machine.execLaunch d s
  | .walkNext d => Sys2Proof.Machine.execWalkNext d s
  | .nestSet dim nx a b c => Sys2Proof.Machine.execNestSet dim nx a b c s
  | .erep q nx n => Sys2Proof.Machine.execErep q nx n s
  | .lqFill grp q slot => Sys2Proof.Machine.execLqFill grp q slot s
  | .engineCommandStart grp q => Sys2Proof.Machine.execEngineCommandStart grp q s
  | .matrixCommandPerform grp => Sys2Proof.Machine.execMatrixCommandPerform grp s
  | .vectorCommandPerform grp => Sys2Proof.Machine.execVectorCommandPerform grp s
  | .copyBurst grp q => Sys2Proof.Machine.execCopyBurst grp q s
  | .copyPerform grp q => Sys2Proof.Machine.execCopyPerform grp q s
  | .qfencePerform grp q => Sys2Proof.Machine.execQfencePerform grp q s
  | .mredRoundComplete grp => Sys2Proof.Machine.execMredRoundComplete grp s
  | .reductionWatchdog grp => Sys2Proof.Machine.execReductionWatchdog grp s
  | .waitReread grp sl => Sys2Proof.Machine.execWaitReread grp sl s
  | .groupStopComplete grp => Sys2Proof.Machine.execGroupStopComplete grp s
  | .trapRecordWrite ctx => Sys2Proof.Machine.execTrapRecordWrite ctx s
  | .eventWrite => Sys2Proof.Machine.execEventWrite s
  | .leaseExpiry k => Sys2Proof.Machine.execLeaseExpiry k s
  | .cacheWriteback sector evict found => Sys2Proof.Machine.execCacheWriteback sector evict found s
  | .scrub sector found => Sys2Proof.Machine.execScrub sector found s
  | .uncorrectableError holder found => Sys2Proof.Machine.execUncorrectableError holder found s
  | .refresh stack row col => Sys2Proof.Machine.execRefresh stack row col s
  | .powerWindow stack grant => Sys2Proof.Machine.execPowerWindow stack grant s
  | .counterSnapshot stack => Sys2Proof.Machine.execCounterSnapshot stack s
  | .crossingRetry stack row => Sys2Proof.Machine.execCrossingRetry stack row s
  | .moduleFatalError stack edge => Sys2Proof.Machine.execModuleFatalError stack edge s
  | .moduleReset => Sys2Proof.Machine.execModuleReset s
  | .hostPlainAccess tag addr n write => Sys2Proof.Machine.execHostPlainAccess tag addr n write s
  | .hostAcquire tag addr n => Sys2Proof.Machine.execHostAcquire tag addr n s
  | .hostRelease tag addr bytes => Sys2Proof.Machine.execHostRelease tag addr bytes s
  | .hostAtomic tag addr op size operand comparand => Sys2Proof.Machine.execHostAtomic tag addr op size operand comparand s
  | .peerInboundRequest port src addr op => Sys2Proof.Machine.execPeerInboundRequest port src addr op s
  | .peerResponse tag error poisoned bytes => Sys2Proof.Machine.execPeerResponse tag error poisoned bytes s
  | .peerTimeout tag => Sys2Proof.Machine.execPeerTimeout tag s
  | .createCtx => Sys2Proof.Machine.execCreateCtx s
  | .killCtx => Sys2Proof.Machine.execKillCtx s
  | .preemptCtx => Sys2Proof.Machine.execPreemptCtx s
  | .resumeCtx => Sys2Proof.Machine.execResumeCtx s
  | .resumeGroup => Sys2Proof.Machine.execResumeGroup s
  | .unmap => Sys2Proof.Machine.execUnmap s
  | .unmapComplete k => Sys2Proof.Machine.execUnmapComplete k s
  | .pwin => Sys2Proof.Machine.execPwin s
  | .frame => Sys2Proof.Machine.execFrame s
  | .pcfg => Sys2Proof.Machine.execPcfg s
  | .qrel => Sys2Proof.Machine.execQrel s
  | .route => Sys2Proof.Machine.execRoute s
  | .mgmtInvalidRequest => Sys2Proof.Machine.execMgmtInvalidRequest s
  | .bootCmd => Sys2Proof.Machine.execBootCmd s
  | .quoteCmd => Sys2Proof.Machine.execQuoteCmd s
  | .bringupWindowWrite off value => Sys2Proof.Machine.execBringupWindowWrite off value s
  | .packetTake queue => Sys2Proof.Machine.execPacketTake queue s
  | .launchAdmit lid => Sys2Proof.Machine.execLaunchAdmit lid s
  | .preemptionRequest grp => Sys2Proof.Machine.execPreemptionRequest grp s
  | .groupPlacement lid => Sys2Proof.Machine.execGroupPlacement lid s
  | .jobEnd grp => Sys2Proof.Machine.execJobEnd grp s
  | .groupSave grp => Sys2Proof.Machine.execGroupSave grp s
  | .groupResume grp => Sys2Proof.Machine.execGroupResume grp s
  | .calvingRequest lid set => Sys2Proof.Machine.execCalvingRequest lid set s
  | .calve lid set => Sys2Proof.Machine.execCalve lid set s
  | .chainSetAdd lid set => Sys2Proof.Machine.execChainSetAdd lid set s
  | .illegalInstruction w1 w2 => Sys2Proof.Machine.execIllegalInstruction w1 w2 s
  | .storeBufferDrain grp sl k => Sys2Proof.Machine.execStoreBufferDrain grp sl k s
  | .scalarCacheReplacement k => Sys2Proof.Machine.execScalarCacheReplacement k s
  | .translationEntryDrop k => Sys2Proof.Machine.execTranslationEntryDrop k s

end Sys2Proof.Machine
end

