-- ==== Sys2Proof/Machine/Loader.lean ====
section
/-! DEFINITION. A module with one running group whose next turn fetches a given instruction: it stands for a launch that
has been placed (log 7). Context 0 translates virtual page 0 to host memory, readable, writable and executable. -/

namespace Sys2Proof.Machine

open Sys2Proof

/-- The context of the loader: root table in host memory, no queue, no pool, and a sequence table that no address reaches. -/
def loaderCtx : Context :=
  { num := 0,
    desc := { root := 0x10081, lease := 1048576, trapq := 0, lostrec := 0, savebase := 0, imgsize := 1, savecnt := 0,
              spill := 0, squota := 0, tol := 0, interval := 0, lqh := List.replicate 8 0, sqbase := 0x8000000000000000, sqrows := 0,
              ptbase := 0, np := 0, cpbase := 0, cplim := 0 },
    fmt := Vector.replicate 6 0, phasePtr := Vector.replicate 16 0, held := false, started := false, stops := 0, images := [],
    waiting := [], devq := [], spillHead := 0, spilled := [], qerr := [], areas := [] }

/-- The table words (R365, R366) at their host addresses, and the line at host address 0x20000. -/
def loaderHost (m : Memory) (line : List (BitVec 32)) : Memory :=
  let put (m : Memory) (a v : Nat) : Memory := m.write a (leBytes 8 v)
  let m := put (put (put (put m 0x10000 0x11081) 0x11000 0x12081) 0x12000 0x13081) 0x13000 0x200BF
  m.write 0x20000 (line.flatMap (fun w => leBytes 4 w.toNat))

/-- The line: the instruction in lane 1, `nop` after it. -/
def loaderLine (sl : Slice) (w1 w2 : BitVec 32) : List (BitVec 32) :=
  let hdr := if isLong w1 then 0x1010 * sl.tag + 0x300 else 0x110 * sl.tag
  [BitVec.ofNat 32 hdr, w1, if isLong w1 then w2 else 0, 0, 0, 0, 0, 0]

/-- R63: the instructions that only the C-slice may issue. -/
def onlyC (i : Instr) : Bool :=
  match i with
  | .push q _ => 4 ≤ q.toNat
  | .pop q _ => q.toNat < 4
  | .peek q _ => q.toNat < 4
  | .qdrop q => q.toNat < 4
  | .slipCatch => true
  | .spset _ _ => true
  | .spshift _ => true
  | .spget _ => true
  | .firnSeal _ _ => true
  | .erep q _ _ => q.toNat < 2
  | .cp e => e.pred != 0
  | .cpRed e => e.pred != 0
  | .cpBc e => e.pred != 0
  | i =>
    match encode i with
    | w :: _ => (fld w 26 6).toNat == 0x30 || (fld w 26 6).toNat == 0x31
    | [] => false

/-- The state with the instruction of a table word at the PC of a running one-row group, and that stream's turn next. -/
def State.loadWord (s : State) (nbits w : Nat) : State :=
  let v := w % 2 ^ nbits
  let w1 := BitVec.ofNat 32 v
  let w2 := BitVec.ofNat 32 (v / 2 ^ 32)
  let sl : Slice := match decodeWords w1 w2 with
    | .ok i => if onlyC i then .c else .a
    | .error _ => .a
  let gid := s.nextGid
  let g := Group.placed loaderCtx gid 0 0 0 0 1 1 4096 0 0 false 0 { unit := 0, chunk := 0, iter := 0 }
  let g := g.startJob loaderCtx s.codeSeq [] []
  let g := g.setStream sl { g.stream sl with pc := 4 }
  { s with
    agenda := [.stream gid sl]
    host := loaderHost s.host (loaderLine sl w1 w2)
    ctxs := loaderCtx :: s.ctxs.filter (fun c => c.num != 0)
    groups := s.groups ++ [g]
    nextGid := gid + 1 }

end Sys2Proof.Machine
end

