-- ==== Sys2Proof/Machine/Time.lean ====
section
/-! DEFINITION. What follows every turn: waits that have found what they wait for (R245, R301), the passing of time (R33,
R401, R424 to R427), calving that has become due (R355), and the traps of waits that can never end (R117, R303) and of the
watchdog (R166). -/

namespace Sys2Proof.Machine

open Sys2Proof

/-! ### Waits -/

/-- What a read finds now for a stalled wait, where that ends it (R245, R301). It is an access of its own, translated now (R374).
A poisoned word or barrier, and a word that no longer translates, are left to the wait's own next read. -/
def State.findFor (s : State) (g : Group) (sl : Slice) : WaitFor → Option Nat
  | .word p want eq =>
    match (s.ctx? g.ctx).map (fun cx => (s.translate (.ctl g.ctl) (g.viewer sl) cx p.va needR).2) with
    | some (.ok l ord) =>
      (match l with
       | .peer _ _ => none
       | l =>
         let (b, pz) := s.viewRead (g.viewer sl) l p.n
         if ord < 2 && !pz && satisfies (leNat b) want p.n eq then some (leNat b) else none)
    | _ => none
  | .barrier o p =>
    if !g.spadPoisoned o 16 && (tbarOf (g.spadRead o 16)).phase != p then some 0 else none

/-- R245: a stalled wait reads again after every change; the first satisfying value it finds ends it, whatever the word holds
later. -/
def State.catchWait (s : State) (gid : Nat) (sl : Slice) : State :=
  match s.grp? gid with
  | none => s
  | some g =>
    match (g.stream sl).waiting with
    | none => s
    | some w =>
      if w.caught.isSome then s
      else
        match s.findFor g sl w.what with
        | some v => s.mapStream gid sl (fun st => { st with waiting := some { w with caught := some v } })
        | none => s

/-- Every stalled wait of the module. -/
def State.catchWaits (s : State) : State :=
  s.groups.foldl (fun s g => if g.a.waiting.isSome || g.c.waiting.isSome then (s.catchWait g.gid .c).catchWait g.gid .a else s) s

/-! ### Waits without end -/

/-- The instruction at the PC of a stream, in the copy of the line that its pass uses. -/
def Stream.current (st : Stream) : Option Instr :=
  (st.pass.filter (fun m => m.va == st.pc.toNat / 32 * 32)).map (fun m => lineInstr m.words (st.pc.toNat % 32 / 4))

/-- R117, R303: the trap of a stalled stream that can never be released. -/
def Group.stuck (g : Group) (sl : Slice) : Option TrapInfo :=
  let st := g.stream sl
  let left := (g.stream sl.partner).joined
  let empty (q : Nat) : Option TrapInfo := if left && (g.q q).ents.isEmpty then some { cause := 0x11 } else none
  let full (q : Nat) : Option TrapInfo := if left && g.qFull q then some { cause := 0x12 } else none
  if st.stall.isNone || st.skip || st.joined then none
  else
    match st.current with
    | some (.pop q _) => empty q.toNat
    | some (.peek q _) => empty q.toNat
    | some (.bqz q _ _) => empty (4 + q.toNat)
    | some (.bqnz q _ _) => empty (4 + q.toNat)
    | some (.push q _) => full q.toNat
    | some (.lq q _ _ _) => full q.toNat
    | some (.lqNf q _ _ _) => full q.toNat
    | some .slip => if left && g.slipLimit ≤ g.slip then some { cause := 0x12 } else none
    | some .slipCatch => if left && g.slip == 0 then some { cause := 0x11 } else none
    | some (.semWait k) =>
      if g.waitsOn k.toNat sl && g.starved k.toNat (g.waitsOn k.toNat) then some { cause := 0x11, addr := k.toNat } else none
    | _ => none

/-- The traps of a group whose waits can never end, taken together when the condition first holds: the C-slice's is the one
recorded of the streams' (R118). -/
def State.endWaits (s : State) (gid : Nat) : State :=
  match s.grp? gid with
  | none => s
  | some g =>
    if !g.mayBegin then s
    else
      ([Slice.c, Slice.a].foldl (fun s sl =>
        match g.stuck sl with | some t => s.trapStream gid sl t false | none => s) s).raiseHeads g

/-! ### Time -/

/-- The sources that count clk for a group now (R427); a clk in which both slices stall on one source counts once (R426). -/
def Group.clkSources (g : Group) : List Nat :=
  let of (st : Stream) : List Nat :=
    match st.stall with
    | some .slip => [2]
    | some .queueFull => [3]
    | some .queueEmpty => [4]
    | _ => []
  of g.a ++ (of g.c).filter (fun k => !(of g.a).contains k) ++
  (match g.queue .mat with
   | c :: _ => if c.started then [9] else []
   | [] => [])

/-- The clk of a group count until it is stopped or saved: until every part of it has stopped (R349, R379, R401, R426; log 26). -/
def Group.counting (g : Group) : Bool := g.working && !((g.status == .stopping || g.held) && g.quiet)

/-- R166: the watchdog counts while a loop is open, but not clk stalled under R157. -/
def Group.watched (g : Group) (n : Nat) : Group := { g with watch := if g.loopOpen then g.watch + n else 0 }

/-- A free value within bounds. -/
def clamp (lo hi x : Nat) : Nat := min hi (max lo x)

/-- R424: of the `n` clk that pass from place `p` of a window with `out` clk outside its grant so far, those outside a grant, and
those of the window they end in. A whole window has `1024 - grant`, every later one `1024 - next`; where in a window they fall is
free (log 2). -/
def outsideGrant (grant next p out n free : Nat) : Nat × Nat :=
  let bad := 1024 - grant
  if p + n < 1024 then
    let k := clamp (bad - out - (1024 - p - n)) (min n (bad - out)) free
    (k, out + k)
  else
    let q := (p + n) % 1024
    let bad' := 1024 - next
    let k := clamp (bad' - (1024 - q)) (min q bad') free
    (bad - out + ((p + n) / 1024 - 1) * bad' + k, k)

/-- The throttled clk of a stack among `n` clk that pass. -/
def State.throttled (s : State) (k n : Nat) : Nat × Nat :=
  let t := s.stack k
  outsideGrant t.grant t.next (t.clk.toNat % 1024) t.outside n (Config.throttled s.now k)

/-- R157, R424: the clk in which a group's rectangle stalls: those outside the grant of a stack it has cells in, and others. -/
def State.rectangleStall (s : State) (g : Group) (n : Nat) : Nat :=
  let own := (List.range g.w).map (fun k => (s.throttled (g.stack0 + k) n).1)
  min n (own.foldl max (Config.stalled s.now g.gid))

/-- One group's share of the time that passes. -/
def State.tickGroup (s : State) (n : Nat) (g : Group) : State :=
  if g.counting then
    let stall := s.rectangleStall g n
    let s := s.mapGrp g.gid (fun g => ({ g with cycle := g.cycle + BitVec.ofNat 64 n }).watched (n - stall))
    let s := g.clkSources.foldl (fun s src => s.count g.gid src n) s
    s.count g.gid 10 stall
  else s

/-- `Config.elapsed` clk pass (log 2): in cr.cycle of the groups that are neither saved nor stopped, in the counters
whose source counts clk (R426), and in each stack's clk count (R428). -/
def State.passTime (s : State) : State :=
  let n := Config.elapsed s.now
  let s := s.groups.foldl (fun s g => s.tickGroup n g) s
  let s := (List.range 16).foldl (fun s k =>
    let x := s.throttled k n
    let t := s.stack k
    (s.setStack k { t with outside := x.2, grant := if t.clk.toNat % 1024 + n < 1024 then t.grant else t.next }).countStack k 33 x.1 none) s
  { s with now := s.now + 1, stk := s.stk.map (fun t => { t with clk := t.clk + BitVec.ofNat 64 n }) }

/-- What follows a turn: queue heads come to wait (R294), records of losses are written, waits end, time passes. -/
def State.tick (s : State) : State :=
  let s := s.meetHeads.settleLost.catchWaits.settleCalving.countPoison.passTime
  s.groups.foldl (fun s g => (s.endWaits g.gid).watchdog g.gid) s

end Sys2Proof.Machine
end

