-- ==== Sys2Proof/Machine/Step.lean ====
section
/-! DEFINITION. One step: the turn of one agent, and the clk that pass in it. -/

namespace Sys2Proof.Machine

open Sys2Proof

/-- One move of the module: the agent whose turn it is moves (log 1), then time passes. -/
def step (s : State) : Host.Outcome State Fault Refusal :=
  match s.takeTurn.2.openTurn s.takeTurn.1 with
  | .idle t => .next t.tick
  | .run t i =>
    match exec i t with
    | .next u => .next u.tick
    | .fault f => .fault f
    | .refused r => .refused r

/-- The state with one instruction, given by its table word, where the next step runs it (log 7). -/
def State.withFetchWord (s : State) (nbits w : Nat) : State := s.loadWord nbits w

end Sys2Proof.Machine
end

