-- ==== Sys2Proof/Safety.lean ====
section
/-! DEFINITION. What counts as a sound state of the module, and the terms that statements use: the issuing stream, what
an instruction leaves alone, and which registers and bytes the plain families write. -/

namespace Sys2Proof.Machine

open Sys2Proof

/-- Every memory of the module is in canonical form: vault, host memory and every group's scratchpad. -/
def State.memoriesWf (s : State) : Bool :=
  s.vault.wf && s.host.wf && s.groups.all (fun g => g.spad.wf)

/-- The stream `sl` of group `gid`, whose record is `g`, issues now (R118, R379). -/
def Issuing (s : State) (gid : Nat) (sl : Slice) (g : Group) : Prop :=
  s.cur = some (gid, sl) ∧ s.grp? gid = some g ∧ g.mayIssue sl = true

/-- The instruction is complete and has written `v`, with poison bit `p`, to `d`; the stream goes on (R123, R42). -/
def wrote (s : State) (gid : Nat) (sl : Slice) (d : Reg) (v : Word) (p : Bool) : Out :=
  .next ((s.mapStream gid sl (fun st => st.wr d v p)).advance gid sl)

/-- The stream trapped at the instruction, which had no effect (R118, R379). -/
def trapped (s : State) (gid : Nat) (sl : Slice) (t : TrapInfo) : Out := .next (s.trapStream gid sl t false)

/-! ### What an instruction leaves alone -/

/-- Registers, poison bits and pattern slots of a slice are the same, but for register `d`. -/
def Stream.sameBut (x y : Stream) (d : Reg) : Prop :=
  (∀ r : Reg, r ≠ d → y.rd r = x.rd r ∧ y.rp r = x.rp r) ∧ y.bp = x.bp ∧ y.joined = x.joined

/-- Registers, poison bits and pattern slots of a slice are the same. -/
def Stream.same (x y : Stream) : Prop := y.g = x.g ∧ y.p = x.p ∧ y.bp = x.bp ∧ y.joined = x.joined

/-- VALUE and CEIL of the semaphores. -/
def Group.semValues (g : Group) : List (Nat × Nat) := g.sems.toList.map (fun x => (x.value, x.ceil))

/-- The control registers of R401 and the chain configuration are the same, but for the flags and sticky bits. -/
def Group.sameControl (g h : Group) : Prop :=
  h.round = g.round ∧ h.slipLim = g.slipLim ∧ h.tol = g.tol ∧ h.firn = g.firn ∧ h.cycle = g.cycle ∧ h.cfg = g.cfg ∧
  h.fmt = g.fmt ∧ h.prio = g.prio

/-- The stage predicates, slip counter, nest sets and semaphores are the same. -/
def Group.sameShared (g h : Group) : Prop :=
  h.sp = g.sp ∧ h.slip = g.slip ∧ h.nests = g.nests ∧ h.semValues = g.semValues

/-- The engine queues and what the engines hold are the same. -/
def Group.sameEngines (g h : Group) : Prop :=
  h.eq = g.eq ∧ h.active = g.active ∧ h.shadow = g.shadow ∧ h.acc = g.acc ∧ h.mchk = g.mchk ∧ h.loop = g.loop

/-- The forward and back queues, the flags and the sticky bits are the same. -/
def Group.sameFlow (g h : Group) : Prop := h.qs = g.qs ∧ h.fflags = g.fflags ∧ h.chk = g.chk

/-- No byte of vault, host memory or the group's scratchpad, as performed, has changed. -/
def sameMemory (s t : State) (g h : Group) : Prop :=
  (∀ l : MemLoc, t.baseByte l = s.baseByte l) ∧ (∀ o : Nat, h.spad.get o = g.spad.get o) ∧
  t.vaultPoison = s.vaultPoison ∧ t.hostPoison = s.hostPoison ∧ h.spadPoison = g.spadPoison

/-! ### The plain families -/

/-- The destination of an instruction that writes one general register from registers and the group's own state, and
does nothing else. -/
def regDest : Instr → Option Reg
  | .add d _ _ => some d
  | .sub d _ _ => some d
  | .mul d _ _ => some d
  | .mulh d _ _ => some d
  | .mulhn d _ _ => some d
  | .div d _ _ => some d
  | .divn d _ _ => some d
  | .rem d _ _ => some d
  | .remn d _ _ => some d
  | .and d _ _ => some d
  | .or d _ _ => some d
  | .xor d _ _ => some d
  | .andn d _ _ => some d
  | .orn d _ _ => some d
  | .sll d _ _ => some d
  | .srl d _ _ => some d
  | .sra d _ _ => some d
  | .slt d _ _ => some d
  | .sltn d _ _ => some d
  | .min d _ _ => some d
  | .max d _ _ => some d
  | .minn d _ _ => some d
  | .maxn d _ _ => some d
  | .sel d _ _ => some d
  | .addi d _ _ => some d
  | .andi d _ _ => some d
  | .ori d _ _ => some d
  | .xori d _ _ => some d
  | .slti d _ _ => some d
  | .sltni d _ _ => some d
  | .slli d _ _ => some d
  | .srli d _ _ => some d
  | .srai d _ _ => some d
  | .mini d _ _ => some d
  | .maxi d _ _ => some d
  | .li16 d _ => some d
  | .ins16 d _ _ => some d
  | .bext d _ _ _ => some d
  | .bexts d _ _ _ => some d
  | .bins d _ _ _ => some d
  | .bextv d _ _ => some d
  | .bextsv d _ _ => some d
  | .binsv d _ _ => some d
  | .fsh d _ _ _ => some d
  | .bnet d _ _ _ => some d
  | .clz d _ => some d
  | .ctz d _ => some d
  | .popc d _ => some d
  | .brev d _ => some d
  | .bswap d _ => some d
  | .lea d _ _ _ => some d
  | .rdcr d _ => some d
  | .rdcnt d _ => some d
  | .grpid d => some d
  | .coresid d => some d
  | .qcnt _ d => some d
  | .semRd d _ => some d
  | _ => none

/-- A load from memory: address register, offset, size, whether the value is signed, whether the address must be
aligned and whether a UO page may answer (R233, R239), and the destination. -/
def loadShape : Instr → Option (Reg × Word × Nat × Bool × Bool × Bool × Reg)
  | .ldB d a i => some (a, i.signExtend 64, 1, true, false, true, d)
  | .ldBz d a i => some (a, i.signExtend 64, 1, false, false, true, d)
  | .ldH d a i => some (a, i.signExtend 64, 2, true, false, true, d)
  | .ldHz d a i => some (a, i.signExtend 64, 2, false, false, true, d)
  | .ldW d a i => some (a, i.signExtend 64, 4, true, false, true, d)
  | .ldWz d a i => some (a, i.signExtend 64, 4, false, false, true, d)
  | .ldD d a i => some (a, i.signExtend 64, 8, false, false, true, d)
  | .ldAcq d a z _ i => some (a, i.signExtend 64, 2 ^ z.toNat, false, true, false, d)
  | _ => none

/-- A load from the scratchpad: address register, offset, size, whether the value is signed, and the destination (R240). -/
def spadLoadShape : Instr → Option (Reg × Word × Nat × Bool × Reg)
  | .ldsB d a i => some (a, i.signExtend 64, 1, true, d)
  | .ldsBz d a i => some (a, i.signExtend 64, 1, false, d)
  | .ldsH d a i => some (a, i.signExtend 64, 2, true, d)
  | .ldsHz d a i => some (a, i.signExtend 64, 2, false, d)
  | .ldsW d a i => some (a, i.signExtend 64, 4, true, d)
  | .ldsWz d a i => some (a, i.signExtend 64, 4, false, d)
  | .ldsD d a i => some (a, i.signExtend 64, 8, false, d)
  | _ => none

/-- A plain store: data register, address register, offset and size (R233). -/
def storeShape : Instr → Option (Reg × Reg × Word × Nat)
  | .stB r a i => some (r, a, i.signExtend 64, 1)
  | .stH r a i => some (r, a, i.signExtend 64, 2)
  | .stW r a i => some (r, a, i.signExtend 64, 4)
  | .stD r a i => some (r, a, i.signExtend 64, 8)
  | _ => none

/-- A store to the scratchpad: data register, address register, offset and size (R240). -/
def spadStoreShape : Instr → Option (Reg × Reg × Word × Nat)
  | .stsB r a i => some (r, a, i.signExtend 64, 1)
  | .stsH r a i => some (r, a, i.signExtend 64, 2)
  | .stsW r a i => some (r, a, i.signExtend 64, 4)
  | .stsD r a i => some (r, a, i.signExtend 64, 8)
  | _ => none

/-- An AMO: its operation code of R241, then `gd`, `ga`, `gb`, size, order and scope. -/
def amoShape : Instr → Option (Nat × Reg × Reg × Reg × BitVec 2 × BitVec 2 × BitVec 2)
  | .amoAdd d a b z r c => some (0, d, a, b, z, r, c)
  | .amoAnd d a b z r c => some (1, d, a, b, z, r, c)
  | .amoOr d a b z r c => some (2, d, a, b, z, r, c)
  | .amoXor d a b z r c => some (3, d, a, b, z, r, c)
  | .amoMin d a b z r c => some (4, d, a, b, z, r, c)
  | .amoMax d a b z r c => some (5, d, a, b, z, r, c)
  | .amoMinn d a b z r c => some (6, d, a, b, z, r, c)
  | .amoMaxn d a b z r c => some (7, d, a, b, z, r, c)
  | .amoSwp d a b z r c => some (8, d, a, b, z, r, c)
  | .amoCas d a b z r c => some (9, d, a, b, z, r, c)
  | .amoFadd d a b z r c => some (10, d, a, b, z, r, c)
  | _ => none

/-- An engine command and its E fields (R49, R54). -/
def commandWord : Instr → Option EWord
  | .ml e => some e
  | .mlT e => some e
  | .mm e => some e
  | .mzero e => some e
  | .mdrain e => some e
  | .mred e => some e
  | .mcfg e => some e
  | .mfmt e => some e
  | .mchk e => some e
  | .vadd e => some e
  | .vsub e => some e
  | .vmul e => some e
  | .vfma e => some e
  | .vmax e => some e
  | .vmin e => some e
  | .vabs e => some e
  | .vneg e => some e
  | .vexp e => some e
  | .vlog e => some e
  | .vrcp e => some e
  | .vrsq e => some e
  | .vsqrt e => some e
  | .vsin e => some e
  | .vcos e => some e
  | .vtanh e => some e
  | .vcvt e => some e
  | .vcmp e => some e
  | .vsel e => some e
  | .vredsum e => some e
  | .vredmax e => some e
  | .vargmax e => some e
  | .vtopk e => some e
  | .vscan e => some e
  | .vswp2 e => some e
  | .vgath e => some e
  | .vscat e => some e
  | .vcopy e => some e
  | .vfill e => some e
  | .vlut e => some e
  | .vtern e => some e
  | .vdot8 e => some e
  | .vquant e => some e
  | .vrand e => some e
  | .cp e => some e
  | .cpRed e => some e
  | .cpBc e => some e
  | _ => none

/-- A branch on registers: the two registers, whether it is taken, and the offset field as R48 extends it. -/
def branchShape : Instr → Option (Reg × Reg × (Word → Word → Bool) × (Word → Word))
  | .beq a b t => some (a, b, fun x y => x = y, fun pc => branchTarget pc 13 t)
  | .bne a b t => some (a, b, fun x y => x ≠ y, fun pc => branchTarget pc 13 t)
  | .blt a b t => some (a, b, fun x y => x.toInt < y.toInt, fun pc => branchTarget pc 13 t)
  | .bge a b t => some (a, b, fun x y => y.toInt ≤ x.toInt, fun pc => branchTarget pc 13 t)
  | .bltn a b t => some (a, b, fun x y => x.toNat < y.toNat, fun pc => branchTarget pc 13 t)
  | .bgen a b t => some (a, b, fun x y => y.toNat ≤ x.toNat, fun pc => branchTarget pc 13 t)
  | .bz a t => some (a, 0, fun x _ => x = 0, fun pc => branchTarget pc 16 t)
  | .bnz a t => some (a, 0, fun x _ => x ≠ 0, fun pc => branchTarget pc 16 t)
  | _ => none

/-- The bytes of a location range include the location. -/
def MemLoc.covers (l : MemLoc) (n : Nat) (x : MemLoc) : Bool := overlap l n x 1

/-- A store that the module has not yet performed writes the location. -/
def State.pendingOn (s : State) (x : MemLoc) : Bool :=
  s.groups.any (fun h => h.a.sb.any (fun e => e.loc.covers e.bytes.length x) ||
    h.c.sb.any (fun e => e.loc.covers e.bytes.length x))

/-! ### Terms of the statements -/

/-- What R139 makes of a field: bit `k` of the zero-extended and of the sign-extended field, and of an insertion. -/
def fieldBits (x old zero sign ins : Word) (off wid : Nat) : Prop :=
  ∀ k : Nat, k < 64 →
    zero.getLsbD k = (decide (off < 64 ∧ k < wid) && x.getLsbD (off + k)) ∧
    sign.getLsbD k = (decide (off < 64 ∧ 0 < wid) && x.getLsbD (off + min k (min wid 64 - 1))) ∧
    ins.getLsbD k = if off ≤ k ∧ k < off + wid then x.getLsbD (k - off) else old.getLsbD k

/-- Entry `k` of a pattern slot: its source index and its poison bit (R144). -/
def patternEntry (st : Stream) (slot : BitVec 3) (k : Nat) : Nat × Bool :=
  (((st.pattern slot).toList.getD k 0).toNat % 128, ((st.pattern slot).toList.getD k 0).getLsbD 7)

/-- The value of control register `n` by the maps of R401, R315 and R360. -/
def controlMap (g : Group) (d : CtxDesc) (n : Nat) : Word :=
  match n with
  | 0 => BitVec.ofNat 64 (g.chk.toNat + 2 ^ 40 * d.interval)
  | 1 => g.fflags.setWidth 64
  | 2 => g.round.setWidth 64
  | 3 => g.slipLim.setWidth 64
  | 4 => g.tol.setWidth 64
  | 5 => g.firn
  | 6 => BitVec.ofNat 64 d.lease
  | 7 => BitVec.ofNat 64 g.prio
  | 8 => g.word
  | 9 => BitVec.ofNat 64 g.ctx
  | _ => g.cycle

/-- Where an instruction that stores to memory stores: address, size, what it needs of the page, whether it must be aligned, whether a UO page may answer, and the register it writes besides. -/
def storedAt (st : Stream) (i : Instr) : Option (Nat × Nat × Need × Bool × Bool × Reg) :=
  match storeShape i, amoShape i, i with
  | some (_, a, off, n), _, _ => some ((st.rd a + off).toNat, n, needW, false, true, 0)
  | _, some (_, d, a, _, z, _, _), _ => some ((st.rd a).toNat, 2 ^ z.toNat, needRW, true, false, d)
  | _, _, .stRel _ a z _ o => some ((st.rd a + o.signExtend 64).toNat, 2 ^ z.toNat, needW, true, false, 0)
  | _, _, _ => none

/-- A finite FP32 word in units of 2^-149. -/
def floatUnits (a : BitVec 32) : Int :=
  let m := a.toNat % 2 ^ 31
  let u : Nat := if m < 2 ^ 23 then m else (2 ^ 23 + m % 2 ^ 23) * 2 ^ (m / 2 ^ 23 - 1)
  if a.getLsbD 31 then -(u : Int) else u

/-- The FP32 word nearest to `x` units of 2^-149, ties to the even word, and its flags: an infinity with OF and NX where it is out of range, NX where it is not exact; `neg` is the sign of a zero. -/
def nearestFloat (x : Int) (neg : Bool) : BitVec 32 × FFlags :=
  let n := x.natAbs
  let k := n.log2 + 1 - 24
  let q := n / 2 ^ k
  let r := n % 2 ^ k
  let up := 2 ^ k < 2 * r ∨ (2 * r = 2 ^ k ∧ q % 2 = 1)
  let bits := k * 2 ^ 23 + if up then q + 1 else q
  let sign := if x = 0 then neg else x < 0
  let word (m : Nat) : BitVec 32 := BitVec.ofNat 32 (m + if sign then 2 ^ 31 else 0)
  if 255 * 2 ^ 23 ≤ bits then (word (255 * 2 ^ 23), flagOF ||| flagNX) else (word bits, if r = 0 then 0 else flagNX)

/-- The queue that a command of a slice enters (R63). -/
def commandQueue (i : Instr) (sl : Slice) : EQueue :=
  match Instr.major? i, sl with
  | some .mx, _ => .mat
  | some .vx, _ => .vec
  | _, .a => .cpl
  | _, .c => .cps

/-- A command that fails a check of the list, in its order, traps with the check's cause; one that fails none enters. -/
def entersUnless (c : Cmd) (checks : List (Bool × Nat)) : Entering :=
  match checks.find? (fun x => !x.1) with
  | some x => .trap x.2
  | none => .enter c

/-- The operands that name regions of a vector command which governs `n` elements: the place of each (D, A, B, C are 0 to 3), the elements touched, and the formats that R204 allows it, by entry and format. -/
def vectorRegions (i : Instr) (c : Cmd) (n : Nat) : List (Nat × Nat × (Nat → Format → Bool)) :=
  let count (v : Word) : Nat := v.toNat / 2 ^ 42 % 2 ^ 16
  let classN (_ : Nat) (f : Format) : Bool := !f.mx
  let classI (_ : Nat) (f : Format) : Bool := !f.mx && (match f.elem with | .int _ => true | _ => false)
  let entry (k e : Nat) (_ : Format) : Bool := e == k
  let two : List (Nat × Nat × (Nat → Format → Bool)) := [(0, n, classN), (1, n, classN)]
  let three : List (Nat × Nat × (Nat → Format → Bool)) := two ++ [(2, n, classN)]
  match i with
  | .vadd _ => three
  | .vsub _ => three
  | .vmul _ => three
  | .vmax _ => three
  | .vmin _ => three
  | .vcmp _ => three
  | .vfma _ => three ++ [(3, n, classN)]
  | .vsel _ => three ++ [(3, n, classN)]
  | .vcvt _ => [(0, n, classN), (1, n, fun _ _ => true)]
  | .vredsum _ => [(0, 1, classN), (1, n, classN)]
  | .vredmax _ => [(0, 1, classN), (1, n, classN)]
  | .vargmax _ => [(0, 1, entry 9), (1, n, classN)]
  | .vtopk _ => [(0, c.imm.toNat / 16, classN), (1, n, classN), (2, c.imm.toNat / 16, entry 9)]
  | .vgath _ => [(0, n, classN), (1, count c.vA, classN), (2, n, classI)]
  | .vscat _ => [(0, count c.vD, classN), (1, n, classN), (2, n, classI)]
  | .vcopy _ => [(0, n, fun _ _ => true), (1, n, fun _ _ => true)]
  | .vfill _ => [(0, n, classN)]
  | .vrand _ => [(0, n, classN)]
  | .vlut _ => [(0, n, classN), (1, n, classN),
      (2, 2 ^ (match formatOf (regionOf c.vA).fmt (c.word 1) with | some f => f.width | none => 0), classN)]
  | .vtern _ => [(0, n, classN), (1, (n + 4) / 5, entry 8)]
  | .vdot8 _ =>
    let o := (n + 2 ^ (c.imm.toNat / 16 % 16) - 1) / 2 ^ (c.imm.toNat / 16 % 16)
    [(0, o, classN), (1, n, entry 8), (2, min n (count c.vB), entry 8)] ++ (if c.eword.c = 0 then [] else [(3, o, classN)])
  | .vquant _ => [(0, n, fun _ f => f.mx), (1, n, classN)]
  | _ => two

/-- The checks of a vector command's own description. -/
def vectorOwn (i : Instr) (c : Cmd) (n : Nat) : List (Bool × Nat) :=
  match i with
  | .vtopk _ => [(decide (1 ≤ c.imm.toNat / 16 ∧ c.imm.toNat / 16 ≤ n), 0x21)]
  | .vswp2 _ => [(decide (n % (2 * 2 ^ (c.imm.toNat / 16 % 8)) = 0), 0x21)]
  | .vcopy _ => [(decide ((regionOf c.vD).fmt = (regionOf c.vA).fmt), 0x20)]
  | .vlut _ =>
    let w := match formatOf (regionOf c.vA).fmt (c.word 1) with | some f => f.width | none => 0
    [(decide (w = 4 ∨ w = 8), 0x20), (decide (2 ^ w ≤ (regionOf c.vB).count), 0x21)]
  | .vdot8 _ => [(decide ((regionOf c.vB).count ≠ 0), 0x21)]
  | _ => []

/-- The checks of a vector command at issue, in the order of R197: the validity of its formats, its own, R195, the classes. -/
def vectorChecks (g : Group) (i : Instr) (c : Cmd) (n : Nat) : List (Bool × Nat) :=
  let us := vectorRegions i c n
  let region (k : Nat) : Region := regionOf ([c.vD, c.vA, c.vB, c.vC].getD k 0)
  let format (k : Nat) : Option Format := formatOf (region k).fmt (c.word k)
  let lies (r : Region) (f : Format) (m : Nat) : Bool :=
    decide (r.rsv = 0 ∧ r.base < 2 ^ 22 ∧ (8 < f.width → r.base % f.size = 0) ∧ (r.stride = 1 → r.base % 64 = 0) ∧
      (f.mx = true → r.stride = 1) ∧ (0 < m → 0 ≤ (regionSpan r f m).1 ∧ (regionSpan r f m).2 ≤ (g.x : Int)))
  us.map (fun u => ((format u.1).isSome, 0x20)) ++ vectorOwn i c n ++
    us.map (fun u => ((format u.1).any (fun f => lies (region u.1) f u.2.1), 0x21)) ++
    us.map (fun u => ((format u.1).any (u.2.2 (region u.1).fmt), 0x20))

/-- The checks of a matrix command or a copy at issue, in the order of its rule: what must hold, and the cause where it does not. -/
def issueChecks (g : Group) (i : Instr) (c : Cmd) : List (Bool × Nat) :=
  let cols := cfgCols c.cfg
  let E := accE c.vD
  let V := accV c.vD
  let a := regionOf c.vA
  let d := regionOf c.vD
  let bytes (k : Nat) (r : Region) : Nat := match formatOf r.fmt (c.word k) with | some f => f.bytes r.count | none => 0
  let valid (k : Nat) (r : Region) : Bool := (formatOf r.fmt (c.word k)).isSome
  let placed (r : Region) : Bool := decide (r.rsv = 0 ∧ r.stride = 1 ∧ r.base < 2 ^ 22 ∧ r.base % 64 = 0)
  let load (t : Bool) : List (Bool × Nat) :=
    let fi := c.imm.toNat % 16
    let sp := if t then 0 else c.imm.toNat / 16 % 4
    let width := match formatOf fi (c.word 0) with | some f => f.width | none => 0
    let mx := match formatOf fi (c.word 0) with | some f => f.mx | none => false
    [(decide ((0 ≤ slotAt c.vD 0 0 ∧ slotAt c.vD 0 0 ≤ 65535) ∧
        (0 ≤ slotAt c.vD 0 (cols - 1) ∧ slotAt c.vD 0 (cols - 1) ≤ 65535) ∧
        (0 ≤ slotAt c.vD (g.n - 1) 0 ∧ slotAt c.vD (g.n - 1) 0 ≤ 65535) ∧
        0 ≤ slotAt c.vD (g.n - 1) (cols - 1) ∧ slotAt c.vD (g.n - 1) (cols - 1) ≤ 65535), 0x21),
     ((formatOf fi (c.word 0)).isSome, 0x20), (decide (fi ≠ 2 ∧ fi ≠ 9), 0x20),
     (decide (sp = 0 ∨ width = 8 ∨ width = 4), 0x20),
     (decide (t = true → (width = 16 ∨ width = 8) ∧ mx = false), 0x20)]
  let copy (red bc : Bool) : List (Bool × Nat) :=
    let k := c.vC.toNat
    let b := c.vB.toNat
    let dsp := k / 4 % 4
    let ssp := k % 4
    let es := if k / 64 % 4 = 0 then 4 else 2
    [(decide (k / 2 ^ 40 % 16 = 0 ∧ k / 256 % 4096 = 0 ∧ k / 16 % 4 = 0 ∧ b / 2 ^ 26 % 2 ^ 37 = 0 ∧ (bc = false → k / 2 ^ 44 % 16 = 0) ∧
        (red = false → k / 64 % 4 = 0) ∧ dsp ≠ 3 ∧ ssp < 2), 0x21),
     (decide (red = true → k / 64 % 4 < 2), 0x21), (decide (bc = true → dsp = 2), 0x21),
     (decide ((b / 2 ^ 63 % 2 = 1 → dsp = 1 ∨ dsp = 2) ∧ b % 2 ^ 26 % 16 = 0), 0x21),
     (decide ((dsp ≠ 0 → c.vD.toNat < 2 ^ 26) ∧ (ssp ≠ 0 → c.vA.toNat < 2 ^ 26)), 0x21),
     (decide (red = true → k / 2 ^ 20 % 2 ^ 20 % es = 0 ∧ c.vD.toNat % es = 0 ∧ c.vA.toNat % es = 0 ∧
        ∀ x ∈ c.nest, x.sstr.toNat % es = 0 ∧ x.dstr.toNat % es = 0), 0x21)]
  match i with
  | .ml _ => load false
  | .mlT _ => load true
  | .mm _ =>
    let xs := (g.issueAttrs.map (fun x => if c.mod.getLsbD 0 then x.2 else x.1)).take cols
    let tile (x : Attr) : Option (Nat × Nat) := x.map (fun y => (y.1, y.2.1))
    let first := tile (xs.headD none)
    let sp := (first.getD (0, 0)).2
    let pitch := c.vB.toNat % 2 ^ 26
    let kmax := match cfgN c.cfg with
      | 0 => 32 * cols
      | k => 48 * ((32 * cols - 1) / (8 * (k + 1)) + 1)
    [(decide (E + V ≤ 4096), 0x21), (valid 1 a, 0x20), (placed a, 0x21), (decide (a.count ≤ kmax), 0x21), (decide (pitch % 64 = 0), 0x21),
     (decide (a.base + (V - 1) * pitch + bytes 1 a ≤ g.x), 0x21), (first.isSome && xs.all (fun x => tile x == first), 0x20),
     (xs.all (fun x => x.any (fun y => (pairing y.1 y.2.2 a.fmt (c.word 1)).any (fun p => sp == 0 || p.sparse))), 0x20),
     (decide (sp = cfgN c.cfg), 0x20)]
  | .mzero _ => [(decide (E + V ≤ 4096), 0x21)]
  | .mdrain _ => [(decide (E + V ≤ 4096), 0x21), (valid 0 a, 0x20),
      (placed a && decide (a.count = 32 * V ∧ a.base + bytes 0 a ≤ g.x), 0x21),
      ((formatOf a.fmt (c.word 0)).any (fun f => !f.mx), 0x20)]
  | .mred _ =>
    let mask := c.vB.toNat % 2 ^ 16
    let root := c.vB.toNat / 2 ^ 16 % 16
    [(mask.testBit g.drain && mask.testBit root, 0x21),
     (valid 1 a && (root != g.drain || valid 0 d), 0x20), (placed a && decide (a.base + bytes 1 a ≤ g.x), 0x21),
     (root != g.drain || (placed d && decide (d.base + bytes 0 d ≤ g.x ∧ d.count = a.count)), 0x21),
     (decide (a.fmt = 2 ∧ (root = g.drain → d.fmt = 2)), 0x20)]
  | .mcfg _ => [(decide (1 ≤ cfgCols c.vD ∧ cfgCols c.vD ≤ 24 * g.w ∧ cfgTol c.vD ≤ 40), 0x21)]
  | .mfmt _ => [(decide (10 ≤ c.imm.toNat % 16), 0x21)]
  | .mchk _ => [(decide (c.vD.toNat / 2 ^ 22 % 16 = 0 ∧ c.vD.toNat % 2 ^ 22 % 64 = 0 ∧ c.vD.toNat % 2 ^ 22 + 64 ≤ g.x), 0x21)]
  | .cp _ => copy false false
  | .cpRed _ => copy true false
  | .cpBc _ => copy false true
  | i => if vxCount i c = 0 then [] else vectorChecks g i c (vxCount i c)

/-- A semaphore that group `gid` waits on has become starved in `s`, where the slices of `waits` wait on it (R303): their streams trap with cause 0x11, the C-slice's first, and then the heads of the queues that wait on a starved semaphore. -/
def State.starvedBy (s : State) (gid k : Nat) (waits : Slice → Prop) [DecidablePred waits] : State :=
  let trap (t : State) (sl : Slice) : State := if waits sl then t.trapStream gid sl { cause := 0x11, addr := k } false else t
  let u := trap (trap s .c) .a
  match s.grp? gid with
  | some g => u.raiseHeads g
  | none => u

/-- The location lies in peer memory. -/
def MemLoc.isPeer (l : MemLoc) : Bool := match l with | .peer _ _ => true | _ => false

/-- A KV instruction has had its effect, which leaves `t`: what it writes to tables on peer pages is sent and answered (R325, R415), and where all is `here` the stream goes on. -/
def kvEnds (o : Out) (t : State) (gid : Nat) (sl : Slice) (here : Bool) : Prop :=
  o = t.kvEnd gid sl ∧
    (here = true → o = .next ((t.mapStream gid sl (fun st => { st with asks := [], reqs := [], reads := [] })).advance gid sl))

/-- Nothing of a seal or checkpoint lies in peer memory. -/
def KvMove.here (m : KvMove) : Bool := !m.row.isPeer && (m.table ++ m.src ++ m.dst).all (fun p => !p.loc.isPeer)

/-- A seal or checkpoint without peers: the sectors of its state are copied, those of the slot as stored, and its event is made. -/
def State.moved (s : State) (gid : Nat) (sl : Slice) (m : KvMove) : State :=
  match s.grp? gid with
  | none => s
  | some g =>
    match s.ctx? g.ctx with
    | none => s
    | some cx =>
      let got := m.got.getD (s.sectorBytes { g.viewer sl with bind := some (cx.num, m.seq, m.win) } g m.src [])
      (s.putSectors (g.viewer sl) (m.dst.zip got)).endMove gid sl cx m

/-- A seal or checkpoint has passed its checks in `s`: it begins, and without peers it is made in the same step. -/
def kvMoves (o : Out) (s : State) (gid : Nat) (sl : Slice) (cx : Context) (m : KvMove) : Prop :=
  let t := s.startMove gid sl cx.num m
  o = t.kvEnd gid sl ∧
    (m.here = true →
      o = .next (((t.moved gid sl m).mapStream gid sl (fun st => { st with asks := [], reqs := [], reads := [] })).advance gid sl))

/-- The rows of the sequence table that a claim reads, from the parts of the table. -/
def tableRows (s : State) (cx : Context) (ps : List Part) : List (Nat × SeqRow) :=
  (List.range (cx.desc.sqrows + 1)).filterMap (fun i =>
    (ps.find? (fun q => q.va ≤ rowVa cx i % 2 ^ 64 && rowVa cx i % 2 ^ 64 < q.va + q.n)).map (fun q =>
      (i, rowOf (q.loc.shift (rowVa cx i % 2 ^ 64 - q.va)) (s.baseRead (q.loc.shift (rowVa cx i % 2 ^ 64 - q.va)) 256))))

/-- The slice `st` after `walk.next` with destination `d`: it holds `v` in it, where `idx` is given the indices in g1 to g8 before that, and waits no more; every other register, and all else of it, is as it was. -/
def Stream.fedBy (st x : Stream) (d : Reg) (v : Word) (idx : Option (List Nat)) : Prop :=
  x = { st with g := x.g, p := x.p, wn := none, past := false } ∧ ∀ r : Reg, r ≠ 0 →
    if r = d then x.rd r = v ∧ x.rp r = false
    else match idx with
      | some l => if r.toNat ≤ 8 then x.rd r = BitVec.ofNat 64 (l.getD (r.toNat - 1) 0) ∧ x.rp r = false else x.rd r = st.rd r ∧ x.rp r = st.rp r
      | none => x.rd r = st.rd r ∧ x.rp r = st.rp r

/-- A matrix or vector command of group `gid` leaves memory, the other groups and all of its group's state but what it performs on. -/
def engineOnly (s t : State) (gid : Nat) (g h : Group) : Prop :=
  t.grp? gid = some h ∧ (∀ k : Nat, k ≠ gid → t.grp? k = s.grp? k) ∧ t.vault = s.vault ∧ t.host = s.host ∧
  t.vaultPoison = s.vaultPoison ∧ t.hostPoison = s.hostPoison ∧ h.a = g.a ∧ h.c = g.c ∧ h.qs = g.qs ∧ h.eq = g.eq ∧
  h.sems = g.sems ∧ g.sameControl h ∧ g.sameShared h

/-- The place of the slot that cell (i, col) of a group loads from (R149, R159). -/
def cellPlace (g : Group) (d : Word) (i col : Nat) : Nat :=
  vaultAddr (g.stack0 + col / 24) (g.row0 + i) (col % 24) (2048 * (slotAt d i col % 65536).toNat)

/-- The value of an element of an elementwise vector command (R207), from those of A, B and C; `down` says that the rounding is toward minus infinity. -/
def elementValue (i : Instr) (down : Bool) (a b c : XVal) : Option XVal :=
  match i with
  | .vadd _ => some (sumX down [a, b]).1
  | .vsub _ => some (sumX down [a, b.negate]).1
  | .vmul _ => some (mulX a b).1
  | .vfma _ => some (sumX down [(mulX a b).1, c]).1
  | .vmax _ => some (if a.isNan || b.isNan then .nan else if a.ordLt b then b else a)
  | .vmin _ => some (if a.isNan || b.isNan then .nan else if b.ordLt a then b else a)
  | .vabs _ => some a.abs
  | .vneg _ => some a.negate
  | .vsel _ => some (if c.isZero then b else a)
  | .vcvt _ => some a
  | .vexp _ => some (SpecialFn.apply .exp a).1
  | .vlog _ => some (SpecialFn.apply .log a).1
  | .vrcp _ => some (SpecialFn.apply .rcp a).1
  | .vrsq _ => some (SpecialFn.apply .rsq a).1
  | .vsqrt _ => some (sqrtX a).1
  | .vsin _ => some (SpecialFn.apply .sin a).1
  | .vcos _ => some (SpecialFn.apply .cos a).1
  | .vtanh _ => some (SpecialFn.apply .tanh a).1
  | _ => none

/-- The elements of D that a vector command writes, where it governs `n` of them (R193, R204). -/
def touched (i : Instr) (c : Cmd) (d : Region) (n : Nat) : Nat :=
  match i with
  | .vredsum _ => 1
  | .vredmax _ => 1
  | .vargmax _ => 1
  | .vtopk _ => min n (c.imm.toNat / 16)
  | .vscat _ => d.count
  | .vdot8 _ => (n + 2 ^ (c.imm.toNat / 16 % 16) - 1) / 2 ^ (c.imm.toNat / 16 % 16)
  | _ => n

/-- The request of one kind that the module performs next, once peers have answered the device, and the state that it is performed in (R409, R410, R415). -/
def Picked (s : State) (b : BootCfg) (mine : MgmtReq → Bool) (r : MgmtReq) (v : State) : Prop :=
  s.managed = some b ∧ s.devQuiet [] = true ∧ ∃ k : Nat,
    ((s.takeRequests b).settlePreempts).nextReq mine = some k ∧
    ((s.takeRequests b).settlePreempts).mgmtQ[k]? = some r ∧
    v = { (s.takeRequests b).settlePreempts with mgmtQ := ((s.takeRequests b).settlePreempts).mgmtQ.eraseIdx k }

end Sys2Proof.Machine
end

