-- ==== Sys2Proof/Certificates/Slice0/Obligations.lean ====
section
/-! DEFINITION. The statements about the model that are to be proved. A statement says `exec i s = .next t` for the state
`t` that the rules give; `wrote` and `trapped` (Sys2Proof.Safety) name the two commonest of these. -/

open Sys2Proof Sys2Proof.Machine

/-- O1 (R54, R137, 18_prog_gemm.md): Words of the worked programs and tables of the spec, each written out bit by bit,
decode to what the spec says. -/
def Obligations.WordsDecode : Prop :=
  decodeWords 0b000000_00000_00000_00000_00000000000#32 0 = .ok .nop ∧
  decodeWords 0b000000_00000_00000_00000_00000000001#32 0 = .ok .join ∧
  decodeWords 0b000000_00000_00101_00011_00000000110#32 0 = .ok (.wrcr 5 3) ∧
  decodeWords 0b000001_00011_00010_00010_00000000000#32 0 = .ok (.add 3 2 2) ∧
  decodeWords 0b000010_01001_01001_0000_000000001000#32 0 = .ok (.addi 9 9 8) ∧
  decodeWords 0b000011_00100_00000_1100110111101111#32 0 = .ok (.li16 4 0xCDEF) ∧
  decodeWords 0b000100_00100_01_000_1000100110101011#32 0 = .ok (.ins16 4 1 0x89AB) ∧
  decodeWords 0b000101_00110_00101_111100_0001000_000#32 0 = .ok (.bext 6 5 60 8) ∧
  decodeWords 0b000110_00100_00010_00011_010000_00011#32 0 = .ok (.fsh 4 2 3 16) ∧
  decodeWords 0b010000_000_000_00001_000000000000000#32 0 = .ok (.push 0 1) ∧
  decodeWords 0b010000_001_000_00010_000000000000000#32 0 = .ok (.pop 0 2) ∧
  decodeWords 0b010001_0_00_11_01001_0000000000000000#32 0 = .ok (.lq 0 3 9 0) ∧
  decodeWords 0b010100_11111111111111111111101010#32 0 = .ok (.br 0x3FFFFEA) ∧
  decodeWords 0b011000_1_00_0000100_0000000000001011#32 0 = .ok (.loopi 0 4 11) ∧
  decodeWords 0b110001_0010_1_0011_1_001_0000000_000000#32 0b00110_00111_01000_00000_000000000001#32 =
    .ok (.vadd { wsem := 2, wen := true, ssem := 3, sen := true, pred := 1, mod := 0, d := 6, a := 7, b := 8, c := 0, imm := 1 })

/-- O2 (R45, R46, R54): The bytes of a well-formed instruction, followed by any others, decode to it, and the others are
left. -/
def Obligations.EncodeThenDecode : Prop :=
  ∀ i : Instr, WellFormed i = true → encode i ≠ [] → ∀ rest : List Byte, decode (encodeBytes i ++ rest) = .ok (i, rest)

/-- O3 (R46, R55, R64): A word pair that decodes is the encoding of what it decodes to: no bit is ignored, no second
spelling exists. -/
def Obligations.DecodeThenEncode : Prop :=
  ∀ (w1 w2 : BitVec 32) (i : Instr), decodeWords w1 w2 = .ok i →
    WellFormed i = true ∧ encode i = if isLong w1 then [w1, w2] else [w1]

/-- O4 (R41, R44, R64): Where the line at the PC of a stream may be executed and the lane at the PC holds a word of the
stream that decodes, a step executes that instruction, with the copy of the line kept for the stream's pass of it,
which what was fetched of a peer's line serves alone; an instruction that is midway is executed again from that copy;
then time passes. A step whose turn is an event of the device or of the agents around it is that event; then time
passes. Whose turn it is and that time passes after it are the model's choices (log 1, 2). -/
def Obligations.StepRunsDecoded : Prop :=
  (∀ (s s1 : State) (gid : Nat) (sl : Slice) (g : Machine.Group) (cx : Context) (ws : List (BitVec 32)) (i : Instr),
    s.takeTurn = (.stream gid sl, s1) →
    let s0 : State := s1.beginTurn gid sl
    let st := g.stream sl
    let va := st.pc.toNat / 32 * 32
    let lane := st.pc.toNat % 32 / 4
    let runs (t : State) : Prop := step s = match exec i t with
      | .next u => .next u.tick
      | .fault f => .fault f
      | .refused r => .refused r
    s0.grp? gid = some g → s0.ctx? g.ctx = some cx → g.mayIssue sl = true →
    decodeWords (ws.getD lane 0) (if isLong (ws.getD lane 0) then ws.getD (lane + 1) 0 else 0) = .ok i →
    (∀ m : FetchedLine, st.midway = true → st.pass = some m → m.words = ws → runs s0) ∧
    (∀ s2 : State, st.midway = false → st.skip = false → st.recheck = false → st.pc.toNat % 4 = 0 →
      (st.pc ≠ g.code ∨ g.code.toNat % 32 = 0) → s0.fetchLine gid sl va = .ok s2 ws →
      let s3 := s2.mapStream gid sl (fun x => { x with pass := some { va := va, words := ws } })
      lineOk ws = true → (st.pass.map FetchedLine.va = some va ∨ s3.privilegedWritten g cx sl va = false) →
      lineKind ws = 0 → 1 ≤ lane → laneTag ws lane = sl.tag →
      let kept (x : Machine.Stream) : List LineFetch := if st.pass.map FetchedLine.va = some va then x.fetches else []
      runs (s3.mapStream gid sl (fun x => { x with wide := some (isLong (ws.getD lane 0)), fetches := kept x })))) ∧
  (∀ (s s1 : State) (e : Instr), s.takeTurn = (.event e, s1) → isEvent e = true →
    step s = match exec e s1 with
      | .next u => .next u.tick
      | .fault f => .fault f
      | .refused r => .refused r)

/-- O5 (R55, R63, R64, R382): A lane of the stream whose word or words decode to none stops the stream with cause 0x01 and
the words in STATUS (R64, R55, R382). An instruction that its slice may not issue is an illegal instruction (R63):
cause 0x01, its words in STATUS. -/
def Obligations.IllegalInstructionsTrap : Prop :=
  (∀ (s : State) (gid : Nat) (sl : Slice) (g : Machine.Group) (w1 w2 : BitVec 32), Issuing s gid sl g →
    exec (.illegalInstruction w1 w2) s = trapped s gid sl { cause := 0x01, status := (w2 ++ w1 : BitVec 64) } ∧
    ∀ (ws : List (BitVec 32)) (k : Nat) (r : Reject),
      let v2 := if isLong (ws.getD k 0) then ws.getD (k + 1) 0 else 0
      decodeWords (ws.getD k 0) v2 = .error r → lineInstr ws k = .illegalInstruction (ws.getD k 0) v2) ∧
  (∀ (s : State) (gid : Nat) (sl : Slice) (g : Machine.Group) (q : BitVec 3) (z k : BitVec 2) (d a : Reg) (o : BitVec 16) (e : EWord)
    (i : Instr), Issuing s gid sl g → q.toNat < 6 →
    let bad (i : Instr) : Out := trapped s gid sl { cause := 0x01, status := encodeStatus i }
    (sl ≠ producer q.toNat → exec (.push q a) s = bad (.push q a)) ∧
    (sl ≠ consumer q.toNat → exec (.pop q d) s = bad (.pop q d) ∧ exec (.peek q d) s = bad (.peek q d) ∧
      exec (.qdrop q) s = bad (.qdrop q)) ∧
    (sl = .c → exec .slip s = bad .slip ∧ exec (.lq k z a o) s = bad (.lq k z a o) ∧ exec (.lqNf k z a o) s = bad (.lqNf k z a o)) ∧
    (sl = .a → exec .slipCatch s = bad .slipCatch ∧ exec (.firnSeal d a) s = bad (.firnSeal d a)) ∧
    (sl = .a → commandWord i = some e → (Instr.major? i = some .mx ∨ Instr.major? i = some .vx ∨ e.pred ≠ 0) →
      exec i s = bad i))

/-- O6 (R2, R55, R64, R379, R395, R417): Every step of the module, from any state whatever, answers a next state: nothing
in it faults and nothing is refused. -/
def Obligations.EveryStepAnswers : Prop :=
  ∀ s : State, ∃ t : State, step s = .next t

/-- O7 (R225, R190, R250): Every step keeps the canonical form of every memory. The form is the model's own. -/
def Obligations.StepKeepsMemoriesCanonical : Prop :=
  ∀ s t : State, s.memoriesWf = true → step s = .next t → t.memoriesWf = true

/-- O8 (R31, R420, R422, R250, R413, R416, R417, R425): At reset every memory is in canonical form. State.reset holds the
values the spec gives for reset. Module reset (R416, R422) leaves every register that the spec gives a reset value at
that value, and destroys every context, launch and group; memory keeps its contents, with the stores that had issued
performed. That memory keeps its contents at MODULE_RESET, with issued stores performed, is the model's reading (log
40), that the vault holds zero rests on R250 and on what the model takes unwritten memory to read as (log 18), and
that there is no route at reset and after MODULE_RESET is a DESIGN CHOICE (log 19). -/
def Obligations.ResetState : Prop :=
  (State.reset.memoriesWf = true) ∧
  (State.reset.bring = { bootrec := 0, qaddr := 0, state := .held, err := 0 } ∧ State.reset.mr = List.replicate 64 0 ∧
  State.reset.ctxs = [] ∧ State.reset.groups = [] ∧ State.reset.owners = [] ∧
  (∀ k : Nat, (State.reset.port k).tmo = 1200000 ∧ (State.reset.port k).qth = 4) ∧
  (∀ k : Nat, (State.reset.stack k).clk = 0 ∧ ∀ j : Nat, (State.reset.stack k).counters.toList.getD j 0 = 0) ∧
  (∀ a : Nat, State.reset.baseByte (.vault a) = 0)) ∧
  (∀ s : State, ∃ t : State, exec .moduleReset s = .next t ∧
    t.bring = { bootrec := 0, qaddr := 0, state := .held, err := 0 } ∧ t.boot = none ∧ t.mr = List.replicate 64 0 ∧
    t.quotes = 0 ∧ t.ctxs = [] ∧ t.launches = [] ∧ t.groups = [] ∧ t.owners = [] ∧ t.tlb = [] ∧ t.routes = [] ∧
    (∀ k : Nat, (t.port k).tmo = 1200000 ∧ (t.port k).qth = 4 ∧ (t.port k).quarantined = []) ∧
    (∀ k : Nat, (t.stack k).clk = 0 ∧ ∀ j : Nat, (t.stack k).counters.toList.getD j 0 = 0) ∧
    (∀ a : Nat, t.baseByte (.vault a) = s.drainAll.baseByte (.vault a) ∧ t.baseByte (.host a) = s.drainAll.baseByte (.host a)))

/-- O9 (R134): The words and the results of the two-register ALU instructions, in the arithmetic of R134's table
(division: DivisionResults); the other function values are reserved. -/
def Obligations.AluResults : Prop :=
  (∀ d a b : Reg,
    let word (k : Nat) : List (BitVec 32) := [BitVec.ofNat 32 (0x04000000 + d.toNat * 2 ^ 21 + a.toNat * 2 ^ 16 + b.toNat * 2 ^ 11 + k)]
    encode (.add d a b) = word 0 ∧
    encode (.sub d a b) = word 1 ∧
    encode (.mul d a b) = word 2 ∧
    encode (.mulh d a b) = word 3 ∧
    encode (.mulhn d a b) = word 4 ∧
    encode (.div d a b) = word 5 ∧
    encode (.divn d a b) = word 6 ∧
    encode (.rem d a b) = word 7 ∧
    encode (.remn d a b) = word 8 ∧
    encode (.and d a b) = word 9 ∧
    encode (.or d a b) = word 10 ∧
    encode (.xor d a b) = word 11 ∧
    encode (.andn d a b) = word 12 ∧
    encode (.orn d a b) = word 13 ∧
    encode (.sll d a b) = word 14 ∧
    encode (.srl d a b) = word 15 ∧
    encode (.sra d a b) = word 16 ∧
    encode (.slt d a b) = word 17 ∧
    encode (.sltn d a b) = word 18 ∧
    encode (.min d a b) = word 19 ∧
    encode (.max d a b) = word 20 ∧
    encode (.minn d a b) = word 21 ∧
    encode (.maxn d a b) = word 22 ∧
    encode (.sel d a b) = word 23) ∧
  (∀ w1 w2 : BitVec 32, w1.toNat / 2 ^ 26 = 1 → 24 ≤ w1.toNat % 2 ^ 11 → ∃ r : Reject, decodeWords w1 w2 = .error r) ∧
  ∀ (s : State) (gid : Nat) (sl : Slice) (g : Machine.Group) (d a b : Reg), Issuing s gid sl g →
    let x := (g.stream sl).rd a
    let y := (g.stream sl).rd b
    let p := (g.stream sl).rp a || (g.stream sl).rp b
    exec (.add d a b) s = wrote s gid sl d (BitVec.ofInt 64 (x.toInt + y.toInt)) p ∧
    exec (.sub d a b) s = wrote s gid sl d (BitVec.ofInt 64 (x.toInt - y.toInt)) p ∧
    exec (.mul d a b) s = wrote s gid sl d (BitVec.ofNat 64 (x.toNat * y.toNat)) p ∧
    exec (.mulh d a b) s = wrote s gid sl d (BitVec.ofInt 64 (x.toInt * y.toInt / 2 ^ 64)) p ∧
    exec (.mulhn d a b) s = wrote s gid sl d (BitVec.ofNat 64 (x.toNat * y.toNat / 2 ^ 64)) p ∧
    exec (.and d a b) s = wrote s gid sl d (x &&& y) p ∧
    exec (.or d a b) s = wrote s gid sl d (x ||| y) p ∧
    exec (.xor d a b) s = wrote s gid sl d (x ^^^ y) p ∧
    exec (.andn d a b) s = wrote s gid sl d (x &&& ~~~y) p ∧
    exec (.orn d a b) s = wrote s gid sl d (x ||| ~~~y) p ∧
    exec (.sll d a b) s = wrote s gid sl d (BitVec.ofNat 64 (x.toNat * 2 ^ (y.toNat % 64))) p ∧
    exec (.srl d a b) s = wrote s gid sl d (BitVec.ofNat 64 (x.toNat / 2 ^ (y.toNat % 64))) p ∧
    exec (.sra d a b) s = wrote s gid sl d (BitVec.ofInt 64 (x.toInt / 2 ^ (y.toNat % 64))) p ∧
    exec (.slt d a b) s = wrote s gid sl d (if x.toInt < y.toInt then 1 else 0) p ∧
    exec (.sltn d a b) s = wrote s gid sl d (if x.toNat < y.toNat then 1 else 0) p ∧
    exec (.min d a b) s = wrote s gid sl d (if x.toInt ≤ y.toInt then x else y) p ∧
    exec (.max d a b) s = wrote s gid sl d (if y.toInt ≤ x.toInt then x else y) p ∧
    exec (.minn d a b) s = wrote s gid sl d (if x.toNat ≤ y.toNat then x else y) p ∧
    exec (.maxn d a b) s = wrote s gid sl d (if y.toNat ≤ x.toNat then x else y) p ∧
    exec (.sel d a b) s = wrote s gid sl d (if (g.stream sl).rd d ≠ 0 then x else y) (p || (g.stream sl).rp d)

/-- O10 (R135): Division and remainder, with R135's fixed results, and the identity that joins the two of each pair. -/
def Obligations.DivisionResults : Prop :=
  ∀ (s : State) (gid : Nat) (sl : Slice) (g : Machine.Group) (d a b : Reg), Issuing s gid sl g →
    let x := (g.stream sl).rd a
    let y := (g.stream sl).rd b
    let p := (g.stream sl).rp a || (g.stream sl).rp b
    let q : Word := if y.toInt = 0 then BitVec.ofInt 64 (-1)
      else if x.toInt = -2 ^ 63 ∧ y.toInt = -1 then BitVec.ofInt 64 (-2 ^ 63) else BitVec.ofInt 64 (x.toInt.tdiv y.toInt)
    let r : Word := if y.toInt = 0 then x
      else if x.toInt = -2 ^ 63 ∧ y.toInt = -1 then 0 else BitVec.ofInt 64 (x.toInt - y.toInt * x.toInt.tdiv y.toInt)
    let qn : Word := if y.toNat = 0 then BitVec.ofNat 64 (2 ^ 64 - 1) else BitVec.ofNat 64 (x.toNat / y.toNat)
    let rn : Word := if y.toNat = 0 then x else BitVec.ofNat 64 (x.toNat % y.toNat)
    exec (.div d a b) s = wrote s gid sl d q p ∧ exec (.rem d a b) s = wrote s gid sl d r p ∧
    exec (.divn d a b) s = wrote s gid sl d qn p ∧ exec (.remn d a b) s = wrote s gid sl d rn p ∧
    (y ≠ 0 → q * y + r = x ∧ qn * y + rn = x)

/-- O11 (R136): The words and the results of the instructions with an immediate, in the arithmetic of R136's table; the
other op4 values are reserved. -/
def Obligations.ImmediateResults : Prop :=
  (∀ (d a : Reg) (i : BitVec 12) (k : BitVec 6),
    let word (op n : Nat) : List (BitVec 32) := [BitVec.ofNat 32 (0x08000000 + d.toNat * 2 ^ 21 + a.toNat * 2 ^ 16 + op * 2 ^ 12 + n)]
    encode (.addi d a i) = word 0 i.toNat ∧
    encode (.andi d a i) = word 1 i.toNat ∧
    encode (.ori d a i) = word 2 i.toNat ∧
    encode (.xori d a i) = word 3 i.toNat ∧
    encode (.slti d a i) = word 4 i.toNat ∧
    encode (.sltni d a i) = word 5 i.toNat ∧
    encode (.slli d a k) = word 6 k.toNat ∧
    encode (.srli d a k) = word 7 k.toNat ∧
    encode (.srai d a k) = word 8 k.toNat ∧
    encode (.mini d a i) = word 9 i.toNat ∧
    encode (.maxi d a i) = word 10 i.toNat) ∧
  (∀ w1 w2 : BitVec 32, w1.toNat / 2 ^ 26 = 2 → 11 ≤ w1.toNat / 2 ^ 12 % 2 ^ 4 → ∃ r : Reject, decodeWords w1 w2 = .error r) ∧
  (∀ w1 w2 : BitVec 32, w1.toNat / 2 ^ 26 = 2 → 6 ≤ w1.toNat / 2 ^ 12 % 2 ^ 4 → w1.toNat / 2 ^ 12 % 2 ^ 4 ≤ 8 →
    w1.toNat / 2 ^ 6 % 2 ^ 6 ≠ 0 → ∃ r : Reject, decodeWords w1 w2 = .error r) ∧
  ∀ (s : State) (gid : Nat) (sl : Slice) (g : Machine.Group) (d a : Reg) (i : BitVec 12) (k : BitVec 6), Issuing s gid sl g →
    let x := (g.stream sl).rd a
    let p := (g.stream sl).rp a
    exec (.addi d a i) s = wrote s gid sl d (BitVec.ofInt 64 (x.toInt + i.toInt)) p ∧
    exec (.andi d a i) s = wrote s gid sl d (x &&& BitVec.ofNat 64 i.toNat) p ∧
    exec (.ori d a i) s = wrote s gid sl d (x ||| BitVec.ofNat 64 i.toNat) p ∧
    exec (.xori d a i) s = wrote s gid sl d (x ^^^ BitVec.ofNat 64 i.toNat) p ∧
    exec (.slti d a i) s = wrote s gid sl d (if x.toInt < i.toInt then 1 else 0) p ∧
    exec (.sltni d a i) s = wrote s gid sl d (if x.toNat < (BitVec.ofInt 64 i.toInt).toNat then 1 else 0) p ∧
    exec (.slli d a k) s = wrote s gid sl d (BitVec.ofNat 64 (x.toNat * 2 ^ k.toNat)) p ∧
    exec (.srli d a k) s = wrote s gid sl d (BitVec.ofNat 64 (x.toNat / 2 ^ k.toNat)) p ∧
    exec (.srai d a k) s = wrote s gid sl d (BitVec.ofInt 64 (x.toInt / 2 ^ k.toNat)) p ∧
    exec (.mini d a i) s = wrote s gid sl d (if x.toInt ≤ i.toInt then x else BitVec.ofInt 64 i.toInt) p ∧
    exec (.maxi d a i) s = wrote s gid sl d (if i.toInt ≤ x.toInt then x else BitVec.ofInt 64 i.toInt) p

/-- O12 (R137, R138, R142): `li16` is its word, writes its sign-extended constant and clears the poison bit. `ins16` is
its word, replaces one halfword of gd, and leaves the other 48 bits and the poison bit. `fsh` is its word and gives
the low 64 bits of the pair shifted right. -/
def Obligations.ConstantsAndFunnelShift : Prop :=
  ((∀ (d : Reg) (i : BitVec 16), encode (.li16 d i) = [BitVec.ofNat 32 (0x0C000000 + d.toNat * 2 ^ 21 + i.toNat)]) ∧
  ∀ (s : State) (gid : Nat) (sl : Slice) (g : Machine.Group) (d : Reg) (i : BitVec 16), Issuing s gid sl g →
    exec (.li16 d i) s = wrote s gid sl d (BitVec.ofInt 64 i.toInt) false) ∧
  ((∀ (d : Reg) (h : BitVec 2) (i : BitVec 16),
    encode (.ins16 d h i) = [BitVec.ofNat 32 (0x10000000 + d.toNat * 2 ^ 21 + h.toNat * 2 ^ 19 + i.toNat)]) ∧
  ∀ (s : State) (gid : Nat) (sl : Slice) (g : Machine.Group) (d : Reg) (h : BitVec 2) (i : BitVec 16), Issuing s gid sl g →
    ∃ v : Word, exec (.ins16 d h i) s = wrote s gid sl d v ((g.stream sl).rp d) ∧
      ∀ k : Nat, k < 64 → v.getLsbD k =
        if k / 16 = h.toNat then i.getLsbD (k % 16) else ((g.stream sl).rd d).getLsbD k) ∧
  ((∀ (d a b : Reg) (h : BitVec 6), encode (.fsh d a b h) =
    [BitVec.ofNat 32 (0x18000003 + d.toNat * 2 ^ 21 + a.toNat * 2 ^ 16 + b.toNat * 2 ^ 11 + h.toNat * 2 ^ 5)]) ∧
  ∀ (s : State) (gid : Nat) (sl : Slice) (g : Machine.Group) (d a b : Reg) (h : BitVec 6), Issuing s gid sl g →
    let x := (g.stream sl).rd a
    let y := (g.stream sl).rd b
    exec (.fsh d a b h) s = wrote s gid sl d (BitVec.ofNat 64 ((x.toNat * 2 ^ 64 + y.toNat) / 2 ^ h.toNat))
      ((g.stream sl).rp a || (g.stream sl).rp b))

/-- O13 (R139, R140, R141): The words and the results of the bit-field instructions, bit by bit (fieldBits): a field that
runs past bit 63 reads zeros there and writes nothing there. -/
def Obligations.BitFieldResults : Prop :=
  (∀ (d a b : Reg) (o : BitVec 6) (w : BitVec 7),
    let bit (op : Nat) : List (BitVec 32) :=
      [BitVec.ofNat 32 (0x14000000 + d.toNat * 2 ^ 21 + a.toNat * 2 ^ 16 + o.toNat * 2 ^ 10 + w.toNat * 2 ^ 3 + op)]
    let bitr (k : Nat) : List (BitVec 32) := [BitVec.ofNat 32 (0x18000000 + d.toNat * 2 ^ 21 + a.toNat * 2 ^ 16 + b.toNat * 2 ^ 11 + k)]
    encode (.bext d a o w) = bit 0 ∧ encode (.bexts d a o w) = bit 1 ∧ encode (.bins d a o w) = bit 2 ∧
    encode (.bextv d a b) = bitr 0 ∧ encode (.bextsv d a b) = bitr 1 ∧ encode (.binsv d a b) = bitr 2) ∧
  (∀ w1 w2 : BitVec 32, w1.toNat / 2 ^ 26 = 5 → 3 ≤ w1.toNat % 2 ^ 3 → ∃ r : Reject, decodeWords w1 w2 = .error r) ∧
  ∀ (s : State) (gid : Nat) (sl : Slice) (g : Machine.Group) (d a b : Reg) (o : BitVec 6) (w : BitVec 7), Issuing s gid sl g →
    let st := g.stream sl
    let off := (st.rd b).toNat % 256
    let wid := (st.rd b).toNat / 256 % 256
    (∃ z n i : Word, fieldBits (st.rd a) (st.rd d) z n i o.toNat w.toNat ∧
      exec (.bext d a o w) s = wrote s gid sl d z (st.rp a) ∧ exec (.bexts d a o w) s = wrote s gid sl d n (st.rp a) ∧
      exec (.bins d a o w) s = wrote s gid sl d i (st.rp a || st.rp d)) ∧
    (∃ z n i : Word, fieldBits (st.rd a) (st.rd d) z n i off wid ∧
      exec (.bextv d a b) s = wrote s gid sl d z (st.rp a || st.rp b) ∧
      exec (.bextsv d a b) s = wrote s gid sl d n (st.rp a || st.rp b) ∧
      exec (.binsv d a b) s = wrote s gid sl d i (st.rp a || st.rp b || st.rp d))

/-- O14 (R143): The words and the results of counting, reversal and address formation (R143). -/
def Obligations.CountingResults : Prop :=
  (∀ (d a b : Reg) (h : BitVec 2),
    let word (k : Nat) : List (BitVec 32) := [BitVec.ofNat 32 (0x18000000 + d.toNat * 2 ^ 21 + a.toNat * 2 ^ 16 + k)]
    encode (.clz d a) = word 6 ∧ encode (.ctz d a) = word 7 ∧ encode (.popc d a) = word 8 ∧ encode (.brev d a) = word 9 ∧
    encode (.bswap d a) = word 10 ∧ encode (.lea d a b h) = word (b.toNat * 2 ^ 11 + h.toNat * 2 ^ 5 + 11)) ∧
  ∀ (s : State) (gid : Nat) (sl : Slice) (g : Machine.Group) (d a b : Reg) (h : BitVec 2), Issuing s gid sl g →
    let x := (g.stream sl).rd a
    let y := (g.stream sl).rd b
    let p := (g.stream sl).rp a
    (∃ n : Nat, n ≤ 64 ∧ exec (.clz d a) s = wrote s gid sl d (BitVec.ofNat 64 n) p ∧
      (∀ j : Nat, j < n → x.getLsbD (63 - j) = false) ∧ (n < 64 → x.getLsbD (63 - n) = true)) ∧
    (∃ n : Nat, n ≤ 64 ∧ exec (.ctz d a) s = wrote s gid sl d (BitVec.ofNat 64 n) p ∧
      (∀ j : Nat, j < n → x.getLsbD j = false) ∧ (n < 64 → x.getLsbD n = true)) ∧
    exec (.popc d a) s = wrote s gid sl d (BitVec.ofNat 64 ((List.range 64).countP (fun k => x.getLsbD k))) p ∧
    (∃ v : Word, exec (.brev d a) s = wrote s gid sl d v p ∧ ∀ k : Nat, k < 64 → v.getLsbD k = x.getLsbD (63 - k)) ∧
    (∃ v : Word, exec (.bswap d a) s = wrote s gid sl d v p ∧
      ∀ k : Nat, k < 8 → v.extractLsb' (8 * k) 8 = x.extractLsb' (8 * (7 - k)) 8) ∧
    exec (.lea d a b h) s =
      wrote s gid sl d (BitVec.ofNat 64 (x.toNat + y.toNat * 2 ^ h.toNat)) (p || (g.stream sl).rp b)

/-- O15 (R145, R146): `bnet` copies to each bit of gd the source bit that the pattern names. `bnld` writes the entries of
one step whose mask bit is set, and no other entry of any slot. -/
def Obligations.BitNetworks : Prop :=
  ((∀ (d a b : Reg) (slot : BitVec 3), encode (.bnet d a b slot) =
    [BitVec.ofNat 32 (0x18000004 + d.toNat * 2 ^ 21 + a.toNat * 2 ^ 16 + b.toNat * 2 ^ 11 + slot.toNat * 2 ^ 8)]) ∧
  ∀ (s : State) (gid : Nat) (sl : Slice) (g : Machine.Group) (d a b : Reg) (slot : BitVec 3), Issuing s gid sl g →
    let st := g.stream sl
    ∃ v : Word, exec (.bnet d a b slot) s =
        wrote s gid sl d v (st.rp a || st.rp b || (List.range 64).any (fun k => (patternEntry st slot k).2)) ∧
      ∀ k : Nat, k < 64 → v.getLsbD k = (st.rd a ++ st.rd b : BitVec 128).getLsbD (patternEntry st slot k).1) ∧
  ((∀ (a b : Reg) (slot h : BitVec 3), encode (.bnld a b slot h) =
    [BitVec.ofNat 32 (0x18000005 + a.toNat * 2 ^ 16 + b.toNat * 2 ^ 11 + slot.toNat * 2 ^ 8 + h.toNat * 2 ^ 5)]) ∧
  ∀ (s : State) (gid : Nat) (sl : Slice) (g : Machine.Group) (a b : Reg) (slot h : BitVec 3), Issuing s gid sl g →
    let st := g.stream sl
    ∃ st' : Machine.Stream, exec (.bnld a b slot h) s = .next ((s.setStream gid sl st').advance gid sl) ∧
      st' = { st with bp := st'.bp } ∧
      (∀ (o : BitVec 3) (k : Nat), k < 64 → patternEntry st' o k =
        if o = slot ∧ k / 8 = h.toNat ∧ (st.rd b).getLsbD (k % 8) = true
        then (wbits (st.rd a) (8 * (k % 8) + 6) (8 * (k % 8)), st.rp a || st.rp b)
        else patternEntry st o k))

/-- O16 (R102, R105, R132): An instruction of the scalar family that writes one register leaves every other register,
flag, queue, control and special register and every byte of memory as it was; the stream's PC and loop counters may
move; so does the scan and the loop step after any instruction, which change no register at all. A write of g0 is
discarded and g0 reads as zero with no poison; a write of any other register is read back, with its poison bit, and
leaves the rest. -/
def Obligations.RegisterFrame : Prop :=
  ((∀ (s : State) (gid : Nat) (sl : Slice) (g h : Machine.Group), s.grp? gid = some g → (s.advance gid sl).grp? gid = some h →
    h.ctx = g.ctx → Stream.same g.a h.a ∧ Stream.same g.c h.c ∧ g.sameControl h ∧ g.sameShared h ∧ g.sameEngines h ∧
    g.sameFlow h ∧ sameMemory s (s.advance gid sl) g h) ∧
  ∀ (s t : State) (gid : Nat) (sl : Slice) (g h : Machine.Group) (i : Instr) (d : Reg), Issuing s gid sl g →
    regDest i = some d → exec i s = .next t → t.grp? gid = some h → h.ctx = g.ctx →
    Stream.sameBut (g.stream sl) (h.stream sl) d ∧ Stream.same (g.stream sl.partner) (h.stream sl.partner) ∧
    g.sameControl h ∧ g.sameShared h ∧ g.sameEngines h ∧ g.sameFlow h ∧ sameMemory s t g h) ∧
  (∀ (st : Machine.Stream) (d r : Reg) (v : Word) (p : Bool),
    st.rd 0 = 0 ∧ st.rp 0 = false ∧ st.wr 0 v p = st ∧
    (d ≠ 0 → (st.wr d v p).rd d = v ∧ (st.wr d v p).rp d = p) ∧
    (r ≠ d → (st.wr d v p).rd r = st.rd r ∧ (st.wr d v p).rp r = st.rp r))

/-- O17 (R119, R129, R44, R383, R360): `nop` and `yield` only go on, `stepb` notes the boundary, and `grpid` and `coresid`
write their words. `join` ends the stream for the job where it stands, with its loops and markings discarded. `ifence`
performs the stream's own stores, and with them every other store of the module that has issued (log 8: the rule asks
for the stream's own alone), waits for the answers of the slice's requests to peers, and then its slice finds no copy
of a line that was fetched before; the partner's finds are left. -/
def Obligations.SliceControl : Prop :=
  (∀ (s : State) (gid : Nat) (sl : Slice) (g : Machine.Group) (d : Reg), Issuing s gid sl g →
    exec .nop s = .next (s.advance gid sl) ∧
    exec .yieldSlice s = .next (s.advance gid sl) ∧
    exec .stepb s = .next ((s.mapStream gid sl (fun st => { st with atStep := true })).advance gid sl) ∧
    exec (.grpid d) s = wrote s gid sl d
      (BitVec.ofNat 64 (g.gnum + 2 ^ 16 * g.stack0 + 2 ^ 20 * g.row0 + 2 ^ 24 * g.n.log2 + 2 ^ 28 * g.w.log2)) false ∧
    (∀ l : Launch, s.launch? g.lid = some l →
      exec (.coresid d) s = wrote s gid sl d (BitVec.ofNat 64 (if g.cor then l.chunks else 0)) false)) ∧
  (∀ (s : State) (gid : Nat) (sl : Slice) (g : Machine.Group), Issuing s gid sl g →
    ∃ (t : State) (h : Machine.Group), exec .join s = .next t ∧ t.grp? gid = some h ∧ (h.stream sl).joined = true ∧
      h.mayIssue sl = false ∧ (h.stream sl).pc = (g.stream sl).pc ∧ (h.stream sl).nesting = [] ∧
      (∀ c : BitVec 2, ((h.stream sl).loopAt c).active = false) ∧ (∀ k : Nat, ((h.stream sl).mark k).active = false) ∧
      (h.stream sl).g = (g.stream sl).g ∧ h.stream sl.partner = g.stream sl.partner) ∧
  (∀ (s : State) (gid : Nat) (sl : Slice) (g : Machine.Group), Issuing s gid sl g →
    (∀ h : Machine.Group, s.drainAll.grp? gid = some h → (h.stream sl).sb = []) ∧
    (s.drainAll.peerQuiet gid sl.src = true → exec .ifence s = .next (((s.drainAll.mapGrp gid (fun h =>
      h.forgetCode sl)).mapStream gid sl (fun st => { st with pass := none, fetches := [], fencedAt := s.drainAll.codeSeq })).advance gid sl)) ∧
    (s.drainAll.peerQuiet gid sl.src = false → exec .ifence s = .next (s.drainAll.stallOn gid sl .peer)) ∧
    (∀ l : MemLoc, (g.forgetCode sl).codeCopies sl l = [] ∧
      (g.forgetCode sl).codeCopies sl.partner l = g.codeCopies sl.partner l))

/-- O18 (R403): `trap` and `brk` stop the group with causes 0x30 and 0x31 and SKIP set; `trap` puts g[ga] in ADDR,
whatever its poison; no register changes; a stream with SKIP set goes on after the instruction. -/
def Obligations.SoftwareTraps : Prop :=
  ∀ (s : State) (gid : Nat) (sl : Slice) (g : Machine.Group) (a : Reg), Issuing s gid sl g →
    (∃ (t : State) (h : Machine.Group), exec (.trapSw a) s = .next t ∧ t.grp? gid = some h ∧ h.status = .stopping ∧
      h.mayIssue sl = false ∧ (h.stream sl).skip = true ∧
      (h.stream sl).pc = (g.stream sl).pc ∧ Stream.same (g.stream sl) (h.stream sl) ∧ sameMemory s t g h ∧
      (g.recs.all (fun r => 1 < r.src) = true →
        ∃ r : TrapRec, h.recs = g.recs ++ [r] ∧ r.src = sl.src ∧ r.cause = 0x30 ∧ r.addr = (g.stream sl).rd a ∧ r.skip = true)) ∧
    (∃ (t : State) (h : Machine.Group), exec .brk s = .next t ∧ t.grp? gid = some h ∧ h.status = .stopping ∧
      h.mayIssue sl = false ∧ (h.stream sl).skip = true ∧
      (h.stream sl).pc = (g.stream sl).pc ∧ Stream.same (g.stream sl) (h.stream sl) ∧ sameMemory s t g h ∧
      (g.recs.all (fun r => 1 < r.src) = true →
        ∃ r : TrapRec, h.recs = g.recs ++ [r] ∧ r.src = sl.src ∧ r.cause = 0x31 ∧ r.skip = true)) ∧
    (∀ cx : Context, s.ctx? g.ctx = some cx → (g.stream sl).midway = false → (g.stream sl).skip = true →
      s.fetchInstr gid sl = .idle ((s.beginTurn gid sl).advance gid sl))

/-- O19 (R379, R380, R381, R118): What raising a trap does to a group that runs or is stopping already (R379 to R381): it
is stopping, the record holds the cause, the source, the address and the status, stalled instructions are left
unexecuted, no register or memory changes, and a second trap of a stream in one stop gets no record; every trap of
another source gets one, behind those there. -/
def Obligations.TrapEntry : Prop :=
  ∀ (s : State) (gid : Nat) (sl : Slice) (g : Machine.Group) (x : TrapInfo) (b : Bool) (src idx : Nat), s.grp? gid = some g →
    g.status = .running ∨ g.status = .stopping →
    let rec_ (src idx : Nat) : TrapRec :=
      { src := src, cause := x.cause, reason := x.reason, level := x.level, phys := x.phys, skip := b,
        addr := BitVec.ofNat 64 x.addr, status := x.status, qsel := x.qsel, slot := x.slot, cmdidx := idx, cycle := g.cycle }
    let halted (t : State) (h : Machine.Group) : Prop :=
      h.status = .stopping ∧ h.a.stall = none ∧ h.c.stall = none ∧ Stream.same g.a h.a ∧ Stream.same g.c h.c ∧
      g.sameControl h ∧ g.sameShared h ∧ g.sameEngines h ∧ g.sameFlow h ∧ sameMemory s t g h
    (∃ h : Machine.Group, (s.trapStream gid sl x b).grp? gid = some h ∧ halted (s.trapStream gid sl x b) h ∧
      h.mayIssue sl = false ∧ (h.stream sl).pc = (g.stream sl).pc ∧ (h.stream sl).skip = b ∧
      h.recs = if g.recs.any (fun r => r.src ≤ 1) = true then g.recs else g.recs ++ [rec_ sl.src g.cmdCount]) ∧
    (1 < src → ∃ h : Machine.Group, (s.raise gid src x b idx).grp? gid = some h ∧ halted (s.raise gid src x b idx) h ∧
      h.a.pc = g.a.pc ∧ h.c.pc = g.c.pc ∧ h.a.skip = g.a.skip ∧ h.c.skip = g.c.skip ∧ h.recs = g.recs ++ [rec_ src idx])

/-- O20 (R401, R404, R405, R425): `rdcr` reads the register and clears the poison bit; `wrcr` writes rw fields, clears the
w1c bits that are set in g[ga], and leaves read-only registers; `rdcnt` reads a group counter, or a stack counter that
is filtered to the group's context, else 0. `chk.err` waits for the commands that were present at its issue, then
reads the sticky bits and clears none. That counters 8 to 15 of a stack select nothing is the model's reading (log
39). -/
def Obligations.ControlRegisters : Prop :=
  (∀ (s : State) (gid : Nat) (sl : Slice) (g : Machine.Group) (cx : Context) (d a : Reg) (n : BitVec 5),
    Issuing s gid sl g → s.ctx? g.ctx = some cx →
    let v := (g.stream sl).rd a
    (n.toNat < 11 → exec (.rdcr d n) s = wrote s gid sl d (controlMap g cx.desc n.toNat) false) ∧
    ((g.stream sl).rp a = false → exec (.wrcr a n) s = .next ((s.setGrp (match n.toNat with
      | 0 => { g with chk := g.chk &&& ~~~(v.extractLsb' 0 3) }
      | 1 => { g with fflags := v.extractLsb' 0 6 }
      | 2 => if v.toNat % 8 ≤ 4 then { g with round := v.extractLsb' 0 3 } else g
      | 3 => { g with slipLim := v.extractLsb' 0 7 }
      | 4 => { g with tol := v.extractLsb' 0 6 }
      | _ => g)).advance gid sl)) ∧
    (n.toNat < 8 → exec (.rdcnt d n) s = wrote s gid sl d (g.counters.toList.getD n.toNat 0) false) ∧
    (8 ≤ n.toNat → ∀ b : BootCfg, s.boot = some b →
      let w := (b.ssel.getD (n.toNat - 8) 0).toNat
      exec (.rdcnt d n) s = wrote s gid sl d
        (if w / 2 ^ 14 % 2 = 1 ∧ w / 2 ^ 8 % 64 = g.ctx then (s.stack g.stack0).counters.toList.getD (n.toNat - 8) 0 else 0)
        false)) ∧
  (∀ (s : State) (gid : Nat) (sl : Slice) (g : Machine.Group) (d : Reg), Issuing s gid sl g →
    let mark := (g.stream sl).chkMark.getD g.nextUid
    ((∀ q : EQueue, ∀ c ∈ g.queue q, mark ≤ c.uid) → exec (.chkErr d) s =
      .next ((s.mapStream gid sl (fun st => ({ st with chkMark := none }.wr d (g.chk.setWidth 64) false))).advance gid sl)) ∧
    ((∃ q : EQueue, ∃ c ∈ g.queue q, c.uid < mark) → ∃ (t : State) (h : Machine.Group), exec (.chkErr d) s = .next t ∧ t.grp? gid = some h ∧
      (h.stream sl).chkMark = some mark ∧ (h.stream sl).stall = some .engine ∧ (h.stream sl).g = (g.stream sl).g))

/-- O21 (R43, R48, R63, R117, R120, R121, R124): A branch on registers goes on where its condition fails, goes to the
target of R48 where it holds and the target passes R43's checks, and traps at the branch where it does not. `b`,
`call` and `jr`: `call` writes to g31 the address at which the scan after it stops; `jr` goes to g[ga]; a target that
fails a check, or that scan, stops the stream at the instruction. The checks of a target (R43): its alignment for
`jr`, the fetch of its line, the form of the line, and a tag of the stream in a lane of a code line. The target of
R48, by the 13-bit and 16-bit fields of branches and loop ends and the 26-bit one of jumps: lines count from the
instruction's own line, the low three bits of the field name the lane. `bqz` and `bqnz` pop the head value of bq`q`
into gd and branch on it; on an empty queue they stall, or trap with 0x11 once the C-slice has joined; a fault marker
traps with 0x10, a poison marker loses the context, and a target that fails a check traps, with nothing popped; on the
C-slice they are illegal. A taken transfer that is no `call` deactivates the outermost active loop whose body it
leaves, with every loop inner to it, and no other; a `call`, and a transfer that leaves no body, deactivate nothing.
That bqz and bqnz of the A-slice trap with cause 0x10 at a fault marker, which only an edited image puts into bq0 or
bq1, is the model's choice (log 49): R116 says it of the C-slice alone. -/
def Obligations.BranchesAndJumps : Prop :=
  (∀ (s : State) (gid : Nat) (sl : Slice) (g : Machine.Group) (i : Instr) (a b : Reg) (c : Word → Word → Bool) (t : Word → Word),
    Issuing s gid sl g → branchShape i = some (a, b, c, t) → (g.stream sl).rp a = false → (g.stream sl).rp b = false →
    let target := t (g.stream sl).pc
    let holds := c ((g.stream sl).rd a) ((g.stream sl).rd b)
    (holds = false → exec i s = .next (s.advance gid sl)) ∧
    (holds = true → ∀ (s1 : State) (ws : List (BitVec 32)), s.checkTarget gid sl target false = .ok s1 ws →
      exec i s = .next (s1.transfer gid sl target true) ∧
      ∀ h : Machine.Group, (s1.transfer gid sl target true).grp? gid = some h → (h.stream sl).pc = target) ∧
    (holds = true → ∀ (s1 : State) (x : TrapInfo), s.checkTarget gid sl target false = .trap s1 x →
      exec i s = trapped s1 gid sl x)) ∧
  (∀ (s s1 : State) (gid : Nat) (sl : Slice) (g : Machine.Group) (a : Reg) (t : BitVec 26) (ws : List (BitVec 32)), Issuing s gid sl g →
    let target := branchTarget (g.stream sl).pc 26 t
    (s.checkTarget gid sl target false = .ok s1 ws → exec (.br t) s = .next (s1.transfer gid sl target true)) ∧
    (∀ (s2 : State) (link : Word), s.checkTarget gid sl target false = .ok s1 ws →
      s1.scanAfter gid sl (g.stream sl).pc = .ok s2 link →
      exec (.call t) s = .next ((s2.mapStream gid sl (fun st => st.wr 31 link false)).transfer gid sl target false)) ∧
    ((g.stream sl).rp a = false → s.checkTarget gid sl ((g.stream sl).rd a) true = .ok s1 ws →
      exec (.jr a) s = .next (s1.transfer gid sl ((g.stream sl).rd a) true)) ∧
    ((g.stream sl).rp a = false → ((g.stream sl).rd a).toNat % 4 ≠ 0 →
      exec (.jr a) s = trapped s gid sl { cause := 0x05, addr := ((g.stream sl).rd a).toNat }) ∧
    (∀ x : TrapInfo, s.checkTarget gid sl target false = .trap s1 x →
      exec (.br t) s = trapped s1 gid sl x ∧ exec (.call t) s = trapped s1 gid sl x) ∧
    (∀ (s2 : State) (x : TrapInfo), s.checkTarget gid sl target false = .ok s1 ws →
      s1.scanAfter gid sl (g.stream sl).pc = .trap s2 x → exec (.call t) s = trapped s2 gid sl x) ∧
    ((g.stream sl).rp a = false → ∀ x : TrapInfo, s.checkTarget gid sl ((g.stream sl).rd a) true = .trap s1 x →
      exec (.jr a) s = trapped s1 gid sl x)) ∧
  (∀ (s s1 : State) (gid : Nat) (sl : Slice) (target : Word) (jr : Bool),
    let a := target.toNat
    let va := a / 32 * 32
    let lane := a % 32 / 4
    (jr = true → a % 4 ≠ 0 → s.checkTarget gid sl target jr = .trap s { cause := 0x05, addr := a }) ∧
    ((jr = true → a % 4 = 0) →
      (∀ x : TrapInfo, s.fetchNew gid sl va = .trap s1 x → s.checkTarget gid sl target jr = .trap s1 x) ∧
      (∀ ws : List (BitVec 32), s.fetchNew gid sl va = .ok s1 ws →
        (lineOk ws = false → s.checkTarget gid sl target jr = .trap s1 { cause := 0x02, addr := va }) ∧
        (lineOk ws = true → lineKind ws ≠ 0 ∨ lane = 0 ∨ laneTag ws lane ≠ sl.tag →
          s.checkTarget gid sl target jr = .trap s1 { cause := 0x04, addr := a }) ∧
        (lineOk ws = true → lineKind ws = 0 → 1 ≤ lane → laneTag ws lane = sl.tag → s.checkTarget gid sl target jr = .ok s1 ws)))) ∧
  ((∀ (pc : Word) (t : BitVec 13) (u : BitVec 16) (w : BitVec 26),
    let at_ (x : Int) : Word := BitVec.ofInt 64 ((pc.toNat / 32 * 32 : Int) + 32 * (x / 8) + 4 * (x % 8))
    branchTarget pc 13 t = at_ t.toInt ∧ branchTarget pc 16 u = at_ u.toInt ∧ branchTarget pc 26 w = at_ w.toInt) ∧
  branchTarget 0x1064 26 0x3FFFFEA = 0x1008) ∧
  (∀ (s s1 : State) (gid : Nat) (sl : Slice) (g : Machine.Group) (q : BitVec 1) (d : Reg) (t : BitVec 16) (v : Word)
    (rest : List QEntry) (ws : List (BitVec 32)), Issuing s gid sl g →
    let target := branchTarget (g.stream sl).pc 16 t
    let take (s : State) : State := (s.mapGrp gid (fun h =>
      (h.popQueue (4 + q.toNat)).setStream sl ((h.stream sl).wr d v false))).count gid 1 1
    let both (o : Out) : Prop := exec (.bqz q d t) s = o ∧ exec (.bqnz q d t) s = o
    (sl = .c → exec (.bqz q d t) s = trapped s gid sl { cause := 0x01, status := encodeStatus (.bqz q d t) } ∧
      exec (.bqnz q d t) s = trapped s gid sl { cause := 0x01, status := encodeStatus (.bqnz q d t) }) ∧
    (sl = .a → (g.q (4 + q.toNat)).ents = [] → (g.c.joined = false → both (.next (s.stallOn gid sl .queueEmpty))) ∧
      (g.c.joined = true → both (trapped s gid sl { cause := 0x11 }))) ∧
    (sl = .a → (g.q (4 + q.toNat)).ents = .data v :: rest →
      (v ≠ 0 → exec (.bqz q d t) s = .next ((take s).advance gid sl)) ∧
      (v = 0 → exec (.bqnz q d t) s = .next ((take s).advance gid sl)) ∧
      (s.checkTarget gid sl target false = .ok s1 ws →
        (v = 0 → exec (.bqz q d t) s = .next ((take s1).transfer gid sl target true)) ∧
        (v ≠ 0 → exec (.bqnz q d t) s = .next ((take s1).transfer gid sl target true))) ∧
      (∀ x : TrapInfo, s.checkTarget gid sl target false = .trap s1 x →
        (v = 0 → exec (.bqz q d t) s = trapped s1 gid sl x) ∧ (v ≠ 0 → exec (.bqnz q d t) s = trapped s1 gid sl x))) ∧
    (∀ (c n : Nat) (w : Word), sl = .a → (g.q (4 + q.toNat)).ents = .fault c n w :: rest → both (trapped s gid sl
      { cause := 0x10, addr := w.toNat, status := BitVec.ofNat 64 (c + 64 * n), qsel := 4 + q.toNat, slot := (g.q (4 + q.toNat)).head })) ∧
    (∀ (c n : Nat) (w : Word), sl = .a → (g.q (4 + q.toNat)).ents = .poison c n w :: rest → both (.next (s.loseControl gid sl)))) ∧
  (∀ (s : State) (gid : Nat) (sl : Slice) (g : Machine.Group) (target : Word), s.grp? gid = some g →
    let st := g.stream sl
    let within (k : BitVec 2) (x : Word) : Prop := (st.loopAt k).head.toNat ≤ x.toNat ∧ x.toNat ≤ (st.loopAt k).end_.toNat
    let left (k : BitVec 2) : Prop := within k st.pc ∧ ¬ within k target
    let after (leaves : Bool) (p : Machine.Stream → Prop) : Prop :=
      ∃ h : Machine.Group, (s.transfer gid sl target leaves).grp? gid = some h ∧ (h.stream sl).pc = target ∧ p (h.stream sl)
    after false (fun x => x.lc = st.lc ∧ x.nesting = st.nesting) ∧
    ((∀ k ∈ st.nesting, ¬ left k) → after true (fun x => x.lc = st.lc ∧ x.nesting = st.nesting)) ∧
    ∀ (outer inner : List (BitVec 2)) (c : BitVec 2), st.nesting = outer ++ c :: inner → (∀ k ∈ outer, ¬ left k) → left c →
      after true (fun x => x.nesting = outer ∧ ∀ k : BitVec 2, x.loopAt k =
        if k ∈ c :: inner then { st.loopAt k with active := false } else st.loopAt k))

/-- O22 (R122, R123, R42): `loop` and `loopi` with a count of 0 go on after the body; with a positive count they activate
the counter with the head at which the scan stops and go there. The checks of `loop` and `loopi` in R122's order: an
end that fails R43's checks stops the stream with their cause; one at or before the instruction, one that names a
control instruction or a `join`, an active counter, and an end beyond that of an enclosing loop stop it with cause
0x06. After an instruction at the end of the innermost active loop, a count above 1 is decremented and the stream goes
to the head; a count of 1 becomes 0, the loop is deactivated and the next outer loop is looked at. The scan that
follows an instruction which ends no loop iteration begins after its word, or after both its words, and stops at the
next lane that bears the stream's tag, in its line or in one of the 16 that follow, over the data lines among them,
and the PC moves there; without such a lane the stream stops with cause 0x03, and at a malformed line with 0x02 (R42).
That a scan made again after a resume looks for the halves of a long instruction as Stream.wideAt says is the model's
choice (log 43). -/
def Obligations.LoopResults : Prop :=
  (∀ (s s1 s2 : State) (gid : Nat) (sl : Slice) (g : Machine.Group) (c : BitVec 2) (a : Reg) (n : BitVec 7) (t : BitVec 16)
    (ws : List (BitVec 32)) (pc : Word), Issuing s gid sl g →
    let st := g.stream sl
    let end_ := branchTarget st.pc 16 t
    let started (x : Word) : State := s2.mapStream gid sl (fun st =>
      ({ st.setLoop c { count := x, head := pc, end_ := end_, active := true } with nesting := st.nesting ++ [c] }).stepTo pc)
    s.checkTarget gid sl end_ false = .ok s1 ws → st.pc.toNat < end_.toNat →
    endsNoBody (ws.getD (end_.toNat % 32 / 4) 0) = false → (st.loopAt c).active = false →
    (∀ k ∈ st.nesting, end_.toNat ≤ (st.loopAt k).end_.toNat) → st.rp a = false →
    (s1.scanAfter gid sl end_ = .ok s2 pc →
      (st.rd a = 0 → exec (.loop c a t) s = .next (s2.mapStream gid sl (fun st => st.stepTo pc))) ∧
      (n = 0 → exec (.loopi c n t) s = .next (s2.mapStream gid sl (fun st => st.stepTo pc)))) ∧
    (s1.scanAfter gid sl st.pc = .ok s2 pc →
      (st.rd a ≠ 0 → exec (.loop c a t) s = .next (started (st.rd a))) ∧
      (n ≠ 0 → exec (.loopi c n t) s = .next (started (BitVec.ofNat 64 n.toNat))))) ∧
  (∀ (s s1 : State) (gid : Nat) (sl : Slice) (g : Machine.Group) (c : BitVec 2) (a : Reg) (n : BitVec 7) (t : BitVec 16)
    (ws : List (BitVec 32)), Issuing s gid sl g →
    let st := g.stream sl
    let end_ := branchTarget st.pc 16 t
    let last := ws.getD (end_.toNat % 32 / 4) 0
    let both (o : Out) : Prop := exec (.loop c a t) s = o ∧ exec (.loopi c n t) s = o
    (∀ x : TrapInfo, s.checkTarget gid sl end_ false = .trap s1 x → both (trapped s1 gid sl x)) ∧
    (s.checkTarget gid sl end_ false = .ok s1 ws →
      end_.toNat ≤ st.pc.toNat ∨ (0x12 ≤ last.toNat / 2 ^ 26 ∧ last.toNat / 2 ^ 26 ≤ 0x18) ∨ last = 1 ∨ (st.loopAt c).active = true ∨
        (∃ k ∈ st.nesting, (st.loopAt k).end_.toNat < end_.toNat) →
      both (trapped s1 gid sl { cause := 0x06, addr := end_.toNat }))) ∧
  (∀ (s s1 : State) (gid : Nat) (sl : Slice) (g : Machine.Group) (c : BitVec 2) (outer : List (BitVec 2)) (ws : List (BitVec 32)),
    s.grp? gid = some g → (g.stream sl).nesting = outer ++ [c] →
    let st := g.stream sl
    let l := st.loopAt c
    l.end_ = st.pc → l.active = true →
    (1 < l.count.toNat → s.checkTarget gid sl l.head false = .ok s1 ws → ∃ h : Machine.Group, (s.advance gid sl).grp? gid = some h ∧
      (h.stream sl).pc = l.head ∧ ((h.stream sl).loopAt c).count = l.count - 1 ∧
      ((h.stream sl).loopAt c).active = true ∧ (h.stream sl).nesting = st.nesting ∧ (h.stream sl).g = st.g) ∧
    (l.count = 1 → loopStep st.pc (c :: outer.reverse) st =
      loopStep st.pc outer.reverse (st.setLoop c { l with count := 0, active := false }))) ∧
  (∀ (s : State) (gid : Nat) (sl : Slice) (g : Machine.Group) (t : Nat → State) (ws : Nat → List (BitVec 32)) (m k : Nat),
    s.grp? gid = some g → (∀ (outer : List (BitVec 2)) (c : BitVec 2),
      (g.stream sl).nesting = outer ++ [c] → ((g.stream sl).loopAt c).end_ ≠ (g.stream sl).pc) →
    let st := g.stream sl
    let va := st.pc.toNat / 32 * 32
    let lane := st.pc.toNat % 32 / 4
    let line (j : Nat) : Nat := if j = 0 then va else (va + 32 * j) % 2 ^ 64
    let first (j : Nat) : Nat := if 0 < j then 1 else if st.wideAt st.pc ((ws 0).getD lane 0) then lane + 2 else lane + 1
    let read (j : Nat) : Prop := if j = 0 ∧ lane = 7 then t 1 = s ∧ lineOk (ws 0) = true
      else (t j).fetchLine gid sl (line j) = .ok (t (j + 1)) (ws j)
    let stops (j k : Nat) : Prop := lineKind (ws j) = 0 ∧ first j ≤ k ∧ k < 8 ∧ laneTag (ws j) k = sl.tag
    let moved (pc : Nat) : Prop := ∃ h : Machine.Group, (s.advance gid sl).grp? gid = some h ∧ (h.stream sl).pc = BitVec.ofNat 64 pc ∧
      (h.stream sl).g = st.g ∧ (h.stream sl).skip = false
    t 0 = s → m ≤ 16 → (∀ j : Nat, j ≤ m → read j) → (∀ j : Nat, j < m → lineOk (ws j) = true ∧ ∀ k : Nat, ¬ stops j k) →
    (lineOk (ws m) = true → stops m k → (∀ j : Nat, j < k → ¬ stops m j) → (m = 0 → lane < 7) → moved (line m + 4 * k)) ∧
    (lineOk (ws m) = false → s.advance gid sl = (t (m + 1)).trapStream gid sl { cause := 0x02, addr := line m } true) ∧
    (m = 16 → lineOk (ws m) = true → (∀ k : Nat, ¬ stops m k) →
      s.advance gid sl = (t (m + 1)).trapStream gid sl { cause := 0x03, addr := line m } true))

/-- O23 (R125): The words of the stage-predicate instructions and what they do: bit 0 reads 1 whatever is written, `spset`
ORs, `spshift` shifts bits 6 to 1 up, `spget` reads; on the A-slice all three are illegal. -/
def Obligations.StagePredicates : Prop :=
  (∀ (d a : Reg) (i : BitVec 8) (b : BitVec 1),
    encode (.spset a i) = [BitVec.ofNat 32 (0x64000000 + a.toNat * 2 ^ 14 + i.toNat)] ∧
    encode (.spshift b) = [BitVec.ofNat 32 (0x65000000 + b.toNat)] ∧
    encode (.spget d) = [BitVec.ofNat 32 (0x66000000 + d.toNat * 2 ^ 19)]) ∧
  (∀ (w1 w2 : BitVec 32) (x : Instr), w1.toNat / 2 ^ 26 = 0x19 → decodeWords w1 w2 = .ok x →
    encode x = [w1] ∧ ((∃ a i, x = .spset a i) ∨ (∃ b, x = .spshift b) ∨ ∃ d, x = .spget d)) ∧
  ∀ (s : State) (gid : Nat) (sl : Slice) (g : Machine.Group) (d a : Reg) (i : BitVec 8) (b : BitVec 1), Issuing s gid sl g →
    (sl = .a → exec (.spset a i) s = trapped s gid sl { cause := 0x01, status := encodeStatus (.spset a i) } ∧
      exec (.spshift b) s = trapped s gid sl { cause := 0x01, status := encodeStatus (.spshift b) } ∧
      exec (.spget d) s = trapped s gid sl { cause := 0x01, status := encodeStatus (.spget d) }) ∧
    (sl = .c →
      ((g.stream sl).rp a = false → ∃ p : BitVec 8, exec (.spset a i) s = .next ((s.setGrp { g with sp := p }).advance gid sl) ∧
        p.getLsbD 0 = true ∧ ∀ k : Nat, 1 ≤ k → k < 8 → p.getLsbD k = (((g.stream sl).rd a).getLsbD k || i.getLsbD k)) ∧
      (∃ p : BitVec 8, exec (.spshift b) s = .next ((s.setGrp { g with sp := p }).advance gid sl) ∧
        p.getLsbD 0 = true ∧ p.getLsbD 1 = b.getLsbD 0 ∧ ∀ k : Nat, 2 ≤ k → k < 8 → p.getLsbD k = g.sp.getLsbD (k - 1)) ∧
      exec (.spget d) s = wrote s gid sl d (BitVec.ofNat 64 g.sp.toNat) false)

/-- O24 (R106, R112, R113, R116, R117, R127): `push` at the producer of a queue with room, `pop`, `peek` and `qdrop` at
its consumer, `qcnt` at either slice. A poison marker popped, or read by `peek`, gives 0 with P and sets DP; a fault
marker stops the stream with cause 0x10 and is not removed; a head that is still pending stalls the consumer until it
is filled; an empty queue stalls it, or traps with 0x11 once the producer has joined; a full one stalls its producer,
or traps with 0x12 once the consumer has joined. The slip counter: `slip` counts up while it is below the limit in
force, `catch` down while it is above 0, `slipset` sets it to at most 64; at the limit `slip` stalls or traps with
0x12, at 0 `catch` stalls or traps with 0x11. That the A-slice's pop and peek trap with cause 0x10 at a fault marker,
which only an edited image puts into bq0 or bq1, is the model's choice (log 49): R116 says it of the C-slice alone. -/
def Obligations.QueueResults : Prop :=
  (∀ (s : State) (gid : Nat) (sl : Slice) (g : Machine.Group) (q : BitVec 3) (d a : Reg) (v : Word) (rest : List QEntry),
    Issuing s gid sl g → q.toNat < 6 →
    let st := g.stream sl
    let x := g.q q.toNat
    let depth := if q.toNat < 4 then 32 else 8
    let event (s : State) : State := if 4 ≤ q.toNat then s.count gid 1 1 else s
    let queue (ents : List QEntry) (head : Nat) : Machine.Group := g.setQ q.toNat { head := head, ents := ents }
    (sl = producer q.toNat → x.ents.length < depth → exec (.push q a) s = .next ((s.setGrp (queue
      (x.ents ++ [if st.rp a then .poison 0 0 0 else .data (st.rd a)]) x.head)).advance gid sl)) ∧
    (sl = consumer q.toNat → x.ents = .data v :: rest →
      exec (.pop q d) s = .next ((event (s.setGrp ((queue rest ((x.head + 1) % depth)).setStream sl (st.wr d v false)))).advance gid sl) ∧
      exec (.peek q d) s = .next ((event (s.setGrp (g.setStream sl (st.wr d v false)))).advance gid sl)) ∧
    (sl = consumer q.toNat →
      exec (.qdrop q) s = .next ((s.setGrp (queue [] ((x.head + x.ents.length) % depth))).advance gid sl)) ∧
    exec (.qcnt q d) s = wrote s gid sl d (BitVec.ofNat 64 x.ents.length) false) ∧
  (∀ (s : State) (gid : Nat) (sl : Slice) (g : Machine.Group) (q : BitVec 3) (d a : Reg) (c n : Nat) (w : Word) (rest : List QEntry),
    Issuing s gid sl g → q.toNat < 6 →
    let x := g.q q.toNat
    let depth := if q.toNat < 4 then 32 else 8
    let event (s : State) : State := if 4 ≤ q.toNat then s.count gid 1 1 else s
    let reads (o : Out) : Prop := exec (.pop q d) s = o ∧ exec (.peek q d) s = o
    (sl = consumer q.toNat → x.ents = .poison c n w :: rest →
      exec (.pop q d) s = .next ((event ((s.dataPoison gid).mapGrp gid (fun h =>
        (h.popQueue q.toNat).setStream sl ((h.stream sl).wr d 0 true)))).advance gid sl) ∧
      exec (.peek q d) s = .next ((event ((s.dataPoison gid).mapGrp gid (fun h =>
        h.setStream sl ((h.stream sl).wr d 0 true)))).advance gid sl)) ∧
    (sl = consumer q.toNat → x.ents = .fault c n w :: rest → reads (trapped s gid sl
      { cause := 0x10, addr := w.toNat, status := BitVec.ofNat 64 (c + 64 * n), qsel := q.toNat, slot := x.head })) ∧
    (∀ (nf : Bool) (seq : Nat) (p : Option Part) (tags : List Nat), sl = consumer q.toNat → x.ents = .pending nf n w seq p tags :: rest →
      reads (.next (s.stallOn gid sl .queueEmpty))) ∧
    (sl = consumer q.toNat → x.ents = [] → (g.stream sl.partner).joined = false → reads (.next (s.stallOn gid sl .queueEmpty))) ∧
    (sl = consumer q.toNat → x.ents = [] → (g.stream sl.partner).joined = true → reads (trapped s gid sl { cause := 0x11 })) ∧
    (sl = producer q.toNat → depth ≤ x.ents.length → (g.stream sl.partner).joined = false →
      exec (.push q a) s = .next (s.stallOn gid sl .queueFull)) ∧
    (sl = producer q.toNat → depth ≤ x.ents.length → (g.stream sl.partner).joined = true →
      exec (.push q a) s = trapped s gid sl { cause := 0x12 })) ∧
  (∀ (s : State) (gid : Nat) (sl : Slice) (g : Machine.Group) (a : Reg), Issuing s gid sl g →
    let limit := if g.slipLim.toNat = 0 then 1 else min g.slipLim.toNat 64
    (sl = .a → g.slip < limit → exec .slip s = .next ((s.setGrp { g with slip := g.slip + 1 }).advance gid sl)) ∧
    (sl = .a → limit ≤ g.slip → g.c.joined = false → exec .slip s = .next (s.stallOn gid sl .slip)) ∧
    (sl = .a → limit ≤ g.slip → g.c.joined = true → exec .slip s = trapped s gid sl { cause := 0x12 }) ∧
    (sl = .c → 0 < g.slip → exec .slipCatch s = .next ((s.setGrp { g with slip := g.slip - 1 }).advance gid sl)) ∧
    (sl = .c → g.slip = 0 → g.a.joined = false → exec .slipCatch s = .next (s.stallOn gid sl .slip)) ∧
    (sl = .c → g.slip = 0 → g.a.joined = true → exec .slipCatch s = trapped s gid sl { cause := 0x11 }) ∧
    ((g.stream sl).rp a = false →
      exec (.slipset a) s = .next ((s.setGrp { g with slip := min ((g.stream sl).rd a).toNat 64 }).advance gid sl)))

/-- O25 (R107, R111, R128): `lq` and `lq.nf` allocate a pending entry with the address and its place in the order of the
slice's accesses, and go on; at a full queue they stall, or trap with 0x12 once the C-slice has joined; the fill of
the oldest pending entry reads the bytes, on an SO page after the slice's earlier stores to them (R255), and a
misaligned address, a failed translation or a page of class ORD 3 leaves a fault marker for `lq` and a poison marker
for `lq.nf`. -/
def Obligations.LoadQueueResults : Prop :=
  ∀ (s s1 : State) (gid : Nat) (g : Machine.Group) (q z : BitVec 2) (a : Reg) (o : BitVec 16),
    (Issuing s gid .a g → (g.q q.toNat).ents.length < 32 → g.a.rp a = false →
      let pend (nf : Bool) : QEntry := .pending nf z.toNat (g.a.rd a + o.signExtend 64) g.a.sbSeq none []
      let put (nf : Bool) : Machine.Group := { g.setQ q.toNat { head := (g.q q.toNat).head, ents := (g.q q.toNat).ents ++ [pend nf] } with
        a := { g.a with sbSeq := g.a.sbSeq + 1 } }
      exec (.lq q z a o) s = .next ((s.setGrp (put false)).advance gid .a) ∧
      exec (.lqNf q z a o) s = .next ((s.setGrp (put true)).advance gid .a)) ∧
    (Issuing s gid .a g → 32 ≤ (g.q q.toNat).ents.length → ∀ i : Instr, i = .lq q z a o ∨ i = .lqNf q z a o →
      (g.c.joined = false → exec i s = .next (s.stallOn gid .a .queueFull)) ∧
      (g.c.joined = true → exec i s = trapped s gid .a { cause := 0x12 })) ∧
    (∀ (cx : Context) (k n : Nat) (nf : Bool) (x : Word) (seq : Nat) (l : MemLoc) (ord : Nat) (f : XFault),
      s.grp? gid = some g → s.ctx? g.ctx = some cx → (g.q q.toNat).head = k → k < 32 →
      (g.q q.toNat).ents.head? = some (.pending nf n x seq none []) →
      g.pendings.filter (fun y => y.1 < seq + 1) = [(seq, q.toNat, 0)] →
      let v : Viewer := { gid := some gid, sl := some .a, upTo := some seq, bind := g.bind }
      let marker (c : Nat) : QEntry := if nf then .poison c n x else .fault c n x
      let fill (s : State) (e : QEntry) : Out := .next (s.mapGrp gid (fun h => h.setEntry q.toNat 0 e))
      let u := s.unwait (gid, 8)
      let read : Host.Outcome State Fault Refusal := exec (.lqFill gid q.toNat k) s
      (x.toNat % 2 ^ n ≠ 0 → read = fill u (marker 0x0B)) ∧
      (x.toNat % 2 ^ n = 0 → u.translate (.ctl g.ctl) v cx x.toNat needR = (s1, .fault f) → read = fill s1 (marker f.cause)) ∧
      (x.toNat % 2 ^ n = 0 → u.translate (.ctl g.ctl) v cx x.toNat needR = (s1, .ok l 3) → read = fill s1 (marker 0x0A)) ∧
      (x.toNat % 2 ^ n = 0 → u.translate (.ctl g.ctl) v cx x.toNat needR = (s1, .ok l ord) → ord ≠ 3 →
        (∀ id p : Nat, l ≠ .peer id p) → (ord = 0 → s1.soQuiet gid 0 (some seq) = true) →
        let t := if ord = 0 then s1.drainOverlap v true l (2 ^ n) else s1
        read = fill t (if (t.viewRead v l (2 ^ n)).2 then .poison 0 n x else .data (leWord (t.viewRead v l (2 ^ n)).1))))

/-- O26 (R233, R236, R239, R105): A load whose access passes its checks writes the bytes it reads, zero- or sign-extended
from its size; poisoned bytes give 0 with P set, set DP and count; a failed check stops the stream with its cause.
That the pending loads of the A-slice's queues are made before a load of it is the model's choice (log 8). -/
def Obligations.LoadResults : Prop :=
  ∀ (s s1 : State) (gid : Nat) (sl : Slice) (g : Machine.Group) (i : Instr) (a d : Reg) (off : Word) (n : Nat) (sg al uo : Bool)
    (parts : List Part), Issuing s gid sl g → loadShape i = some (a, off, n, sg, al, uo, d) → (g.stream sl).rp a = false →
    let x := ((g.stream sl).rd a + off).toNat
    (s.access gid sl x n needR al uo = .ok s1 parts → ∀ (s2 : State) (bytes : List Byte),
      ((s1.settleLoads gid sl).readSlice gid sl parts = .ok s2 (bytes, false) → bytes.length = n → exec i s = wrote s2 gid sl d
        (if sg then (BitVec.ofNat (8 * n) (leNat bytes)).signExtend 64 else BitVec.ofNat 64 (leNat bytes)) false) ∧
      ((s1.settleLoads gid sl).readSlice gid sl parts = .ok s2 (bytes, true) → exec i s =
        .next (((s2.mapStream gid sl (fun st => st.wr d 0 true)).dataPoison gid).advance gid sl))) ∧
    (∀ y : TrapInfo, s.access gid sl x n needR al uo = .trap s1 y → exec i s = trapped s1 gid sl y) ∧
    (∀ cx : Context, s.ctx? g.ctx = some cx → (g.stream sl).reqs = [] → al = true → x % n ≠ 0 →
      exec i s = trapped s gid sl { cause := 0x0B, addr := x })

/-- O27 (R364, R365, R366, R368, R370): What a walk answers: an address of 2^48 or more, a root without V, an entry whose
read fails, a poisoned entry, an entry without V, a malformed entry, a hole or a frame of another owner that holds the
next table or the addressed byte, each permission that the leaf does not give, and else the leaf, whose place is its
frame and the offset in the page; a well-formed pointer, the root's too, is followed (R364 to R370). -/
def Obligations.WalkEnds : Prop :=
  ∀ (s : State) (cx : Context) (va : Nat) (need : Need) (rd : MemLoc → Nat × Bool) (tab : MemLoc) (fuel level : Nat),
    let at_ := tab.shift (8 * levelIndex va level)
    let e := (rd at_).1
    let leaf := entryLeaf va e level
    let go := walkFrom s cx.num va need rd (fuel + 1) level tab
    let root := cx.desc.root.toNat
    let fault (cause reason level : Nat) : WalkRes := .fault { cause := cause, reason := reason, level := level }
    let next (word : Nat) : Nat := word / 2 ^ 8 % 2 ^ 46 * 2 ^ 8
    let follows (r : WalkRes) (word level : Nat) (down : MemLoc → WalkRes) : Prop :=
      (word / 2 ^ 7 % 2 = 1 → r = down (.host (next word))) ∧
      (word / 2 ^ 7 % 2 = 0 → vaultHole (next word) = true → r = fault 0x08 4 level) ∧
      (word / 2 ^ 7 % 2 = 0 → vaultHole (next word) = false → s.owns cx.num (next word) = false → r = fault 0x09 9 level) ∧
      (word / 2 ^ 7 % 2 = 0 → vaultHole (next word) = false → s.owns cx.num (next word) = true → r = down (.vault (next word)))
    let page := if level = 1 then 2 ^ 30 else if level = 2 then 2 ^ 21 else 2 ^ 16
    let place := e / 2 ^ 16 % 2 ^ 38 * 2 ^ 16 + va % page
    let allowed := ∀ p : Nat, leaf.locOf va = .vault p → vaultHole p = false ∧ s.owns cx.num p = true
    (2 ^ 48 ≤ va → walk s cx va need rd = fault 0x08 1 7) ∧
    (va < 2 ^ 48 → root % 2 = 0 → walk s cx va need rd = fault 0x08 2 7) ∧
    (va < 2 ^ 48 → root % 2 = 1 → follows (walk s cx va need rd) root 7 (walkFrom s cx.num va need rd 4 0)) ∧
    (s.sclFails at_ = true → go = fault 0x08 5 level) ∧
    (s.sclFails at_ = false → (rd at_).2 = true → go = .poison at_) ∧
    (leaf.locOf va = if e / 2 ^ 7 % 4 = 0 then .vault place else if e / 2 ^ 7 % 4 = 1 then .host place
      else .peer (e / 2 ^ 54 % 2 ^ 10) place) ∧
    (s.sclFails at_ = false → (rd at_).2 = false →
      (e % 2 = 0 → go = fault 0x08 2 level) ∧
      (e % 2 = 1 → e / 2 % 2 = 1 → leafOk e level = false → go = fault 0x08 3 level) ∧
      (e % 2 = 1 → e / 2 % 2 = 0 → pointerOk e level = false → go = fault 0x08 3 level) ∧
      (e % 2 = 1 → e / 2 % 2 = 0 → pointerOk e level = true →
        follows go e level (walkFrom s cx.num va need rd fuel (level + 1))) ∧
      (e % 2 = 1 → e / 2 % 2 = 1 → leafOk e level = true →
        (∀ p : Nat, leaf.locOf va = .vault p → vaultHole p = true → go = fault 0x08 4 level) ∧
        (∀ p : Nat, leaf.locOf va = .vault p → vaultHole p = false → s.owns cx.num p = false → go = fault 0x09 9 level) ∧
        (allowed → need.r = true → e / 4 % 2 = 0 → go = fault 0x09 6 level) ∧
        (allowed → (need.r = true → e / 4 % 2 = 1) → need.w = true → e / 8 % 2 = 0 → go = fault 0x09 7 level) ∧
        (allowed → (need.r = true → e / 4 % 2 = 1) → (need.w = true → e / 8 % 2 = 1) → need.x = true → e / 16 % 2 = 0 →
          go = fault 0x09 8 level) ∧
        (allowed → (need.r = true → e / 4 % 2 = 1) → (need.w = true → e / 8 % 2 = 1) → (need.x = true → e / 16 % 2 = 1) →
          go = .ok leaf)))

/-- O28 (R233, R237, R239): A store whose access passes its checks enters its bytes, little-endian and with the register's
poison. What a store leaves: each of its parts outside peers' memory stands at the end of its slice's store buffer,
with its place, bytes and poison, and the slice's own read of the bytes returns them, but for a mask's zero (R237); to
an SO page, or at system scope, it stands in memory at once, but in a free page. A store to a peer sends its bytes and
poison, and a read of the slice waits while a write of its own to the bytes is out. That the pending loads of the
A-slice's queues are made before a store of it, that a store to an SO page or by st.rel at system scope is performed
as it issues, and that a read of a peer waits for the answers to the slice's own writes there, are the model's choices
(log 8). -/
def Obligations.StoreResults : Prop :=
  (∀ (s s1 s2 : State) (gid : Nat) (sl : Slice) (g : Machine.Group) (parts : List Part), Issuing s gid sl g →
    (∀ (i : Instr) (r a : Reg) (off : Word) (n : Nat), storeShape i = some (r, a, off, n) → (g.stream sl).rp a = false →
      let x := ((g.stream sl).rd a + off).toNat
      (s.access gid sl x n needW false true = .ok s1 parts →
        (s1.settleLoads gid sl).storeParts gid sl parts (leBytes n ((g.stream sl).rd r).toNat) ((g.stream sl).rp r) none =
          .ok s2 () → exec i s = .next (s2.advance gid sl)) ∧
      (∀ y : TrapInfo, s.access gid sl x n needW false true = .trap s1 y → exec i s = trapped s1 gid sl y)) ∧
    (∀ (r a : Reg) (z c : BitVec 2) (o : BitVec 12), (g.stream sl).rp a = false →
      let x := ((g.stream sl).rd a + o.signExtend 64).toNat
      let n := 2 ^ z.toNat
      (s.access gid sl x n needW true false = .ok s1 parts →
        ((g.stream sl).reqs = [] → (s1.settleLoads gid sl).quietFor gid sl = true) →
        ((s1.settleLoads gid sl).release gid sl c.toNat).storeParts gid sl parts (leBytes n ((g.stream sl).rd r).toNat)
          ((g.stream sl).rp r) (some c.toNat) = .ok s2 () → exec (.stRel r a z c o) s = .next (s2.advance gid sl)) ∧
      (∀ cx : Context, s.ctx? g.ctx = some cx → (g.stream sl).reqs = [] → x % n ≠ 0 →
        exec (.stRel r a z c o) s = trapped s gid sl { cause := 0x0B, addr := x }))) ∧
  (∀ (s : State) (gid : Nat) (sl : Slice) (g : Machine.Group) (p : Part) (bs : List Byte) (pz : Bool) (vis : Option Nat),
    (s.groups.map Group.gid).Nodup → s.grp? gid = some g → bs.length = p.n →
    let mine := g.stream sl
    let v := g.viewer sl
    let clear (st : Machine.Stream) : Machine.Stream := { st with reqs := [], parts := [] }
    let here (q : Part) : Prop := ∀ id a : Nat, q.loc ≠ .peer id a
    (here p → p.ord ≠ 0 → vis ≠ some 3 →
      let u := s.storePart gid sl v p bs pz vis
      ∃ h : Machine.Group, u.grp? gid = some h ∧ (h.stream sl).sb = mine.sb ++
          [{ loc := p.loc, bytes := bs, poison := pz, uo := p.ord == 2, vis := vis, seq := mine.sbSeq }] ∧
        ((∀ o : Nat, p.loc ≠ .spad o) →
          (∀ k : Nat, k < p.n → (u.viewRead v p.loc p.n).1.getD k 0 = if u.masked g.bind (p.loc.shift k) then 0 else bs.getD k 0) ∧
          (pz = true → 0 < p.n → (u.viewRead v p.loc p.n).2 = true)) ∧
        (∀ o : Nat, p.loc = .spad o → (u.viewSpad v h o p.n).1 = bs)) ∧
    (here p → (∀ o : Nat, p.loc ≠ .spad o) → p.ord = 0 ∨ vis = some 3 →
      let t := s.drainOverlap v true p.loc p.n
      t.vault.wf = true → t.host.wf = true → (∀ a : Nat, p.loc = .vault a → t.freePage a = false) →
      ∀ k : Nat, k < p.n → (s.storePart gid sl v p bs pz vis).baseByte (p.loc.shift k) = bs.getD k 0) ∧
    (∀ parts : List Part, (∀ q ∈ parts, here q) → mine.reqs = [] →
      ((∃ q ∈ parts, q.ord = 0) → s.soQuiet gid sl.src none = true) → (sl = .a → s.lqOverlaps gid none parts = false) →
      s.storeParts gid sl parts bs pz vis =
        .ok ((splitBytes parts bs).foldl (fun t x => t.storePart gid sl v x.1 x.2 pz vis) (s.mapStream gid sl clear)) ()) ∧
    (here p → p.ord ≠ 0 → mine.reqs = [] → (sl = .a → s.lqOverlaps gid none [p] = false) →
      s.readSlice gid sl [p] = .ok (s.mapStream gid sl clear) (s.viewRead v p.loc p.n)) ∧
    (∀ id a : Nat, p.loc = .peer id a → mine.reqs = [] →
      (∀ r ∈ s.outReqs, r.gid = gid → r.src = sl.src → 0 < r.kind.bytes → r.peer = id → r.addr < a + p.n → a < r.addr + r.kind.bytes →
        (s.takeHit g p).got = none → ∃ t : State, s.readSlice gid sl [p] = .wait t) ∧
      (∀ k : Nat, p.ord ≠ 0 → 0 < p.n → a % 256 + p.n ≤ 256 → g.reading p = false → (sl = .a → s.lqOverlaps gid none [p] = false) →
        s.tableBusy gid sl.src { peer := id, addr := a, ord := p.ord, kind := .write bs pz } = false → s.route id = some k →
        s.peerDown id = false → s.portFree k 1 (gid, sl.src) = true →
        ∃ (t : State) (r : OutReq), s.storeParts gid sl [p] bs pz vis = .ok t () ∧ t.outReqs = s.outReqs ++ [r] ∧ r.port = k ∧
          r.peer = id ∧ r.addr = a ∧ r.kind = .write bs pz ∧ r.gid = gid ∧ r.src = sl.src)))

/-- O29 (R240, R187): Loads from and stores to the scratchpad at a group offset that passes R240's checks; one that is
misaligned stops with cause 0x0B, whose ADDR is the group offset (log 48), one outside the group's rows or extent with
cause 0x21. -/
def Obligations.ScratchpadResults : Prop :=
  ∀ (s : State) (gid : Nat) (sl : Slice) (g : Machine.Group) (i : Instr) (r a d : Reg) (off : Word) (n : Nat) (sg : Bool),
    Issuing s gid sl g → (g.stream sl).rp a = false →
    let o := ((g.stream sl).rd a + off).toNat
    let good := o < 2 ^ 26 ∧ o % n = 0 ∧ o / 2 ^ 22 < g.n ∧ o % 2 ^ 22 < g.x
    let outside := 2 ^ 26 ≤ o ∨ (o % n = 0 ∧ (g.n ≤ o / 2 ^ 22 ∨ g.x ≤ o % 2 ^ 22))
    let seen := s.viewSpad (g.viewer sl) g o n
    (spadLoadShape i = some (a, off, n, sg, d) →
      (good → seen.2 = false → seen.1.length = n → exec i s = wrote s gid sl d
        (if sg then (BitVec.ofNat (8 * n) (leNat seen.1)).signExtend 64 else BitVec.ofNat 64 (leNat seen.1)) false) ∧
      (good → seen.2 = true →
        exec i s = .next (((s.mapStream gid sl (fun st => st.wr d 0 true)).dataPoison gid).advance gid sl))) ∧
    (spadStoreShape i = some (r, a, off, n) → good → exec i s = .next ((s.storePart gid sl (g.viewer sl)
      { va := o, n := n, loc := .spad o, ord := 1 } (leBytes n ((g.stream sl).rd r).toNat) ((g.stream sl).rp r) none).advance gid sl)) ∧
    (spadLoadShape i = some (a, off, n, sg, d) ∨ spadStoreShape i = some (r, a, off, n) →
      (outside → exec i s = trapped s gid sl { cause := 0x21, status := encodeStatus i }) ∧
      (o < 2 ^ 26 → o % n ≠ 0 → exec i s = trapped s gid sl { cause := 0x0B, addr := o }))

/-- O30 (R233, R105): A load leaves every register but its destination, every byte of memory and everything else of the
group as it was, but for DP in cr.chk, bytes of stores that had issued before it and are performed now, which only an
access by an SO page has performed (R255), and the pending `lq` entries that a load of memory by the A-slice has
filled before it (R111), and whether the line that one of them reads of a peer is kept. -/
def Obligations.LoadFrame : Prop :=
  ∀ (s t : State) (gid : Nat) (sl : Slice) (g h : Machine.Group) (i : Instr) (d : Reg), s.memoriesWf = true → Issuing s gid sl g →
    ((∃ x, loadShape i = some x ∧ x.2.2.2.2.2.2 = d) ∨ (∃ x, spadLoadShape i = some x ∧ x.2.2.2.2 = d)) →
    exec i s = .next t → t.grp? gid = some h → h.ctx = g.ctx →
    Stream.sameBut (g.stream sl) (h.stream sl) d ∧ Stream.same (g.stream sl.partner) (h.stream sl.partner) ∧
    g.sameControl h ∧ g.sameShared h ∧ g.sameEngines h ∧ h.fflags = g.fflags ∧ h.chk ||| 1 = g.chk ||| 1 ∧
    (∀ l : MemLoc, s.pendingOn l = false → t.baseByte l = s.baseByte l) ∧
    (∀ o : Nat, s.pendingOn (.spad o) = false → h.spad.get o = g.spad.get o) ∧
    ((∃ x, spadLoadShape i = some x) ∨ ((g.pendingFill = false ∨ sl = .c) ∧
      ∀ (a e : Reg) (off : Word) (n : Nat) (sg al uo : Bool) (s1 : State) (parts : List Part), loadShape i = some (a, off, n, sg, al, uo, e) →
        s.access gid sl ((g.stream sl).rd a + off).toNat n needR al uo = .ok s1 parts → ∀ p ∈ parts, p.ord ≠ 0) → sameMemory s t g h) ∧
    (g.pendingFill = false ∨ (∃ x, spadLoadShape i = some x) → h.qs = g.qs) ∧
    (∀ q : Nat, q < 6 → (h.q q).head = (g.q q).head ∧ (h.q q).ents.length = (g.q q).ents.length ∧
      ∀ (k : Nat) (e : QEntry), (g.q q).ents[k]? = some e →
        ((∀ nf z x seq p r, e ≠ .pending nf z x seq p r) → (h.q q).ents[k]? = some e) ∧
        (∀ nf z x seq p r, sl = .c → e = .pending nf z x seq p r → ∃ p', (h.q q).ents[k]? = some (.pending nf z x seq p' r)))

/-- O31 (R233, R240, R241, R251): A store or AMO changes no byte of vault or host memory outside the parts its access
names, but for bytes of stores that had issued before it and are performed now; it changes no byte of the scratchpad
but for those; an AMO writes its destination register, and no other register changes. A store to the scratchpad
changes no byte as performed outside its own, but for bytes of stores that had issued before it and are performed now,
and no register. Which earlier stores an access performs is the model's choice (log 8). -/
def Obligations.StoreFrame : Prop :=
  (∀ (s t : State) (gid : Nat) (sl : Slice) (g h : Machine.Group) (i : Instr) (x n : Nat) (need : Need) (al uo : Bool) (d : Reg),
    s.memoriesWf = true → Issuing s gid sl g → storedAt (g.stream sl) i = some (x, n, need, al, uo, d) → exec i s = .next t →
    t.grp? gid = some h → h.ctx = g.ctx →
    (∀ (s1 : State) (parts : List Part) (l : MemLoc), s.access gid sl x n need al uo = .ok s1 parts →
      (∀ p ∈ parts, p.loc.covers (if parts.length = 1 then n else p.n) l = false) → s.pendingOn l = false → t.baseByte l = s.baseByte l) ∧
    (∀ (s1 : State) (y : TrapInfo) (l : MemLoc), s.access gid sl x n need al uo = .trap s1 y → t.baseByte l = s.baseByte l) ∧
    (∀ o : Nat, s.pendingOn (.spad o) = false → h.spad.get o = g.spad.get o) ∧
    Stream.sameBut (g.stream sl) (h.stream sl) d ∧ Stream.same (g.stream sl.partner) (h.stream sl.partner) ∧
    g.sameControl h ∧ g.sameShared h ∧ g.sameEngines h ∧ h.chk ||| 1 = g.chk ||| 1) ∧
  (∀ (s t : State) (gid : Nat) (sl : Slice) (g h : Machine.Group) (i : Instr) (r a : Reg) (off : Word) (n : Nat),
    s.memoriesWf = true → Issuing s gid sl g → spadStoreShape i = some (r, a, off, n) → exec i s = .next t → t.grp? gid = some h → h.ctx = g.ctx →
    let x := ((g.stream sl).rd a + off).toNat
    (∀ l : MemLoc, s.pendingOn l = false → t.baseByte l = s.baseByte l) ∧
    (∀ o : Nat, ¬ (x ≤ o ∧ o < x + n) → s.pendingOn (.spad o) = false → h.spad.get o = g.spad.get o) ∧
    Stream.same g.a h.a ∧ Stream.same g.c h.c ∧ g.sameControl h ∧ g.sameShared h ∧ g.sameEngines h ∧ g.sameFlow h)

/-- O32 (R241, R415): An AMO whose access passes its checks reads the old value into gd and makes the new one, at the home
of the word; one of a peer's word waits for the answers to the slice's own earlier writes there (R250), sends one
request, with the operation, the size, the operands and their poison, waits for the response, and then takes the value
that it holds, as the slice reads it (R322), with no older copy of the word's lines left to the controller (R250,
R415). The access of an AMO: after the stores that it follows, the old value is the bytes as its agent reads them, and
the new value is R241's, of the size of the operation, that of `amo.fadd` the FP32 word nearest to the exact sum; a
poisoned word is left alone. Which earlier stores an access performs, and which answers it waits for, is the model's
choice (log 8). -/
def Obligations.AtomicResults : Prop :=
  (∀ (s s1 : State) (gid : Nat) (sl : Slice) (g : Machine.Group) (i : Instr) (op : Nat) (d a b : Reg) (z r c : BitVec 2) (p : Part),
    Issuing s gid sl g → amoShape i = some (op, d, a, b, z, r, c) → (g.stream sl).rp a = false →
    let st := g.stream sl
    let n := 2 ^ z.toNat
    let settled := s1.settleLoads gid sl
    let before := if r.getLsbD 1 then settled.release gid sl c.toNat else settled
    let m := before.amoAt (g.viewer sl) p.loc op n (lowBytes n (st.rd b)) (lowBytes n (st.rd d)) (st.rp b || (op == 9 && st.rp d))
    let ends (t : State) (v : Word) (bad : Bool) (fl : FFlags) : Out := .next (if bad
      then ((t.mapStream gid sl (fun st => st.wr d 0 true)).dataPoison gid).advance gid sl
      else ((t.mapGrp gid (fun h => h.raiseFlags fl)).mapStream gid sl (fun st => st.wr d v false)).advance gid sl)
    s.access gid sl (st.rd a).toNat n needRW true false = .ok s1 [p] →
    (st.reqs = [] → (r.getLsbD 1 = true → settled.quietFor gid sl = true) ∧
      (p.ord = 0 → settled.soQuiet gid sl.src none = true) ∧ (sl = .a → settled.lqOverlaps gid none [p] = false)) →
    (st.reqs = [] → settled.ownOut gid sl.src [p] = true → exec i s = .next (settled.stallOn gid sl .peer)) ∧
    ((st.reqs = [] → settled.ownOut gid sl.src [p] = false) → ∀ id x : Nat, p.loc = .peer id x →
      let kind : OutKind := .atomic (BitVec.ofNat 4 op) n (lowBytes n (st.rd b)) (lowBytes n (st.rd d)) (st.rp b || (op == 9 && st.rp d))
      (∀ (u : State) (tags : List Nat), st.reqs = [] →
        before.exchange gid sl.src [] [{ peer := id, addr := x, ord := p.ord, kind := kind }] = (u, tags, none) →
        exec i s = .next ((u.mapStream gid sl (fun st => { st with reqs := tags, parts := [p] })).stallOn gid sl .peer)) ∧
      (∀ (tag : Nat) (y : OutReply), st.reqs = [tag] → before.replyOf tag = some y →
        let t := State.dropLines { before with replies := before.replies.filter (fun z => z.tag != tag) } (fun k => k == g.ctl) (touches id x n)
        exec i s = ends (t.mapStream gid sl (fun st => { st with reqs := [], parts := [] }))
          (leWord (y.bytes.mapIdx (fun k v => t.peerByte (g.viewer sl) (.peer id (x + k)) v))) y.poison
          (amoValue op n (leWord y.bytes) (lowBytes n (st.rd b)) (lowBytes n (st.rd d))).2)) ∧
    ((∀ id x : Nat, p.loc ≠ .peer id x) → exec i s = ends m.1 m.2.old m.2.poison m.2.flags)) ∧
  ((∀ (s : State) (v : Viewer) (l : MemLoc) (op n : Nat) (b c : Word) (pz : Bool),
    let before := s.drainOverlap v true l n
    let old := leWord (before.viewRead v l n).1
    ((before.viewRead v l n).2 = false → s.amoAt v l op n b c pz =
      (before.performWrite l (leBytes n (amoValue op n old b c).1.toNat) pz true,
        { old := old, poison := false, flags := (amoValue op n old b c).2 })) ∧
    ((before.viewRead v l n).2 = true → s.amoAt v l op n b c pz = (before, { old := 0, poison := true, flags := 0 }))) ∧
  (∀ (n : Nat) (m b c : Word), n = 4 ∨ n = 8 → m.toNat < 2 ^ (8 * n) → b.toNat < 2 ^ (8 * n) → c.toNat < 2 ^ (8 * n) →
    let signed (x : Word) : Int := if n = 4 then (x.setWidth 32).toInt else x.toInt
    let is (op : Nat) (x : Nat) : Prop := (amoValue op n m b c).1 = BitVec.ofNat 64 x ∧ (amoValue op n m b c).2 = 0
    is 0 ((m.toNat + b.toNat) % 2 ^ (8 * n)) ∧ is 1 (m &&& b).toNat ∧ is 2 (m ||| b).toNat ∧ is 3 (m ^^^ b).toNat ∧
    is 4 (if signed m ≤ signed b then m.toNat else b.toNat) ∧ is 5 (if signed b ≤ signed m then m.toNat else b.toNat) ∧
    is 6 (min m.toNat b.toNat) ∧ is 7 (max m.toNat b.toNat) ∧ is 8 b.toNat ∧ is 9 (if m = c then b.toNat else m.toNat)) ∧
  ∀ (m b : BitVec 32) (c : Word),
    let sum (r : BitVec 32 × FFlags) : Prop := amoValue 10 4 (m.setWidth 64) (b.setWidth 64) c = (r.1.setWidth 64, r.2)
    let size (x : BitVec 32) : Nat := x.toNat % 2 ^ 31
    let inf := 255 * 2 ^ 23
    (inf < size m ∨ inf < size b → sum (0x7FC00000, 0)) ∧
    (size m = inf → size b = inf → m ≠ b → sum (0x7FC00000, flagNV)) ∧
    (size m = inf → size b < inf ∨ m = b → sum (m, 0)) ∧ (size m < inf → size b = inf → sum (b, 0)) ∧
    (size m < inf → size b < inf → sum (nearestFloat (floatUnits m + floatUnits b) (m.getLsbD 31 && b.getLsbD 31))))

/-- O33 (R243, R257, R259, R415): `fence`: the stream's earlier stores, and those it has seen, are performed at the scope;
it waits for pending loads of the queues and, at system scope, for the answers of peers, and then drops the
controller's lines of peer memory, those too that reads of its other slice which are out would bring. It is complete
at once where no load of the slice's queues is pending and, at system scope, no request of the slice to a peer is out.
A release of system scope leaves no store of the module pending. After a release of a slice at a narrower scope no
store that the slice has made or sees is pending without being performed at that scope, but those to UO pages (R254)
and of other groups' scratchpads; where no pending stores overlap, every other field of the entries, and memory, are
as they were. How much more than asked is performed is the model's choice (log 8). -/
def Obligations.FenceResults : Prop :=
  (∀ (s : State) (gid : Nat) (sl : Slice) (g : Machine.Group) (c : BitVec 2), Issuing s gid sl g →
    let u := (s.settleLoads gid sl).release gid sl c.toNat
    let pending := sl = .a ∧ ∃ h : Machine.Group, u.grp? gid = some h ∧ h.pendingFill = true
    let noisy := c = 3 ∧ u.peerQuiet gid sl.src = false
    let dropped (t : State) : State := t.dropLines (fun k => k == g.ctl) (fun _ _ => true)
    (¬ pending → ¬ noisy → exec (.fence c) s = .next (State.advance
      (if c = 3 then dropped u else u) gid sl)) ∧
    (pending ∨ noisy → exec (.fence c) s = .next (u.stallOn gid sl .peer)) ∧
    ((sl = .a → g.pendingFill = false) →
      let s0 := if sl = .a then s.unwait (gid, 8) else s
      (c ≠ 3 → exec (.fence c) s = .next ((s0.release gid sl c.toNat).advance gid sl)) ∧
      (c = 3 → s.peerQuiet gid sl.src = true → exec (.fence c) s = .next (State.advance
        (dropped s0.drainAll) gid sl))) ∧
    (dropped u).peerLines = u.peerLines.filter (fun l => l.ctl != g.ctl)) ∧
  (∀ (s : State) (gid : Nat) (sl : Slice) (g : Machine.Group), (s.groups.map Group.gid).Nodup → s.grp? gid = some g →
    ∀ h ∈ (s.release gid sl 3).groups, h.a.sb = [] ∧ h.c.sb = []) ∧
  (∀ (s : State) (gid : Nat) (sl : Slice) (g : Machine.Group) (k : Nat), s.grp? gid = some g → k < 3 →
    let u := s.release gid sl k
    (∀ h ∈ u.groups, ∀ (x : Slice), ∀ e ∈ (h.stream x).sb, e.uo = false →
      ((h.gid = gid ∧ x = sl) ∨ (visCovers u h e.vis (g.viewer sl) = true ∧ (h.gid = gid ∨ ∀ o : Nat, e.loc ≠ .spad o))) →
      ∃ n : Nat, e.vis = some n ∧ k ≤ n) ∧
    ((∀ h ∈ s.groups, ∀ (x : Slice), ∀ e ∈ (h.stream x).sb, s.contended h.gid x e = false) →
      u.vault = s.vault ∧ u.host = s.host ∧ ∀ (j : Nat) (h : Machine.Group), s.grp? j = some h → ∃ h' : Machine.Group, u.grp? j = some h' ∧
        ∀ x : Slice, (h'.stream x).sb.map (fun e => { e with vis := none }) = (h.stream x).sb.map (fun e => { e with vis := none })))

/-- O34 (R244, R246): `prom`, `pf`, `cln` and `inv`: a `prom` reads the word after everything pending is performed; `pf`
is dropped where it would fault; `cln` and `inv` of wide scope clean or drop the stack cache's copies, and `inv` drops
the lines of a peer's memory that the controllers of its scope hold, and those that reads which are out would bring
them. That a prom performs everything pending is the model's choice (log 8), and so is that it makes nothing of a
poisoned word (log 44). -/
def Obligations.CacheControlResults : Prop :=
  ∀ (s s1 s2 : State) (gid : Nat) (sl : Slice) (g : Machine.Group) (a : Reg) (c : BitVec 2) (p : Part) (parts : List Part)
    (r : List Byte × Bool), Issuing s gid sl g →
    let st := g.stream sl
    let x := (st.rd a).toNat
    (st.rp a = false → s.access gid sl x 1 needR false false = .ok s1 parts →
      (s1.settleLoads gid sl).drainAll.readSlice gid sl (parts.map Part.word) = .ok s2 r → exec (.prom a c) s = .next (s2.advance gid sl)) ∧
    (st.rp a = true → exec (.pf a) s = .next (s.advance gid sl)) ∧
    (st.rp a = false → ∀ y : TrapInfo, s.access gid sl x 1 needR false true = .trap s1 y →
      exec (.pf a) s = .next (s.advance gid sl)) ∧
    (st.rp a = false → ∀ q : Nat, s.access gid sl x 1 needR false true = .ok s1 [p] → p.loc = .vault q →
      exec (.pf a) s = .next ((s1.bringSector (q / 256 * 256)).advance gid sl) ∧
      exec (.cln a c) s = .next (State.advance (if 2 ≤ c.toNat then s1.cleanSector (q / 256 * 256) false else s1) gid sl) ∧
      exec (.inv a c) s = .next (State.advance (if 2 ≤ c.toNat then s1.cleanSector (q / 256 * 256) true else s1) gid sl)) ∧
    (st.rp a = false → ∀ id q : Nat, s.access gid sl x 1 needR false true = .ok s1 [p] → p.loc = .peer id q →
      (let t := s1.dropLines (ctlWithin g c.toNat) (fun i line => i == id && line / 256 == q / 256)
       exec (.inv a c) s = .next (t.advance gid sl) ∧ t.peerLines = s1.peerLines.filter (fun l =>
         !(ctlWithin g c.toNat l.ctl && (l.peer == id && l.addr / 256 == q / 256)))) ∧
      (let block : Part := { va := p.va / 256 * 256, n := 256, loc := .peer id (q / 256 * 256), ord := 2 }
       p.ord = 2 → s1.readSlice gid sl [if st.reqs = [] then block else p] = .ok s2 r →
         exec (.pf a) s = .next (s2.advance gid sl)))

/-- O35 (R245): `wait.eq` and `wait.ne` complete when the word meets the condition and no earlier wait on it goes first,
writing it to gd, and otherwise stay stalled; what was read of a peer's word serves the stalled waits on it too that
have read nothing since its request was sent, and an earlier wait that it does not serve reads once more before (log
47); a value found while they were stalled completes them, and a read that is out is given up; the controller keeps no
copy of the lines of a peer's word that ends a wait (R250); WAIT_REREAD is one more such turn of a stalled wait, and
nothing for any other stream. That the wait that stalled in the earlier step goes first is the model's choice (log
47), and so is that the pending loads of the A-slice's queues are made before the wait reads its word (log 8). -/
def Obligations.WaitResults : Prop :=
  ∀ (s s1 s2 : State) (gid : Nat) (sl : Slice) (g : Machine.Group) (d a b : Reg) (c : BitVec 2) (z : BitVec 1) (p : Part) (ps : List Part)
    (bytes : List Byte),
    let n := if z = 0 then 4 else 8
    let want := ((g.stream sl).rd b).toNat
    let v := leNat bytes
    let same := v = want % 2 ^ (8 * n)
    let here := (g.stream sl).pc.toNat % 32 / 4
    let issued : State := { s.unwait (gid, sl.src) with cur := some (gid, sl) }
    let ends (t : State) (x : Nat) : Out := .next (State.advance
      ((t.dropOwn g.ctl p.loc p.n).mapStream gid sl (fun st => { st.wr d (BitVec.ofNat 64 x) false with reqs := [], parts := [] })) gid sl)
    ((g.stream sl).rp a = false → (g.stream sl).rp b = false →
      (Issuing s gid sl g → (g.stream sl).waiting = none →
        s.access gid sl ((g.stream sl).rd a).toNat n needR true false = .ok s1 (p :: ps) →
        (s1.settleLoads gid sl).readSlice gid sl (p :: ps) = .ok s2 (bytes, false) →
        let mine := s2.nextWait
        let sent := (g.stream sl).reqs.headD s2.nextTag
        let u := s2.shareRead g.bind p v mine sent
        let stays (e : Bool) : Out := .next (((u.beginWait gid sl .wait (.word p want e)).mapStream gid sl
          (fun st => st.awaits [])).shareRead g.bind p v mine sent)
        u.passedOver { order := mine, what := .word p want true, caught := none, ahead := u.mustRead g.bind p mine sent,
                       since := u.nextTag } p = false →
        ((∀ id x : Nat, p.loc ≠ .peer id x) → u = s2) ∧
        (same → exec (.waitEq d a b c z) s = ends u v ∧ exec (.waitNe d a b c z) s = stays false) ∧
        (¬ same → exec (.waitNe d a b c z) s = ends u v ∧ exec (.waitEq d a b c z) s = stays true)) ∧
      (∀ (o u x t : Nat) (e : Bool) (ahead : List Nat),
        (g.stream sl).waiting = some { order := o, what := .word p u e, caught := some x, ahead := ahead, since := t } →
        issued.passedOver { order := o, what := .word p want true, caught := none, ahead := ahead, since := t } p = false →
        (Issuing s gid sl g → exec (.waitEq d a b c z) s = ends s x ∧ exec (.waitNe d a b c z) s = ends s x) ∧
        (∀ m : FetchedLine, s.grp? gid = some g → g.mayIssue sl = true → (g.stream sl).stall = some .wait →
          (g.stream sl).pass = some m → (lineInstr m.words here = .waitEq d a b c z ∨ lineInstr m.words here = .waitNe d a b c z) →
          exec (.waitReread gid sl) s = ends issued x))) ∧
    (∀ m : FetchedLine, s.grp? gid = some g → g.mayIssue sl = true → (g.stream sl).stall = some .wait → (g.stream sl).pass = some m →
      (lineInstr m.words here = .waitEq d a b c z → exec (.waitReread gid sl) s = exec (.waitEq d a b c z) issued) ∧
      (lineInstr m.words here = .waitNe d a b c z → exec (.waitReread gid sl) s = exec (.waitNe d a b c z) issued)) ∧
    (s.grp? gid = some g → (g.stream sl).stall ≠ some .wait → exec (.waitReread gid sl) s = .next s)

/-- O36 (R225, R250): A value written to memory reads back, every other byte keeps its value, and the canonical form is
kept; so of the host's memory and the vault as performed, with poison, but that a write to a free page is discarded
(R308). -/
def Obligations.MemoryReadAfterWrite : Prop :=
  (∀ (m : Memory) (a : Nat) (bs : List Byte), m.wf = true → (m.write a bs).wf = true ∧
    (∀ k : Nat, k < bs.length → (m.write a bs).get (a + k) = bs.getD k 0) ∧
    (∀ x : Nat, (x < a ∨ a + bs.length ≤ x) → (m.write a bs).get x = m.get x)) ∧
  (∀ (s : State) (a : Nat) (bs : List Byte) (pz one : Bool),
    (s.host.wf = true → ∀ x : Nat,
      let t := s.performWrite (.host a) bs pz one
      t.baseByte (.host x) = (if a ≤ x ∧ x < a + bs.length then bs.getD (x - a) 0 else s.baseByte (.host x)) ∧
      (pz = true → a ≤ x → x < a + bs.length → t.basePoison (.host x) = true)) ∧
    (s.vault.wf = true → s.freePage a = false → ∀ x : Nat,
      let t := s.performWrite (.vault a) bs pz one
      t.baseByte (.vault x) = (if a ≤ x ∧ x < a + bs.length then bs.getD (x - a) 0 else s.baseByte (.vault x)) ∧
      (pz = true → a ≤ x → x < a + bs.length → t.basePoison (.vault x) = true)) ∧
    (s.freePage a = true → s.performWrite (.vault a) bs pz one = s))

/-- O37 (R105, R245, R395, R396, R298, R325, R362): A register with P set used as an address, a branch condition, a jump
target, a descriptor of an engine command, an operand of a KV instruction, or a value for a control register, the slip
counter, a semaphore, a barrier or a nest set loses the whole context: neither it nor any group of it is left; so does
a poisoned value that `bqz` or `bqnz` pops, and a loop count with P set, once the loop has passed R122's checks. That
a poisoned gb of wait.eq and wait.ne loses the context before checks 3 to 6 of R236 are made is the model's choice
(log 44). -/
def Obligations.ControlPoison : Prop :=
  ∀ (s : State) (gid : Nat) (sl : Slice) (g : Machine.Group) (cx : Context) (i : Instr) (a b c : Reg), Issuing s gid sl g →
    s.ctx? g.ctx = some cx →
    let st := g.stream sl
    (st.rp a = true →
      (∃ x, loadShape i = some x ∧ x.1 = a) ∨ (∃ x, spadLoadShape i = some x ∧ x.1 = a) ∨
      (∃ x, storeShape i = some x ∧ x.2.1 = a) ∨ (∃ x, spadStoreShape i = some x ∧ x.2.1 = a) ∨
      (∃ x, amoShape i = some x ∧ x.2.2.1 = a) ∨ (∃ x, branchShape i = some x ∧ (x.1 = a ∨ x.2.1 = a)) ∨
      (∃ z k o, i = .stRel b a z k o) ∨ i = .jr a ∨ (∃ n, i = .wrcr a n) ∨ i = .slipset a ∨ (sl = .c ∧ ∃ k, i = .spset a k) ∨
      (sl = .a ∧ ∃ q z o, (g.q q.toNat).ents.length < 32 ∧ (i = .lq q z a o ∨ i = .lqNf q z a o)) ∨
      (∃ k, i = .prom a k) ∨ (∃ k, i = .cln a k) ∨ (∃ k, i = .inv a k) ∨
      (∃ k z, i = .waitEq b a c k z ∨ i = .waitEq b c a k z ∨ i = .waitNe b a c k z ∨ i = .waitNe b c a k z) ∨
      (∃ k, i = .semSet k a) ∨ (∃ k, i = .semCeil k a) ∨ i = .tbarInit a b ∨ i = .tbarInit b a ∨ i = .tbarExp a b ∨ i = .tbarExp b a ∨
      i = .tbarWait a b ∨ i = .tbarWait b a ∨ (∃ dim nx, i = .nestSet dim nx a b c ∨ i = .nestSet dim nx b a c ∨ i = .nestSet dim nx b c a) ∨
      (∃ e, commandWord i = some e ∧ (e.d = a ∨ e.a = a ∨ e.b = a ∨ e.c = a) ∧
        (sl = .c ∨ (commandQueue i sl = .cpl ∧ e.pred = 0)) ∧ (st.mark (markCode (commandQueue i sl))).full = false) ∨
      (st.packet = none ∧ i = .launch a) ∨
      (st.midway = false ∧ (i = .kvAlloc c a b ∨ i = .kvAlloc c b a ∨ i = .kvFree a ∨ i = .firnOpen c a ∨ i = .firnBind a ∨
        i = .firnDrop a ∨ i = .rsCkpt a b ∨ i = .rsCkpt b a ∨ (sl = .c ∧ (i = .firnSeal a b ∨ i = .firnSeal b a)) ∨
        (∃ p, i = .seqClaim c a p) ∨ (∃ p, i = .seqAdv a p) ∨ i = .seqRel a)) →
      exec i s = .next (s.loseControl gid sl)) ∧
    (∀ (q : BitVec 1) (t : BitVec 16) (x n : Nat) (w : Word) (rest : List QEntry), sl = .a →
      (g.q (4 + q.toNat)).ents = .poison x n w :: rest → i = .bqz q b t ∨ i = .bqnz q b t → exec i s = .next (s.loseControl gid sl)) ∧
    (st.rp a = true → ∀ (k : BitVec 2) (t : BitVec 16) (s1 : State) (ws : List (BitVec 32)),
      let end_ := branchTarget st.pc 16 t
      s.checkTarget gid sl end_ false = .ok s1 ws → st.pc.toNat < end_.toNat →
      endsNoBody (ws.getD (end_.toNat % 32 / 4) 0) = false → (st.loopAt k).active = false →
      (∀ j ∈ st.nesting, end_.toNat ≤ (st.loopAt j).end_.toNat) →
      exec (.loop k a t) s = .next (s1.loseControl gid sl)) ∧
    (s.loseControl gid sl).ctx? g.ctx = none ∧ (s.loseControl gid sl).groups.all (fun h => h.ctx != g.ctx) = true

/-- O38 (R50, R51, R126, R154, R173, R174, R176, R177, R195, R196, R197, R278): The issue of an engine command of a slice
that may issue it, with clean operands, that passes its checks and finds room: it enters the tail of its queue with
its captured words and operands, and is counted; a failed check stops the stream with its cause and the command's
words in STATUS. A command that an `erep` has marked does the same and is noted as marked; the last of them goes on
with the replays (R290). Which operands the checks at issue refuse: a vector command whose ROW is not below n whatever
its predicate; then, of a command that is not nullified, the first check of its rule that fails gives the cause, and
one that fails none enters (R172 to R182, R195 to R197, R278); a vector command of no elements makes no other check; a
replay whose operands leave their range traps with 0x21. A command whose predicate bit is 0 is nullified: no check but
that of ROWEN is made, and it enters its queue. That the checks come before the stall for room, and the place of MASK,
of the validity of formats and of the reserved bits of regions among them, are the model's readings (log 23); that a
nullified replay enters whatever its operands' range is its choice (log 44). -/
def Obligations.CommandIssue : Prop :=
  (∀ (s : State) (gid : Nat) (sl : Slice) (g : Machine.Group) (i : Instr) (e : EWord), Issuing s gid sl g → commandWord i = some e →
    let st := g.stream sl
    let q := commandQueue i sl
    let c := g.capture i e (st.rd e.d) (st.rd e.a) (st.rd e.b) (st.rd e.c)
    let m := st.mark (markCode q)
    (sl = .c ∨ (q = .cpl ∧ e.pred = 0)) → m.full = false →
    st.rp e.d = false → st.rp e.a = false → st.rp e.b = false → st.rp e.c = false →
    (∀ k : Cmd, g.accept i e true c = .enter k → (g.queue q).length < 16 →
      let marked : State := (s.enter gid i q k).mapStream gid sl (fun st => st.setMark (markCode q) { m with marked := m.marked ++ [k] })
      (m.active = false → exec i s = .next ((s.enter gid i q k).advance gid sl)) ∧
      (m.active = true → m.marked.length + 1 < m.n → exec i s = .next (marked.advance gid sl)) ∧
      (m.active = true → m.n ≤ m.marked.length + 1 → exec i s = marked.replayTurn gid sl q) ∧
      ∃ h : Machine.Group, (s.enter gid i q k).grp? gid = some h ∧ h.queue q = g.queue q ++ [k] ∧ h.cmdCount = g.cmdCount + 1 ∧
        (∀ r : EQueue, r ≠ q → h.queue r = g.queue r) ∧ k.w1 = (encode i).getD 0 0 ∧ k.w2 = (encode i).getD 1 0 ∧
        k.vD = st.rd e.d ∧ k.vA = st.rd e.a ∧ k.vB = st.rd e.b ∧ k.vC = st.rd e.c) ∧
    (∀ k : Cmd, g.accept i e true c = .enter k → 16 ≤ (g.queue q).length → exec i s = .next (s.stallOn gid sl .engine)) ∧
    (∀ k : Nat, g.accept i e true c = .trap k → exec i s = trapped s gid sl { cause := k, status := encodeStatus i })) ∧
  (∀ (g : Machine.Group) (i : Instr) (e : EWord) (c : Cmd), commandWord i = some e →
    let rowen := Instr.major? i = some .vx ∧ e.mod.getLsbD 4 = true
    (rowen → g.n ≤ e.mod.toNat % 16 → ∀ inRange : Bool, g.accept i e inRange c = .trap 0x21) ∧
    (g.sp.getLsbD e.pred.toNat = true → (rowen → e.mod.toNat % 16 < g.n) →
      g.accept i e true c = entersUnless c (issueChecks g i c) ∧ g.accept i e false c = .trap 0x21)) ∧
  (∀ (g : Machine.Group) (i : Instr) (e : EWord) (inRange : Bool) (c : Cmd), commandWord i = some e → g.sp.getLsbD e.pred.toNat = false →
    (Instr.major? i ≠ some .vx ∨ e.mod.getLsbD 4 = false ∨ e.mod.toNat % 16 < g.n) →
    g.accept i e inRange c = .enter { c with null := true })

/-- O39 (R272, R273, R290, R300): `nest.set` writes one dimension of one nest set; `erep` captures a nest set and marks
the next commands of its queue, and traps where the queue is marked already; `qfence` enters every named queue in one
step. The replays of a marking that holds all its commands: at every further tuple that is not skipped, in the order
of R273, they enter the queue, each at the tail with D and A advanced by the offsets of the tuple in the unit of R290,
while there is room, and the slice stalls until the last has; an operand that leaves its range, as an EBASE below 0
does (log 48), and a check that fails trap with the tuple's ordinal in STATUS; then the marking ends. That a replay
whose operand leaves its range is checked with the operand as it was, and that a nullified one enters, are the model's
choices (log 44); that it keeps the rounding mode of the marked command is its reading (log 48). That the ordinal in
STATUS of a failing replay counts the tuples that are not skipped, from 0, is its reading too (log 23). -/
def Obligations.NestErepQfence : Prop :=
  (∀ (s : State) (gid : Nat) (sl : Slice) (g : Machine.Group) (dim : BitVec 3) (nx q : BitVec 2) (n qm : BitVec 4) (a b c : Reg),
    Issuing s gid sl g →
    let st := g.stream sl
    let d : NestDim := { bound := (st.rd a).extractLsb' 0 32, limit := (st.rd a).extractLsb' 32 32,
                         sstr := (st.rd b).extractLsb' 0 48, dstr := (st.rd c).extractLsb' 0 48 }
    (st.rp a = false → st.rp b = false → st.rp c = false → ∃ h : Machine.Group, h = { g with nests := h.nests } ∧
      exec (.nestSet dim nx a b c) s = .next ((s.setGrp h).advance gid sl) ∧
      ∀ j : Nat, j < 4 → h.nests.toList.getD j [] =
        if j = nx.toNat then (g.nests.toList.getD j []).set dim.toNat d else g.nests.toList.getD j []) ∧
    ((sl = .c ∨ 2 ≤ q.toNat) → (st.mark q.toNat).active = false → exec (.erep q nx n) s =
      .next ((s.mapStream gid sl (fun st => st.setMark q.toNat
        { active := true, nx := nx.toNat, nest := g.nests.toList.getD nx.toNat [], n := n.toNat + 1, marked := [],
          next := 1, sub := 0 })).advance gid sl)) ∧
    ((sl = .c ∨ 2 ≤ q.toNat) → (st.mark q.toNat).active = true →
      exec (.erep q nx n) s = trapped s gid sl { cause := 0x21, status := encodeStatus (.erep q nx n) }) ∧
    (sl = .a → q.toNat < 2 → exec (.erep q nx n) s = trapped s gid sl { cause := 0x01, status := encodeStatus (.erep q nx n) }) ∧
    ((∀ r : EQueue, qm.getLsbD r.idx = true → (g.queue r).length < 16) → ∃ h : Machine.Group,
      exec (.qfence qm) s = .next ((s.setGrp h).advance gid sl) ∧ ∀ r : EQueue,
        if qm.getLsbD r.idx = true then ∃ k : Cmd, h.queue r = g.queue r ++ [k] ∧ k.qf = some qm ∧ k.uid = g.nextUid
        else h.queue r = g.queue r) ∧
    ((∃ r : EQueue, qm.getLsbD r.idx = true ∧ 16 ≤ (g.queue r).length) →
      exec (.qfence qm) s = .next (s.stallOn gid sl .engine))) ∧
  ((∀ (s t : State) (gid : Nat) (sl : Slice) (q : EQueue) (x : TrapInfo),
    (s.replay gid sl q 64 = .ok t () → s.replayTurn gid sl q = .next (t.advance gid sl)) ∧
    (s.replay gid sl q 64 = .wait t → s.replayTurn gid sl q = .next (t.stallOn gid sl .engine)) ∧
    (s.replay gid sl q 64 = .trap t x → s.replayTurn gid sl q = trapped t gid sl x)) ∧
  (∀ (s : State) (gid fuel : Nat) (sl : Slice) (g : Machine.Group) (q : EQueue), s.grp? gid = some g →
    let m := (g.stream sl).mark (markCode q)
    let put (t : State) (m : Marking) : State := t.mapStream gid sl (fun st => st.setMark (markCode q) m)
    (nestCount m.nest ≤ m.next → s.replay gid sl q (fuel + 1) = .ok (put s Marking.reset) ()) ∧
    (m.next < nestCount m.nest → m.marked.length ≤ m.sub →
      s.replay gid sl q (fuel + 1) = (put s { m with next := m.next + 1, sub := 0 }).replay gid sl q fuel) ∧
    (∀ (c : Cmd) (i : Instr), m.next < nestCount m.nest → m.marked[m.sub]? = some c → c.instr? = some i →
      (16 ≤ (g.queue q).length → s.replay gid sl q (fuel + 1) = .wait s) ∧
      ((g.queue q).length < 16 →
        let o := nestOffsets m.nest m.next
        let d := advanceOp ((opKinds i c.vC).getD 0 .other) c.vD o.2
        let a := advanceOp ((opKinds i c.vC).getD 1 .other) c.vA o.1
        let k : Cmd := { g.capture i c.eword (d.getD c.vD) (a.getD c.vA) c.vB c.vC with nest := c.nest, bind := c.bind, rnd := c.rnd }
        (∀ x : Cmd, g.accept i c.eword (d.isSome && a.isSome) k = .enter x →
          s.replay gid sl q (fuel + 1) = (put (s.enter gid i q x) { m with sub := m.sub + 1 }).replay gid sl q fuel) ∧
        (∀ x : Nat, g.accept i c.eword (d.isSome && a.isSome) k = .trap x →
          s.replay gid sl q (fuel + 1) = .trap s { cause := x, status := BitVec.ofNat 64 m.next })))) ∧
  (∀ (v : Word) (o : Int),
    let field (w top : Nat) (k : OpKind) : Prop :=
      let b : Int := (v.toNat % 2 ^ w : Nat) + o
      (0 ≤ b → b < top → ∃ x : Word, advanceOp k v o = some x ∧ x.toNat / 2 ^ w = v.toNat / 2 ^ w ∧ (x.toNat % 2 ^ w : Nat) = b.toNat) ∧
      (b < 0 ∨ top ≤ b → advanceOp k v o = none)
    field 26 (2 ^ 26) .region ∧ field 16 (2 ^ 16) .slot ∧ advanceOp .other v o = some v ∧
    advanceOp .va v o = some (BitVec.ofInt 64 (v.toNat + o)) ∧
    (∀ x : Word, advanceOp .goff v o = some x ↔ 0 ≤ v.toNat + o ∧ v.toNat + o < 2 ^ 26 ∧ (x.toNat : Int) = v.toNat + o) ∧
    (let n : Int := (accV v : Nat)
     let b : Int := (accE v : Nat) + o
     (0 ≤ b → b + n ≤ 4096 → ∃ x : Word, advanceOp .acc v o = some x ∧
       x.toNat = v.toNat / 2 ^ 12 * 2 ^ 12 + b.toNat) ∧
     (b < 0 ∨ 4096 < b + n → advanceOp .acc v o = none))))

/-- O40 (R295, R294, R303, R269): ENGINE_COMMAND_START begins the head of a queue whose WEN wait is satisfied, taking its
unit; in a group that has just been resumed a head with WEN waits until both slices have had a turn (R294); one whose
unit is not there waits behind the others, or traps with cause 0x11, as every wait of the group on the semaphore does,
where none can raise it; a copy takes the free engine of lowest index. That a head begins only behind no other that
executes is the model's choice (log 45), and so is that a head waits for the slices after a resume (log 1). -/
def Obligations.CommandStarts : Prop :=
  ∀ (s : State) (gid : Nat) (g : Machine.Group) (q : EQueue) (c : Cmd) (rest : List Cmd), s.grp? gid = some g → g.queue q = c :: rest →
    g.mayBegin = true → c.started = false → c.qf = none →
    let k := c.wsem.toNat
    let x := g.sem k
    let start : Out := exec (.engineCommandStart gid q) s
    ((isCopy q = true → s.copyTurn g q = true) →
      (c.wen = false → start = .next (s.beginHead g q)) ∧
      (c.wen = true → g.resuming = false → 0 < x.value → x.waiters = [] →
        start = .next ((s.mapGrp gid (fun h => h.setSem k { x with value := x.value - 1 })).beginHead g q)) ∧
      ∃ h : Machine.Group, (s.beginHead g q).grp? gid = some h ∧ h.queue q = { c with started := true, eng := if isCopy q then s.freeEngine g.stack0 else c.eng } :: rest ∧
        ∀ r : EQueue, r ≠ q → h.queue r = g.queue r) ∧
    (c.wen = true → g.resuming = true → start = .next s) ∧
    (c.wen = true → x.value = 0 → g.resuming = false →
      (g.starved k (g.waitsOn k) = false → Waiter.queue q ∉ x.waiters → start =
        .next (s.mapGrp gid (fun h => h.setSem k { x with waiters := x.waiters ++ [Waiter.queue q] }))) ∧
      (g.starved k (g.waitsOn k) = true → Waiter.queue q ∉ x.waiters →
        let joined := s.mapGrp gid (fun h => h.setSem k { x with waiters := x.waiters ++ [Waiter.queue q] })
        let t := joined.starvedBy gid k (fun y => g.waitsOn k y = true)
        start = .next t ∧ ∃ u : Machine.Group, t.grp? gid = some u ∧ u.status = .stopping ∧
          ∃ r ∈ u.recs, r.src = q.src ∧ r.cause = 0x11 ∧ r.addr = BitVec.ofNat 64 k))

/-- O41 (R156, R166, R177, R180, R283, R296, R297, R300): The performance of a matrix, vector or copy command that has
begun, of a `qfence` and of a reduction round: its effect is made (what it is, say MatrixEffects, VectorEffects and
CopyEffects), it leaves its queue, and its SEN signal is made or traps with cause 0x18; a matrix command that traps is
put back as not begun, its WEN unit returned (log 26); the watchdog traps with 0x22. What is loaded and performed
before an effect is made (State.settleEngine) is the model's choice (log 8). -/
def Obligations.CommandsPerform : Prop :=
  ∀ (s : State) (gid : Nat) (g : Machine.Group) (c : Cmd) (i : Instr) (e : EWord), s.grp? gid = some g → c.instr? = some i →
    let u := s.settleEngine gid
    (g.begun .mat = some c → i ≠ .mred e → commandWord i = some e →
      (c.null = true → exec (.matrixCommandPerform gid) s = .next (s.completeHead gid .mat c)) ∧
      (c.null = false → i = .mcfg e → exec (.matrixCommandPerform gid) s =
        .next ((u.mapGrp gid (fun h => { h with cfg := cfgStored c.vD })).completeHead gid .mat c)) ∧
      (c.null = false → ∀ t : State, u.matrixEffect gid i c = .ok t →
        exec (.matrixCommandPerform gid) s = .next (t.completeHead gid .mat c)) ∧
      (c.null = false → ∀ x : TrapInfo, u.matrixEffect gid i c = .error x →
        exec (.matrixCommandPerform gid) s = .next ((u.mapGrp gid (fun h => h.unbegin .mat)).raise gid 2 x false c.idx))) ∧
    (g.begun .mat = some c → i = .mred e →
      (g.mayBegin = true → c.cursor = 0 → ∀ (t : State) (h : Machine.Group) (d : Cmd), t.grp? gid = some h → (h.queue .mat).head? = some d →
        (u.startMred gid c = (t, false) →
          exec (.matrixCommandPerform gid) s = .next (t.mapGrp gid (fun h => h.setHead .mat { d with cursor := 1 }))) ∧
        (u.startMred gid c = (t, true) → exec (.matrixCommandPerform gid) s =
          .next (((t.mapGrp gid (fun h => { h with mredRound := none })).settlePoison gid d).completeHead gid .mat d))) ∧
      (c.cursor ≠ 0 → s.roundReady g c = true → ∀ t : State, s.finishMred gid c = .ok t → exec (.mredRoundComplete gid) s =
        .next (((t.mapGrp gid (fun h => { h with mredRound := none })).settlePoison gid c).completeHead gid .mat c))) ∧
    (g.begun .vec = some c →
      (c.null = true → exec (.vectorCommandPerform gid) s = .next (s.completeHead gid .vec c)) ∧
      (c.null = false → exec (.vectorCommandPerform gid) s = .next ((u.performVx gid i c).completeHead gid .vec c))) ∧
    (∀ q : EQueue, isCopy q = true → g.begun q = some c → c.eng ≠ none →
      (∀ (b : Burst) (h : Machine.Group), c.null = false → g.mayBegin = true ∨ c.hold ≠ none → c.burst = some b →
        let w := u.unwait (gid, q.src)
        w.grp? gid = some h → exec (.copyBurst gid q) s = .next (w.copyStep gid q h c c.isRed b)) ∧
      (g.trapped q = false → c.null = true ∨ (c.burst = none ∧ c.reqs = [] ∧ s.peerQuiet gid q.src = true) →
        exec (.copyPerform gid q) s =
          .next (((s.mapGrp gid (fun h => h.raiseFlags c.fl)).settlePoison gid c).completeHead gid q c))) ∧
    (∀ (q : EQueue) (qm : BitVec 4), (g.queue q).head? = some c → c.qf = some qm → g.mayBegin = true →
      (∀ r : EQueue, qm.getLsbD r.idx = true → ∃ d : Cmd, (g.queue r).head? = some d ∧ d.qf = c.qf) →
      ∃ h : Machine.Group, exec (.qfencePerform gid q) s = .next (s.setGrp h) ∧ h = { g with eq := h.eq } ∧
        ∀ r : EQueue, h.queue r = if qm.getLsbD r.idx then (g.queue r).drop 1 else g.queue r) ∧
    (∀ (q : EQueue) (rest : List Cmd), g.queue q = c :: rest →
      (c.sen = false → ∃ h : Machine.Group, (s.completeHead gid q c).grp? gid = some h ∧ h.queue q = rest ∧ h.semValues = g.semValues) ∧
      (c.sen = true → (g.sem c.ssem.toNat).ceil ≤ (g.sem c.ssem.toNat).value → s.completeHead gid q c =
        (s.mapGrp gid (fun h => h.setQueue q rest)).raise gid q.src
          { cause := 0x18, addr := c.ssem.toNat, status := BitVec.ofNat 64 ((g.sem c.ssem.toNat).value + 1) } false c.idx) ∧
      (c.sen = true → (g.sem c.ssem.toNat).value < (g.sem c.ssem.toNat).ceil → s.completeHead gid q c =
        (s.mapGrp gid (fun h => h.setQueue q rest)).semTo gid c.ssem.toNat ((g.sem c.ssem.toNat).value + 1))) ∧
    (g.status = .running ∨ g.status = .stopping → g.loopOpen = true → g.rbound ≠ 0 → g.rbound < g.watch →
      g.recs.any (fun r => r.src == 6) = false → exec (.reductionWatchdog gid) s =
      .next ((s.mapGrp gid (fun h => { h with watch := 0 })).raise gid 6
        { cause := 0x22, status := BitVec.ofNat 64 g.rbound } false g.cmdCount))

/-- O42 (R160, R162, R173, R174, R175, R176, R181, R182, R96, R97): `ml` and `mlt` load the tile of every active cell into
its shadow latch, a poisoned sector as zero, or trap with cause 0x09 where a slot is not owned; a latch notes the
binding of its load (R155, R320); the other latches, the accumulators and the scratchpad stay. `mm` puts into entry E
+ v of every row, lane by lane, the sum over the active columns, west to east, of the lane sums of the tile's weights
with vector v (R95 to R97), added to the entry where ACC is set; SWAP exchanges the latch sets first; `mzero` makes
its entries zero. `mdrain` writes the 32 verified lanes of each entry of every row, converted, to the row's region and
makes the entries zero; `mchk` writes each row's 64-byte record (R182) and clears the counts where bit 0 of IMM12 is
set; `mfmt` writes one entry of the context's format table, its reserved bits zero. Captured operands that no issue
admits (E + V above 4,096, a reserved TOL, COLS beyond the chain, rounding codes 5 and 6, a slot or an offset out of
range) are used as they stand, by log 46 and log 49; a poisoned MX element is zero by log 44; how a block is summed
and what its NaN scale gives is log 22. Flags, the checksum lanes, and an mdrain into an MX or strided region, which
its issue refuses, are not stated. -/
def Obligations.MatrixEffects : Prop :=
  (∀ (s : State) (gid : Nat) (g : Machine.Group) (c : Cmd) (e : EWord) (transposed : Bool), s.grp? gid = some g →
    let i_ : Instr := if transposed then .mlT e else .ml e
    let fi := c.imm.toNat % 16
    let sp := if transposed then 0 else c.imm.toNat / 16 % 4
    let cols := cfgCols c.cfg
    let at_ (i col : Nat) (l : Latch) : Bool := l.row == i && l.col == col
    let v : Viewer := { gid := some gid, sl := none, upTo := none, bind := bindOf g.ctx c.bind }
    (∀ f : Format, formatOf fi (c.word 0) = some f → (∀ i col : Nat, i < g.n → col < cols → s.owns g.ctx (cellPlace g c.vD i col) = true) →
      ∃ (t : State) (h : Machine.Group), s.matrixEffect gid i_ c = .ok t ∧ engineOnly s t gid g h ∧ h.active = g.active ∧ h.acc = g.acc ∧
        h.spad = g.spad ∧
        (∀ i col : Nat, i < g.n → col < cols → ∃ l : Latch, h.shadow.find? (at_ i col) = some l ∧ l.fmt = fi ∧ l.sp = sp ∧
          l.t = transposed ∧ l.eword = c.word 0 ∧ l.hits = [] ∧ l.sums = [] ∧ l.bind = v.bind ∧ ∀ k : Nat, k < tileBytes f sp →
            let b : MemLoc := .vault (cellPlace g c.vD i col + k)
            l.image.get k = if s.viewPoison (s.visible v) b then 0 else s.viewByte v (s.visible v) b) ∧
        (∀ i col : Nat, cols ≤ col → h.shadow.find? (at_ i col) = g.shadow.find? (at_ i col))) ∧
    ((∃ i col : Nat, i < g.n ∧ col < cols ∧ s.owns g.ctx (cellPlace g c.vD i col) = false) →
      ∃ i col : Nat, i < g.n ∧ col < cols ∧ s.owns g.ctx (cellPlace g c.vD i col) = false ∧ s.matrixEffect gid i_ c =
        .error { cause := 0x09, phys := true, addr := cellPlace g c.vD i col })) ∧
  (∀ (s : State) (gid : Nat) (g : Machine.Group) (c : Cmd) (e : EWord) (i k : Nat), s.grp? gid = some g →
    let E := accE c.vD
    let V := accV c.vD
    let named : Prop := i < g.n ∧ E ≤ k ∧ k < E + V
    (∃ (t : State) (h : Machine.Group), s.matrixEffect gid (.mzero e) c = .ok t ∧ engineOnly s t gid g h ∧ h.spad = g.spad ∧
      h.active = g.active ∧ h.shadow = g.shadow ∧
      (named → h.accEntry i k = { row := i, entry := k, lanes := List.replicate 34 0, flags := 0, dirty := true }) ∧
      (¬ named → h.accEntry i k = g.accEntry i k)) ∧
    (let swap := c.mod.getLsbD 0
     let r := regionOf c.vA
     let cols := cfgCols c.cfg
     ∀ (f : Format) (L : Nat → Latch) (F : Nat → Format) (j : Nat), formatOf r.fmt (c.word 1) = some f → 0 < cols → j < 32 →
      (named → ∀ col : Nat, col < cols →
        (if swap then g.shadow else g.active).find? (fun l => l.row == i && l.col == col) = some (L col) ∧
        formatOf (L col).fmt (L col).eword = some (F col) ∧ (L col).hits = [] ∧ (L col).sums = []) →
      (named → (g.accEntry i k).lanes.length = 34) →
      let vec : Region := { r with base := r.base + (k - E) * wbits c.vB 25 0 }
      let x (m : Nat) : Option XVal := if m < r.count then some (g.elemVal 0 vec f m).1 else none
      let one (col : Nat) : F32 :=
        let l := L col
        (laneSum ((pairing l.fmt l.eword r.fmt (c.word 1)).any Pairing.block) x ((l.nanLanes (F col)).getD j false)
          ((List.range 32).map (fun p => l.at_ (F col) col j p))).1
      let sum := (List.range (cols - 1)).foldl (fun a n => (addF32 a (one (n + 1))).1) (one 0)
      let old := (g.accEntry i k).lanes.getD j 0
      ∃ (t : State) (h : Machine.Group), s.matrixEffect gid (.mm e) c = .ok t ∧ engineOnly s t gid g h ∧ h.spad = g.spad ∧
        h.active = (if swap then g.shadow else g.active) ∧ h.shadow = (if swap then g.active else g.shadow) ∧
        (named → (h.accEntry i k).lanes.getD j 0 = (if c.mod.getLsbD 1 then (addF32 old sum).1 else sum) ∧
          (h.accEntry i k).dirty = true) ∧
        (¬ named → h.accEntry i k = g.accEntry i k))) ∧
  (∀ (s : State) (gid : Nat) (g : Machine.Group) (c : Cmd) (e : EWord) (i j k o : Nat), s.grp? gid = some g → g.spad.wf = true →
    let E := accE c.vD
    let V := accV c.vD
    let r := regionOf c.vA
    (∀ f : Format, formatOf r.fmt (c.word 0) = some f → f.mx = false → r.base + f.bytes (32 * V) ≤ 2 ^ 22 →
      (∀ a b : Nat, (g.accEntry a b).lanes.length = 34) → ∃ (t : State) (h : Machine.Group),
      s.matrixEffect gid (.mdrain e) c = .ok t ∧ engineOnly s t gid g h ∧ h.active = g.active ∧ h.shadow = g.shadow ∧
      (i < g.n → k < V → j < 32 →
        let lane := (verifyEntry (g.accEntry i (E + k)).lanes (cfgTol c.cfg)).1.getD j 0
        let bits := (roundCvt (f32Val lane) f.elem c.rnd c.sat).1
        let n := 32 * k + j
        if f.width = 4 then (h.spad.get (2 ^ 22 * i + r.base + n / 2)).toNat / 16 ^ (n % 2) % 16 = bits % 16
        else leNat (h.spadRead (2 ^ 22 * i + r.base + f.size * n) f.size) = bits % 2 ^ f.width) ∧
      ((∀ a : Nat, a < g.n → ¬ (2 ^ 22 * a + r.base ≤ o ∧ o < 2 ^ 22 * a + r.base + f.bytes (32 * V))) → h.spad.get o = g.spad.get o) ∧
      h.accEntry i k = if i < g.n ∧ E ≤ k ∧ k < E + V then AccEntry.clean i k else g.accEntry i k) ∧
    (let p := wbits c.vD 21 0
     p + 64 ≤ 2 ^ 22 → ∃ (t : State) (h : Machine.Group), s.matrixEffect gid (.mchk e) c = .ok t ∧ engineOnly s t gid g h ∧ h.acc = g.acc ∧
      h.active = g.active ∧ h.shadow = g.shadow ∧
      (i < g.n →
        let m := g.mchkRow i
        let field (k : Nat) : Nat := leNat (h.spadRead (2 ^ 22 * i + p + 4 * k) 4)
        field 0 = m.corr % 2 ^ 32 ∧ field 1 = m.uncorr % 2 ^ 32 ∧ field 2 = m.unchk % 2 ^ 32 ∧
        field 3 = (match m.lastbad with | some b => (2 ^ 31 + b) % 2 ^ 32 | none => 0) ∧ field 4 = m.lastd1.toNat ∧
        field 5 = m.lastd2.toNat ∧ field 6 = m.flags.toNat % 32 ∧ field 7 = m.pois % 2 ^ 32 ∧
        (∀ k : Nat, 8 ≤ k → k < 16 → field k = 0) ∧
        h.mchkRow i = if c.imm.getLsbD 0 then { m with corr := 0, uncorr := 0, unchk := 0, pois := 0, lastbad := none } else m) ∧
      ((∀ a : Nat, a < g.n → ¬ (2 ^ 22 * a + p ≤ o ∧ o < 2 ^ 22 * a + p + 64)) → h.spad.get o = g.spad.get o)) ∧
    (∀ cx : Context, s.ctx? g.ctx = some cx → 10 ≤ c.imm.toNat % 16 → ∃ (t : State) (d : Context),
      s.matrixEffect gid (.mfmt e) c = .ok t ∧ t = { s with ctxs := t.ctxs } ∧ t.ctx? g.ctx = some d ∧ d = { cx with fmt := d.fmt } ∧
      ∀ b : Nat, d.fmt.toList.getD b 0 = if b + 10 = c.imm.toNat % 16 then c.vD.setWidth 32 &&& 0xFFFFFC00#32 else cx.fmt.toList.getD b 0))

/-- O43 (R177, R178, R99): An `mred` contributes the FP32 elements of its region in every row, or nothing where it is
nullified; at the root the round writes the tree sum of the contributions, in order of stacks, to each element of D,
and traps with 0x21, with nothing written, where a contributor that is not absent has another MASK, ROOT, COUNT or row
count; at a nullified root the round's contributions are discarded and nothing is written. That a poisoned element
contributes 0 is the model's reading (log 44), and so is the tree over absent contributors (log 23), in which a NaN
that no partner meets keeps its payload (log 22). Flags are not stated. An edited entry whose formats are not FP32
adds FP32 words, one whose MASK leaves out its own stack takes part, and offsets beyond the extent are used as they
stand, by the model's choice (log 49). -/
def Obligations.ReductionEffects : Prop :=
  ∀ (s t : State) (gid : Nat) (g : Machine.Group) (c : Cmd) (ends : Bool) (i k o : Nat), s.grp? gid = some g →
    let r := regionOf c.vA
    let d := regionOf c.vD
    let round := (g.roundHeld c).getD 0
    (s.startMred gid c = (t, ends) → (ends = true ↔ redRoot c.vB ≠ g.drain) ∧ ∃ x ∈ t.contribs, x.ctx = g.ctx ∧
      x.ch = redCh c.vB ∧ x.stack = g.drain ∧ x.mask = redMask c.vB ∧ x.root = redRoot c.vB ∧ x.n = g.n ∧ x.absent = c.null ∧
      (c.null = false → i < g.n → k < r.count → ∀ f : Format, formatOf 2 0 = some f →
        (x.rows.getD i []).getD k 0 = BitVec.ofNat 32 (g.elem i r f k).1)) ∧
    (s.finishMred gid c = .ok t → c.null = false → g.spad.wf = true → d.base + 4 * r.count ≤ 2 ^ 22 →
      let given (stack : Nat) : Option F32 := if (redMask c.vB).testBit stack then
          (match (s.roundContribs g.ctx (redCh c.vB) round).find? (fun x => x.stack == stack) with
           | some x => if x.absent then none else some ((x.rows.getD i []).getD k 0)
           | none => none)
        else none
      ∃ h : Machine.Group, engineOnly s t gid g h ∧ h.acc = g.acc ∧ h.active = g.active ∧ h.shadow = g.shadow ∧
        (i < g.n → k < r.count → leNat (h.spadRead (2 ^ 22 * i + d.base + 4 * k) 4) =
          ((treeSum 4 ((List.range 16).map given)).1.getD 0).toNat) ∧
        ((∀ a : Nat, a < g.n → ¬ (2 ^ 22 * a + d.base ≤ o ∧ o < 2 ^ 22 * a + d.base + 4 * r.count)) → h.spad.get o = g.spad.get o)) ∧
    (c.null = false → (∃ x ∈ s.roundContribs g.ctx (redCh c.vB) round,
        x.absent = false ∧ (x.mask ≠ redMask c.vB ∨ x.root ≠ redRoot c.vB ∨ x.n ≠ g.n ∨ ∃ row ∈ x.rows, row.length ≠ r.count)) →
      s.finishMred gid c = .error { cause := 0x21 }) ∧
    (c.null = true → ∃ u : State, s.finishMred gid c = .ok u ∧ u = { s with contribs := u.contribs } ∧
      ∀ x : Contribution, x ∈ u.contribs ↔ x ∈ s.contribs ∧ ¬ (x.ctx = g.ctx ∧ x.ch = redCh c.vB ∧ x.round = round))

/-- O44 (R194, R198, R199, R204, R207, R208, R209, R210, R211, R217, R219, R223): What an elementwise vector command that
governs n elements makes of element k of D in a row that runs it, from the elements of its sources in that row, a
poisoned one as +0: the values of R207 and R208, of R209 to R211, and of `vfill`, `vcopy` and `vswp2`, each converted
as put does; the last element where D has STRIDE 0; of an MX region the elements that `vcopy` copies and those that
`vquant` makes under the scale byte of their block; no vector command changes a byte outside the elements written or
other state but flags and DP. 0 × ∞ with a NaN in vfma and vneg of an integer 0 are log 48, the sign of a zero special
value and NX of vrsq below the grid log 4, a poisoned MX element log 44, rounding codes 5 and 6 of an edited entry log
46. Flags and a poisoned destination are not stated. An edited entry with an invalid captured word of a source is read
by D's, and a ROW at or above n and formats outside their class are used as they stand, by the model's choice (log
49). -/
def Obligations.VectorEffects : Prop :=
  ∀ (s : State) (gid : Nat) (g : Machine.Group) (ins : Instr) (e : EWord) (c : Cmd) (i k o : Nat) (d : Arg), s.grp? gid = some g →
    commandWord ins = some e → mkArg c.vD (c.word 0) = some d → g.spad.wf = true → g.x ≤ 2 ^ 22 →
    let n := vxCount ins c
    let m := touched ins c d.r n
    let rows := if c.mod.getLsbD 4 then [(c.mod.extractLsb' 0 4).toNat] else List.range g.n
    let arg (j : Nat) (v : Word) : Arg := (mkArg v (c.word j)).getD d
    let A := arg 1 c.vA
    let B := arg 2 c.vB
    let C := arg 3 c.vC
    let val (x : Arg) (j : Nat) : XVal := (g.elemVal i x.r x.f j).1
    let bits (x : Arg) (j : Nat) : Nat := (g.elem i x.r x.f j).1
    let beyond (x : Arg) : Prop := ∀ a ∈ rows, let w := regionSpan x.r x.f m; ¬ ((2 ^ 22 * a : Int) + w.1 ≤ o ∧ (o : Int) < 2 ^ 22 * a + w.2)
    n ≠ 0 → regionOk g.x d.r d.f m = true → ∃ h : Machine.Group, engineOnly s (s.performVx gid ins c) gid g h ∧ h.acc = g.acc ∧
      h.active = g.active ∧ h.shadow = g.shadow ∧
      (beyond d → (ins = .vtopk e → regionOk g.x B.r B.f m = true ∧ beyond B) → (ins = .vquant e → d.f.mx = true) →
        h.spad.get o = g.spad.get o) ∧
      (i ∈ rows → k < m → d.f.mx = true → (g.elem i d.r d.f k).2.2 = false →
        (ins = .vcopy e → A.f = d.f → (g.elem i A.r A.f k).2.2 = false → h.elem i d.r d.f k = g.elem i A.r A.f k) ∧
        (ins = .vquant e →
          let mate (j : Nat) : Prop := j < n ∧ j / 32 = k / 32
          let x := (h.elem i d.r d.f k).2.1
          ((∃ j : Nat, mate j ∧ (val A j).isNan = true) → x = 255 ∧ (h.elem i d.r d.f k).1 = 0) ∧
          ((∀ j : Nat, mate j → (val A j).isNan = false) →
            (h.elem i d.r d.f k).1 = (roundCvt ((val A k).scale (127 - (x : Int) + d.f.frac)) d.f.elem c.rnd true).1 % 2 ^ d.f.width ∧
            ((∀ j : Nat, mate j → (val A j).isZero = true) → x = 127) ∧
            ((∃ (j : Nat) (neg : Bool), mate j ∧ val A j = .inf neg) → x = 254) ∧
            ∀ (j : Nat) (neg : Bool) (a : Nat) (z : Int), mate j → val A j = .fin neg a z → a ≠ 0 →
              (∀ y : Nat, mate y → absLt (val A j) (val A y) = false) →
              (x : Int) = min 254 (max 0 ((a.log2 : Int) + z - emaxOf d.f.elem + 127))))) ∧
      (i ∈ rows → k < m → d.f.mx = false → d.r.stride ≠ 0 ∨ k + 1 = m → (g.elem i d.r d.f k).2.2 = false →
        let put (v : XVal) : Prop := (h.elem i d.r d.f k).1 = (roundCvt v d.f.elem c.rnd c.sat).1 % 2 ^ d.f.width
        let raw (v : Nat) : Prop := (h.elem i d.r d.f k).1 = v % 2 ^ d.f.width
        let ok (x : Bool) : XVal := XVal.ofInt (if x then 1 else 0)
        (∀ v : XVal, elementValue ins (c.rnd == 2) (val A k) (val B k) (val C k) = some v → put v) ∧
        (ins = .vcmp e → put (ok (
          let x := val A k
          let y := val B k
          let cond := c.imm.toNat / 16 % 8
          if x.isNan || y.isNan then cond == 1 || cond == 6
          else [x.numEq y, !x.numEq y, x.lt y, x.lt y || x.numEq y, y.lt x, y.lt x || x.numEq y, false, true].getD cond false))) ∧
        (ins = .vfill e → raw c.vA.toNat) ∧ (ins = .vcopy e → raw (bits A k)) ∧
        (ins = .vswp2 e → let q := c.imm.toNat / 16 % 8
          let neg := c.imm.toNat / 128 % 4
          k ^^^ 2 ^ q < n → let v := val A (k ^^^ 2 ^ q)
          put (if (neg = 1 ∧ k.testBit q = false) ∨ (neg = 2 ∧ k.testBit q = true) then v.negate else v)))

/-- O45 (R198, R206, R214, R100, R215, R216, R218, R220, R221, R222, R224): What a vector command that gathers, scatters,
looks up, draws, reduces, scans or ranks makes of element k of D in a row that runs it, from the elements of its
sources in that row, a poisoned one as +0: `vlut`, `vtern`, `vgath`, `vscat`, `vrand`, `vdot8`, `vscan`, the
reductions, and `vtopk` with its indices, each converted as put does; the last element where D has STRIDE 0, but for
`vscat`. The lone leaf of the tree of vredsum is log 22, a poisoned MX element log 44, rounding codes 5 and 6 of an
edited entry log 46. Flags and a poisoned destination are not stated. An edited entry with an invalid captured word of
a source is read by D's, and a ROW at or above n, formats outside their class and a table that is too short are used
as they stand, by the model's choice (log 49). -/
def Obligations.VectorIndexEffects : Prop :=
  ∀ (s : State) (gid : Nat) (g : Machine.Group) (ins : Instr) (e : EWord) (c : Cmd) (i k : Nat) (d : Arg), s.grp? gid = some g →
    commandWord ins = some e → mkArg c.vD (c.word 0) = some d → g.spad.wf = true → g.x ≤ 2 ^ 22 →
    let n := vxCount ins c
    let m := touched ins c d.r n
    let rows := if c.mod.getLsbD 4 then [(c.mod.extractLsb' 0 4).toNat] else List.range g.n
    let arg (j : Nat) (v : Word) : Arg := (mkArg v (c.word j)).getD d
    let A := arg 1 c.vA
    let B := arg 2 c.vB
    let C := arg 3 c.vC
    let val (x : Arg) (j : Nat) : XVal := (g.elemVal i x.r x.f j).1
    let bits (x : Arg) (j : Nat) : Nat := (g.elem i x.r x.f j).1
    n ≠ 0 → regionOk g.x d.r d.f m = true → ∃ h : Machine.Group, (s.performVx gid ins c).grp? gid = some h ∧
      (i ∈ rows → k < m → d.f.mx = false → d.r.stride ≠ 0 ∨ k + 1 = m → (g.elem i d.r d.f k).2.2 = false →
        let put (v : XVal) : Prop := (h.elem i d.r d.f k).1 = (roundCvt v d.f.elem c.rnd c.sat).1 % 2 ^ d.f.width
        let raw (v : Nat) : Prop := (h.elem i d.r d.f k).1 = v % 2 ^ d.f.width
        let first (least : Nat) : Prop := least < n ∧ ∀ j : Nat, j < n → (val A least).ordLt (val A j) = false ∧
          (j < least → (val A j).ordLt (val A least) = true)
        (ins = .vrand e → (c.imm.toNat / 16 % 4 = 0 → raw (randWord c.vA c.vB i k).toNat) ∧
          (c.imm.toNat / 16 % 4 ≠ 0 → put (.fin false ((randWord c.vA c.vB i k).toNat / 256) (-24)))) ∧
        (ins = .vlut e → put (val B (bits A k))) ∧
        (ins = .vtern e → let b := bits A (k / 5)
          put (XVal.ofInt (if 243 ≤ b then 0 else if b / 3 ^ (k % 5) % 3 = 2 then -1 else (b / 3 ^ (k % 5) % 3 : Nat)))) ∧
        (ins = .vgath e → let j := (val B k).toInt
          put (if 0 ≤ j ∧ j < (A.r.count : Int) then val A j.toNat else XVal.zero)) ∧
        (ins = .vdot8 e → let q := 2 ^ (c.imm.toNat / 16 % 16)
          B.r.count ≠ 0 → put (sumX (c.rnd == 2) ((List.range (min q (n - k * q))).map (fun j =>
            (mulX (val A (k * q + j)) (val B ((k * q + j) % B.r.count))).1) ++ (if c.eword.c = 0 then [] else [val C k]))).1) ∧
        (ins = .vscan e → ∀ v : XVal × FFlags, (scanX (c.imm.toNat / 16 % 4) (A.f.isInt && d.f.isInt) (c.rnd == 2) none
          ((List.range n).map (val A)))[k]? = some v → put v.1) ∧
        (ins = .vredsum e → put (if A.f.isInt && d.f.isInt
          then XVal.ofInt (((List.range n).map (fun j => (val A j).toInt)).foldl (· + ·) 0)
          else (treeX 17 ((List.range n).map (val A))).1)) ∧
        (ins = .vscat e → d.r.stride ≠ 0 → let into (j : Nat) : Prop := j < n ∧ (val B j).toInt = k
          (∀ j : Nat, into j → (∀ y : Nat, j < y → ¬ into y) → put (val A j)) ∧ ((∀ j : Nat, ¬ into j) → raw (bits d k))) ∧
        (ins = .vtopk e → regionOk g.x B.r B.f m = true → ∀ j : Nat, j < n →
          ((List.range n).filter (fun y => (val A j).ordLt (val A y) || (!(val A y).ordLt (val A j) && decide (y < j)))).length = k →
          let p := regionSpan d.r d.f m
          let w := regionSpan B.r B.f m
          p.2 ≤ w.1 ∨ w.2 ≤ p.1 → put (val A j) ∧ (B.f.width = 32 → B.f.mx = false → B.r.stride ≠ 0 ∨ k + 1 = m →
            (g.elem i B.r B.f k).2.2 = false → (h.elem i B.r B.f k).1 = j % 2 ^ 32)) ∧
        (ins = .vredmax e → ∀ j : Nat, first j → put (val A j)) ∧ (ins = .vargmax e → ∀ j : Nat, first j → put (XVal.ofInt j)))

/-- O46 (R279, R280, R282, R285, R287, R288): One burst of a copy without peers whose groups, source and destination pass
their checks: `cp` writes the bytes that the engine reads of the source, a poisoned one as zero, to memory or to every
receiving group's scratchpad in range, or clips them; `cp.red` adds its elements there, one after another, each as the
sum rounded to its format; with TBEN the barrier of each receiving group takes the arrival of the burst's 32-byte
sectors, of none where the burst is clipped, and a poisoned one loses the context (log 8: every store of the module
that has issued is performed with an arrival); the burst ends with its counts, the cursor moves on by its bytes, and a
barrier that the arrival overflows stops the copy with cause 0x1A. Of an edited entry RFMT 2 and 3 are BF16, bytes at
the end of a cp.red burst that make no whole element are left, and DSP 3 is taken as DSP 2, by the model's choice (log
49). -/
def Obligations.CopyEffects : Prop :=
  ∀ (s s1 s2 : State) (gid : Nat) (g : Machine.Group) (q : EQueue) (c : Cmd) (rest : List Cmd) (red : Bool) (b : Burst) (targets : List Nat)
    (sps dps : List Part), s.grp? gid = some g → g.queue q = c :: rest → c.hold = none → c.reqs = [] →
    s.burstTargets g c = .ok (some targets) → s.sourceParts g q c b = .ok s1 sps → s1.destParts g q c b red = .ok s2 dps →
    (sps ++ dps).all (fun p => !p.onPeer) = true → ((sps ++ dps).any (fun p => p.ord == 0) = true → s2.soQuiet gid q.src none = true) →
    let v : Viewer := { gid := some gid, sl := none, upTo := none, bind := bindOf g.ctx c.bind }
    let read (p : Part) (k : Nat) : Byte × Bool :=
      match p.loc with
      | .spad o => if g.spadPoisoned (o + k) 1 then (0, true) else (g.spad.get (o + k), false)
      | l => if s2.viewPoison (s2.visible v) (l.shift k) then (0, true) else (s2.viewByte v (s2.visible v) (l.shift k), false)
    let bytes := sps.flatMap (fun p => (List.range p.n).map (read p))
    let bad := bytes.any Prod.snd
    let step := s.copyStep gid q g c red b
    let ended (t : State) : State := t.mapGrp gid (fun h => h.setHead q
      { c with cursor := c.cursor + b.n, hold := none, reqs := [], pz := c.pz || bad })
    (cpDsp c.vC = 0 → red = false → ∀ p : Part, dps = [p] →
      let t := s2.drainOverlap v false p.loc p.n
      let u := ended (t.performWrite p.loc (bytes.map Prod.fst) bad true)
      step = if bytes.length = 0 ∨ t.discards p.loc = true then u else u.count gid 11 bytes.length) ∧
    (cpDsp c.vC ≠ 0 → red = false → cpTben c.vB = false → targets.Nodup → s2.memoriesWf = true →
      ∀ (k : Nat) (h : Machine.Group), k ∈ targets → s2.grp? k = some h →
      (targets = [k] → h.inRange b.dst = false → step = if b.n = 0 then ended s2 else (ended s2).count gid 13 b.n) ∧
      (h.inRange b.dst = true → ∃ u : Machine.Group, step.grp? k = some u ∧
        ∀ o : Nat, s2.pendingOn (.spad o) = false → u.spad.get o =
          if b.dst.toNat ≤ o ∧ o < b.dst.toNat + bytes.length then (bytes.getD (o - b.dst.toNat) (0, false)).1 else h.spad.get o)) ∧
    (∀ (t : Tbar) (n : Nat), arrive t n = if t.exp < t.arr + n then none
      else if 0 < t.exp ∧ t.arr + n = t.exp then some { t with exp := 0, arr := 0, phase := !t.phase }
      else some { t with arr := t.arr + n }) ∧
    (cpDsp c.vC ≠ 0 →
      (s2.burstAll c red b bytes targets { poison := bad } = none → step = s2.loseContext g.ctx
        { reason := 5, src := q.src, gid := some gid, place := some (.spad (cpTboff c.vB)), va := 0 }) ∧
      ∀ (t : State) (y : Tally), s2.burstAll c red b bytes targets { poison := bad } = some (t, y) → step = t.burstEnd gid q c b y) ∧
    (∀ (x : State) (y : Tally) (k : Nat) (ks : List Nat), x.burstAll c red b bytes [] y = some (x, y) ∧
      x.burstAll c red b bytes (k :: ks) y = (x.burstInto c red b bytes k y).bind (fun z => z.1.burstAll c red b bytes ks z.2)) ∧
    (∀ (x : State) (y : Tally),
      let counted (n src : Nat) (t : State) : State := if n = 0 then t else t.count gid src n
      let t := counted y.clipped 13 (counted y.sectors 12 (counted y.written 11 (x.mapGrp gid (fun h => h.setHead q
        { c with cursor := c.cursor + b.n, hold := none, reqs := [], fl := c.fl ||| y.flags, pz := c.pz || y.poison }))))
      x.burstEnd gid q c b y = if y.ovf = true then t.raise gid q.src
        { cause := 0x1A, addr := cpTboff c.vB, status := BitVec.ofNat 64 (c.cursor + b.n) } false c.idx else t) ∧
    (let n := if wbits c.vC 7 6 = 0 then 4 else 2
     let item (k : Nat) : Nat × Bool := (leNat (((bytes.drop (n * k)).take n).map Prod.fst), ((bytes.drop (n * k)).take n).any Prod.snd)
     let added (y : Tally) (f : FFlags) (pz kept : Bool) : Tally :=
       { y with flags := y.flags ||| f, poison := y.poison || pz, written := y.written + if pz || kept then 0 else n }
     let items := List.range (bytes.length / n)
     (cpDsp c.vC = 0 → red = true → ∀ p : Part, dps = [p] →
       let add (x : State × Tally) (k : Nat) : State × Tally :=
         let r := x.1.redAt v c (p.loc.shift (n * k)) (item k).1 (item k).2
         (r.1, added x.2 r.2.1 r.2.2 (r.1.discards (p.loc.shift (n * k))))
       let u := items.foldl add (s2, { poison := bad })
       step = u.1.burstEnd gid q c b u.2) ∧
     (∀ (x : State) (y : Tally) (h : Machine.Group) (k : Nat), x.grp? k = some h →
       let add (x : Machine.Group × Tally) (k : Nat) : Machine.Group × Tally :=
         let r := x.1.redSpad c (b.dst.toNat + n * k) (item k).1 (item k).2
         (r.1, added x.2 r.2.1 r.2.2 false)
       let u := items.foldl add (h, y)
       x.writeSpad k c true b.dst.toNat bytes y = (x.setGrp u.1, u.2)) ∧
     ∀ (h : Machine.Group) (o src : Nat) (pz : Bool),
       let f := if wbits c.vC 7 6 = 0 then fmtFP32 else fmtBF16
       let sum := sumX false [decodeElem f (leNat (h.spadRead o n)), decodeElem f src]
       (pz = false → h.spadPoisoned o n = false → h.redSpad c o src pz =
         (h.spadWrite o (leBytes n (roundCvt sum.1 f 0 false).1) false true, sum.2 ||| (roundCvt sum.1 f 0 false).2, false)) ∧
       (pz = true ∨ h.spadPoisoned o n = true → h.redSpad c o src pz = ((sectorsOf o n).foldl Group.poisonSpad h, 0, true))) ∧
    (∀ (x : State) (y : Tally) (h : Machine.Group) (k : Nat), x.grp? k = some h → 0 < b.n → cpTben c.vB = true →
      let w := if h.inRange b.dst then (x.settleSpad k b.dst.toNat b.n).writeSpad k c red b.dst.toNat bytes y
        else (x, { y with clipped := y.clipped + b.n })
      let n := if h.inRange b.dst then (b.dst.toNat + b.n - 1) / 32 - b.dst.toNat / 32 + 1 else 0
      let at_ := w.1.drainAll.tbarAt { v with bind := none, gid := some k } k (cpTboff c.vB)
      (∀ (z : State) (t : Tbar), at_ = (z, some (t, true)) → x.burstInto c red b bytes k y = none) ∧
      (∀ (z : State) (t u : Tbar), at_ = (z, some (t, false)) → arrive t n = some u → x.burstInto c red b bytes k y =
        some (z.setTbar k (cpTboff c.vB) u, { w.2 with sectors := w.2.sectors + n })) ∧
      (∀ (z : State) (t : Tbar), at_ = (z, some (t, false)) → arrive t n = none →
        x.burstInto c red b bytes k y = some (z, { w.2 with ovf := true }))) ∧
    (∀ (x : State) (l : MemLoc) (src : Nat) (pz : Bool),
      let n := if wbits c.vC 7 6 = 0 then 4 else 2
      let f := if wbits c.vC 7 6 = 0 then fmtFP32 else fmtBF16
      let y := x.drainOverlap v true l n
      let old := y.viewRead v l n
      let sum := sumX false [decodeElem f (leNat old.1), decodeElem f src]
      (pz = false → old.2 = false → (x.redAt v c l src pz).1 = y.performWrite l (leBytes n (roundCvt sum.1 f 0 false).1) false true ∧
        (x.redAt v c l src pz).2.1 = sum.2 ||| (roundCvt sum.1 f 0 false).2) ∧
      (pz = true ∨ old.2 = true → x.redAt v c l src pz = (y.poisonSectors l n, 0, true)))

/-- O47 (R294, R299, R303): The semaphore instructions of R299: decrement, increment, set, ceiling and read, with their
traps of cause 0x18. What the increments and `sem.set` do to a semaphore and its waiters: VALUE becomes v where none
waits; with w waiters in a group that may begin, the first min(v, w) take a unit each, in queue order, and go on, a
slice after its `sem.wait`, a queue head begun, and the rest stay queued, with VALUE above 0 only where none is left;
in a group that begins nothing (R379, R388) they are left unexecuted. A `sem.wait` on 0 that another agent may still
raise stalls behind the earlier waiters; one that none can raise traps with cause 0x11, together with every other wait
of the group on it, the C-slice's before the A-slice's, and each queue head that waits on a starved semaphore gets a
record of its own (R294, R303, R380). What sem.sig loads and performs before it (State.settleLoads, State.release) is
the model's choice (log 8). -/
def Obligations.SemaphoreResults : Prop :=
  (∀ (s : State) (gid : Nat) (sl : Slice) (g : Machine.Group) (k : BitVec 4) (a d : Reg), Issuing s gid sl g →
    let x := g.sem k.toNat
    let v := (g.stream sl).rd a
    let bad (n : Word) : Out := trapped s gid sl { cause := 0x18, addr := k.toNat, status := n }
    (0 < x.value → x.waiters = [] →
      exec (.semWait k) s = .next ((s.setGrp (g.setSem k.toNat { x with value := x.value - 1 })).advance gid sl)) ∧
    (x.value < x.ceil → ((s.settleLoads gid sl).quietFor gid sl = true → exec (.semSig k) s =
        .next ((((s.settleLoads gid sl).release gid sl 0).semTo gid k.toNat (x.value + 1)).advance gid sl)) ∧
      ((s.settleLoads gid sl).quietFor gid sl = false → exec (.semSig k) s = .next ((s.settleLoads gid sl).stallOn gid sl .peer))) ∧
    (x.ceil ≤ x.value → exec (.semSig k) s = bad (BitVec.ofNat 64 (x.value + 1))) ∧
    ((g.stream sl).rp a = false →
      (v.toNat ≤ x.ceil → exec (.semSet k a) s = .next ((s.semTo gid k.toNat v.toNat).advance gid sl)) ∧
      (x.ceil < v.toNat → exec (.semSet k a) s = bad v) ∧
      (v.toNat < 2 ^ 16 → x.value ≤ v.toNat →
        exec (.semCeil k a) s = .next ((s.setGrp (g.setSem k.toNat { x with ceil := v.toNat })).advance gid sl)) ∧
      (2 ^ 16 ≤ v.toNat ∨ v.toNat < x.value → exec (.semCeil k a) s = bad v)) ∧
    exec (.semRd d k) s = wrote s gid sl d (BitVec.ofNat 64 (x.ceil * 2 ^ 16 + x.value)) false) ∧
  (∀ (s : State) (gid k v : Nat) (g : Machine.Group), s.grp? gid = some g → k < 16 →
    let x := g.sem k
    let y : Sem := { x with value := v - x.waiters.length, waiters := x.waiters.drop v }
    let next (t : State) (w : Waiter) : State :=
      match w with
      | .slice sl => t.advance gid sl
      | .queue q => t.mapGrp gid (fun h =>
        match h.queue q with
        | c :: rest => h.setQueue q ({ c with started := true } :: rest)
        | [] => h)
    (x.waiters = [] → s.semTo gid k v = s.setGrp (g.setSem k { x with value := v })) ∧
    s.semTo gid k 0 = s.setGrp (g.setSem k { x with value := 0 }) ∧
    (v ≠ 0 → g.mayBegin = true →
      s.semTo gid k v = (x.waiters.take v).foldl next (s.setGrp (g.setSem k y)) ∧
      y.value + min v x.waiters.length = v ∧ (y.value = 0 ∨ y.waiters = []) ∧
      ((∀ w ∈ x.waiters.take v, ∃ q : EQueue, w = .queue q) → ∃ h : Machine.Group, (s.semTo gid k v).grp? gid = some h ∧ h.sem k = y)) ∧
    (v ≠ 0 → g.mayBegin = false →
      s.semTo gid k v = s.setGrp (g.setSem k { x with value := v, waiters := [], left := x.left ++ x.waiters }))) ∧
  (∀ (s : State) (gid : Nat) (sl : Slice) (g : Machine.Group) (k : BitVec 4), Issuing s gid sl g →
    let x := g.sem k.toNat
    let starved := g.starved k.toNat (fun y => y == sl || g.waitsOn k.toNat y)
    let h := g.setSem k.toNat { x with waiters := x.waiters ++ [Waiter.slice sl] }
    let stalled := (s.setGrp h).stallOn gid sl .semaphore
    let t := stalled.starvedBy gid k.toNat (fun y => y = sl ∨ g.waitsOn k.toNat y = true)
    x.value = 0 → Waiter.slice sl ∉ x.waiters →
    (starved = false → exec (.semWait k) s = .next stalled) ∧
    (starved = true → exec (.semWait k) s = .next t) ∧
    (starved = true → ∃ u : Machine.Group, t.grp? gid = some u ∧ u.status = .stopping ∧
      (g.recs = [] → ∃ r ∈ u.recs, r.cause = 0x11 ∧ r.addr = BitVec.ofNat 64 k.toNat ∧
        r.src = if sl = .c ∨ g.waitsOn k.toNat .c = true then 1 else 0) ∧
      (∀ (q : EQueue) (c : Cmd) (y : TrapInfo), h.stuckHead q = some (c, y) →
        ∃ r ∈ u.recs, r.src = q.src ∧ r.cause = 0x11 ∧ r.addr = BitVec.ofNat 64 c.wsem.toNat)))

/-- O48 (R301, R288): The transaction-barrier instructions at a barrier that passes R301's checks and is not poisoned.
That a tbar.wait whose condition has held while it was stalled completes although PHASE has come back to p is the
model's choice (State.catchWaits, log 1). -/
def Obligations.BarrierResults : Prop :=
  ∀ (s s1 : State) (gid : Nat) (sl : Slice) (g : Machine.Group) (a b : Reg) (t : Tbar), Issuing s gid sl g →
    let o := ((g.stream sl).rd a).toNat
    let c := ((g.stream sl).rd b).toNat
    let place := o < 2 ^ 26 ∧ o % 16 = 0 ∧ o / 2 ^ 22 < g.n ∧ o % 2 ^ 22 + 16 ≤ g.x
    (g.stream sl).rp a = false → (g.stream sl).rp b = false →
    (place → s.tbarAt (g.viewer sl) gid o = (s1, some (t, false)) →
      (c < 2 ^ 32 → exec (.tbarInit a b) s =
        .next ((s1.setTbar gid o { t with exp := c, arr := 0, phase := false }).advance gid sl)) ∧
      (c < 2 ^ 32 → t.exp + c < 2 ^ 32 → exec (.tbarExp a b) s = .next ((s1.setTbar gid o
        (if 0 < t.exp + c ∧ t.arr = t.exp + c then { t with phase := !t.phase, arr := 0, exp := 0 }
         else { t with exp := t.exp + c })).advance gid sl)) ∧
      (c < 2 ^ 32 → 2 ^ 32 ≤ t.exp + c → exec (.tbarExp a b) s =
        trapped s1 gid sl { cause := 0x1A, addr := o, status := BitVec.ofNat 64 (t.exp + c) }) ∧
      (c < 2 → (t.phase = true ↔ c = 0) ∨ (g.stream sl).caught = true → exec (.tbarWait a b) s = .next (s1.advance gid sl)) ∧
      (c < 2 → (t.phase = true ↔ c = 1) → (g.stream sl).caught = false → exec (.tbarWait a b) s =
        .next (s1.beginWait gid sl .barrier (.barrier o (c == 1))))) ∧
    (¬ place ∨ 2 ^ 32 ≤ c →
      exec (.tbarInit a b) s = trapped s gid sl { cause := 0x21, status := encodeStatus (.tbarInit a b) } ∧
      exec (.tbarExp a b) s = trapped s gid sl { cause := 0x21, status := encodeStatus (.tbarExp a b) }) ∧
    (¬ place ∨ 2 ≤ c → exec (.tbarWait a b) s = trapped s gid sl { cause := 0x21, status := encodeStatus (.tbarWait a b) })

/-- O49 (R308, R325, R326, R327): `kv.alloc` takes the first free page that matches, zeroed, or answers 0; `kv.free` frees
a held page; both perform every store of the module that has issued (log 8). That a page is zeroed at both is the
model's reading (log 32). -/
def Obligations.PageResults : Prop :=
  ∀ (s s1 : State) (gid : Nat) (sl : Slice) (g : Machine.Group) (cx : Context) (d a b : Reg) (ps : List Part), Issuing s gid sl g →
    s.ctx? g.ctx = some cx → (g.stream sl).midway = false → (g.stream sl).rp a = false → (g.stream sl).rp b = false →
    let f := (g.stream sl).rd a
    let t := (g.stream sl).rd b
    let u := s.settleLoads gid sl
    let good := wbits f 47 0 = 0 ∧ wbits t 63 50 = 0 ∧ wbits t 49 48 ≤ 1 ∧ wbits t 31 0 ≤ 2 ^ 32 - 32 ∧ wbits t 47 32 ≤ cx.desc.sqrows
    let pick (l : List PoolSlot) : Option PoolSlot := l.find? (fun x => x.e.state == 0 && filterMatches f x.e)
    let held (l : List PoolSlot) : Option PoolSlot := l.find? (fun x => x.e.pword == f && (x.e.state == 1 || x.e.state == 2))
    let prov := wbits g.firn 63 63 == 1 && wbits g.firn 15 0 == wbits t 47 32
    let gives (t : State) (v : Word) : State := t.mapStream gid sl (fun st => st.wr d v false)
    (good → u.poolAccess gid sl cx (fun l => (pick l).toList) = .ok s1 ps →
      (pick (s1.pool cx ps) = none → kvEnds (exec (.kvAlloc d a b) s) (gives (s1.count gid 14 1) 0) gid sl true) ∧
      (∀ x : PoolSlot, pick (s1.pool cx ps) = some x → kvEnds (exec (.kvAlloc d a b) s)
        (gives ((s1.drainAll.zeroPage cx.num x.e.pword).putEntry gid sl x
          { pword := x.e.pword, state := if prov then 2 else 1, pw := wbits t 49 48, seq := wbits t 47 32,
            win := if prov then wbits g.firn 19 16 else 0, p0 := wbits t 31 0 }) x.e.pword) gid sl (!x.loc.isPeer))) ∧
    (u.poolAccess gid sl cx (fun l => (held l).toList) = .ok s1 ps →
      (∀ x : PoolSlot, held (s1.pool cx ps) = some x →
        kvEnds (exec (.kvFree a) s) (s1.drainAll.freeEntry gid sl cx x) gid sl (!x.loc.isPeer)) ∧
      (held (s1.pool cx ps) = none →
        exec (.kvFree a) s = trapped s1 gid sl { cause := 0x28, addr := f.toNat, status := 8 }))

/-- O50 (R308, R317, R325, R326, R328, R329, R332): Opening, binding, unbinding and dropping a firn window whose row
passes R325's checks, with the firn errors of R326. `firn.unbind` clears BOUND and cr.firn, or does nothing where the
group is bound to no window. What `firn.drop` does, with every store of the module that has issued performed first
(log 8): in pool order each page provisional to the window gets STATE 0 in its entry, whose other fields stay (log
32), and is zeroed; then FIRN is written with the window's OPEN and BOUND bits and its WRITTEN cleared and every other
bit as it was; the module's window is closed, and VALID of cr.firn cleared in the group bound to it. A page word of
zero, of a frame of another context or of a SLOT that begins no frame zeroes nothing. That the pages of a drop are
translated before the window's state is checked is the model's choice (log 47). -/
def Obligations.WindowResults : Prop :=
  (∀ (s s1 : State) (gid : Nat) (sl : Slice) (g : Machine.Group) (cx : Context) (d a : Reg) (seq w : Nat) (r : SeqRow), Issuing s gid sl g →
    s.ctx? g.ctx = some cx → (g.stream sl).midway = false → (g.stream sl).rp a = false →
    windowName cx ((g.stream sl).rd a) = some (seq, w) → (s.settleLoads gid sl).windowRow gid sl cx seq = .ok s1 r →
    let name := (g.stream sl).rd a
    let bad (t : State) (e : Nat) : Out := trapped t gid sl { cause := 0x28, addr := name.toNat, status := BitVec.ofNat 64 e }
    let cleared := putBits r.firn (64 + 12 * w) 12 0
    let based := if natBits cleared 15 0 = 0 then putBits cleared 32 32 r.clen else cleared
    let opened := s1.putFirn gid sl r.loc (putBits based w 1 1)
    let gives (t : State) (v : Word) : State := t.mapStream gid sl (fun st => st.wr d v false)
    let here := !r.loc.isPeer
    (r.isOpen w = true → exec (.firnOpen d a) s = bad s1 1) ∧
    (r.isOpen w = false → 2 ^ 32 - 4096 ≤ r.clen → exec (.firnOpen d a) s = bad s1 10) ∧
    (r.isOpen w = false → r.clen < 2 ^ 32 - 4096 → 4096 ≤ (s1.windowsBut cx.num seq w).length →
      kvEnds (exec (.firnOpen d a) s) (gives (s1.count gid 15 1) 0) gid sl true) ∧
    (r.isOpen w = false → r.clen < 2 ^ 32 - 4096 → (s1.windowsBut cx.num seq w).length < 4096 → kvEnds (exec (.firnOpen d a) s)
      (gives { opened with windows := (cx.num, seq, w) :: opened.windowsBut cx.num seq w } 1) gid sl here) ∧
    (r.isOpen w = false → exec (.firnBind a) s = bad s1 2) ∧
    (r.isOpen w = true → g.bind = none → r.isBound w = true → exec (.firnBind a) s = bad s1 3) ∧
    (r.isOpen w = true → g.bind ≠ none → g.bind ≠ some (cx.num, seq, w) → exec (.firnBind a) s = bad s1 4) ∧
    (r.isOpen w = true → g.bind = none → r.isBound w = false → kvEnds (exec (.firnBind a) s)
      ((s1.putFirn gid sl r.loc (putBits r.firn (16 + w) 1 1)).mapGrp gid (fun g =>
        { g with firn := BitVec.ofNat 64 (2 ^ 63 + w * 2 ^ 16 + seq) })) gid sl here) ∧
    (r.isOpen w = true → g.bind = some (cx.num, seq, w) → kvEnds (exec (.firnBind a) s) s1 gid sl true) ∧
    (∀ (s2 : State) (ps : List Part), s1.poolAccess gid sl cx (fun l => l.filter (fun x => x.e.provisional seq w)) = .ok s2 ps →
      (r.isOpen w = false → exec (.firnDrop a) s = bad s2 2) ∧
      (r.isOpen w = true → kvEnds (exec (.firnDrop a) s) (s2.dropWindow gid sl cx ps r seq w) gid sl
        (here && (s2.pool cx ps).all (fun x => !x.loc.isPeer))))) ∧
  (∀ (s s1 : State) (gid : Nat) (sl : Slice) (g : Machine.Group) (cx : Context) (r : SeqRow), Issuing s gid sl g → s.ctx? g.ctx = some cx →
    (g.stream sl).midway = false →
    (g.bind = none → kvEnds (exec .firnUnbind s) (s.settleLoads gid sl) gid sl true) ∧
    (∀ c seq w : Nat, g.bind = some (c, seq, w) → (s.settleLoads gid sl).windowRow gid sl cx seq = .ok s1 r →
      kvEnds (exec .firnUnbind s) ((s1.putFirn gid sl r.loc (putBits r.firn (16 + w) 1 0)).mapGrp gid (fun g =>
        { g with firn := 0 })) gid sl (!r.loc.isPeer))) ∧
  ((∀ (s : State) (gid : Nat) (sl : Slice) (cx : Context) (ps : List Part) (r : SeqRow) (seq w : Nat), w < 16 →
    let u := s.drainAll
    let freed (s : State) (x : PoolSlot) : State :=
      (s.putTable gid sl x.loc (leBytes 8 (x.e.pw * 2 ^ 60 + x.e.seq * 2 ^ 44 + x.e.win * 2 ^ 40 + x.e.p0))).zeroPage cx.num x.e.pword
    ∃ (t : State) (v : Nat),
      t = (((u.pool cx ps).filter (fun x => x.e.state == 2 && x.e.seq == seq && x.e.win == w)).foldl freed u).putTable gid sl
        (r.loc.shift 0x20) (leBytes 32 v) ∧
      (∀ k : Nat, v.testBit k = if k = w ∨ k = 16 + w ∨ (64 + 12 * w ≤ k ∧ k < 76 + 12 * w) then false else r.firn.testBit k) ∧
      s.dropWindow gid sl cx ps r seq w = { t with
        windows := t.windows.filter (fun x => x != (cx.num, seq, w)),
        groups := t.groups.map (fun g => if g.ctx == cx.num && g.bind == some (cx.num, seq, w)
          then { g with firn := g.firn &&& 0x7FFFFFFFFFFFFFFF#64 } else g) }) ∧
  ∀ (s : State) (c : Nat) (w : Word), s.vault.wf = true →
    let p := pageBase w
    (w = 0 ∨ p % 65536 ≠ 0 ∨ s.owns c p = false → s.zeroPage c w = s) ∧
    (w ≠ 0 → p % 65536 = 0 → s.owns c p = true → ∀ a : Nat, let t := s.zeroPage c w
      t.vault.get a = (if p ≤ a ∧ a < p + 65536 then 0 else s.vault.get a) ∧
      (a ∈ t.vaultPoison ↔ a ∈ s.vaultPoison ∧ ¬ (p ≤ a ∧ a < p + 65536)) ∧ t.host = s.host))

/-- O51 (R308, R311, R317, R325, R326, R330, R331, R332): `rs.ckpt` and `firn.seal` of an open window, for a sequence
without and with a recurrent state. What a seal of k positions and a checkpoint do once their sectors are performed:
in pool order each page of the sequence that is provisional to the window with P0 below BASE + k becomes committed
with WIN 0, and each other provisional page of the sequence gets STATE 0 and is zeroed; every open window of the
sequence is closed, and VALID of cr.firn cleared in the groups bound to them; FIRN becomes 0 and then COMMITTED_LEN
BASE + k; a checkpoint adds 1 to WRITTEN of its window, of 12 bits, and leaves the other bits of FIRN (at 4,095 by log
48). The order of the release, the translations and the checks of state is the model's choice (log 47); that the
fields of an entry other than STATE stay, that a page that becomes free is zeroed and that closing clears VALID alone
are its readings (log 32); that every store of the module that has issued is performed is its choice (log 8). -/
def Obligations.CheckpointAndSeal : Prop :=
  (∀ (s s1 s2 s3 s4 s5 : State) (gid : Nat) (sl : Slice) (g : Machine.Group) (cx : Context) (a b : Reg) (seq w : Nat) (r : SeqRow)
    (ps src dst : List Part), Issuing s gid sl g →
    s.ctx? g.ctx = some cx → (g.stream sl).midway = false → (g.stream sl).rp a = false → (g.stream sl).rp b = false →
    windowName cx ((g.stream sl).rd a) = some (seq, w) → r.isOpen w = true → r.rsb = 0 ∨ r.badLayout w = false →
    let k := ((g.stream sl).rd b).toNat
    let u := s.settleLoads gid sl
    let sector (t : State) (j : Nat) : List Byte × Bool := t.viewSpad (g.viewer sl) g (k + 256 * j) 256
    let stored (t : State) (l : List Part) : List (List Byte × Bool) :=
      l.mapIdx (fun j _ => (if (sector t j).2 then leBytes 256 0 else (sector t j).1, (sector t j).2))
    let ckpt (t : State) (l : List Part) : KvMove :=
      { sealK := none, seq := seq, win := w, row := r.loc, firn := r.firn, table := [], src := [], dst := l, got := some (stored t l) }
    let sealed (l m : List Part) : KvMove :=
      { sealK := some k, seq := seq, win := w, row := r.loc, firn := r.firn, table := ps, src := l, dst := m, got := none }
    (u.windowRow gid sl cx seq = .ok s1 r → g.bind = some (cx.num, seq, w) → r.written w < r.limit →
      (r.rsb = 0 → kvMoves (exec (.rsCkpt a b) s) s1 gid sl cx (ckpt s1 [])) ∧
      (r.rsb ≠ 0 → ckptOffsetOk g k r.rsb = true → s1.kvRange gid sl needW (r.slotVa w (r.written w + 1)) r.rsb = .ok s2 dst →
        kvMoves (exec (.rsCkpt a b) s) s2 gid sl cx (ckpt s2 (sectorParts dst)))) ∧
    (sl = .c → k = 0 → u.windowRow gid sl cx seq = .ok s1 r →
      s1.poolAccess gid sl cx (fun l => l.filter (fun x => x.e.state == 2 && x.e.seq == seq && (k != 0 || x.e.win == w))) = .ok s2 ps →
      kvEnds (exec (.firnSeal a b) s) (s2.dropWindow gid sl cx ps r seq w) gid sl
        (!r.loc.isPeer && (s2.pool cx ps).all (fun x => !x.loc.isPeer))) ∧
    (sl = .c → 0 < k → k < 4096 → k ≤ r.written w → u.releaseSystem gid sl = .ok s1 () → s1.windowRow gid sl cx seq = .ok s2 r →
      s2.poolAccess gid sl cx (fun l => l.filter (fun x => x.e.state == 2 && x.e.seq == seq && (k != 0 || x.e.win == w))) = .ok s3 ps →
      (r.rsb = 0 → kvMoves (exec (.firnSeal a b) s) s3 gid sl cx (sealed [] [])) ∧
      (r.rsb ≠ 0 → s3.kvRange gid sl needR (r.slotVa w k) r.rsb = .ok s4 src → s4.kvRange gid sl needW r.rsptr r.rsb = .ok s5 dst →
        kvMoves (exec (.firnSeal a b) s) s5 gid sl cx (sealed (sectorParts src) (sectorParts dst))))) ∧
  (∀ (s : State) (gid : Nat) (sl : Slice) (cx : Context) (m : KvMove), m.win < 16 →
    let begun : State := State.mapStream { s with sealing := s.sealing.filter (fun x => x != (cx.num, m.seq, m.win)) } gid sl
      (fun st => { st with kv := none, reqs := [] })
    (∀ k : Nat, m.sealK = some k →
      let u := begun.drainAll
      let limit := m.firn / 2 ^ 32 % 2 ^ 32 + k
      let low (x : PoolSlot) (state win : Nat) : Nat :=
        state * 2 ^ 62 + x.e.pw * 2 ^ 60 + x.e.seq * 2 ^ 44 + win * 2 ^ 40 + x.e.p0
      let settled (s : State) (x : PoolSlot) : State :=
        if x.e.win == m.win && x.e.p0 < limit then s.putTable gid sl x.loc (leBytes 8 (low x 1 0))
        else (s.putTable gid sl x.loc (leBytes 8 (low x 0 x.e.win))).zeroPage cx.num x.e.pword
      let open_ (w : Nat) : Bool := decide (w < 16) && m.firn.testBit w
      let t := ((begun.pool cx m.table).filter (fun x => x.e.state == 2 && x.e.seq == m.seq)).foldl settled u
      let closed : State := { t with
        windows := t.windows.filter (fun x => !(x.1 == cx.num && x.2.1 == m.seq && open_ x.2.2)),
        groups := t.groups.map (fun g =>
          if g.ctx == cx.num && (g.bind.any (fun b => b.2.1 == m.seq && open_ b.2.2))
          then { g with firn := g.firn &&& 0x7FFFFFFFFFFFFFFF#64 } else g) }
      s.endMove gid sl cx m = (closed.putTable gid sl (m.row.shift 0x20) (leBytes 32 0)).putTable gid sl (m.row.shift 0x10)
        (leBytes 8 limit)) ∧
    (m.sealK = none → ∃ v : Nat, s.endMove gid sl cx m = begun.putTable gid sl (m.row.shift 0x20) (leBytes 32 v) ∧
      v / 2 ^ (64 + 12 * m.win) % 2 ^ 12 = (m.firn / 2 ^ (64 + 12 * m.win) % 2 ^ 12 + 1) % 2 ^ 12 ∧
      ∀ k : Nat, k < 64 + 12 * m.win ∨ 76 + 12 * m.win ≤ k → v.testBit k = m.firn.testBit k))

/-- O52 (R312, R313, R334, R335): `seq.adv` and `seq.rel` release a claimed row, one on a peer's page once its write can
be sent at once (R335); of an unclaimed one they trap with firn error 7 and the row in ADDR. `seq.claim` answers all
ones where no row of the phase can be claimed, and otherwise claims the chosen row, snapshots it to the scratchpad and
answers its number; a row on a peer's page is claimed once the write can be sent at once (R312). The order of the
release and the checks of state is the model's choice (log 47), and so is the row as the ADDR of firn error 7 (log
50); what is loaded and performed before (State.settleLoads, State.releaseSystem) is its choice too (log 8). -/
def Obligations.SequenceResults : Prop :=
  (∀ (s s1 s2 : State) (gid : Nat) (sl : Slice) (g : Machine.Group) (cx : Context) (a : Reg) (p : BitVec 4) (r : SeqRow), Issuing s gid sl g →
    s.ctx? g.ctx = some cx → (g.stream sl).midway = false → (g.stream sl).rp a = false →
    let v := ((g.stream sl).rd a).toNat
    let put (phase : Nat) : State := s2.putTable gid sl (r.loc.shift 0x08) (leBytes 4 phase ++ leBytes 4 (r.flags - 1))
    let bad : Out := trapped s2 gid sl { cause := 0x28, addr := v, status := 7 }
    v ≤ cx.desc.sqrows → (s.settleLoads gid sl).releaseSystem gid sl = .ok s1 () → s1.seqRow gid sl cx needRW v = .ok s2 r →
    s2.sealing.any (fun x => x.1 == cx.num && x.2.1 == v) = false →
    (r.flags % 2 = 0 → exec (.seqAdv a p) s = bad ∧ exec (.seqRel a) s = bad) ∧
    (r.flags % 2 = 1 → (r.loc.isPeer = true → s2.rowWritable gid sl (r.loc.shift 0x08) 8 = .ok s2 ()) →
      kvEnds (exec (.seqAdv a p) s) (put p.toNat) gid sl (!r.loc.isPeer) ∧
      kvEnds (exec (.seqRel a) s) (put r.phase) gid sl (!r.loc.isPeer))) ∧
  (∀ (s s1 s2 : State) (gid : Nat) (sl : Slice) (g : Machine.Group) (cx : Context) (d a : Reg) (p : BitVec 4) (ps : List Part), Issuing s gid sl g →
    s.ctx? g.ctx = some cx → (g.stream sl).midway = false → (g.stream sl).rp a = false →
    let o := ((g.stream sl).rd a).toNat
    let chosen := chooseRow ((tableRows s1 cx ps).filter (fun x => x.2.claimable p.toNat))
      (cx.phasePtr.toList.getD p.toNat 0) (cx.desc.sqrows + 1)
    let gives (t : State) (v : Word) : State := t.mapStream gid sl (fun st => st.wr d v false)
    o < 2 ^ 26 → o % 64 = 0 → o / 2 ^ 22 < g.n → o % 2 ^ 22 + 256 ≤ g.x →
    (s.settleLoads gid sl).kvTable gid sl needR cx.desc.sqbase.toNat (256 * (cx.desc.sqrows + 1)) = .ok s1 ps →
    (chosen = none → kvEnds (exec (.seqClaim d a p) s) (gives s1 (BitVec.allOnes 64)) gid sl true) ∧
    (∀ (i : Nat) (r : SeqRow), chosen = some (i, r) → s1.seqRow gid sl cx needRW i = .ok s2 r →
      (r.loc.isPeer = true → s2.rowWritable gid sl (r.loc.shift 0x0C) 4 = .ok s2 ()) →
      let claimed := s2.putTable gid sl (r.loc.shift 0x0C) (leBytes 4 (r.flags + 1))
      ∃ t : State, kvEnds (exec (.seqClaim d a p) s) (gives (t.snapshot gid sl (g.viewer sl) o
          (r.bytes.take 0x0C ++ leBytes 4 (r.flags + 1) ++ r.bytes.drop 0x10)) (BitVec.ofNat 64 i)) gid sl (!r.loc.isPeer) ∧
        t = { claimed with ctxs := t.ctxs } ∧
        ∀ c : Context, s2.ctx? cx.num = some c → ∃ c' : Context, t.ctx? cx.num = some c' ∧ c' = { c with phasePtr := c'.phasePtr } ∧
          c'.phasePtr.toList.getD p.toNat 0 = if i = cx.desc.sqrows then 0 else i + 1))

/-- O53 (R344, R347, R357, R358, R362, R363): `launch` reads the packet at its aligned address after every earlier access
is performed, and with them every store of the module that has issued (log 8: R362 asks for the slice's own alone),
and enters it into the device queue, or writes it to the next slot of the spill ring where the queue is full or
packets stand there (R358); it stalls with what it has read while both are full, or behind another group's; from its
checks until it has read the packet it is midway, and completes before a stop (R388). `walk.next` stalls, its PC kept,
until its partner has issued its own, or traps with cause 0x11 if that has joined, and until every engine queue is
empty. Then the loads of the group's queues that can be made are made, every store of the module that has issued is
performed (both log 8), and the iteration is counted; where an iteration is available, and peers have answered the
earlier jobs of its chunk, both slices receive its indices in g1 to g8, and then 1 in their destinations, and go on;
where none is, 0, with the other registers kept, once no load of the queues is pending; the next iteration of a chunk
waits for those loads too. Until then the group waits, and keeps its place before those that become free later (log
31), and is midway where it waits for peers' answers alone (R388). -/
def Obligations.LaunchAndWalk : Prop :=
  (∀ (s s1 s2 : State) (gid : Nat) (sl : Slice) (g : Machine.Group) (cx : Context) (d : Reg) (parts : List Part) (bytes : List Byte),
    Issuing s gid sl g →
    let v := (if (g.stream sl).reqs.isEmpty then s1.settleLoads gid sl else s1).mapStream gid sl
      (fun st => { st with parts := parts, past := true })
    let read (t : State) : State := t.mapStream gid sl (fun st => { st with past := false })
    let entered (t : State) (ws : List Word) : Out := .next (State.advance
      { (State.devDone (t.setCtx { cx with devq := cx.devq ++ [{ parent := g.lid, words := ws }] })).mapStream gid sl
          (fun st => { st with packet := none }) with launchPtr := (g.ctl + 1) % 256 } gid sl)
    let stays (t : State) (ws : List Word) : Out :=
      .next (t.mapStream gid sl (fun st => { st with packet := some ws, stall := some .launch }))
    let spilt (t : State) (cy : Context) : Out := .next (State.advance
      { (State.devDone (t.setCtx { cy with spilled := cy.spilled ++ [g.lid] })).mapStream gid sl
          (fun st => { st with packet := none }) with launchPtr := (g.ctl + 1) % 256 } gid sl)
    let full := cx.spilled ≠ [] ∨ 64 ≤ cx.devq.length
    let slot := (cx.desc.spill.toNat + 128 * ((cx.spillHead + cx.spilled.length) % cx.desc.squota)) % 2 ^ 64
    let ends (t : State) (ws : List Word) : Prop := t.ctx? g.ctx = some cx →
      (cx.spilled = [] → cx.devq.length < 64 → t.launchAhead g = false → exec (.launch d) s = entered t ws) ∧
      (full → cx.desc.squota ≤ cx.spilled.length → exec (.launch d) s = stays t ws) ∧
      (t.launchAhead g = true → exec (.launch d) s = stays t ws) ∧
      (full → cx.spilled.length < cx.desc.squota → t.launchAhead g = false → ∀ (u : State) (cy : Context),
        t.devWrite cx slot (ws.flatMap wordBytes) false = .ok u () → u.ctx? g.ctx = some cy → exec (.launch d) s = spilt u cy)
    ((g.stream sl).packet = none → (g.stream sl).rp d = false →
      s.access gid sl ((g.stream sl).rd d).toNat 128 needR true false = .ok s1 parts →
      ((g.stream sl).reqs = [] → v.quietFor gid sl = true) →
      v.drainAll.readSlice gid sl parts = .ok s2 (bytes, false) → ends (read s2) (packetWords bytes)) ∧
    ((g.stream sl).packet = none → (g.stream sl).rp d = false →
      s.access gid sl ((g.stream sl).rd d).toNat 128 needR true false = .ok s1 parts →
      (g.stream sl).reqs = [] → v.quietFor gid sl = false → exec (.launch d) s = .next (v.stallOn gid sl .peer)) ∧
    (∀ ws : List Word, (g.stream sl).packet = some ws → ends s ws)) ∧
  (∀ (s : State) (gid : Nat) (sl : Slice) (g : Machine.Group) (d e : Reg), Issuing s gid sl g →
    let stays := s.mapStream gid sl (fun st => { st with wn := some d, atStep := true, stall := some .walkNext })
    ((g.stream sl.partner).joined = true → exec (.walkNext d) s = trapped s gid sl { cause := 0x11 }) ∧
    ((g.stream sl.partner).joined = false → (g.stream sl.partner).wn = none ∨ (∃ q : EQueue, g.queue q ≠ []) →
      exec (.walkNext d) s = .next stays) ∧
    ((g.stream sl.partner).joined = false → (g.stream sl.partner).wn = some e → (∀ q : EQueue, g.queue q = []) →
      let da := if sl = .a then d else e
      let dc := if sl = .a then e else d
      let f := stays.fillAll gid
      let t := (f.drainAll.countJob g).calve g.lid g.west
      let midway (b : Bool) : State := f.mapGrp gid (fun k => { k with a := { k.a with past := b }, c := { k.c with past := b } })
      ∀ (k h : Machine.Group) (l l' : Launch) (w : Work), f.grp? gid = some k → t.grp? gid = some h → t.launch? g.lid = some l →
        let goes (u : State) (next : Machine.Group) (v : Word) (idx : Option (List Nat)) : Prop :=
          ∃ (z : State) (n : Machine.Group), exec (.walkNext d) s = .next ((z.advance gid .c).advance gid .a) ∧
            z = { u with groups := z.groups } ∧ (∀ j : Nat, j ≠ gid → z.grp? j = u.grp? j) ∧ z.grp? gid = some n ∧
            n = { next with a := n.a, c := n.c } ∧ h.a.fedBy n.a da v idx ∧ h.c.fedBy n.c dc v idx
        (t.nextWork l g = .work l' w → f.chunkQuiet g.lid [] w = true → (w.iter = 0 ∨ f.fillsDue gid = false) →
          goes (t.setLaunch { l' with takers := l'.takers.erase gid })
            { h with unit := w.unit, chunk := w.chunk, iter := w.iter, idle := false } 1 (some (l'.index w))) ∧
        (t.nextWork l g = .nothing → f.fillsDue gid = false → goes (t.setLaunch { l with takers := l.takers.erase gid })
          { h with idle := true } 0 none) ∧
        (t.nextWork l g = .work l' w → (f.chunkQuiet g.lid [] w = false ∨ (w.iter ≠ 0 ∧ f.fillsDue gid = true)) →
          exec (.walkNext d) s = .next (if l' = l then midway true else (midway true).awaitWork gid g.lid)) ∧
        (t.nextWork l g = .wait → exec (.walkNext d) s = .next ((midway false).awaitWork gid g.lid)) ∧
        (t.nextWork l g = .nothing → f.fillsDue gid = true → exec (.walkNext d) s = .next (midway true))) ∧
    (∀ (l : Launch) (c : ChainSet), l.set? g.west = some c → c.calved = false → g.idle = false → g.iter + 1 < l.iters →
      s.nextWork l g = .work l { unit := g.unit, chunk := g.chunk, iter := g.iter + 1 }))

/-- O54 (R379, R380, R384, R388, R389, R393, R412): A stopping group whose parts have stopped, and whose requests peers
have answered, is saved where an image is free, and its records wait for the trap ring; a pre-empting group is saved,
with every store of the module that has issued performed before it (log 8), and leaves its rectangle; one that cannot
be saved stays and loses its request (log 29), and what waited on its semaphores waits on, in its order and ahead of
later waiters, and takes the units that are there; a saved group comes back. The records of a stop, which is the
context's next, join those that wait, in the order of SRC (R380). A waiting trap record goes to its context's ring,
and the oldest event to the host's, where the ring is well formed and has room: the entry first, then the pointer; the
event waits for the device's requests to peers, and every store of the module that has issued is performed before it
(log 8). While a ring is full, or peers have not answered, its entries wait; a malformed or misaligned event ring
takes none, and the event is dropped (log 30). -/
def Obligations.GroupStopsAndSaves : Prop :=
  (∀ (s : State) (gid : Nat) (g h : Machine.Group) (cx : Context), s.grp? gid = some g →
    let u := s.settleGroup gid
    (u.grp? gid = some h → u.groupQuiet h = true →
      (g.status = .stopping → u.ctx? h.ctx = some cx →
        (cx.freeImage = none → exec (.groupStopComplete gid) s = .next (u.recordStop gid h cx none).settlePreempts) ∧
        (∀ (i : Nat) (t v : State), cx.freeImage = some i → u.devWrite cx (cx.imageAt i) (u.imageBytes h) true = .ok t () →
          t.devAwait = .ok v () →
          exec (.groupStopComplete gid) s = .next (v.recordStop gid h cx (some i)).settlePreempts.devDone)) ∧
      (g.status = .running → g.held = true → g.cor = false → h.cor = false → s.ctx? g.ctx = some cx → u.burstTo h = false →
        (∀ t : State, cx.canSave [h] = true → u.drainAll.saveGroup gid = .ok t () →
          exec (.groupSave gid) s = .next t.settlePreempts.devDone) ∧
        (cx.canSave [h] = false →
          exec (.groupSave gid) s = .next (u.stay gid).settlePreempts))) ∧
    (∀ (i : Nat) (t1 t2 t3 : State), s.ctx? g.ctx = some cx → cx.freeImage = some i →
      s.devWrite cx (cx.imageAt i) (s.imageBytes g) true = .ok t1 () → t1.saveSpad cx g (cx.imageAt i) = .ok t2 () →
      t2.devAwait = .ok t3 () → s.saveGroup gid =
        .ok ((t3.setCtx { cx with images := NatSet.insert cx.images i }).mapGrp gid (fun k => k.saved i)).dropHeldCopies ()) ∧
    (∀ (t : State) (i : Nat), g.status = .saved i → g.cor = false → s.mayBringBack g = true → s.bringBack gid = .ok t () →
      exec (.groupResume gid) s = .next t.devDone) ∧
    (∀ image : Option Nat, ∃ k : Machine.Group, (s.recordStop gid g cx image).grp? gid = some k ∧ k.status = .stopped image ∧
      k.recs = [] ∧ k.stopno = (sortRecs g.recs).length ∧ Stream.same g.a k.a ∧ Stream.same g.c k.c) ∧
    (∀ (image : Option Nat) (cy : Context), s.ctx? cx.num = some cy → (∀ r ∈ g.recs, r.src < 8) →
      ∃ (cz : Context) (rs : List TrapRec), (s.recordStop gid g cx image).ctx? cx.num = some cz ∧ rs.Perm g.recs ∧
        rs.Pairwise (fun x y => x.src ≤ y.src) ∧ cz.stops = (cx.stops + 1) % 2 ^ 32 ∧
        cz.waiting = cx.waiting ++ rs.map (fun r => { gid := gid, dwords := trapDwords g r image cz.stops : WaitingRec }) ∧
        (∀ i : Nat, i ∈ cz.images ↔ i ∈ cx.images ∨ image = some i)) ∧
    (let again (x : Sem) : Sem := { x with waiters := x.left ++ x.waiters, left := [] }
     ((∀ j : Nat, j < 16 → (g.sem j).left ≠ [] → (g.sem j).value = 0) → ∃ k : Machine.Group, (s.stay gid).grp? gid = some k ∧
        k = { g with preq := false, sems := k.sems } ∧ ∀ j : Nat, j < 16 → k.sem j = again (g.sem j)) ∧
     ∀ i : Nat, i < 16 → (∀ j : Nat, j < 16 → j ≠ i → (g.sem j).left = []) → (g.sem i).left ≠ [] →
        let u := (s.mapGrp gid (fun k => ({ k with preq := false } : Machine.Group).setSem i (again (g.sem i)))).semTo gid i (g.sem i).value
        (∀ k : Machine.Group, u.grp? gid = some k → ∀ j : Nat, i < j → j < 16 → (k.sem j).left = []) → s.stay gid = u) ∧
    (∀ i : Nat, (g.saved i).status = .saved i ∧ (g.saved i).resident = false ∧ (g.saved i).preq = false)) ∧
  ((∀ (s s1 s2 s3 : State) (c : Nat) (cx : Context) (w : WaitingRec) (ws : List WaitingRec) (hb : List Byte), s.ctx? c = some cx →
    cx.waiting = w :: ws → s.devRead cx cx.desc.trapq.toNat 136 = .ok s1 hb →
    let r := ringOf 64 12 hb
    r.good = true →
    (r.used < 2 ^ r.log2 → s1.devWrite cx (r.slotAt r.wptr 64) (w.dwords.flatMap wordBytes) true = .ok s2 () →
      s2.devWrite cx (cx.desc.trapq.toNat + 0x40) (leBytes 8 ((r.wptr + 1) % 2 ^ 64)) true = .ok s3 () →
      exec (.trapRecordWrite c) s = .next (s3.recordWritten c w).devDone) ∧
    (r.used = 2 ^ r.log2 → exec (.trapRecordWrite c) s = .next s1.devDone)) ∧
  (∀ (s : State) (b : BootCfg) (e : List Word) (es : List (List Word)), s.boot = some b → s.events = e :: es →
    let r := s.hostRing b.evtq 32
    b.evtq ≠ 0 → b.evtq % 256 = 0 → r.good = true → r.used < 2 ^ r.log2 → s.devQuiet [] = true →
    let t := (s.drainAll.performWrite (.host (r.slotAt r.wptr 32)) (e.flatMap wordBytes) false true).performWrite
      (.host (b.evtq + 0x40)) (leBytes 8 ((r.wptr + 1) % 2 ^ 64)) false true
    exec .eventWrite s = .next { t with events := es }) ∧
  (∀ (s : State) (b : BootCfg) (e : List Word) (es : List (List Word)), s.boot = some b → s.events = e :: es →
    let r := s.hostRing b.evtq 32
    (b.evtq = 0 ∨ b.evtq % 256 ≠ 0 ∨ r.good = false ∨ 2 ^ r.log2 < r.used → exec .eventWrite s = .next { s with events := es }) ∧
    (b.evtq ≠ 0 → b.evtq % 256 = 0 → r.good = true → r.used = 2 ^ r.log2 ∨ (r.used < 2 ^ r.log2 ∧ s.devQuiet [] = false) →
      exec .eventWrite s = .next s)))

/-- O55 (R337, R338, R342, R345, R346, R347, R348, R350, R354, R355, R357, R358): PACKET_TAKE takes the next packet of a
queue that waits for no admission, a device queue taking the oldest spilled packet back (R358), and the levels of a
launch from its loop table (R342); LAUNCH_ADMIT gives the launch its chain sets, moves the pointer and places its
groups; GROUP_PLACEMENT places a group and starts its job, once peers have answered the requests of the earlier jobs
of its chunk (R347); JOB_END, which performs every store of the module that has issued (log 8), clears the binding and
gives the group its next work or frees it; a group that has to wait for returned work, or for answers to its earlier
jobs, keeps its place before those that become free later (R347, log 31). PREEMPTION_REQUEST marks a group that
waiting work wants, and the launch notes the chain sets that it asked for; CALVING_REQUEST, CALVE and CHAIN_SET_ADD
move chain sets between launches as R354 and R355 say; an added set is noted as one of which part was in use (R345).
Which chain sets a waiting launch requires, and that a queue waits for its taken packet, are the model's readings (log
16, 31). -/
def Obligations.DispatchEvents : Prop :=
  ((∀ (s : State) (c k : Nat) (cx : Context), s.ctx? c = some cx → cx.held = false →
    (k < 8 → c < 64 → s.queueWaits (9 * c + k) = false → cx.desc.lqh.getD k 0 ≠ 0 →
      exec (.packetTake (8 * c + k)) s = .next ((s.takeHost cx k).orLose s c none)) ∧
    (∀ (p : ChildPacket) (rest : List ChildPacket), s.queueWaits (9 * c + 8) = false → cx.devq = p :: rest → cx.spilled = [] →
      let x := packetOf p.words
      let prio := match s.launch? p.parent with | some l => min x.prio l.prio | none => x.prio
      let l := x.launch s.nextLid cx.num (9 * cx.num + 8) (some p.parent) prio []
      x.valid = true → x.nlev = 0 → l.corImpossible = false →
      let t := s.setCtx { cx with devq := rest }
      exec (.packetTake (512 + c)) s = .next (State.devDone { t with launches := t.launches ++ [l], nextLid := t.nextLid + 1 })) ∧
    (∀ (p : ChildPacket) (rest : List ChildPacket) (v : State) (bs : List Byte) (ls : List Level), s.queueWaits (9 * c + 8) = false →
      cx.devq = p :: rest → cx.spilled = [] →
      let x := packetOf p.words
      let prio := match s.launch? p.parent with | some l => min x.prio l.prio | none => x.prio
      let l := x.launch v.nextLid cx.num (9 * cx.num + 8) (some p.parent) prio ls
      let legal (e : Nat) : Prop := e / 2 ^ 38 = 0 ∧ e / 2 ^ 35 % 2 = 0 ∧ e / 2 ^ 36 % 4 ≠ 3
      x.valid = true → 0 < x.nlev → l.corImpossible = false →
      (s.setCtx { cx with devq := rest }).devRead { cx with devq := rest } x.ltab.toNat (8 * x.nlev) = .ok v bs → ls.length = x.nlev →
      (∀ j : Nat, j < x.nlev → let e := leNat ((bs.drop (8 * j)).take 8)
        legal e ∧ ls[j]? = some { kind := e / 2 ^ 36 % 4, rank := e / 2 ^ 32 % 8, bound := e % 2 ^ 32 }) →
      (ls.map Level.rank).Nodup → (∀ y ∈ ls, y.bound ≠ 0) →
      exec (.packetTake (512 + c)) s = .next (State.devDone { v with launches := v.launches ++ [l], nextLid := v.nextLid + 1 })) ∧
    (∀ (p : ChildPacket) (rest : List ChildPacket) (o : Nat) (os : List Nat) (v : State) (bs : List Byte) (cy : Context),
      s.queueWaits (9 * c + 8) = false → cx.devq = p :: rest → cx.spilled = o :: os →
      let x := packetOf p.words
      let prio := match v.launch? p.parent with | some l => min x.prio l.prio | none => x.prio
      let l := x.launch v.nextLid cx.num (9 * cx.num + 8) (some p.parent) prio []
      x.valid = true → x.nlev = 0 → l.corImpossible = false →
      (s.setCtx { cx with devq := rest }).devRead { cx with devq := rest } ((cx.desc.spill.toNat + 128 * cx.spillHead) % 2 ^ 64) 128 = .ok v bs →
      v.ctx? cx.num = some cy →
      let t := v.setCtx { cy with spilled := os, spillHead := (cy.spillHead + 1) % cy.desc.squota,
                                  devq := cy.devq ++ [{ parent := o, words := packetWords bs }] }
      exec (.packetTake (512 + c)) s = .next (State.devDone { t with launches := t.launches ++ [l], nextLid := t.nextLid + 1 }))) ∧
  (∀ (s : State) (l : Launch), s.launch? l.lid = some l →
    (s.admissible l = true → (∀ m ∈ s.launches, m.lid ≠ l.lid → s.admissible m = true →
        m.prio < l.prio ∨ (m.prio = l.prio ∧ s.queueDistance l.queue ≤ s.queueDistance m.queue)) →
      exec (.launchAdmit l.lid) s = 
        let sets : List ChainSet := ((s.freeSets l (fun _ => false)).take l.most).map (fun west =>
          { west := west, unit := none, next := 0, request := false, calved := false })
        .next (State.place { s.setLaunch { l with admitted := true, sets := sets } with queuePtr := (l.queue + 1) % 576 } l.lid 256)) ∧
    (∀ (cx : Context) (r : Nat × Nat) (l' : Launch) (w : Work) (t : State) (gid : Nat), s.ctx? l.ctx = some cx → l.admitted = true →
      cx.held = false → l.workLeft = true → (∀ x ∈ l.sets, x.request = false) →
      (l.cor = true → exec (.groupPlacement l.lid) s = .next (s.placeAll cx l)) ∧
      (l.cor = false → (s.freeRects l).head? = some r → s.giveWork l r.1 none = .work l' w →
        s.chunkQuiet l.lid [] w = true → s.placeGroup cx l' r (s.freeNumber l'.lid) w = (t, gid) →
        exec (.groupPlacement l.lid) s = .next (t.startWork gid l' w)))) ∧
  (∀ (s : State) (gid : Nat) (g : Machine.Group) (l l' : Launch) (w : Work), s.grp? gid = some g → g.status = .running →
    g.held = false → g.a.joined = true → g.c.joined = true → g.c.midway = false → (∀ q : EQueue, g.queue q = []) →
    (g.bind = none → s.drainAll.unbindAtEnd gid = .ok (s.drainAll.mapGrp gid (fun h => { h with firn := 0 })) ()) ∧
    ∀ (v : State) (h : Machine.Group), s.drainAll.unbindAtEnd gid = .ok v () → v.grp? gid = some h →
      let t := (v.countJob h).calve h.lid h.west
      t.launch? h.lid = some l →
      (t.nextWork l h = .work l' w → v.chunkQuiet h.lid h.fillTags w = true → exec (.jobEnd gid) s = .next (t.startWork gid l' w).dropOrphans) ∧
      (t.nextWork l h = .work l' w → v.chunkQuiet h.lid h.fillTags w = false →
        exec (.jobEnd gid) s = .next (if l' = l then v else v.awaitWork h.gid h.lid)) ∧
      (t.nextWork l h = .wait → exec (.jobEnd gid) s = .next (v.awaitWork h.gid h.lid)) ∧
      (t.nextWork l h = .nothing → exec (.jobEnd gid) s = .next (t.freeGroup h).settlePreempts.dropOrphans)) ∧
  (∀ (s : State) (l : Launch) (gid : Nat), s.launch? l.lid = some l →
    ∃ m : Launch, (s.awaitWork gid l.lid).launch? l.lid = some m ∧
      m = { l with takers := if gid ∈ l.takers then l.takers else l.takers ++ [gid] }) ∧
  ∀ (s : State) (l : Launch) (west : Nat) (who : Option Nat) (c : ChainSet), l.set? west = some c → c.calved = false →
    let before (P : Machine.Group → Prop) : Prop := ∃ k ∈ l.takers.takeWhile (fun j => some j != who), ∃ g : Machine.Group, s.grp? k = some g ∧
      g.lid = l.lid ∧ ((g.status = .running ∧ g.held = false) ∨ g.a.past = true) ∧ P g
    let earlier := before (fun _ => True)
    (∀ u : Nat, c.unit = some u → l.byStack = true → c.next < l.chunks →
      (before (fun g => g.west = west) → s.giveWork l west who = .wait) ∧
      (¬ before (fun g => g.west = west) → s.giveWork l west who =
        .work (l.putSet { c with next := c.next + 1 }) { unit := u, chunk := c.next, iter := 0 })) ∧
    (c.unit = none ∨ l.byStack = false ∨ l.chunks ≤ c.next →
      (∀ (w : Work) (rest : List Work), l.returned = w :: rest →
        let runs (g : Machine.Group) : Prop := g.lid = l.lid ∧ g.unit = w.unit ∧ g.chunk = w.chunk ∧ g.idle = false
        (earlier ∨ (∃ g ∈ s.groups, runs g) → s.giveWork l west who = .wait) ∧
        (¬ earlier → (∀ g ∈ s.groups, ¬ runs g) → s.giveWork l west who = .work { l with returned := rest } w)) ∧
      (l.returned = [] →
        let left := if l.byStack = true then l.nextUnit < l.units else l.nextChunk < l.chunks
        (earlier → left → s.giveWork l west who = .wait) ∧
        (¬ earlier → left → s.giveWork l west who =
          if l.byStack = true then .work ({ l with nextUnit := l.nextUnit + 1 }.putSet { c with unit := some l.nextUnit, next := 1 })
            { unit := l.nextUnit, chunk := 0, iter := 0 }
          else .work { l with nextChunk := l.nextChunk + 1 } { unit := 0, chunk := l.nextChunk, iter := 0 }) ∧
        (¬ left → s.giveWork l west who = .nothing)))) ∧
  ((∀ (s : State) (gid : Nat) (g : Machine.Group), s.grp? gid = some g → s.wanted g = true →
    let goes (h : Machine.Group) : Bool := h.gid == gid || (g.cor && h.lid == g.lid && h.resident)
    exec (.preemptionRequest gid) s = .next { s.noteAsked (s.groups.filter goes) with groups := s.groups.map (fun h =>
      if goes h then { h with preq := true } else h) }) ∧
  (∀ (s : State) (l : Launch) (set : Nat) (c : ChainSet), s.launch? l.lid = some l → l.set? set = some c → c.calved = false →
    l.least < l.held.length → s.workWaits l set = true →
    (l.admitted = true → l.cor = false → c.request = false → ∃ t : State, exec (.calvingRequest l.lid set) s = .next t ∧
      t = { s.setLaunch (l.putSet { c with request := true }) with groups := t.groups } ∧ t.groups = s.groups.map (fun g =>
        if g.lid == l.lid && g.west == set
        then { g with a := { g.a with atStep := g.a.wn.isSome }, c := { g.c with atStep := g.c.wn.isSome } } else g)) ∧
    (c.request = true → (∀ g ∈ s.groups, g.lid = l.lid → g.west = set → g.isSaved = false ∧ g.atBoundary = true) →
      let l' := { l with returned := (s.unstarted l c).foldl (fun r w => l.insertWork w r) l.returned }
      exec (.calve l.lid set) s = .next ((s.setLaunch (l'.putSet
        { c with request := false, calved := true, unit := none, next := 0 })).shedSet l.lid set))) ∧
  (∀ (s : State) (l : Launch) (set k : Nat), s.launch? l.lid = some l → l.admitted = true → l.cor = false →
    l.held.length < l.most → set < 16 → set % l.w = 0 → l.set? set = none → k < 16 / l.n → s.rectFree l set (k * l.n) = true →
    exec (.chainSetAdd l.lid set) s = .next (s.setLaunch { l with sets := l.sets ++
      [{ west := set, unit := none, next := 0, request := false, calved := false,
         added := s.groups.any (fun g => g.resident && onStacks set l.w g) }] })))

/-- O56 (R375, R376, R385, R386, R387, R409, R410): The context requests CREATE, KILL, PREEMPT, RESUMECTX, RESUME and
UNMAP, each with the status of its completion word; an UNMAP is complete when its accesses are; PREEMPT sets the
request of every resident group, and is complete, with STATUS 0, or 5 where one that runs is left, once no group of
its context is stopping or runs with its request set; RESUMECTX clears it on those that do not run (log 29); a RESUME
whose group has records waiting is passed over; an invalid request completes with STATUS 2. What counts as in order
and what a poisoned descriptor answers are the model's readings (log 34, 35). -/
def Obligations.ContextRequests : Prop :=
  ∀ (s v : State) (b : BootCfg) (r : MgmtReq),
    (Picked s b (wellFormedReq 1) r v →
      let d := v.viewRead viewDevice (.host (r.dword 2).toNat) 256
      (∀ c : Nat, d.2 = false → descOk d.1 = true → v.freeCtx = some c → exec .createCtx s =
        .next (State.finishReq { v with ctxs := v.ctxs ++ [Context.fresh c (descFrom d.1)] } r.compl 0 c).devDone) ∧
      (d.2 = false → descOk d.1 = true → v.freeCtx = none → exec .createCtx s = .next (v.finishReq r.compl 1 0).devDone) ∧
      (d.2 = true ∨ descOk d.1 = false → exec .createCtx s = .next (v.finishReq r.compl 2 0).devDone)) ∧
    (Picked s b (wellFormedReq 2) r v →
      (∀ cx : Context, v.ctx? r.ctx = some cx → exec .killCtx s = .next ((v.endContext r.ctx).finishReq r.compl 0 0).devDone) ∧
      (v.ctx? r.ctx = none → exec .killCtx s = .next (v.finishReq r.compl 3 0).devDone)) ∧
    (Picked s b (wellFormedReq 3) r v →
      (∀ cx : Context, v.ctx? r.ctx = some cx →
        let t := (v.setCtx { cx with held := true }).mapGroupsOf r.ctx (fun g => if g.resident then { g with preq := true } else g)
        exec .preemptCtx s =
          .next (State.settlePreempts { t with preempts := t.preempts ++ [{ ctx := r.ctx, compl := r.compl }] }).devDone) ∧
      (v.ctx? r.ctx = none → exec .preemptCtx s = .next (v.finishReq r.compl 3 0).devDone)) ∧
    (s.deviceIdle = true → ∀ p : PreemptReq, s.preempts = [p] →
      let leaves (g : Machine.Group) : Prop := g.ctx = p.ctx ∧ (g.status = .stopping ∨ (g.status = .running ∧ g.preq = true))
      let runs (g : Machine.Group) : Prop := g.ctx = p.ctx ∧ g.status = .running
      ((∃ g ∈ s.groups, leaves g) → s.settlePreempts = s) ∧
      ((∀ g ∈ s.groups, ¬ leaves g) → (∃ g ∈ s.groups, runs g) →
        s.settlePreempts = State.finishReq { s with preempts := [] } p.compl 5 0) ∧
      ((∀ g ∈ s.groups, ¬ runs g ∧ (g.ctx = p.ctx → g.status ≠ .stopping)) →
        s.settlePreempts = State.finishReq { s with preempts := [] } p.compl 0 0)) ∧
    (Picked s b (wellFormedReq 4) r v →
      (∀ cx : Context, v.ctx? r.ctx = some cx → exec .resumeCtx s =
        .next (State.finishReq ((v.setCtx { cx with held := false }).mapGroupsOf r.ctx
          (fun g => if g.status == .running then g else { g with preq := false })) r.compl 0 0).devDone) ∧
      (v.ctx? r.ctx = none → exec .resumeCtx s = .next (v.finishReq r.compl 3 0).devDone)) ∧
    (Picked s b (fun x => wellFormedReq 5 x && !s.recordsWait x) r v → ∀ cx : Context, v.ctx? r.ctx = some cx →
      let here (g : Machine.Group) : Prop := g.ctx = r.ctx ∧ g.stack0 = r.fld 2 11 8 ∧ g.row0 = r.fld 2 19 16
      (∀ (before rest : List Machine.Group) (g : Machine.Group) (image : Option Nat) (t : State), v.groups = before ++ g :: rest → here g →
        g.status = .stopped image → (∀ h ∈ before, here h → ∀ j : Option Nat, h.status ≠ .stopped j) → g.stopno = 0 → v.restart g.gid g cx image = .ok t () →
        exec .resumeGroup s = .next (t.finishReq r.compl 0 0).devDone) ∧
      ((∀ g ∈ v.groups, here g → ∀ image : Option Nat, g.status ≠ .stopped image) →
        exec .resumeGroup s = .next (v.finishReq r.compl 4 0).devDone)) ∧
    (Picked s b (fun x => wellFormedReq 5 x && !s.recordsWait x) r v → v.ctx? r.ctx = none → exec .resumeGroup s = .next (v.finishReq r.compl 3 0).devDone) ∧
    (Picked s b (wellFormedReq 6) r v →
      let u : UnmapReq := { ctx := r.fld 3 5 0, vbase := (r.dword 4).toNat, npg := r.fld 3 63 32, compl := r.compl }
      let w : State := if r.fld 2 0 0 = 1 then v.recall u else v
      (∀ cx : Context, v.ctx? u.ctx = some cx → exec .unmap s = .next (State.devDone { w with unmaps := w.unmaps ++ [u] })) ∧
      (v.ctx? u.ctx = none → exec .unmap s = .next (v.finishReq r.compl 2 0).devDone)) ∧
    (∀ (k : Nat) (u : UnmapReq), s.unmaps[k]? = some u →
      (∀ q ∈ s.outReqs, q.gid ≠ deviceGid ∧ q.ctx ≠ some u.ctx) →
      (∀ g ∈ s.groups, g.ctx = u.ctx → g.heldParts.any u.meets = false ∧ g.a.mustWrite = false ∧ g.c.mustWrite = false) →
      exec (.unmapComplete k) s =
        .next (State.finishReq { s.recall u with unmaps := (s.recall u).unmaps.eraseIdx k } u.compl 0 0)) ∧
    (∀ (k : Nat) (u : UnmapReq), s.unmaps[k]? = some u → (∃ g ∈ s.groups, g.ctx = u.ctx ∧
        (g.heldParts.any u.meets = true ∨ g.a.mustWrite = true ∨ g.c.mustWrite = true)) →
      exec (.unmapComplete k) s = .next (s.recall u)) ∧
    (∀ k : Nat, s.managed = some b →
      let t := (s.takeRequests b).settlePreempts
      t.nextReq (fun r => !r.valid || r.compl % 8 != 0) = some k → t.mgmtQ[k]? = some r → r.compl % 8 = 0 →
      exec .mgmtInvalidRequest s = .next (State.finishReq { t with mgmtQ := t.mgmtQ.eraseIdx k } r.compl 2 0).devDone)

/-- O57 (R378, R413, R415, R416, R417): The module requests PWIN, FRAME, PCFG, QREL and ROUTE. That QREL also ends the run
of timeouts that the peer has on the port is the model's choice (log 37), and so is that FRAME ignores a RETIRED bit
in its operand (log 35). -/
def Obligations.ModuleRequests : Prop :=
  ∀ (s v : State) (b : BootCfg) (r : MgmtReq),
    let finish (t : State) : Out := .next (t.finishReq r.compl 0 0).devDone
    (Picked s b (wellFormedReq 7) r v → ∃ t : State, exec .pwin s = finish t ∧ t = { v with pwins := t.pwins } ∧ ∀ j : Nat, j < 64 →
      t.pwins.toList.getD j PeerWindow.reset = if j = r.fld 2 5 0
        then { vabase := r.dword 7, wbase := r.dword 6, size := r.fld 5 63 32, peer := r.fld 5 31 22, ctx := r.fld 5 21 16,
               aw := r.fld 5 11 11 == 1, ww := r.fld 5 10 10 == 1, rw := r.fld 5 9 9 == 1, vw := r.fld 5 8 8 == 1 }
        else v.pwins.toList.getD j PeerWindow.reset) ∧
    (Picked s b (wellFormedReq 8) r v →
      let o := v.ownerEntry (r.fld 2 63 0)
      let taken := r.fld 3 15 15 = 1 ∧ (o.retired = true ∨ (o.valid = true ∧ o.ctx ≠ r.fld 3 5 0 ∧ v.ctx? o.ctx ≠ none))
      (¬ taken → exec .frame s = finish (v.setOwner
        { o with valid := r.fld 3 15 15 == 1, ord := r.fld 3 13 12, ctx := r.fld 3 5 0 })) ∧
      (taken → exec .frame s = .next (v.finishReq r.compl 2 0).devDone)) ∧
    (Picked s b (wellFormedReq 9) r v → exec .pcfg s = finish (v.setPort (r.fld 2 3 0)
      { v.port (r.fld 2 3 0) with tmo := r.fld 3 31 0, qth := r.fld 3 39 32 })) ∧
    (Picked s b (wellFormedReq 10) r v → exec .qrel s = finish (v.setPort (r.fld 2 3 0)
      { v.port (r.fld 2 3 0) with quarantined := NatSet.erase (v.port (r.fld 2 3 0)).quarantined (r.fld 2 25 16),
                                  streak := (v.port (r.fld 2 3 0)).streak.filter (fun x => x.1 != r.fld 2 25 16) })) ∧
    (Picked s b (wellFormedReq 11) r v → ∃ t : State, exec .route s = finish t ∧ t = { v with routes := t.routes } ∧
      t.route (r.fld 2 9 0) = some (r.fld 2 19 16) ∧ ∀ p : Nat, p ≠ r.fld 2 9 0 → t.route p = v.route p)

/-- O58 (R407, R408, R378, R414, R417): The host's accesses to the aperture (R408): a read, a plain write, an acquire, a
release and an atomic of memory that is there; any of them outside the aperture, to a hole or past the end of memory
receives an error, and so do an acquire, a release or an atomic to a UO frame and an atomic that is misaligned or of
no operation of R241. A release and an atomic perform every store of the module that has issued (log 8: more than the
host agent has seen). An inbound request is served through its window and translation, or receives an error: where no
window matches or the window permits it not, where its context is gone, and where its address does not translate, or
to a page that serves it not; a poisoned page-table entry loses the context too; a response completes its request
once; a timeout counts towards QTH and, at QTH, quarantines the peer on the port. What receives an error beyond the
rules' own cases, and that a response ends a run of timeouts, are the model's readings (log 36, 37). -/
def Obligations.HostAndPeerTraffic : Prop :=
  (∀ (s : State) (tag addr p n : Nat) (bs : List Byte) (op : BitVec 4) (z : BitVec 2) (x y : Word),
    let served (n : Nat) : Prop := p + n ≤ 2 ^ 40 ∧ vaultHole p = false ∧ ∀ q ∈ pagePieces (n / 65536 + 2) p n, vaultHole q.1 = false
    let unordered (n : Nat) : Prop := s.hostKind p ≠ 2 ∧ ∀ q ∈ pagePieces (n / 65536 + 2) p n, s.hostKind q.1 ≠ 2
    let size := 2 ^ z.toNat
    let a := s.drainAll.amoAt viewHost (.vault p) op.toNat size (lowBytes size x) (lowBytes size y) false
    let error : Out := .next { s with reply := .error }
    (s.aperture addr = some p →
      (served n → exec (.hostPlainAccess tag addr n none) s = .next { s with
        reply := .data (s.viewRead viewHost (.vault p) n).1 (s.viewRead viewHost (.vault p) n).2 }) ∧
      (served bs.length → exec (.hostPlainAccess tag addr n (some bs)) s =
        .next { s.agentWrite (.vault p) bs with reply := .done }) ∧
      (served n → unordered n → exec (.hostAcquire tag addr n) s = .next { s with
        reply := .data (s.viewRead viewHost (.vault p) n).1 (s.viewRead viewHost (.vault p) n).2 }) ∧
      (served bs.length → unordered bs.length → exec (.hostRelease tag addr bs) s =
        .next { s.drainAll.agentWrite (.vault p) bs with reply := .done }) ∧
      (served size → unordered size → amoLegal op z = true → addr % size = 0 → exec (.hostAtomic tag addr op z x y) s =
        .next { a.1 with reply := .data (leBytes size a.2.old.toNat) a.2.poison }) ∧
      (¬ served n → exec (.hostPlainAccess tag addr n none) s = error ∧ exec (.hostAcquire tag addr n) s = error) ∧
      (¬ served bs.length → exec (.hostPlainAccess tag addr n (some bs)) s = error ∧ exec (.hostRelease tag addr bs) s = error) ∧
      (¬ served size → exec (.hostAtomic tag addr op z x y) s = error) ∧
      (¬ unordered n → exec (.hostAcquire tag addr n) s = error) ∧
      (¬ unordered bs.length → exec (.hostRelease tag addr bs) s = error) ∧
      (¬ unordered size → exec (.hostAtomic tag addr op z x y) s = error)) ∧
    (s.aperture addr = none → exec (.hostPlainAccess tag addr n none) s = error ∧
      exec (.hostPlainAccess tag addr n (some bs)) s = error ∧ exec (.hostAcquire tag addr n) s = error ∧
      exec (.hostRelease tag addr bs) s = error ∧ exec (.hostAtomic tag addr op z x y) s = error) ∧
    (amoLegal op z = false ∨ addr % size ≠ 0 → exec (.hostAtomic tag addr op z x y) s = error)) ∧
  ((∀ (s s1 : State) (port src addr : Nat) (op : PeerOp) (b : BootCfg) (w : PeerWindow),
    let run : Out := exec (.peerInboundRequest port src addr op) s
    let error (t : State) : Out := .next { t with reply := .error }
    (s.managed = some b → port < 16 → s.route src ≠ none →
      (s.port port).quarantined.contains src = false → peerForm addr op = true → s.window src addr = some w →
      (s.ctx? w.ctx = none → run = error s) ∧
      ∀ (cx : Context) (l : MemLoc) (ord : Nat) (f : XFault), s.ctx? w.ctx = some cx →
        let va := (w.vabase.toNat + (addr - w.wbase.toNat)) % 2 ^ 64
        let look := s.translate (.stack (portStack port)) viewDevice cx va (peerNeed op)
        let away := (∃ id q : Nat, l = .peer id q) ∨ ord = 3 ∨ (ord = 2 ∧ ∃ o z x y, op = .atomic o z x y)
        (w.permits op = false → run = error s) ∧
        (w.permits op = true →
          (look = (s1, .ok l ord) → (¬ away → run = .next (s1.serve l op)) ∧ (away → run = error s1)) ∧
          (look = (s1, .fault f) → run = error s1) ∧
          (look = (s1, .poison l) → run = error (s1.loseContext w.ctx
            { reason := 4, src := 0, gid := none, place := some l, va := va })))) ∧
    (s.managed = none ∨ 16 ≤ port ∨ s.route src = none ∨ (s.port port).quarantined.contains src = true ∨
        peerForm addr op = false ∨ s.window src addr = none → run = error s)) ∧
  (∀ (s : State) (tag : Nat) (r : OutReq) (bytes : List Byte) (poisoned : Bool),
    s.outReqs.find? (fun x => x.tag == tag) = some r →
    let heard := s.setPort r.port ((s.port r.port).setRun r.peer 0)
    let t := heard.closeReq tag
    (r.kind.isWrite = false → bytes.length = r.kind.size → exec (.peerResponse tag false poisoned bytes) s =
      .next (let u := if poisoned then t else t.noteReply r bytes
        State.dropOrphans { u with replies := u.replies ++ [{ tag := tag, poison := poisoned, bytes := bytes }] })) ∧
    (r.kind.isWrite = true → exec (.peerResponse tag false poisoned bytes) s = .next ((t.countSent r).noteReply r [])) ∧
    (exec (.peerResponse tag true poisoned bytes) s = .next (heard.failReq r).dropOrphans) ∧
    (let p := (s.port r.port).setRun r.peer ((s.port r.port).run r.peer + 1)
     let u := s.failReq r
     (p.qth = 0 ∨ (s.port r.port).run r.peer + 1 < p.qth → exec (.peerTimeout tag) s = .next (u.setPort r.port p).dropOrphans) ∧
     (p.qth ≠ 0 → p.qth ≤ (s.port r.port).run r.peer + 1 → exec (.peerTimeout tag) s = .next (((u.setPort r.port
       { p with quarantined := NatSet.insert p.quarantined r.peer }).failPeer r.port r.peer).dropOrphans)))) ∧
  (∀ (s : State) (tag : Nat) (error poisoned : Bool) (bytes : List Byte), (∀ r ∈ s.outReqs, r.tag ≠ tag) →
    exec (.peerResponse tag error poisoned bytes) s = .next s))

/-- O59 (R373, R394, R398, R399, R424, R428, R418): An expired translation has no lease left, and a dropped one is gone; a
store leaves its buffer performed; a dirty sector is written back; ECC errors poison or are corrected and counted
(R394, R398, R399). A refresh and a retried crossing are counted; a power window sets the grant of the stack's next
window, and of the one that begins now; a counter snapshot, once peers have answered the device, performs every store
of the module that has issued (log 8) and writes a stack's counters and clk count to the host (R157, R418, R424,
R428). SRC 0 of a control error, the marker left in a queue and that a poisoned sector counts once are the model's
readings (log 20, 21), and that POWER_WINDOW sets the grant of the next window follows R424 as log 2 reads it. -/
def Obligations.CachesErrorsAndPower : Prop :=
  (∀ (s : State) (gid : Nat) (sl : Slice) (g : Machine.Group) (k p v row col entry lane q : Nat) (r : Reg) (x : BitVec 32) (y : Byte)
    (sh w : Bool) (c : CacheLine),
    (exec (.leaseExpiry k) s = .next { s with tlb := s.tlb.mapIdx (fun j e => if j = k then { e with lease := 0 } else e) }) ∧
    (exec (.translationEntryDrop k) s = .next { s with tlb := s.tlb.eraseIdx k }) ∧
    (exec (.scalarCacheReplacement k) s = .next { s with peerLines := s.peerLines.eraseIdx k }) ∧
    (∀ (e : StoreEntry), s.grp? gid = some g → (g.stream sl).sb[k]? = some e →
      (∀ f ∈ (g.stream sl).sb.take k, overlap e.loc e.bytes.length f.loc f.bytes.length = false) →
      exec (.storeBufferDrain gid sl k) s = .next ((s.performEntry gid e).dropEntry gid sl e.seq)) ∧
    (let a := p / 256 * 256
     let bit := sectorBit a
     let t := s.stack (vaultStack a)
     let left (held : BitVec 4) : State := s.setStack (vaultStack a) { t with cache := (t.cache.map (fun d =>
       if d.line == c.line then { c with held := held, dirty := c.dirty &&& ~~~bit } else d)).filter (fun d => d.held != 0) }
     t.cache.find? (fun d => d.line == sectorLine a && d.held &&& bit != 0) = some c →
       exec (.cacheWriteback p true none) s = .next (left (c.held &&& ~~~bit)) ∧
       exec (.cacheWriteback p false none) s = .next (left c.held) ∧
       ∀ found : EccResult, c.dirty &&& bit ≠ 0 →
         exec (.cacheWriteback p true (some found)) s = .next ((left (c.held &&& ~~~bit)).vaultError a found)) ∧
    (vaultHole (p / 256 * 256) = false →
      let a := p / 256 * 256
      exec (.uncorrectableError (.vault p) .uncorrectable) s = .next (if s.vaultPoison.contains a = true then s else State.countStack
        { s with vaultPoison := NatSet.insert s.vaultPoison a } (vaultStack a) 36 1 (s.ownerOf a)) ∧
      exec (.uncorrectableError (.vault p) .correctable) s = .next (s.countStack (vaultStack a) 35 1 (s.ownerOf a)) ∧
      ∀ (o : Nat) (cx : Context) (found : EccResult), s.ownerOf p = some o → s.ctx? o = some cx → cx.desc.interval ≠ 0 →
        exec (.scrub p (some found)) s = exec (.uncorrectableError (.vault p) found) s) ∧
    (∀ by_ : Option Nat, let of_ := (by_.bind s.grp?).map Group.ctx
      exec (.uncorrectableError (.cache k by_) .uncorrectable) s = .next ((s.discardCaches k).countStack k 35 1 of_) ∧
      exec (.uncorrectableError (.cache k by_) .correctable) s = .next (s.countStack k 35 1 of_)) ∧
    (s.grp? gid = some g → g.resident = true →
      (q < 6 → ∃ h : Machine.Group, exec (.uncorrectableError (.queueEntry gid q k) .uncorrectable) s = .next (s.setGrp h).dropOrphans ∧
        h = { g with qs := h.qs } ∧ (∀ j : Nat, j < 6 → j ≠ q → h.q j = g.q j) ∧ (h.q q).head = (g.q q).head ∧
        (h.q q).ents.length = (g.q q).ents.length ∧ (∀ j : Nat, j ≠ k → (h.q q).ents[j]? = (g.q q).ents[j]?) ∧
        (k < (g.q q).ents.length → (h.q q).ents[k]? = some (.poison 0 0 0))) ∧
      (exec (.uncorrectableError (.reg gid sl r) .uncorrectable) s =
        .next (s.mapStream gid sl (fun st => st.wr r (st.rd r) true))) ∧
      (exec (.uncorrectableError (.control gid) .uncorrectable) s =
        .next (s.loseContext g.ctx { reason := 3, src := 0, gid := some gid, place := none, va := 0 })) ∧
      (v / 2 ^ 22 < g.n → v % 2 ^ 22 < g.x → exec (.uncorrectableError (.spad gid v) .uncorrectable) s =
        .next (s.mapGrp gid (fun h => if g.spadPoison.contains (v / 256 * 256) = true then h
          else { h with spadPoison := NatSet.insert h.spadPoison (v / 256 * 256), newPoison := h.newPoison + 1 }))) ∧
      (exec (.uncorrectableError (.acc gid row entry lane x) .uncorrectable) s = .next (
        if row < g.n ∧ entry < 4096 ∧ lane < (g.accEntry row entry).lanes.length then
          s.setGrp (g.setAcc { g.accEntry row entry with lanes := (g.accEntry row entry).lanes.set lane x })
        else s)) ∧
      (exec (.uncorrectableError (.latch gid row col sh v y) .uncorrectable) s =
        .next (s.setGrp (g.mapLatch row col sh (fun l => { l with hits := l.hits ++ [(v, y)] })))) ∧
      (exec (.uncorrectableError (.adder gid row col sh w v x) .uncorrectable) s =
        .next (s.setGrp (g.mapLatch row col sh (fun l => { l with sums := l.sums ++ [(w, v, x)] })))) ∧
      (v / 2 ^ 22 < g.n → v % 2 ^ 22 < g.x →
        exec (.uncorrectableError (.spad gid v) .correctable) s = .next (s.countStack g.drain 35 1 (some g.ctx))) ∧
      (∀ holder ∈ [EccHolder.reg gid sl r, .queueEntry gid q k, .control gid],
        exec (.uncorrectableError holder .correctable) s = .next (s.countStack g.stack0 35 1 (some g.ctx))))) ∧
  (∀ (s : State) (k row col n : Nat) (b : BootCfg), k < 16 →
    (row < 16 → col < 24 → exec (.refresh k row col) s = .next (s.countStack k 34 1 none)) ∧
    (row < 16 → exec (.crossingRetry k row) s = .next (s.countStack k 37 1 none)) ∧
    (64 ≤ n → n ≤ 1024 → ∃ t : State, exec (.powerWindow k n) s = .next t ∧ (t.stack k).next = n ∧
      (t.stack k).grant = (if (s.stack k).clk.toNat % 1024 = 0 then n else (s.stack k).grant) ∧
      ∀ j : Nat, j ≠ k → t.stack j = s.stack j) ∧
    (s.managed = some b → b.cntbase ≠ 0 → b.snap ≠ 0 → s.deviceIdle = true → exec (.counterSnapshot k) s =
      .next (s.drainAll.agentWrite (.host (b.cntbase + 256 * k))
        ((s.stack k).counters.toList.flatMap wordBytes ++ wordBytes (s.stack k).clk))))

/-- O60 (R420, R421, R422, R423, R418, R397, R412): The bring-up window, BOOT with its steps in order, QUOTE, which is
ignored while STATE is not 2, and a module-fatal error: STATE 4, an event of TYPE 3 with the stack and the edge, and
each context lost with reason 7, its record in host memory and its event of TYPE 2 once peers have answered the device
(R420 to R423, R418, R397, R412). The errors of a misaligned or poisoned boot record are the model's readings (log
38), and so is the equation that a signature is checked by (log 5). -/
def Obligations.BringUpCommands : Prop :=
  ∀ (s : State) (off : Nat) (v : Word) (stack edge : Nat),
    let fails (n : Nat) : Out := .next { s with bring := { s.bring with state := .failed, err := n } }
    let rec_ := s.viewRead viewDevice (.host s.bring.bootrec.toNat) 256
    let im := s.viewRead viewDevice (.host (imgNat rec_.1 0 8)) (imgNat rec_.1 8 4)
    let key := (im.1.drop 8).take 57
    let d1 := shake256 (im.1.take (im.1.length - 114))
    let signed := Ed448.verify key d1 (im.1.drop (im.1.length - 114))
    let recOk := s.bring.bootrec.toNat % 256 = 0 ∧ rec_.2 = false ∧ bootRecordOk rec_.1 = true
    (exec (.bringupWindowWrite 0 v) s = .next { s with bring := { s.bring with bootrec := v } }) ∧
    (exec (.bringupWindowWrite 8 v) s = .next { s with bring := { s.bring with qaddr := v } }) ∧
    (v.toNat % 2 ^ 32 = 1 → exec (.bringupWindowWrite 16 v) s = exec .bootCmd s) ∧
    (v.toNat % 2 ^ 32 = 2 → exec (.bringupWindowWrite 16 v) s = exec .quoteCmd s) ∧
    (off ≠ 0 → off ≠ 8 → (off = 16 → v.toNat % 2 ^ 32 ≠ 1 ∧ v.toNat % 2 ^ 32 ≠ 2) →
      exec (.bringupWindowWrite off v) s = .next s) ∧
    (let seen := s.bring.window
     seen.length = 32 ∧ imgWord seen 0 = s.bring.bootrec ∧ imgWord seen 8 = s.bring.qaddr ∧ imgNat seen 0x10 4 = 0 ∧
     imgNat seen 0x14 4 = s.bring.state.code + 2 ^ 8 * (s.bring.err % 256) ∧ imgNat seen 0x18 8 = 0) ∧
    (s.bring.state = .held →
      (¬ recOk → exec .bootCmd s = fails 5) ∧
      (recOk → im.2 = true → exec .bootCmd s = fails 1) ∧
      (recOk → im.2 = false → shake256 key ≠ Config.fusedKeyDigest → exec .bootCmd s = fails 2) ∧
      (recOk → im.2 = false → shake256 key = Config.fusedKeyDigest → signed = false → exec .bootCmd s = fails 3) ∧
      (recOk → im.2 = false → shake256 key = Config.fusedKeyDigest → signed = true → imgNat im.1 0 4 < Config.fusedMinSvn →
        exec .bootCmd s = fails 4) ∧
      (recOk → im.2 = false → shake256 key = Config.fusedKeyDigest → signed = true → Config.fusedMinSvn ≤ imgNat im.1 0 4 →
        exec .bootCmd s = .next { s with mr := shake256 (shake256 (s.mr ++ d1) ++ shake256 rec_.1),
                                         boot := some (bootCfgOf rec_.1 (imgNat im.1 0 4)),
                                         bring := { s.bring with state := .up } })) ∧
    (s.bring.state ≠ .held → exec .bootCmd s = .next s) ∧
    (∀ b : BootCfg, s.bring.state = .up → s.boot = some b →
      let count := (s.quotes + 1) % 2 ^ 32
      let body := quoteBody (s.viewRead viewDevice (.host s.bring.qaddr.toNat) 64).1 s.mr b.svn count
      let sig := Ed448.sign (identitySecret s.mr) body
      exec .quoteCmd s = .next (State.agentWrite { s with quotes := count } (.host (s.bring.qaddr.toNat + 64))
        (body.drop 64 ++ sig ++ List.replicate (256 - sig.length) 0))) ∧
    (s.bring.state ≠ .up → exec .quoteCmd s = .next s) ∧
    (s.bring.state ≠ .failed → s.bring.state ≠ .fatal → stack < 16 → edge < 4 →
      ¬ (edge = 0 ∧ stack < 4) → ¬ (edge = 2 ∧ 12 ≤ stack) → ∃ t : State,
      exec (.moduleFatalError stack edge) s = .next t ∧ t.bring = { s.bring with state := .fatal } ∧ t.ctxs = [] ∧
      (s.deviceIdle = true → s.lostRecs = [] → (s.ctxs.map Context.num).Nodup →
        (∀ b : BootCfg, s.boot = some b → b.evtq ≠ 0 → t.events = s.events ++
          [BitVec.ofNat 64 (3 + 2 ^ 16 * 0xFFFF), BitVec.ofNat 64 (2 ^ 8 * stack + 2 ^ 16 * edge), 0, 0] ::
          s.ctxs.map (fun cx => [BitVec.ofNat 64 (2 + 2 ^ 8 * cx.num + 2 ^ 16 * 0xFFFF), BitVec.ofNat 64 (2 ^ 24 * 7), 0, 0])) ∧
        (s.memoriesWf = true → (s.groups.map Group.gid).Nodup → ∀ cx ∈ s.ctxs, (∀ cy ∈ s.ctxs, cy.num ≠ cx.num →
            cy.desc.lostrec + 64 ≤ cx.desc.lostrec ∨ cx.desc.lostrec + 64 ≤ cy.desc.lostrec) →
          ∀ k : Nat, k < 64 → t.baseByte (.host (cx.desc.lostrec + k)) =
            (leBytes 8 (7 + 2 ^ 16 * 0xFFFF + 2 ^ 32 * cx.num)).getD k 0)))
end

