-- ==== Sys2Proof/Laws/Fields.lean ====
section
/-! SUPPORT. Fields of words that are written as concatenations, and must-be-zero masks. -/

namespace Sys2Proof.Laws

open Sys2Proof

set_option Elab.async false
set_option linter.all false

theorem toNat_append_eq {m n : Nat} (x : BitVec m) (y : BitVec n) : (x ++ y).toNat = x.toNat * 2 ^ n + y.toNat := by
  rw [BitVec.toNat_append, ← Nat.shiftLeft_add_eq_or_of_lt y.isLt, Nat.shiftLeft_eq]

theorem fld_eq {w : BitVec 32} {lo n : Nat} {x : BitVec n} (h : w.toNat / 2 ^ lo % 2 ^ n = x.toNat) : fld w lo n = x := by
  apply BitVec.eq_of_toNat_eq
  simp [fld, BitVec.extractLsb'_toNat, Nat.shiftRight_eq_div_pow, h]

theorem fld_bit {w : BitVec 32} {lo n : Nat} (h : fld w lo n = 0) (i : Nat) (h1 : lo ≤ i) (h2 : i < lo + n) :
    w.getLsbD i = false := by
  have h4 := congrArg (fun x => x.getLsbD (i - lo)) h
  simp only [fld, BitVec.getLsbD_extractLsb', BitVec.getLsbD_zero, BitVec.ofNat_eq_ofNat, Bool.and_eq_false_imp,
    decide_eq_true_eq] at h4
  have h3 : lo + (i - lo) = i := by omega
  rw [h3] at h4
  exact h4 (by omega)

theorem and_mask {w m : BitVec 32} (h : ∀ i, i < 32 → m.getLsbD i = true → w.getLsbD i = false) : w &&& m = 0 := by
  apply BitVec.eq_of_getLsbD_eq
  intro i hi
  have h1 := h i hi
  simp only [BitVec.getLsbD_and, BitVec.ofNat_eq_ofNat, BitVec.getLsbD_zero]
  cases hm : m.getLsbD i <;> simp_all

theorem fld_ofBool {w : BitVec 32} {i : Nat} {b : Bool} (h : fld w i 1 = BitVec.ofBool b) : w.getLsbD i = b := by
  have h1 := congrArg (fun x => x.getLsbD 0) h
  simpa [fld, BitVec.getLsbD_extractLsb'] using h1

theorem mask_00000001 {w : BitVec 32} (z0 : fld w 0 1 = 0) : w &&& 0x00000001 = 0 := by
  refine and_mask (fun i hi hm => ?_)
  have hc : (0 ≤ i ∧ i < 0 + 1) := by revert i; decide
  exact fld_bit z0 i hc.1 hc.2

theorem mbz_00000001 {w : BitVec 32} (z0 : fld w 0 1 = 0) (i : Instr) : mbz w 1#32 i = .ok i :=
  if_pos (mask_00000001 z0)

theorem mask_0000001f {w : BitVec 32} (z0 : fld w 0 5 = 0) : w &&& 0x0000001f = 0 := by
  refine and_mask (fun i hi hm => ?_)
  have hc : (0 ≤ i ∧ i < 0 + 5) := by revert i; decide
  exact fld_bit z0 i hc.1 hc.2

theorem mbz_0000001f {w : BitVec 32} (z0 : fld w 0 5 = 0) (i : Instr) : mbz w 31#32 i = .ok i :=
  if_pos (mask_0000001f z0)

theorem mask_000000e0 {w : BitVec 32} (z0 : fld w 5 3 = 0) : w &&& 0x000000e0 = 0 := by
  refine and_mask (fun i hi hm => ?_)
  have hc : (5 ≤ i ∧ i < 5 + 3) := by revert i; decide
  exact fld_bit z0 i hc.1 hc.2

theorem mbz_000000e0 {w : BitVec 32} (z0 : fld w 5 3 = 0) (i : Instr) : mbz w 224#32 i = .ok i :=
  if_pos (mask_000000e0 z0)

theorem mask_00000780 {w : BitVec 32} (z0 : fld w 7 4 = 0) : w &&& 0x00000780 = 0 := by
  refine and_mask (fun i hi hm => ?_)
  have hc : (7 ≤ i ∧ i < 7 + 4) := by revert i; decide
  exact fld_bit z0 i hc.1 hc.2

theorem mbz_00000780 {w : BitVec 32} (z0 : fld w 7 4 = 0) (i : Instr) : mbz w 1920#32 i = .ok i :=
  if_pos (mask_00000780 z0)

theorem mask_000007e0 {w : BitVec 32} (z0 : fld w 5 6 = 0) : w &&& 0x000007e0 = 0 := by
  refine and_mask (fun i hi hm => ?_)
  have hc : (5 ≤ i ∧ i < 5 + 6) := by revert i; decide
  exact fld_bit z0 i hc.1 hc.2

theorem mbz_000007e0 {w : BitVec 32} (z0 : fld w 5 6 = 0) (i : Instr) : mbz w 2016#32 i = .ok i :=
  if_pos (mask_000007e0 z0)

theorem mask_00000fc0 {w : BitVec 32} (z0 : fld w 6 6 = 0) : w &&& 0x00000fc0 = 0 := by
  refine and_mask (fun i hi hm => ?_)
  have hc : (6 ≤ i ∧ i < 6 + 6) := by revert i; decide
  exact fld_bit z0 i hc.1 hc.2

theorem mbz_00000fc0 {w : BitVec 32} (z0 : fld w 6 6 = 0) (i : Instr) : mbz w 4032#32 i = .ok i :=
  if_pos (mask_00000fc0 z0)

theorem mask_00001fff {w : BitVec 32} (z0 : fld w 0 13 = 0) : w &&& 0x00001fff = 0 := by
  refine and_mask (fun i hi hm => ?_)
  have hc : (0 ≤ i ∧ i < 0 + 13) := by revert i; decide
  exact fld_bit z0 i hc.1 hc.2

theorem mbz_00001fff {w : BitVec 32} (z0 : fld w 0 13 = 0) (i : Instr) : mbz w 8191#32 i = .ok i :=
  if_pos (mask_00001fff z0)

theorem mask_00007fff {w : BitVec 32} (z0 : fld w 0 15 = 0) : w &&& 0x00007fff = 0 := by
  refine and_mask (fun i hi hm => ?_)
  have hc : (0 ≤ i ∧ i < 0 + 15) := by revert i; decide
  exact fld_bit z0 i hc.1 hc.2

theorem mbz_00007fff {w : BitVec 32} (z0 : fld w 0 15 = 0) (i : Instr) : mbz w 32767#32 i = .ok i :=
  if_pos (mask_00007fff z0)

theorem mask_0000ffe0 {w : BitVec 32} (z0 : fld w 5 11 = 0) : w &&& 0x0000ffe0 = 0 := by
  refine and_mask (fun i hi hm => ?_)
  have hc : (5 ≤ i ∧ i < 5 + 11) := by revert i; decide
  exact fld_bit z0 i hc.1 hc.2

theorem mbz_0000ffe0 {w : BitVec 32} (z0 : fld w 5 11 = 0) (i : Instr) : mbz w 65504#32 i = .ok i :=
  if_pos (mask_0000ffe0 z0)

theorem mask_0001ffff {w : BitVec 32} (z0 : fld w 0 17 = 0) : w &&& 0x0001ffff = 0 := by
  refine and_mask (fun i hi hm => ?_)
  have hc : (0 ≤ i ∧ i < 0 + 17) := by revert i; decide
  exact fld_bit z0 i hc.1 hc.2

theorem mbz_0001ffff {w : BitVec 32} (z0 : fld w 0 17 = 0) (i : Instr) : mbz w 131071#32 i = .ok i :=
  if_pos (mask_0001ffff z0)

theorem mask_00030000 {w : BitVec 32} (z0 : fld w 16 2 = 0) : w &&& 0x00030000 = 0 := by
  refine and_mask (fun i hi hm => ?_)
  have hc : (16 ≤ i ∧ i < 16 + 2) := by revert i; decide
  exact fld_bit z0 i hc.1 hc.2

theorem mbz_00030000 {w : BitVec 32} (z0 : fld w 16 2 = 0) (i : Instr) : mbz w 196608#32 i = .ok i :=
  if_pos (mask_00030000 z0)

theorem mask_0003ffff {w : BitVec 32} (z0 : fld w 0 18 = 0) : w &&& 0x0003ffff = 0 := by
  refine and_mask (fun i hi hm => ?_)
  have hc : (0 ≤ i ∧ i < 0 + 18) := by revert i; decide
  exact fld_bit z0 i hc.1 hc.2

theorem mbz_0003ffff {w : BitVec 32} (z0 : fld w 0 18 = 0) (i : Instr) : mbz w 262143#32 i = .ok i :=
  if_pos (mask_0003ffff z0)

theorem mask_00070000 {w : BitVec 32} (z0 : fld w 16 3 = 0) : w &&& 0x00070000 = 0 := by
  refine and_mask (fun i hi hm => ?_)
  have hc : (16 ≤ i ∧ i < 16 + 3) := by revert i; decide
  exact fld_bit z0 i hc.1 hc.2

theorem mbz_00070000 {w : BitVec 32} (z0 : fld w 16 3 = 0) (i : Instr) : mbz w 458752#32 i = .ok i :=
  if_pos (mask_00070000 z0)

theorem mask_0007ffff {w : BitVec 32} (z0 : fld w 0 19 = 0) : w &&& 0x0007ffff = 0 := by
  refine and_mask (fun i hi hm => ?_)
  have hc : (0 ≤ i ∧ i < 0 + 19) := by revert i; decide
  exact fld_bit z0 i hc.1 hc.2

theorem mbz_0007ffff {w : BitVec 32} (z0 : fld w 0 19 = 0) (i : Instr) : mbz w 524287#32 i = .ok i :=
  if_pos (mask_0007ffff z0)

theorem mask_000fffff {w : BitVec 32} (z0 : fld w 0 20 = 0) : w &&& 0x000fffff = 0 := by
  refine and_mask (fun i hi hm => ?_)
  have hc : (0 ≤ i ∧ i < 0 + 20) := by revert i; decide
  exact fld_bit z0 i hc.1 hc.2

theorem mbz_000fffff {w : BitVec 32} (z0 : fld w 0 20 = 0) (i : Instr) : mbz w 1048575#32 i = .ok i :=
  if_pos (mask_000fffff z0)

theorem mask_001f0000 {w : BitVec 32} (z0 : fld w 16 5 = 0) : w &&& 0x001f0000 = 0 := by
  refine and_mask (fun i hi hm => ?_)
  have hc : (16 ≤ i ∧ i < 16 + 5) := by revert i; decide
  exact fld_bit z0 i hc.1 hc.2

theorem mbz_001f0000 {w : BitVec 32} (z0 : fld w 16 5 = 0) (i : Instr) : mbz w 2031616#32 i = .ok i :=
  if_pos (mask_001f0000 z0)

theorem mask_001ff800 {w : BitVec 32} (z0 : fld w 11 10 = 0) : w &&& 0x001ff800 = 0 := by
  refine and_mask (fun i hi hm => ?_)
  have hc : (11 ≤ i ∧ i < 11 + 10) := by revert i; decide
  exact fld_bit z0 i hc.1 hc.2

theorem mbz_001ff800 {w : BitVec 32} (z0 : fld w 11 10 = 0) (i : Instr) : mbz w 2095104#32 i = .ok i :=
  if_pos (mask_001ff800 z0)

theorem mask_003c00ff {w : BitVec 32} (z0 : fld w 0 8 = 0) (z1 : fld w 18 4 = 0) : w &&& 0x003c00ff = 0 := by
  refine and_mask (fun i hi hm => ?_)
  have hc : (0 ≤ i ∧ i < 0 + 8) ∨ (18 ≤ i ∧ i < 18 + 4) := by revert i; decide
  rcases hc with hc | hc
  · exact fld_bit z0 i hc.1 hc.2
  · exact fld_bit z1 i hc.1 hc.2

theorem mbz_003c00ff {w : BitVec 32} (z0 : fld w 0 8 = 0) (z1 : fld w 18 4 = 0) (i : Instr) : mbz w 3932415#32 i = .ok i :=
  if_pos (mask_003c00ff z0 z1)

theorem mask_003fff0f {w : BitVec 32} (z0 : fld w 0 4 = 0) (z1 : fld w 8 14 = 0) : w &&& 0x003fff0f = 0 := by
  refine and_mask (fun i hi hm => ?_)
  have hc : (0 ≤ i ∧ i < 0 + 4) ∨ (8 ≤ i ∧ i < 8 + 14) := by revert i; decide
  rcases hc with hc | hc
  · exact fld_bit z0 i hc.1 hc.2
  · exact fld_bit z1 i hc.1 hc.2

theorem mbz_003fff0f {w : BitVec 32} (z0 : fld w 0 4 = 0) (z1 : fld w 8 14 = 0) (i : Instr) : mbz w 4194063#32 i = .ok i :=
  if_pos (mask_003fff0f z0 z1)

theorem mask_003ffff0 {w : BitVec 32} (z0 : fld w 4 18 = 0) : w &&& 0x003ffff0 = 0 := by
  refine and_mask (fun i hi hm => ?_)
  have hc : (4 ≤ i ∧ i < 4 + 18) := by revert i; decide
  exact fld_bit z0 i hc.1 hc.2

theorem mbz_003ffff0 {w : BitVec 32} (z0 : fld w 4 18 = 0) (i : Instr) : mbz w 4194288#32 i = .ok i :=
  if_pos (mask_003ffff0 z0)

theorem mask_003fffff {w : BitVec 32} (z0 : fld w 0 22 = 0) : w &&& 0x003fffff = 0 := by
  refine and_mask (fun i hi hm => ?_)
  have hc : (0 ≤ i ∧ i < 0 + 22) := by revert i; decide
  exact fld_bit z0 i hc.1 hc.2

theorem mbz_003fffff {w : BitVec 32} (z0 : fld w 0 22 = 0) (i : Instr) : mbz w 4194303#32 i = .ok i :=
  if_pos (mask_003fffff z0)

theorem mask_00707fff {w : BitVec 32} (z0 : fld w 0 15 = 0) (z1 : fld w 20 3 = 0) : w &&& 0x00707fff = 0 := by
  refine and_mask (fun i hi hm => ?_)
  have hc : (0 ≤ i ∧ i < 0 + 15) ∨ (20 ≤ i ∧ i < 20 + 3) := by revert i; decide
  rcases hc with hc | hc
  · exact fld_bit z0 i hc.1 hc.2
  · exact fld_bit z1 i hc.1 hc.2

theorem mbz_00707fff {w : BitVec 32} (z0 : fld w 0 15 = 0) (z1 : fld w 20 3 = 0) (i : Instr) : mbz w 7372799#32 i = .ok i :=
  if_pos (mask_00707fff z0 z1)

theorem mask_007fffff {w : BitVec 32} (z0 : fld w 0 23 = 0) : w &&& 0x007fffff = 0 := by
  refine and_mask (fun i hi hm => ?_)
  have hc : (0 ≤ i ∧ i < 0 + 23) := by revert i; decide
  exact fld_bit z0 i hc.1 hc.2

theorem mbz_007fffff {w : BitVec 32} (z0 : fld w 0 23 = 0) (i : Instr) : mbz w 8388607#32 i = .ok i :=
  if_pos (mask_007fffff z0)

theorem mask_00f83f00 {w : BitVec 32} (z0 : fld w 8 6 = 0) (z1 : fld w 19 5 = 0) : w &&& 0x00f83f00 = 0 := by
  refine and_mask (fun i hi hm => ?_)
  have hc : (8 ≤ i ∧ i < 8 + 6) ∨ (19 ≤ i ∧ i < 19 + 5) := by revert i; decide
  rcases hc with hc | hc
  · exact fld_bit z0 i hc.1 hc.2
  · exact fld_bit z1 i hc.1 hc.2

theorem mbz_00f83f00 {w : BitVec 32} (z0 : fld w 8 6 = 0) (z1 : fld w 19 5 = 0) (i : Instr) : mbz w 16269056#32 i = .ok i :=
  if_pos (mask_00f83f00 z0 z1)

theorem mask_00fffffe {w : BitVec 32} (z0 : fld w 1 23 = 0) : w &&& 0x00fffffe = 0 := by
  refine and_mask (fun i hi hm => ?_)
  have hc : (1 ≤ i ∧ i < 1 + 23) := by revert i; decide
  exact fld_bit z0 i hc.1 hc.2

theorem mbz_00fffffe {w : BitVec 32} (z0 : fld w 1 23 = 0) (i : Instr) : mbz w 16777214#32 i = .ok i :=
  if_pos (mask_00fffffe z0)

theorem mask_01c00000 {w : BitVec 32} (z0 : fld w 22 3 = 0) : w &&& 0x01c00000 = 0 := by
  refine and_mask (fun i hi hm => ?_)
  have hc : (22 ≤ i ∧ i < 22 + 3) := by revert i; decide
  exact fld_bit z0 i hc.1 hc.2

theorem mbz_01c00000 {w : BitVec 32} (z0 : fld w 22 3 = 0) (i : Instr) : mbz w 29360128#32 i = .ok i :=
  if_pos (mask_01c00000 z0)

theorem mask_03e00000 {w : BitVec 32} (z0 : fld w 21 5 = 0) : w &&& 0x03e00000 = 0 := by
  refine and_mask (fun i hi hm => ?_)
  have hc : (21 ≤ i ∧ i < 21 + 5) := by revert i; decide
  exact fld_bit z0 i hc.1 hc.2

theorem mbz_03e00000 {w : BitVec 32} (z0 : fld w 21 5 = 0) (i : Instr) : mbz w 65011712#32 i = .ok i :=
  if_pos (mask_03e00000 z0)

theorem mask_03e0f800 {w : BitVec 32} (z0 : fld w 11 5 = 0) (z1 : fld w 21 5 = 0) : w &&& 0x03e0f800 = 0 := by
  refine and_mask (fun i hi hm => ?_)
  have hc : (11 ≤ i ∧ i < 11 + 5) ∨ (21 ≤ i ∧ i < 21 + 5) := by revert i; decide
  rcases hc with hc | hc
  · exact fld_bit z0 i hc.1 hc.2
  · exact fld_bit z1 i hc.1 hc.2

theorem mbz_03e0f800 {w : BitVec 32} (z0 : fld w 11 5 = 0) (z1 : fld w 21 5 = 0) (i : Instr) : mbz w 65075200#32 i = .ok i :=
  if_pos (mask_03e0f800 z0 z1)

theorem mask_03e0f83f {w : BitVec 32} (z0 : fld w 0 6 = 0) (z1 : fld w 11 5 = 0) (z2 : fld w 21 5 = 0) : w &&& 0x03e0f83f = 0 := by
  refine and_mask (fun i hi hm => ?_)
  have hc : (0 ≤ i ∧ i < 0 + 6) ∨ (11 ≤ i ∧ i < 11 + 5) ∨ (21 ≤ i ∧ i < 21 + 5) := by revert i; decide
  rcases hc with hc | hc | hc
  · exact fld_bit z0 i hc.1 hc.2
  · exact fld_bit z1 i hc.1 hc.2
  · exact fld_bit z2 i hc.1 hc.2

theorem mbz_03e0f83f {w : BitVec 32} (z0 : fld w 0 6 = 0) (z1 : fld w 11 5 = 0) (z2 : fld w 21 5 = 0) (i : Instr) : mbz w 65075263#32 i = .ok i :=
  if_pos (mask_03e0f83f z0 z1 z2)

theorem mask_03e0f8ff {w : BitVec 32} (z0 : fld w 0 8 = 0) (z1 : fld w 11 5 = 0) (z2 : fld w 21 5 = 0) : w &&& 0x03e0f8ff = 0 := by
  refine and_mask (fun i hi hm => ?_)
  have hc : (0 ≤ i ∧ i < 0 + 8) ∨ (11 ≤ i ∧ i < 11 + 5) ∨ (21 ≤ i ∧ i < 21 + 5) := by revert i; decide
  rcases hc with hc | hc | hc
  · exact fld_bit z0 i hc.1 hc.2
  · exact fld_bit z1 i hc.1 hc.2
  · exact fld_bit z2 i hc.1 hc.2

theorem mbz_03e0f8ff {w : BitVec 32} (z0 : fld w 0 8 = 0) (z1 : fld w 11 5 = 0) (z2 : fld w 21 5 = 0) (i : Instr) : mbz w 65075455#32 i = .ok i :=
  if_pos (mask_03e0f8ff z0 z1 z2)

theorem mask_03e0ffff {w : BitVec 32} (z0 : fld w 0 16 = 0) (z1 : fld w 21 5 = 0) : w &&& 0x03e0ffff = 0 := by
  refine and_mask (fun i hi hm => ?_)
  have hc : (0 ≤ i ∧ i < 0 + 16) ∨ (21 ≤ i ∧ i < 21 + 5) := by revert i; decide
  rcases hc with hc | hc
  · exact fld_bit z0 i hc.1 hc.2
  · exact fld_bit z1 i hc.1 hc.2

theorem mbz_03e0ffff {w : BitVec 32} (z0 : fld w 0 16 = 0) (z1 : fld w 21 5 = 0) (i : Instr) : mbz w 65077247#32 i = .ok i :=
  if_pos (mask_03e0ffff z0 z1)

theorem mask_03ffe020 {w : BitVec 32} (z0 : fld w 5 1 = 0) (z1 : fld w 13 13 = 0) : w &&& 0x03ffe020 = 0 := by
  refine and_mask (fun i hi hm => ?_)
  have hc : (5 ≤ i ∧ i < 5 + 1) ∨ (13 ≤ i ∧ i < 13 + 13) := by revert i; decide
  rcases hc with hc | hc
  · exact fld_bit z0 i hc.1 hc.2
  · exact fld_bit z1 i hc.1 hc.2

theorem mbz_03ffe020 {w : BitVec 32} (z0 : fld w 5 1 = 0) (z1 : fld w 13 13 = 0) (i : Instr) : mbz w 67100704#32 i = .ok i :=
  if_pos (mask_03ffe020 z0 z1)

theorem mask_03ffe030 {w : BitVec 32} (z0 : fld w 4 2 = 0) (z1 : fld w 13 13 = 0) : w &&& 0x03ffe030 = 0 := by
  refine and_mask (fun i hi hm => ?_)
  have hc : (4 ≤ i ∧ i < 4 + 2) ∨ (13 ≤ i ∧ i < 13 + 13) := by revert i; decide
  rcases hc with hc | hc
  · exact fld_bit z0 i hc.1 hc.2
  · exact fld_bit z1 i hc.1 hc.2

theorem mbz_03ffe030 {w : BitVec 32} (z0 : fld w 4 2 = 0) (z1 : fld w 13 13 = 0) (i : Instr) : mbz w 67100720#32 i = .ok i :=
  if_pos (mask_03ffe030 z0 z1)

theorem mask_03ffe03f {w : BitVec 32} (z0 : fld w 0 6 = 0) (z1 : fld w 13 13 = 0) : w &&& 0x03ffe03f = 0 := by
  refine and_mask (fun i hi hm => ?_)
  have hc : (0 ≤ i ∧ i < 0 + 6) ∨ (13 ≤ i ∧ i < 13 + 13) := by revert i; decide
  rcases hc with hc | hc
  · exact fld_bit z0 i hc.1 hc.2
  · exact fld_bit z1 i hc.1 hc.2

theorem mbz_03ffe03f {w : BitVec 32} (z0 : fld w 0 6 = 0) (z1 : fld w 13 13 = 0) (i : Instr) : mbz w 67100735#32 i = .ok i :=
  if_pos (mask_03ffe03f z0 z1)

theorem mask_03fff800 {w : BitVec 32} (z0 : fld w 11 15 = 0) : w &&& 0x03fff800 = 0 := by
  refine and_mask (fun i hi hm => ?_)
  have hc : (11 ≤ i ∧ i < 11 + 15) := by revert i; decide
  exact fld_bit z0 i hc.1 hc.2

theorem mbz_03fff800 {w : BitVec 32} (z0 : fld w 11 15 = 0) (i : Instr) : mbz w 67106816#32 i = .ok i :=
  if_pos (mask_03fff800 z0)

theorem mask_03fff83f {w : BitVec 32} (z0 : fld w 0 6 = 0) (z1 : fld w 11 15 = 0) : w &&& 0x03fff83f = 0 := by
  refine and_mask (fun i hi hm => ?_)
  have hc : (0 ≤ i ∧ i < 0 + 6) ∨ (11 ≤ i ∧ i < 11 + 15) := by revert i; decide
  rcases hc with hc | hc
  · exact fld_bit z0 i hc.1 hc.2
  · exact fld_bit z1 i hc.1 hc.2

theorem mbz_03fff83f {w : BitVec 32} (z0 : fld w 0 6 = 0) (z1 : fld w 11 15 = 0) (i : Instr) : mbz w 67106879#32 i = .ok i :=
  if_pos (mask_03fff83f z0 z1)

theorem mask_07fffff0 {w : BitVec 32} (z0 : fld w 4 23 = 0) : w &&& 0x07fffff0 = 0 := by
  refine and_mask (fun i hi hm => ?_)
  have hc : (4 ≤ i ∧ i < 4 + 23) := by revert i; decide
  exact fld_bit z0 i hc.1 hc.2

theorem mbz_07fffff0 {w : BitVec 32} (z0 : fld w 4 23 = 0) (i : Instr) : mbz w 134217712#32 i = .ok i :=
  if_pos (mask_07fffff0 z0)

theorem mask_07ffffff {w : BitVec 32} (z0 : fld w 0 27 = 0) : w &&& 0x07ffffff = 0 := by
  refine and_mask (fun i hi hm => ?_)
  have hc : (0 ≤ i ∧ i < 0 + 27) := by revert i; decide
  exact fld_bit z0 i hc.1 hc.2

theorem mbz_07ffffff {w : BitVec 32} (z0 : fld w 0 27 = 0) (i : Instr) : mbz w 134217727#32 i = .ok i :=
  if_pos (mask_07ffffff z0)

theorem mask_f8000fff {w : BitVec 32} (z0 : fld w 0 12 = 0) (z1 : fld w 27 5 = 0) : w &&& 0xf8000fff = 0 := by
  refine and_mask (fun i hi hm => ?_)
  have hc : (0 ≤ i ∧ i < 0 + 12) ∨ (27 ≤ i ∧ i < 27 + 5) := by revert i; decide
  rcases hc with hc | hc
  · exact fld_bit z0 i hc.1 hc.2
  · exact fld_bit z1 i hc.1 hc.2

theorem mbz_f8000fff {w : BitVec 32} (z0 : fld w 0 12 = 0) (z1 : fld w 27 5 = 0) (i : Instr) : mbz w 4160753663#32 i = .ok i :=
  if_pos (mask_f8000fff z0 z1)

theorem mask_fffffff0 {w : BitVec 32} (z0 : fld w 4 28 = 0) : w &&& 0xfffffff0 = 0 := by
  refine and_mask (fun i hi hm => ?_)
  have hc : (4 ≤ i ∧ i < 4 + 28) := by revert i; decide
  exact fld_bit z0 i hc.1 hc.2

theorem mbz_fffffff0 {w : BitVec 32} (z0 : fld w 4 28 = 0) (i : Instr) : mbz w 4294967280#32 i = .ok i :=
  if_pos (mask_fffffff0 z0)

theorem mask_fffffffe {w : BitVec 32} (z0 : fld w 1 31 = 0) : w &&& 0xfffffffe = 0 := by
  refine and_mask (fun i hi hm => ?_)
  have hc : (1 ≤ i ∧ i < 1 + 31) := by revert i; decide
  exact fld_bit z0 i hc.1 hc.2

theorem mbz_fffffffe {w : BitVec 32} (z0 : fld w 1 31 = 0) (i : Instr) : mbz w 4294967294#32 i = .ok i :=
  if_pos (mask_fffffffe z0)

/-- The words of `i` are one word, which is short and whose candidate is `i` whatever follows it. -/
def Cand1 (i : Instr) : Prop :=
  ∃ w, encode i = [w] ∧ isLong w = false ∧ ∀ x, candidate w x = .ok i

/-- The words of `i` are two words, the first is long, and their candidate is `i`. -/
def Cand2 (i : Instr) : Prop :=
  ∃ w1 w2, encode i = [w1, w2] ∧ isLong w1 = true ∧ candidate w1 w2 = .ok i

theorem cand1_of {i : Instr} (w0 : BitVec 32) (he : encode i = [w0])
    (hc : ∀ w, w = w0 → isLong w = false ∧ ∀ x, candidate w x = .ok i) : Cand1 i :=
  ⟨w0, he, (hc w0 rfl).1, (hc w0 rfl).2⟩

theorem cand2_of {i : Instr} (v1 v2 : BitVec 32) (he : encode i = [v1, v2])
    (hc : ∀ w1 w2, w1 = v1 → w2 = v2 → isLong w1 = true ∧ candidate w1 w2 = .ok i) : Cand2 i :=
  ⟨v1, v2, he, (hc v1 v2 rfl rfl).1, (hc v1 v2 rfl rfl).2⟩

/-! ### Fields by place -/

theorem shape_6_5_5_5_11 {w : BitVec 32} {x0 : BitVec 6} {x1 : BitVec 5} {x2 : BitVec 5} {x3 : BitVec 5} {x4 : BitVec 11}
    (h : w = x0 ++ x1 ++ x2 ++ x3 ++ x4) :
    fld w 26 6 = x0 ∧ fld w 21 5 = x1 ∧ fld w 16 5 = x2 ∧ fld w 11 5 = x3 ∧ fld w 0 11 = x4 := by
  have e : w.toNat = x0.toNat * 67108864 + x1.toNat * 2097152 + x2.toNat * 65536 + x3.toNat * 2048 + x4.toNat := by
    rw [h]
    repeat erw [toNat_append_eq]
    omega
  have := x0.isLt
  have := x1.isLt
  have := x2.isLt
  have := x3.isLt
  have := x4.isLt
  refine ⟨fld_eq (by omega), fld_eq (by omega), fld_eq (by omega), fld_eq (by omega), fld_eq (by omega)⟩

theorem shape_6_5_10_11 {w : BitVec 32} {x0 : BitVec 6} {x1 : BitVec 5} {x2 : BitVec 10} {x3 : BitVec 11}
    (h : w = x0 ++ x1 ++ x2 ++ x3) :
    fld w 26 6 = x0 ∧ fld w 21 5 = x1 ∧ fld w 11 10 = x2 ∧ fld w 0 11 = x3 := by
  have e : w.toNat = x0.toNat * 67108864 + x1.toNat * 2097152 + x2.toNat * 2048 + x3.toNat := by
    rw [h]
    repeat erw [toNat_append_eq]
    omega
  have := x0.isLt
  have := x1.isLt
  have := x2.isLt
  have := x3.isLt
  refine ⟨fld_eq (by omega), fld_eq (by omega), fld_eq (by omega), fld_eq (by omega)⟩

theorem shape_6_5_5_4_12 {w : BitVec 32} {x0 : BitVec 6} {x1 : BitVec 5} {x2 : BitVec 5} {x3 : BitVec 4} {x4 : BitVec 12}
    (h : w = x0 ++ x1 ++ x2 ++ x3 ++ x4) :
    fld w 26 6 = x0 ∧ fld w 21 5 = x1 ∧ fld w 16 5 = x2 ∧ fld w 12 4 = x3 ∧ fld w 0 12 = x4 := by
  have e : w.toNat = x0.toNat * 67108864 + x1.toNat * 2097152 + x2.toNat * 65536 + x3.toNat * 4096 + x4.toNat := by
    rw [h]
    repeat erw [toNat_append_eq]
    omega
  have := x0.isLt
  have := x1.isLt
  have := x2.isLt
  have := x3.isLt
  have := x4.isLt
  refine ⟨fld_eq (by omega), fld_eq (by omega), fld_eq (by omega), fld_eq (by omega), fld_eq (by omega)⟩

theorem shape_6_5_5_4_6_6 {w : BitVec 32} {x0 : BitVec 6} {x1 : BitVec 5} {x2 : BitVec 5} {x3 : BitVec 4} {x4 : BitVec 6} {x5 : BitVec 6}
    (h : w = x0 ++ x1 ++ x2 ++ x3 ++ x4 ++ x5) :
    fld w 26 6 = x0 ∧ fld w 21 5 = x1 ∧ fld w 16 5 = x2 ∧ fld w 12 4 = x3 ∧ fld w 6 6 = x4 ∧ fld w 0 6 = x5 := by
  have e : w.toNat = x0.toNat * 67108864 + x1.toNat * 2097152 + x2.toNat * 65536 + x3.toNat * 4096 + x4.toNat * 64 + x5.toNat := by
    rw [h]
    repeat erw [toNat_append_eq]
    omega
  have := x0.isLt
  have := x1.isLt
  have := x2.isLt
  have := x3.isLt
  have := x4.isLt
  have := x5.isLt
  refine ⟨fld_eq (by omega), fld_eq (by omega), fld_eq (by omega), fld_eq (by omega), fld_eq (by omega), fld_eq (by omega)⟩

theorem shape_6_5_5_16 {w : BitVec 32} {x0 : BitVec 6} {x1 : BitVec 5} {x2 : BitVec 5} {x3 : BitVec 16}
    (h : w = x0 ++ x1 ++ x2 ++ x3) :
    fld w 26 6 = x0 ∧ fld w 21 5 = x1 ∧ fld w 16 5 = x2 ∧ fld w 0 16 = x3 := by
  have e : w.toNat = x0.toNat * 67108864 + x1.toNat * 2097152 + x2.toNat * 65536 + x3.toNat := by
    rw [h]
    repeat erw [toNat_append_eq]
    omega
  have := x0.isLt
  have := x1.isLt
  have := x2.isLt
  have := x3.isLt
  refine ⟨fld_eq (by omega), fld_eq (by omega), fld_eq (by omega), fld_eq (by omega)⟩

theorem shape_6_5_2_3_16 {w : BitVec 32} {x0 : BitVec 6} {x1 : BitVec 5} {x2 : BitVec 2} {x3 : BitVec 3} {x4 : BitVec 16}
    (h : w = x0 ++ x1 ++ x2 ++ x3 ++ x4) :
    fld w 26 6 = x0 ∧ fld w 21 5 = x1 ∧ fld w 19 2 = x2 ∧ fld w 16 3 = x3 ∧ fld w 0 16 = x4 := by
  have e : w.toNat = x0.toNat * 67108864 + x1.toNat * 2097152 + x2.toNat * 524288 + x3.toNat * 65536 + x4.toNat := by
    rw [h]
    repeat erw [toNat_append_eq]
    omega
  have := x0.isLt
  have := x1.isLt
  have := x2.isLt
  have := x3.isLt
  have := x4.isLt
  refine ⟨fld_eq (by omega), fld_eq (by omega), fld_eq (by omega), fld_eq (by omega), fld_eq (by omega)⟩

theorem shape_6_5_5_6_7_3 {w : BitVec 32} {x0 : BitVec 6} {x1 : BitVec 5} {x2 : BitVec 5} {x3 : BitVec 6} {x4 : BitVec 7} {x5 : BitVec 3}
    (h : w = x0 ++ x1 ++ x2 ++ x3 ++ x4 ++ x5) :
    fld w 26 6 = x0 ∧ fld w 21 5 = x1 ∧ fld w 16 5 = x2 ∧ fld w 10 6 = x3 ∧ fld w 3 7 = x4 ∧ fld w 0 3 = x5 := by
  have e : w.toNat = x0.toNat * 67108864 + x1.toNat * 2097152 + x2.toNat * 65536 + x3.toNat * 1024 + x4.toNat * 8 + x5.toNat := by
    rw [h]
    repeat erw [toNat_append_eq]
    omega
  have := x0.isLt
  have := x1.isLt
  have := x2.isLt
  have := x3.isLt
  have := x4.isLt
  have := x5.isLt
  refine ⟨fld_eq (by omega), fld_eq (by omega), fld_eq (by omega), fld_eq (by omega), fld_eq (by omega), fld_eq (by omega)⟩

theorem shape_6_5_5_5_6_5 {w : BitVec 32} {x0 : BitVec 6} {x1 : BitVec 5} {x2 : BitVec 5} {x3 : BitVec 5} {x4 : BitVec 6} {x5 : BitVec 5}
    (h : w = x0 ++ x1 ++ x2 ++ x3 ++ x4 ++ x5) :
    fld w 26 6 = x0 ∧ fld w 21 5 = x1 ∧ fld w 16 5 = x2 ∧ fld w 11 5 = x3 ∧ fld w 5 6 = x4 ∧ fld w 0 5 = x5 := by
  have e : w.toNat = x0.toNat * 67108864 + x1.toNat * 2097152 + x2.toNat * 65536 + x3.toNat * 2048 + x4.toNat * 32 + x5.toNat := by
    rw [h]
    repeat erw [toNat_append_eq]
    omega
  have := x0.isLt
  have := x1.isLt
  have := x2.isLt
  have := x3.isLt
  have := x4.isLt
  have := x5.isLt
  refine ⟨fld_eq (by omega), fld_eq (by omega), fld_eq (by omega), fld_eq (by omega), fld_eq (by omega), fld_eq (by omega)⟩

theorem shape_6_5_5_5_3_3_5 {w : BitVec 32} {x0 : BitVec 6} {x1 : BitVec 5} {x2 : BitVec 5} {x3 : BitVec 5} {x4 : BitVec 3} {x5 : BitVec 3} {x6 : BitVec 5}
    (h : w = x0 ++ x1 ++ x2 ++ x3 ++ x4 ++ x5 ++ x6) :
    fld w 26 6 = x0 ∧ fld w 21 5 = x1 ∧ fld w 16 5 = x2 ∧ fld w 11 5 = x3 ∧ fld w 8 3 = x4 ∧ fld w 5 3 = x5 ∧ fld w 0 5 = x6 := by
  have e : w.toNat = x0.toNat * 67108864 + x1.toNat * 2097152 + x2.toNat * 65536 + x3.toNat * 2048 + x4.toNat * 256 + x5.toNat * 32 + x6.toNat := by
    rw [h]
    repeat erw [toNat_append_eq]
    omega
  have := x0.isLt
  have := x1.isLt
  have := x2.isLt
  have := x3.isLt
  have := x4.isLt
  have := x5.isLt
  have := x6.isLt
  refine ⟨fld_eq (by omega), fld_eq (by omega), fld_eq (by omega), fld_eq (by omega), fld_eq (by omega), fld_eq (by omega), fld_eq (by omega)⟩

theorem shape_6_5_5_11_5 {w : BitVec 32} {x0 : BitVec 6} {x1 : BitVec 5} {x2 : BitVec 5} {x3 : BitVec 11} {x4 : BitVec 5}
    (h : w = x0 ++ x1 ++ x2 ++ x3 ++ x4) :
    fld w 26 6 = x0 ∧ fld w 21 5 = x1 ∧ fld w 16 5 = x2 ∧ fld w 5 11 = x3 ∧ fld w 0 5 = x4 := by
  have e : w.toNat = x0.toNat * 67108864 + x1.toNat * 2097152 + x2.toNat * 65536 + x3.toNat * 32 + x4.toNat := by
    rw [h]
    repeat erw [toNat_append_eq]
    omega
  have := x0.isLt
  have := x1.isLt
  have := x2.isLt
  have := x3.isLt
  have := x4.isLt
  refine ⟨fld_eq (by omega), fld_eq (by omega), fld_eq (by omega), fld_eq (by omega), fld_eq (by omega)⟩

theorem shape_6_5_5_5_4_2_5 {w : BitVec 32} {x0 : BitVec 6} {x1 : BitVec 5} {x2 : BitVec 5} {x3 : BitVec 5} {x4 : BitVec 4} {x5 : BitVec 2} {x6 : BitVec 5}
    (h : w = x0 ++ x1 ++ x2 ++ x3 ++ x4 ++ x5 ++ x6) :
    fld w 26 6 = x0 ∧ fld w 21 5 = x1 ∧ fld w 16 5 = x2 ∧ fld w 11 5 = x3 ∧ fld w 7 4 = x4 ∧ fld w 5 2 = x5 ∧ fld w 0 5 = x6 := by
  have e : w.toNat = x0.toNat * 67108864 + x1.toNat * 2097152 + x2.toNat * 65536 + x3.toNat * 2048 + x4.toNat * 128 + x5.toNat * 32 + x6.toNat := by
    rw [h]
    repeat erw [toNat_append_eq]
    omega
  have := x0.isLt
  have := x1.isLt
  have := x2.isLt
  have := x3.isLt
  have := x4.isLt
  have := x5.isLt
  have := x6.isLt
  refine ⟨fld_eq (by omega), fld_eq (by omega), fld_eq (by omega), fld_eq (by omega), fld_eq (by omega), fld_eq (by omega), fld_eq (by omega)⟩

theorem shape_6_5_5_3_13 {w : BitVec 32} {x0 : BitVec 6} {x1 : BitVec 5} {x2 : BitVec 5} {x3 : BitVec 3} {x4 : BitVec 13}
    (h : w = x0 ++ x1 ++ x2 ++ x3 ++ x4) :
    fld w 26 6 = x0 ∧ fld w 21 5 = x1 ∧ fld w 16 5 = x2 ∧ fld w 13 3 = x3 ∧ fld w 0 13 = x4 := by
  have e : w.toNat = x0.toNat * 67108864 + x1.toNat * 2097152 + x2.toNat * 65536 + x3.toNat * 8192 + x4.toNat := by
    rw [h]
    repeat erw [toNat_append_eq]
    omega
  have := x0.isLt
  have := x1.isLt
  have := x2.isLt
  have := x3.isLt
  have := x4.isLt
  refine ⟨fld_eq (by omega), fld_eq (by omega), fld_eq (by omega), fld_eq (by omega), fld_eq (by omega)⟩

theorem shape_6_5_5_2_2_12 {w : BitVec 32} {x0 : BitVec 6} {x1 : BitVec 5} {x2 : BitVec 5} {x3 : BitVec 2} {x4 : BitVec 2} {x5 : BitVec 12}
    (h : w = x0 ++ x1 ++ x2 ++ x3 ++ x4 ++ x5) :
    fld w 26 6 = x0 ∧ fld w 21 5 = x1 ∧ fld w 16 5 = x2 ∧ fld w 14 2 = x3 ∧ fld w 12 2 = x4 ∧ fld w 0 12 = x5 := by
  have e : w.toNat = x0.toNat * 67108864 + x1.toNat * 2097152 + x2.toNat * 65536 + x3.toNat * 16384 + x4.toNat * 4096 + x5.toNat := by
    rw [h]
    repeat erw [toNat_append_eq]
    omega
  have := x0.isLt
  have := x1.isLt
  have := x2.isLt
  have := x3.isLt
  have := x4.isLt
  have := x5.isLt
  refine ⟨fld_eq (by omega), fld_eq (by omega), fld_eq (by omega), fld_eq (by omega), fld_eq (by omega), fld_eq (by omega)⟩

theorem shape_6_5_5_5_4_2_2_2_1 {w : BitVec 32} {x0 : BitVec 6} {x1 : BitVec 5} {x2 : BitVec 5} {x3 : BitVec 5} {x4 : BitVec 4} {x5 : BitVec 2} {x6 : BitVec 2} {x7 : BitVec 2} {x8 : BitVec 1}
    (h : w = x0 ++ x1 ++ x2 ++ x3 ++ x4 ++ x5 ++ x6 ++ x7 ++ x8) :
    fld w 26 6 = x0 ∧ fld w 21 5 = x1 ∧ fld w 16 5 = x2 ∧ fld w 11 5 = x3 ∧ fld w 7 4 = x4 ∧ fld w 5 2 = x5 ∧ fld w 3 2 = x6 ∧ fld w 1 2 = x7 ∧ fld w 0 1 = x8 := by
  have e : w.toNat = x0.toNat * 67108864 + x1.toNat * 2097152 + x2.toNat * 65536 + x3.toNat * 2048 + x4.toNat * 128 + x5.toNat * 32 + x6.toNat * 8 + x7.toNat * 2 + x8.toNat := by
    rw [h]
    repeat erw [toNat_append_eq]
    omega
  have := x0.isLt
  have := x1.isLt
  have := x2.isLt
  have := x3.isLt
  have := x4.isLt
  have := x5.isLt
  have := x6.isLt
  have := x7.isLt
  have := x8.isLt
  refine ⟨fld_eq (by omega), fld_eq (by omega), fld_eq (by omega), fld_eq (by omega), fld_eq (by omega), fld_eq (by omega), fld_eq (by omega), fld_eq (by omega), fld_eq (by omega)⟩

theorem shape_6_15_3_2_6 {w : BitVec 32} {x0 : BitVec 6} {x1 : BitVec 15} {x2 : BitVec 3} {x3 : BitVec 2} {x4 : BitVec 6}
    (h : w = x0 ++ x1 ++ x2 ++ x3 ++ x4) :
    fld w 26 6 = x0 ∧ fld w 11 15 = x1 ∧ fld w 8 3 = x2 ∧ fld w 6 2 = x3 ∧ fld w 0 6 = x4 := by
  have e : w.toNat = x0.toNat * 67108864 + x1.toNat * 2048 + x2.toNat * 256 + x3.toNat * 64 + x4.toNat := by
    rw [h]
    repeat erw [toNat_append_eq]
    omega
  have := x0.isLt
  have := x1.isLt
  have := x2.isLt
  have := x3.isLt
  have := x4.isLt
  refine ⟨fld_eq (by omega), fld_eq (by omega), fld_eq (by omega), fld_eq (by omega), fld_eq (by omega)⟩

theorem shape_6_5_5_5_3_2_6 {w : BitVec 32} {x0 : BitVec 6} {x1 : BitVec 5} {x2 : BitVec 5} {x3 : BitVec 5} {x4 : BitVec 3} {x5 : BitVec 2} {x6 : BitVec 6}
    (h : w = x0 ++ x1 ++ x2 ++ x3 ++ x4 ++ x5 ++ x6) :
    fld w 26 6 = x0 ∧ fld w 21 5 = x1 ∧ fld w 16 5 = x2 ∧ fld w 11 5 = x3 ∧ fld w 8 3 = x4 ∧ fld w 6 2 = x5 ∧ fld w 0 6 = x6 := by
  have e : w.toNat = x0.toNat * 67108864 + x1.toNat * 2097152 + x2.toNat * 65536 + x3.toNat * 2048 + x4.toNat * 256 + x5.toNat * 64 + x6.toNat := by
    rw [h]
    repeat erw [toNat_append_eq]
    omega
  have := x0.isLt
  have := x1.isLt
  have := x2.isLt
  have := x3.isLt
  have := x4.isLt
  have := x5.isLt
  have := x6.isLt
  refine ⟨fld_eq (by omega), fld_eq (by omega), fld_eq (by omega), fld_eq (by omega), fld_eq (by omega), fld_eq (by omega), fld_eq (by omega)⟩

theorem shape_6_5_5_5_3_2_1_5 {w : BitVec 32} {x0 : BitVec 6} {x1 : BitVec 5} {x2 : BitVec 5} {x3 : BitVec 5} {x4 : BitVec 3} {x5 : BitVec 2} {x6 : BitVec 1} {x7 : BitVec 5}
    (h : w = x0 ++ x1 ++ x2 ++ x3 ++ x4 ++ x5 ++ x6 ++ x7) :
    fld w 26 6 = x0 ∧ fld w 21 5 = x1 ∧ fld w 16 5 = x2 ∧ fld w 11 5 = x3 ∧ fld w 8 3 = x4 ∧ fld w 6 2 = x5 ∧ fld w 5 1 = x6 ∧ fld w 0 5 = x7 := by
  have e : w.toNat = x0.toNat * 67108864 + x1.toNat * 2097152 + x2.toNat * 65536 + x3.toNat * 2048 + x4.toNat * 256 + x5.toNat * 64 + x6.toNat * 32 + x7.toNat := by
    rw [h]
    repeat erw [toNat_append_eq]
    omega
  have := x0.isLt
  have := x1.isLt
  have := x2.isLt
  have := x3.isLt
  have := x4.isLt
  have := x5.isLt
  have := x6.isLt
  have := x7.isLt
  refine ⟨fld_eq (by omega), fld_eq (by omega), fld_eq (by omega), fld_eq (by omega), fld_eq (by omega), fld_eq (by omega), fld_eq (by omega), fld_eq (by omega)⟩

theorem shape_6_5_5_5_3_8 {w : BitVec 32} {x0 : BitVec 6} {x1 : BitVec 5} {x2 : BitVec 5} {x3 : BitVec 5} {x4 : BitVec 3} {x5 : BitVec 8}
    (h : w = x0 ++ x1 ++ x2 ++ x3 ++ x4 ++ x5) :
    fld w 26 6 = x0 ∧ fld w 21 5 = x1 ∧ fld w 16 5 = x2 ∧ fld w 11 5 = x3 ∧ fld w 8 3 = x4 ∧ fld w 0 8 = x5 := by
  have e : w.toNat = x0.toNat * 67108864 + x1.toNat * 2097152 + x2.toNat * 65536 + x3.toNat * 2048 + x4.toNat * 256 + x5.toNat := by
    rw [h]
    repeat erw [toNat_append_eq]
    omega
  have := x0.isLt
  have := x1.isLt
  have := x2.isLt
  have := x3.isLt
  have := x4.isLt
  have := x5.isLt
  refine ⟨fld_eq (by omega), fld_eq (by omega), fld_eq (by omega), fld_eq (by omega), fld_eq (by omega), fld_eq (by omega)⟩

theorem shape_6_3_3_5_15 {w : BitVec 32} {x0 : BitVec 6} {x1 : BitVec 3} {x2 : BitVec 3} {x3 : BitVec 5} {x4 : BitVec 15}
    (h : w = x0 ++ x1 ++ x2 ++ x3 ++ x4) :
    fld w 26 6 = x0 ∧ fld w 23 3 = x1 ∧ fld w 20 3 = x2 ∧ fld w 15 5 = x3 ∧ fld w 0 15 = x4 := by
  have e : w.toNat = x0.toNat * 67108864 + x1.toNat * 8388608 + x2.toNat * 1048576 + x3.toNat * 32768 + x4.toNat := by
    rw [h]
    repeat erw [toNat_append_eq]
    omega
  have := x0.isLt
  have := x1.isLt
  have := x2.isLt
  have := x3.isLt
  have := x4.isLt
  refine ⟨fld_eq (by omega), fld_eq (by omega), fld_eq (by omega), fld_eq (by omega), fld_eq (by omega)⟩

theorem shape_6_3_3_20 {w : BitVec 32} {x0 : BitVec 6} {x1 : BitVec 3} {x2 : BitVec 3} {x3 : BitVec 20}
    (h : w = x0 ++ x1 ++ x2 ++ x3) :
    fld w 26 6 = x0 ∧ fld w 23 3 = x1 ∧ fld w 20 3 = x2 ∧ fld w 0 20 = x3 := by
  have e : w.toNat = x0.toNat * 67108864 + x1.toNat * 8388608 + x2.toNat * 1048576 + x3.toNat := by
    rw [h]
    repeat erw [toNat_append_eq]
    omega
  have := x0.isLt
  have := x1.isLt
  have := x2.isLt
  have := x3.isLt
  refine ⟨fld_eq (by omega), fld_eq (by omega), fld_eq (by omega), fld_eq (by omega)⟩

theorem shape_6_1_2_2_5_16 {w : BitVec 32} {x0 : BitVec 6} {x1 : BitVec 1} {x2 : BitVec 2} {x3 : BitVec 2} {x4 : BitVec 5} {x5 : BitVec 16}
    (h : w = x0 ++ x1 ++ x2 ++ x3 ++ x4 ++ x5) :
    fld w 26 6 = x0 ∧ fld w 25 1 = x1 ∧ fld w 23 2 = x2 ∧ fld w 21 2 = x3 ∧ fld w 16 5 = x4 ∧ fld w 0 16 = x5 := by
  have e : w.toNat = x0.toNat * 67108864 + x1.toNat * 33554432 + x2.toNat * 8388608 + x3.toNat * 2097152 + x4.toNat * 65536 + x5.toNat := by
    rw [h]
    repeat erw [toNat_append_eq]
    omega
  have := x0.isLt
  have := x1.isLt
  have := x2.isLt
  have := x3.isLt
  have := x4.isLt
  have := x5.isLt
  refine ⟨fld_eq (by omega), fld_eq (by omega), fld_eq (by omega), fld_eq (by omega), fld_eq (by omega), fld_eq (by omega)⟩

theorem shape_6_26 {w : BitVec 32} {x0 : BitVec 6} {x1 : BitVec 26}
    (h : w = x0 ++ x1) :
    fld w 26 6 = x0 ∧ fld w 0 26 = x1 := by
  have e : w.toNat = x0.toNat * 67108864 + x1.toNat := by
    rw [h]
    repeat erw [toNat_append_eq]
    omega
  have := x0.isLt
  have := x1.isLt
  refine ⟨fld_eq (by omega), fld_eq (by omega)⟩

theorem shape_6_1_3_1_5_16 {w : BitVec 32} {x0 : BitVec 6} {x1 : BitVec 1} {x2 : BitVec 3} {x3 : BitVec 1} {x4 : BitVec 5} {x5 : BitVec 16}
    (h : w = x0 ++ x1 ++ x2 ++ x3 ++ x4 ++ x5) :
    fld w 26 6 = x0 ∧ fld w 25 1 = x1 ∧ fld w 22 3 = x2 ∧ fld w 21 1 = x3 ∧ fld w 16 5 = x4 ∧ fld w 0 16 = x5 := by
  have e : w.toNat = x0.toNat * 67108864 + x1.toNat * 33554432 + x2.toNat * 4194304 + x3.toNat * 2097152 + x4.toNat * 65536 + x5.toNat := by
    rw [h]
    repeat erw [toNat_append_eq]
    omega
  have := x0.isLt
  have := x1.isLt
  have := x2.isLt
  have := x3.isLt
  have := x4.isLt
  have := x5.isLt
  refine ⟨fld_eq (by omega), fld_eq (by omega), fld_eq (by omega), fld_eq (by omega), fld_eq (by omega), fld_eq (by omega)⟩

theorem shape_6_1_2_5_2_16 {w : BitVec 32} {x0 : BitVec 6} {x1 : BitVec 1} {x2 : BitVec 2} {x3 : BitVec 5} {x4 : BitVec 2} {x5 : BitVec 16}
    (h : w = x0 ++ x1 ++ x2 ++ x3 ++ x4 ++ x5) :
    fld w 26 6 = x0 ∧ fld w 25 1 = x1 ∧ fld w 23 2 = x2 ∧ fld w 18 5 = x3 ∧ fld w 16 2 = x4 ∧ fld w 0 16 = x5 := by
  have e : w.toNat = x0.toNat * 67108864 + x1.toNat * 33554432 + x2.toNat * 8388608 + x3.toNat * 262144 + x4.toNat * 65536 + x5.toNat := by
    rw [h]
    repeat erw [toNat_append_eq]
    omega
  have := x0.isLt
  have := x1.isLt
  have := x2.isLt
  have := x3.isLt
  have := x4.isLt
  have := x5.isLt
  refine ⟨fld_eq (by omega), fld_eq (by omega), fld_eq (by omega), fld_eq (by omega), fld_eq (by omega), fld_eq (by omega)⟩

theorem shape_6_1_2_7_16 {w : BitVec 32} {x0 : BitVec 6} {x1 : BitVec 1} {x2 : BitVec 2} {x3 : BitVec 7} {x4 : BitVec 16}
    (h : w = x0 ++ x1 ++ x2 ++ x3 ++ x4) :
    fld w 26 6 = x0 ∧ fld w 25 1 = x1 ∧ fld w 23 2 = x2 ∧ fld w 16 7 = x3 ∧ fld w 0 16 = x4 := by
  have e : w.toNat = x0.toNat * 67108864 + x1.toNat * 33554432 + x2.toNat * 8388608 + x3.toNat * 65536 + x4.toNat := by
    rw [h]
    repeat erw [toNat_append_eq]
    omega
  have := x0.isLt
  have := x1.isLt
  have := x2.isLt
  have := x3.isLt
  have := x4.isLt
  refine ⟨fld_eq (by omega), fld_eq (by omega), fld_eq (by omega), fld_eq (by omega), fld_eq (by omega)⟩

theorem shape_6_2_5_5_6_8 {w : BitVec 32} {x0 : BitVec 6} {x1 : BitVec 2} {x2 : BitVec 5} {x3 : BitVec 5} {x4 : BitVec 6} {x5 : BitVec 8}
    (h : w = x0 ++ x1 ++ x2 ++ x3 ++ x4 ++ x5) :
    fld w 26 6 = x0 ∧ fld w 24 2 = x1 ∧ fld w 19 5 = x2 ∧ fld w 14 5 = x3 ∧ fld w 8 6 = x4 ∧ fld w 0 8 = x5 := by
  have e : w.toNat = x0.toNat * 67108864 + x1.toNat * 16777216 + x2.toNat * 524288 + x3.toNat * 16384 + x4.toNat * 256 + x5.toNat := by
    rw [h]
    repeat erw [toNat_append_eq]
    omega
  have := x0.isLt
  have := x1.isLt
  have := x2.isLt
  have := x3.isLt
  have := x4.isLt
  have := x5.isLt
  refine ⟨fld_eq (by omega), fld_eq (by omega), fld_eq (by omega), fld_eq (by omega), fld_eq (by omega), fld_eq (by omega)⟩

theorem shape_6_2_23_1 {w : BitVec 32} {x0 : BitVec 6} {x1 : BitVec 2} {x2 : BitVec 23} {x3 : BitVec 1}
    (h : w = x0 ++ x1 ++ x2 ++ x3) :
    fld w 26 6 = x0 ∧ fld w 24 2 = x1 ∧ fld w 1 23 = x2 ∧ fld w 0 1 = x3 := by
  have e : w.toNat = x0.toNat * 67108864 + x1.toNat * 16777216 + x2.toNat * 2 + x3.toNat := by
    rw [h]
    repeat erw [toNat_append_eq]
    omega
  have := x0.isLt
  have := x1.isLt
  have := x2.isLt
  have := x3.isLt
  refine ⟨fld_eq (by omega), fld_eq (by omega), fld_eq (by omega), fld_eq (by omega)⟩

theorem shape_6_2_5_19 {w : BitVec 32} {x0 : BitVec 6} {x1 : BitVec 2} {x2 : BitVec 5} {x3 : BitVec 19}
    (h : w = x0 ++ x1 ++ x2 ++ x3) :
    fld w 26 6 = x0 ∧ fld w 24 2 = x1 ∧ fld w 19 5 = x2 ∧ fld w 0 19 = x3 := by
  have e : w.toNat = x0.toNat * 67108864 + x1.toNat * 16777216 + x2.toNat * 524288 + x3.toNat := by
    rw [h]
    repeat erw [toNat_append_eq]
    omega
  have := x0.isLt
  have := x1.isLt
  have := x2.isLt
  have := x3.isLt
  refine ⟨fld_eq (by omega), fld_eq (by omega), fld_eq (by omega), fld_eq (by omega)⟩

theorem shape_6_15_11 {w : BitVec 32} {x0 : BitVec 6} {x1 : BitVec 15} {x2 : BitVec 11}
    (h : w = x0 ++ x1 ++ x2) :
    fld w 26 6 = x0 ∧ fld w 11 15 = x1 ∧ fld w 0 11 = x2 := by
  have e : w.toNat = x0.toNat * 67108864 + x1.toNat * 2048 + x2.toNat := by
    rw [h]
    repeat erw [toNat_append_eq]
    omega
  have := x0.isLt
  have := x1.isLt
  have := x2.isLt
  refine ⟨fld_eq (by omega), fld_eq (by omega), fld_eq (by omega)⟩

theorem shape_6_3_23 {w : BitVec 32} {x0 : BitVec 6} {x1 : BitVec 3} {x2 : BitVec 23}
    (h : w = x0 ++ x1 ++ x2) :
    fld w 26 6 = x0 ∧ fld w 23 3 = x1 ∧ fld w 0 23 = x2 := by
  have e : w.toNat = x0.toNat * 67108864 + x1.toNat * 8388608 + x2.toNat := by
    rw [h]
    repeat erw [toNat_append_eq]
    omega
  have := x0.isLt
  have := x1.isLt
  have := x2.isLt
  refine ⟨fld_eq (by omega), fld_eq (by omega), fld_eq (by omega)⟩

end Sys2Proof.Laws
end

