-- ==== Sys2Proof/Laws/EncodeLong.lean ====
section
/-! SUPPORT. The candidate of the words of each 64-bit instruction is the instruction (R45, R49 to R54). -/

namespace Sys2Proof.Laws

open Sys2Proof

set_option Elab.async false
set_option linter.all false

/-- The fields of an E command's words (R49). -/
theorem encE_fields {w1 w2 : BitVec 32} {m : BitVec 6} {op : BitVec 7} {e : EWord}
    (hw1 : w1 = m ++ e.wsem ++ BitVec.ofBool e.wen ++ e.ssem ++ BitVec.ofBool e.sen ++ e.pred ++ op ++ e.mod)
    (hw2 : w2 = e.d ++ e.a ++ e.b ++ e.c ++ e.imm) :
    fld w1 26 6 = m ∧ fld w1 6 7 = op ∧ eWord w1 w2 = e := by
  have h1 : w1.toNat = m.toNat * 67108864 + e.wsem.toNat * 4194304 +
      (BitVec.ofBool e.wen).toNat * 2097152 + e.ssem.toNat * 131072 + (BitVec.ofBool e.sen).toNat * 65536 +
      e.pred.toNat * 8192 + op.toNat * 64 + e.mod.toNat := by
    rw [hw1]
    repeat erw [toNat_append_eq]
    omega
  have h2 : w2.toNat = e.d.toNat * 134217728 + e.a.toNat * 4194304 + e.b.toNat * 131072 +
      e.c.toNat * 4096 + e.imm.toNat := by
    rw [hw2]
    repeat erw [toNat_append_eq]
    omega
  have b1 := m.isLt
  have b2 := op.isLt
  have b3 := e.wsem.isLt
  have b4 := (BitVec.ofBool e.wen).isLt
  have b5 := e.ssem.isLt
  have b6 := (BitVec.ofBool e.sen).isLt
  have b7 := e.pred.isLt
  have b8 := e.mod.isLt
  have c1 := e.d.isLt
  have c2 := e.a.isLt
  have c3 := e.b.isLt
  have c4 := e.c.isLt
  have c5 := e.imm.isLt
  refine ⟨fld_eq (by omega), fld_eq (by omega), ?_⟩
  have f1 : fld w1 22 4 = e.wsem := fld_eq (by omega)
  have f2 : w1.getLsbD 21 = e.wen := fld_ofBool (fld_eq (by omega))
  have f3 : fld w1 17 4 = e.ssem := fld_eq (by omega)
  have f4 : w1.getLsbD 16 = e.sen := fld_ofBool (fld_eq (by omega))
  have f5 : fld w1 13 3 = e.pred := fld_eq (by omega)
  have f6 : fld w1 0 6 = e.mod := fld_eq (by omega)
  have g1 : fld w2 27 5 = e.d := fld_eq (by omega)
  have g2 : fld w2 22 5 = e.a := fld_eq (by omega)
  have g3 : fld w2 17 5 = e.b := fld_eq (by omega)
  have g4 : fld w2 12 5 = e.c := fld_eq (by omega)
  have g5 : fld w2 0 12 = e.imm := fld_eq (by omega)
  simp only [eWord, f1, f2, f3, f4, f5, f6, g1, g2, g3, g4, g5]

theorem cand_ml (e : EWord) : Cand2 (.ml e) := cand2_of _ _ rfl fun w1 w2 hw1 hw2 => by
  obtain ⟨h1, h2, h3⟩ := encE_fields hw1 hw2
  exact ⟨by simp [isLong, h1], by simp [candidate, decMx, h1, h2, h3]⟩

theorem cand_mlT (e : EWord) : Cand2 (.mlT e) := cand2_of _ _ rfl fun w1 w2 hw1 hw2 => by
  obtain ⟨h1, h2, h3⟩ := encE_fields hw1 hw2
  exact ⟨by simp [isLong, h1], by simp [candidate, decMx, h1, h2, h3]⟩

theorem cand_mm (e : EWord) : Cand2 (.mm e) := cand2_of _ _ rfl fun w1 w2 hw1 hw2 => by
  obtain ⟨h1, h2, h3⟩ := encE_fields hw1 hw2
  exact ⟨by simp [isLong, h1], by simp [candidate, decMx, h1, h2, h3]⟩

theorem cand_mzero (e : EWord) : Cand2 (.mzero e) := cand2_of _ _ rfl fun w1 w2 hw1 hw2 => by
  obtain ⟨h1, h2, h3⟩ := encE_fields hw1 hw2
  exact ⟨by simp [isLong, h1], by simp [candidate, decMx, h1, h2, h3]⟩

theorem cand_mdrain (e : EWord) : Cand2 (.mdrain e) := cand2_of _ _ rfl fun w1 w2 hw1 hw2 => by
  obtain ⟨h1, h2, h3⟩ := encE_fields hw1 hw2
  exact ⟨by simp [isLong, h1], by simp [candidate, decMx, h1, h2, h3]⟩

theorem cand_mred (e : EWord) : Cand2 (.mred e) := cand2_of _ _ rfl fun w1 w2 hw1 hw2 => by
  obtain ⟨h1, h2, h3⟩ := encE_fields hw1 hw2
  exact ⟨by simp [isLong, h1], by simp [candidate, decMx, h1, h2, h3]⟩

theorem cand_mcfg (e : EWord) : Cand2 (.mcfg e) := cand2_of _ _ rfl fun w1 w2 hw1 hw2 => by
  obtain ⟨h1, h2, h3⟩ := encE_fields hw1 hw2
  exact ⟨by simp [isLong, h1], by simp [candidate, decMx, h1, h2, h3]⟩

theorem cand_mfmt (e : EWord) : Cand2 (.mfmt e) := cand2_of _ _ rfl fun w1 w2 hw1 hw2 => by
  obtain ⟨h1, h2, h3⟩ := encE_fields hw1 hw2
  exact ⟨by simp [isLong, h1], by simp [candidate, decMx, h1, h2, h3]⟩

theorem cand_mchk (e : EWord) : Cand2 (.mchk e) := cand2_of _ _ rfl fun w1 w2 hw1 hw2 => by
  obtain ⟨h1, h2, h3⟩ := encE_fields hw1 hw2
  exact ⟨by simp [isLong, h1], by simp [candidate, decMx, h1, h2, h3]⟩

theorem cand_vadd (e : EWord) : Cand2 (.vadd e) := cand2_of _ _ rfl fun w1 w2 hw1 hw2 => by
  obtain ⟨h1, h2, h3⟩ := encE_fields hw1 hw2
  exact ⟨by simp [isLong, h1], by simp [candidate, decVx, h1, h2, h3]⟩

theorem cand_vsub (e : EWord) : Cand2 (.vsub e) := cand2_of _ _ rfl fun w1 w2 hw1 hw2 => by
  obtain ⟨h1, h2, h3⟩ := encE_fields hw1 hw2
  exact ⟨by simp [isLong, h1], by simp [candidate, decVx, h1, h2, h3]⟩

theorem cand_vmul (e : EWord) : Cand2 (.vmul e) := cand2_of _ _ rfl fun w1 w2 hw1 hw2 => by
  obtain ⟨h1, h2, h3⟩ := encE_fields hw1 hw2
  exact ⟨by simp [isLong, h1], by simp [candidate, decVx, h1, h2, h3]⟩

theorem cand_vfma (e : EWord) : Cand2 (.vfma e) := cand2_of _ _ rfl fun w1 w2 hw1 hw2 => by
  obtain ⟨h1, h2, h3⟩ := encE_fields hw1 hw2
  exact ⟨by simp [isLong, h1], by simp [candidate, decVx, h1, h2, h3]⟩

theorem cand_vmax (e : EWord) : Cand2 (.vmax e) := cand2_of _ _ rfl fun w1 w2 hw1 hw2 => by
  obtain ⟨h1, h2, h3⟩ := encE_fields hw1 hw2
  exact ⟨by simp [isLong, h1], by simp [candidate, decVx, h1, h2, h3]⟩

theorem cand_vmin (e : EWord) : Cand2 (.vmin e) := cand2_of _ _ rfl fun w1 w2 hw1 hw2 => by
  obtain ⟨h1, h2, h3⟩ := encE_fields hw1 hw2
  exact ⟨by simp [isLong, h1], by simp [candidate, decVx, h1, h2, h3]⟩

theorem cand_vabs (e : EWord) : Cand2 (.vabs e) := cand2_of _ _ rfl fun w1 w2 hw1 hw2 => by
  obtain ⟨h1, h2, h3⟩ := encE_fields hw1 hw2
  exact ⟨by simp [isLong, h1], by simp [candidate, decVx, h1, h2, h3]⟩

theorem cand_vneg (e : EWord) : Cand2 (.vneg e) := cand2_of _ _ rfl fun w1 w2 hw1 hw2 => by
  obtain ⟨h1, h2, h3⟩ := encE_fields hw1 hw2
  exact ⟨by simp [isLong, h1], by simp [candidate, decVx, h1, h2, h3]⟩

theorem cand_vexp (e : EWord) : Cand2 (.vexp e) := cand2_of _ _ rfl fun w1 w2 hw1 hw2 => by
  obtain ⟨h1, h2, h3⟩ := encE_fields hw1 hw2
  exact ⟨by simp [isLong, h1], by simp [candidate, decVx, h1, h2, h3]⟩

theorem cand_vlog (e : EWord) : Cand2 (.vlog e) := cand2_of _ _ rfl fun w1 w2 hw1 hw2 => by
  obtain ⟨h1, h2, h3⟩ := encE_fields hw1 hw2
  exact ⟨by simp [isLong, h1], by simp [candidate, decVx, h1, h2, h3]⟩

theorem cand_vrcp (e : EWord) : Cand2 (.vrcp e) := cand2_of _ _ rfl fun w1 w2 hw1 hw2 => by
  obtain ⟨h1, h2, h3⟩ := encE_fields hw1 hw2
  exact ⟨by simp [isLong, h1], by simp [candidate, decVx, h1, h2, h3]⟩

theorem cand_vrsq (e : EWord) : Cand2 (.vrsq e) := cand2_of _ _ rfl fun w1 w2 hw1 hw2 => by
  obtain ⟨h1, h2, h3⟩ := encE_fields hw1 hw2
  exact ⟨by simp [isLong, h1], by simp [candidate, decVx, h1, h2, h3]⟩

theorem cand_vsqrt (e : EWord) : Cand2 (.vsqrt e) := cand2_of _ _ rfl fun w1 w2 hw1 hw2 => by
  obtain ⟨h1, h2, h3⟩ := encE_fields hw1 hw2
  exact ⟨by simp [isLong, h1], by simp [candidate, decVx, h1, h2, h3]⟩

theorem cand_vsin (e : EWord) : Cand2 (.vsin e) := cand2_of _ _ rfl fun w1 w2 hw1 hw2 => by
  obtain ⟨h1, h2, h3⟩ := encE_fields hw1 hw2
  exact ⟨by simp [isLong, h1], by simp [candidate, decVx, h1, h2, h3]⟩

theorem cand_vcos (e : EWord) : Cand2 (.vcos e) := cand2_of _ _ rfl fun w1 w2 hw1 hw2 => by
  obtain ⟨h1, h2, h3⟩ := encE_fields hw1 hw2
  exact ⟨by simp [isLong, h1], by simp [candidate, decVx, h1, h2, h3]⟩

theorem cand_vtanh (e : EWord) : Cand2 (.vtanh e) := cand2_of _ _ rfl fun w1 w2 hw1 hw2 => by
  obtain ⟨h1, h2, h3⟩ := encE_fields hw1 hw2
  exact ⟨by simp [isLong, h1], by simp [candidate, decVx, h1, h2, h3]⟩

theorem cand_vcvt (e : EWord) : Cand2 (.vcvt e) := cand2_of _ _ rfl fun w1 w2 hw1 hw2 => by
  obtain ⟨h1, h2, h3⟩ := encE_fields hw1 hw2
  exact ⟨by simp [isLong, h1], by simp [candidate, decVx, h1, h2, h3]⟩

theorem cand_vcmp (e : EWord) : Cand2 (.vcmp e) := cand2_of _ _ rfl fun w1 w2 hw1 hw2 => by
  obtain ⟨h1, h2, h3⟩ := encE_fields hw1 hw2
  exact ⟨by simp [isLong, h1], by simp [candidate, decVx, h1, h2, h3]⟩

theorem cand_vsel (e : EWord) : Cand2 (.vsel e) := cand2_of _ _ rfl fun w1 w2 hw1 hw2 => by
  obtain ⟨h1, h2, h3⟩ := encE_fields hw1 hw2
  exact ⟨by simp [isLong, h1], by simp [candidate, decVx, h1, h2, h3]⟩

theorem cand_vredsum (e : EWord) : Cand2 (.vredsum e) := cand2_of _ _ rfl fun w1 w2 hw1 hw2 => by
  obtain ⟨h1, h2, h3⟩ := encE_fields hw1 hw2
  exact ⟨by simp [isLong, h1], by simp [candidate, decVx, h1, h2, h3]⟩

theorem cand_vredmax (e : EWord) : Cand2 (.vredmax e) := cand2_of _ _ rfl fun w1 w2 hw1 hw2 => by
  obtain ⟨h1, h2, h3⟩ := encE_fields hw1 hw2
  exact ⟨by simp [isLong, h1], by simp [candidate, decVx, h1, h2, h3]⟩

theorem cand_vargmax (e : EWord) : Cand2 (.vargmax e) := cand2_of _ _ rfl fun w1 w2 hw1 hw2 => by
  obtain ⟨h1, h2, h3⟩ := encE_fields hw1 hw2
  exact ⟨by simp [isLong, h1], by simp [candidate, decVx, h1, h2, h3]⟩

theorem cand_vtopk (e : EWord) : Cand2 (.vtopk e) := cand2_of _ _ rfl fun w1 w2 hw1 hw2 => by
  obtain ⟨h1, h2, h3⟩ := encE_fields hw1 hw2
  exact ⟨by simp [isLong, h1], by simp [candidate, decVx, h1, h2, h3]⟩

theorem cand_vscan (e : EWord) : Cand2 (.vscan e) := cand2_of _ _ rfl fun w1 w2 hw1 hw2 => by
  obtain ⟨h1, h2, h3⟩ := encE_fields hw1 hw2
  exact ⟨by simp [isLong, h1], by simp [candidate, decVx, h1, h2, h3]⟩

theorem cand_vswp2 (e : EWord) : Cand2 (.vswp2 e) := cand2_of _ _ rfl fun w1 w2 hw1 hw2 => by
  obtain ⟨h1, h2, h3⟩ := encE_fields hw1 hw2
  exact ⟨by simp [isLong, h1], by simp [candidate, decVx, h1, h2, h3]⟩

theorem cand_vgath (e : EWord) : Cand2 (.vgath e) := cand2_of _ _ rfl fun w1 w2 hw1 hw2 => by
  obtain ⟨h1, h2, h3⟩ := encE_fields hw1 hw2
  exact ⟨by simp [isLong, h1], by simp [candidate, decVx, h1, h2, h3]⟩

theorem cand_vscat (e : EWord) : Cand2 (.vscat e) := cand2_of _ _ rfl fun w1 w2 hw1 hw2 => by
  obtain ⟨h1, h2, h3⟩ := encE_fields hw1 hw2
  exact ⟨by simp [isLong, h1], by simp [candidate, decVx, h1, h2, h3]⟩

theorem cand_vcopy (e : EWord) : Cand2 (.vcopy e) := cand2_of _ _ rfl fun w1 w2 hw1 hw2 => by
  obtain ⟨h1, h2, h3⟩ := encE_fields hw1 hw2
  exact ⟨by simp [isLong, h1], by simp [candidate, decVx, h1, h2, h3]⟩

theorem cand_vfill (e : EWord) : Cand2 (.vfill e) := cand2_of _ _ rfl fun w1 w2 hw1 hw2 => by
  obtain ⟨h1, h2, h3⟩ := encE_fields hw1 hw2
  exact ⟨by simp [isLong, h1], by simp [candidate, decVx, h1, h2, h3]⟩

theorem cand_vlut (e : EWord) : Cand2 (.vlut e) := cand2_of _ _ rfl fun w1 w2 hw1 hw2 => by
  obtain ⟨h1, h2, h3⟩ := encE_fields hw1 hw2
  exact ⟨by simp [isLong, h1], by simp [candidate, decVx, h1, h2, h3]⟩

theorem cand_vtern (e : EWord) : Cand2 (.vtern e) := cand2_of _ _ rfl fun w1 w2 hw1 hw2 => by
  obtain ⟨h1, h2, h3⟩ := encE_fields hw1 hw2
  exact ⟨by simp [isLong, h1], by simp [candidate, decVx, h1, h2, h3]⟩

theorem cand_vdot8 (e : EWord) : Cand2 (.vdot8 e) := cand2_of _ _ rfl fun w1 w2 hw1 hw2 => by
  obtain ⟨h1, h2, h3⟩ := encE_fields hw1 hw2
  exact ⟨by simp [isLong, h1], by simp [candidate, decVx, h1, h2, h3]⟩

theorem cand_vquant (e : EWord) : Cand2 (.vquant e) := cand2_of _ _ rfl fun w1 w2 hw1 hw2 => by
  obtain ⟨h1, h2, h3⟩ := encE_fields hw1 hw2
  exact ⟨by simp [isLong, h1], by simp [candidate, decVx, h1, h2, h3]⟩

theorem cand_vrand (e : EWord) : Cand2 (.vrand e) := cand2_of _ _ rfl fun w1 w2 hw1 hw2 => by
  obtain ⟨h1, h2, h3⟩ := encE_fields hw1 hw2
  exact ⟨by simp [isLong, h1], by simp [candidate, decVx, h1, h2, h3]⟩

theorem cand_cp (e : EWord) : Cand2 (.cp e) := cand2_of _ _ rfl fun w1 w2 hw1 hw2 => by
  obtain ⟨h1, h2, h3⟩ := encE_fields hw1 hw2
  exact ⟨by simp [isLong, h1], by simp [candidate, decCx, h1, h2, h3]⟩

theorem cand_cpRed (e : EWord) : Cand2 (.cpRed e) := cand2_of _ _ rfl fun w1 w2 hw1 hw2 => by
  obtain ⟨h1, h2, h3⟩ := encE_fields hw1 hw2
  exact ⟨by simp [isLong, h1], by simp [candidate, decCx, h1, h2, h3]⟩

theorem cand_cpBc (e : EWord) : Cand2 (.cpBc e) := cand2_of _ _ rfl fun w1 w2 hw1 hw2 => by
  obtain ⟨h1, h2, h3⟩ := encE_fields hw1 hw2
  exact ⟨by simp [isLong, h1], by simp [candidate, decCx, h1, h2, h3]⟩

theorem cand_semWait (s : BitVec 4) : Cand2 (.semWait s) := cand2_of _ _ rfl fun w1 w2 hw1 hw2 => by
  have h1 : w1.toNat = 3422552064 + s.toNat * 262144 := by
    rw [hw1]
    repeat erw [toNat_append_eq]
    simp
    try omega
  have h2 : w2.toNat = 0 := by
    rw [hw2]
    rfl
  have h_s := s.isLt
  have e0 : fld w1 26 6 = 0x33#6 := fld_eq (by simp; omega)
  have e1 : fld w1 22 4 = 0#4 := fld_eq (by simp; omega)
  have e2 : fld w1 18 4 = s := fld_eq (by simp; omega)
  have hw : w2 = 0#32 := BitVec.eq_of_toNat_eq h2
  have z0 : fld w1 0 18 = 0 := fld_eq (by simp; omega)
  have m0 := mbz_0003ffff z0
  exact ⟨by simp [isLong, e0], by simp [candidate, decSync, e0, e1, e2, hw, m0]⟩


theorem cand_semSig (s : BitVec 4) : Cand2 (.semSig s) := cand2_of _ _ rfl fun w1 w2 hw1 hw2 => by
  have h1 : w1.toNat = 3426746368 + s.toNat * 262144 := by
    rw [hw1]
    repeat erw [toNat_append_eq]
    simp
    try omega
  have h2 : w2.toNat = 0 := by
    rw [hw2]
    rfl
  have h_s := s.isLt
  have e0 : fld w1 26 6 = 0x33#6 := fld_eq (by simp; omega)
  have e1 : fld w1 22 4 = 1#4 := fld_eq (by simp; omega)
  have e2 : fld w1 18 4 = s := fld_eq (by simp; omega)
  have hw : w2 = 0#32 := BitVec.eq_of_toNat_eq h2
  have z0 : fld w1 0 18 = 0 := fld_eq (by simp; omega)
  have m0 := mbz_0003ffff z0
  exact ⟨by simp [isLong, e0], by simp [candidate, decSync, e0, e1, e2, hw, m0]⟩


theorem cand_semSet (s : BitVec 4) (a : Reg) : Cand2 (.semSet s a) := cand2_of _ _ rfl fun w1 w2 hw1 hw2 => by
  have h1 : w1.toNat = 3430940672 + s.toNat * 262144 + a.toNat * 8192 := by
    rw [hw1]
    repeat erw [toNat_append_eq]
    simp
    try omega
  have h2 : w2.toNat = 0 := by
    rw [hw2]
    rfl
  have h_s := s.isLt
  have h_a := a.isLt
  have e0 : fld w1 26 6 = 0x33#6 := fld_eq (by simp; omega)
  have e1 : fld w1 22 4 = 2#4 := fld_eq (by simp; omega)
  have e2 : fld w1 18 4 = s := fld_eq (by simp; omega)
  have e3 : fld w1 13 5 = a := fld_eq (by simp; omega)
  have hw : w2 = 0#32 := BitVec.eq_of_toNat_eq h2
  have z0 : fld w1 0 13 = 0 := fld_eq (by simp; omega)
  have m0 := mbz_00001fff z0
  exact ⟨by simp [isLong, e0], by simp [candidate, decSync, e0, e1, e2, e3, hw, m0]⟩


theorem cand_semCeil (s : BitVec 4) (a : Reg) : Cand2 (.semCeil s a) := cand2_of _ _ rfl fun w1 w2 hw1 hw2 => by
  have h1 : w1.toNat = 3435134976 + s.toNat * 262144 + a.toNat * 8192 := by
    rw [hw1]
    repeat erw [toNat_append_eq]
    simp
    try omega
  have h2 : w2.toNat = 0 := by
    rw [hw2]
    rfl
  have h_s := s.isLt
  have h_a := a.isLt
  have e0 : fld w1 26 6 = 0x33#6 := fld_eq (by simp; omega)
  have e1 : fld w1 22 4 = 3#4 := fld_eq (by simp; omega)
  have e2 : fld w1 18 4 = s := fld_eq (by simp; omega)
  have e3 : fld w1 13 5 = a := fld_eq (by simp; omega)
  have hw : w2 = 0#32 := BitVec.eq_of_toNat_eq h2
  have z0 : fld w1 0 13 = 0 := fld_eq (by simp; omega)
  have m0 := mbz_00001fff z0
  exact ⟨by simp [isLong, e0], by simp [candidate, decSync, e0, e1, e2, e3, hw, m0]⟩


theorem cand_semRd (d : Reg) (s : BitVec 4) : Cand2 (.semRd d s) := cand2_of _ _ rfl fun w1 w2 hw1 hw2 => by
  have h1 : w1.toNat = 3439329280 + s.toNat * 262144 + d.toNat * 8192 := by
    rw [hw1]
    repeat erw [toNat_append_eq]
    simp
    try omega
  have h2 : w2.toNat = 0 := by
    rw [hw2]
    rfl
  have h_d := d.isLt
  have h_s := s.isLt
  have e0 : fld w1 26 6 = 0x33#6 := fld_eq (by simp; omega)
  have e1 : fld w1 22 4 = 4#4 := fld_eq (by simp; omega)
  have e2 : fld w1 13 5 = d := fld_eq (by simp; omega)
  have e3 : fld w1 18 4 = s := fld_eq (by simp; omega)
  have hw : w2 = 0#32 := BitVec.eq_of_toNat_eq h2
  have z0 : fld w1 0 13 = 0 := fld_eq (by simp; omega)
  have m0 := mbz_00001fff z0
  exact ⟨by simp [isLong, e0], by simp [candidate, decSync, e0, e1, e2, e3, hw, m0]⟩


theorem cand_qfence (qm : BitVec 4) : Cand2 (.qfence qm) := cand2_of _ _ rfl fun w1 w2 hw1 hw2 => by
  have h1 : w1.toNat = 3443523584 + qm.toNat * 16 := by
    rw [hw1]
    repeat erw [toNat_append_eq]
    simp
    try omega
  have h2 : w2.toNat = 0 := by
    rw [hw2]
    rfl
  have h_qm := qm.isLt
  have e0 : fld w1 26 6 = 0x33#6 := fld_eq (by simp; omega)
  have e1 : fld w1 22 4 = 5#4 := fld_eq (by simp; omega)
  have e2 : fld w1 4 4 = qm := fld_eq (by simp; omega)
  have hw : w2 = 0#32 := BitVec.eq_of_toNat_eq h2
  have z0 : fld w1 0 4 = 0 := fld_eq (by simp; omega)
  have z1 : fld w1 8 14 = 0 := fld_eq (by simp; omega)
  have m0 := mbz_003fff0f z0 z1
  exact ⟨by simp [isLong, e0], by simp [candidate, decSync, e0, e1, e2, hw, m0]⟩


theorem cand_tbarInit (a : Reg) (b : Reg) : Cand2 (.tbarInit a b) := cand2_of _ _ rfl fun w1 w2 hw1 hw2 => by
  have h1 : w1.toNat = 3447717888 + a.toNat * 8192 + b.toNat * 256 := by
    rw [hw1]
    repeat erw [toNat_append_eq]
    simp
    try omega
  have h2 : w2.toNat = 0 := by
    rw [hw2]
    rfl
  have h_a := a.isLt
  have h_b := b.isLt
  have e0 : fld w1 26 6 = 0x33#6 := fld_eq (by simp; omega)
  have e1 : fld w1 22 4 = 6#4 := fld_eq (by simp; omega)
  have e2 : fld w1 13 5 = a := fld_eq (by simp; omega)
  have e3 : fld w1 8 5 = b := fld_eq (by simp; omega)
  have hw : w2 = 0#32 := BitVec.eq_of_toNat_eq h2
  have z0 : fld w1 0 8 = 0 := fld_eq (by simp; omega)
  have z1 : fld w1 18 4 = 0 := fld_eq (by simp; omega)
  have m0 := mbz_003c00ff z0 z1
  exact ⟨by simp [isLong, e0], by simp [candidate, decSync, e0, e1, e2, e3, hw, m0]⟩


theorem cand_tbarExp (a : Reg) (b : Reg) : Cand2 (.tbarExp a b) := cand2_of _ _ rfl fun w1 w2 hw1 hw2 => by
  have h1 : w1.toNat = 3451912192 + a.toNat * 8192 + b.toNat * 256 := by
    rw [hw1]
    repeat erw [toNat_append_eq]
    simp
    try omega
  have h2 : w2.toNat = 0 := by
    rw [hw2]
    rfl
  have h_a := a.isLt
  have h_b := b.isLt
  have e0 : fld w1 26 6 = 0x33#6 := fld_eq (by simp; omega)
  have e1 : fld w1 22 4 = 7#4 := fld_eq (by simp; omega)
  have e2 : fld w1 13 5 = a := fld_eq (by simp; omega)
  have e3 : fld w1 8 5 = b := fld_eq (by simp; omega)
  have hw : w2 = 0#32 := BitVec.eq_of_toNat_eq h2
  have z0 : fld w1 0 8 = 0 := fld_eq (by simp; omega)
  have z1 : fld w1 18 4 = 0 := fld_eq (by simp; omega)
  have m0 := mbz_003c00ff z0 z1
  exact ⟨by simp [isLong, e0], by simp [candidate, decSync, e0, e1, e2, e3, hw, m0]⟩


theorem cand_tbarWait (a : Reg) (b : Reg) : Cand2 (.tbarWait a b) := cand2_of _ _ rfl fun w1 w2 hw1 hw2 => by
  have h1 : w1.toNat = 3456106496 + a.toNat * 8192 + b.toNat * 256 := by
    rw [hw1]
    repeat erw [toNat_append_eq]
    simp
    try omega
  have h2 : w2.toNat = 0 := by
    rw [hw2]
    rfl
  have h_a := a.isLt
  have h_b := b.isLt
  have e0 : fld w1 26 6 = 0x33#6 := fld_eq (by simp; omega)
  have e1 : fld w1 22 4 = 8#4 := fld_eq (by simp; omega)
  have e2 : fld w1 13 5 = a := fld_eq (by simp; omega)
  have e3 : fld w1 8 5 = b := fld_eq (by simp; omega)
  have hw : w2 = 0#32 := BitVec.eq_of_toNat_eq h2
  have z0 : fld w1 0 8 = 0 := fld_eq (by simp; omega)
  have z1 : fld w1 18 4 = 0 := fld_eq (by simp; omega)
  have m0 := mbz_003c00ff z0 z1
  exact ⟨by simp [isLong, e0], by simp [candidate, decSync, e0, e1, e2, e3, hw, m0]⟩


theorem cand_kvAlloc (d : Reg) (a : Reg) (b : Reg) : Cand2 (.kvAlloc d a b) := cand2_of _ _ rfl fun w1 w2 hw1 hw2 => by
  have h1 : w1.toNat = 3489660928 := by
    rw [hw1]
    repeat erw [toNat_append_eq]
    simp
    try omega
  have h2 : w2.toNat = d.toNat * 134217728 + a.toNat * 4194304 + b.toNat * 131072 := by
    rw [hw2]
    repeat erw [toNat_append_eq]
    simp
    try omega
  have h_d := d.isLt
  have h_a := a.isLt
  have h_b := b.isLt
  have e0 : fld w1 26 6 = 0x34#6 := fld_eq (by simp; omega)
  have e1 : fld w1 6 7 = 0#7 := fld_eq (by simp; omega)
  have e2 : fld w2 27 5 = d := fld_eq (by simp; omega)
  have e3 : fld w2 22 5 = a := fld_eq (by simp; omega)
  have e4 : fld w2 17 5 = b := fld_eq (by simp; omega)
  have z0 : fld w1 0 6 = 0 := fld_eq (by simp; omega)
  have z1 : fld w1 13 13 = 0 := fld_eq (by simp; omega)
  have z2 : fld w2 0 17 = 0 := fld_eq (by simp; omega)
  have m0 : ∀ i, mbz2 w1 67100735#32 w2 131071#32 i = .ok i :=
    fun i => if_pos ⟨mask_03ffe03f z0 z1, mask_0001ffff z2⟩
  exact ⟨by simp [isLong, e0], by simp [candidate, decKv, e0, e1, e2, e3, e4, m0]⟩


theorem cand_kvFree (a : Reg) : Cand2 (.kvFree a) := cand2_of _ _ rfl fun w1 w2 hw1 hw2 => by
  have h1 : w1.toNat = 3489660992 := by
    rw [hw1]
    repeat erw [toNat_append_eq]
    simp
    try omega
  have h2 : w2.toNat = a.toNat * 134217728 := by
    rw [hw2]
    repeat erw [toNat_append_eq]
    simp
    try omega
  have h_a := a.isLt
  have e0 : fld w1 26 6 = 0x34#6 := fld_eq (by simp; omega)
  have e1 : fld w1 6 7 = 1#7 := fld_eq (by simp; omega)
  have e2 : fld w2 27 5 = a := fld_eq (by simp; omega)
  have z0 : fld w1 0 6 = 0 := fld_eq (by simp; omega)
  have z1 : fld w1 13 13 = 0 := fld_eq (by simp; omega)
  have z2 : fld w2 0 27 = 0 := fld_eq (by simp; omega)
  have m0 : ∀ i, mbz2 w1 67100735#32 w2 134217727#32 i = .ok i :=
    fun i => if_pos ⟨mask_03ffe03f z0 z1, mask_07ffffff z2⟩
  exact ⟨by simp [isLong, e0], by simp [candidate, decKv, e0, e1, e2, m0]⟩


theorem cand_firnOpen (d : Reg) (a : Reg) : Cand2 (.firnOpen d a) := cand2_of _ _ rfl fun w1 w2 hw1 hw2 => by
  have h1 : w1.toNat = 3489661056 := by
    rw [hw1]
    repeat erw [toNat_append_eq]
    simp
    try omega
  have h2 : w2.toNat = d.toNat * 134217728 + a.toNat * 4194304 := by
    rw [hw2]
    repeat erw [toNat_append_eq]
    simp
    try omega
  have h_d := d.isLt
  have h_a := a.isLt
  have e0 : fld w1 26 6 = 0x34#6 := fld_eq (by simp; omega)
  have e1 : fld w1 6 7 = 2#7 := fld_eq (by simp; omega)
  have e2 : fld w2 27 5 = d := fld_eq (by simp; omega)
  have e3 : fld w2 22 5 = a := fld_eq (by simp; omega)
  have z0 : fld w1 0 6 = 0 := fld_eq (by simp; omega)
  have z1 : fld w1 13 13 = 0 := fld_eq (by simp; omega)
  have z2 : fld w2 0 22 = 0 := fld_eq (by simp; omega)
  have m0 : ∀ i, mbz2 w1 67100735#32 w2 4194303#32 i = .ok i :=
    fun i => if_pos ⟨mask_03ffe03f z0 z1, mask_003fffff z2⟩
  exact ⟨by simp [isLong, e0], by simp [candidate, decKv, e0, e1, e2, e3, m0]⟩


theorem cand_firnBind (a : Reg) : Cand2 (.firnBind a) := cand2_of _ _ rfl fun w1 w2 hw1 hw2 => by
  have h1 : w1.toNat = 3489661120 := by
    rw [hw1]
    repeat erw [toNat_append_eq]
    simp
    try omega
  have h2 : w2.toNat = a.toNat * 134217728 := by
    rw [hw2]
    repeat erw [toNat_append_eq]
    simp
    try omega
  have h_a := a.isLt
  have e0 : fld w1 26 6 = 0x34#6 := fld_eq (by simp; omega)
  have e1 : fld w1 6 7 = 3#7 := fld_eq (by simp; omega)
  have e2 : fld w2 27 5 = a := fld_eq (by simp; omega)
  have z0 : fld w1 0 6 = 0 := fld_eq (by simp; omega)
  have z1 : fld w1 13 13 = 0 := fld_eq (by simp; omega)
  have z2 : fld w2 0 27 = 0 := fld_eq (by simp; omega)
  have m0 : ∀ i, mbz2 w1 67100735#32 w2 134217727#32 i = .ok i :=
    fun i => if_pos ⟨mask_03ffe03f z0 z1, mask_07ffffff z2⟩
  have u : w2.getLsbD 0 = false := fld_ofBool (fld_eq (by simp; omega))
  have u' : w2[0] = false := by simpa using u
  exact ⟨by simp [isLong, e0], by simp [candidate, decKv, e0, e1, e2, m0, u']⟩


theorem cand_firnSeal (a : Reg) (b : Reg) : Cand2 (.firnSeal a b) := cand2_of _ _ rfl fun w1 w2 hw1 hw2 => by
  have h1 : w1.toNat = 3489661184 := by
    rw [hw1]
    repeat erw [toNat_append_eq]
    simp
    try omega
  have h2 : w2.toNat = a.toNat * 134217728 + b.toNat * 4194304 := by
    rw [hw2]
    repeat erw [toNat_append_eq]
    simp
    try omega
  have h_a := a.isLt
  have h_b := b.isLt
  have e0 : fld w1 26 6 = 0x34#6 := fld_eq (by simp; omega)
  have e1 : fld w1 6 7 = 4#7 := fld_eq (by simp; omega)
  have e2 : fld w2 27 5 = a := fld_eq (by simp; omega)
  have e3 : fld w2 22 5 = b := fld_eq (by simp; omega)
  have z0 : fld w1 0 6 = 0 := fld_eq (by simp; omega)
  have z1 : fld w1 13 13 = 0 := fld_eq (by simp; omega)
  have z2 : fld w2 0 22 = 0 := fld_eq (by simp; omega)
  have m0 : ∀ i, mbz2 w1 67100735#32 w2 4194303#32 i = .ok i :=
    fun i => if_pos ⟨mask_03ffe03f z0 z1, mask_003fffff z2⟩
  exact ⟨by simp [isLong, e0], by simp [candidate, decKv, e0, e1, e2, e3, m0]⟩


theorem cand_firnDrop (a : Reg) : Cand2 (.firnDrop a) := cand2_of _ _ rfl fun w1 w2 hw1 hw2 => by
  have h1 : w1.toNat = 3489661248 := by
    rw [hw1]
    repeat erw [toNat_append_eq]
    simp
    try omega
  have h2 : w2.toNat = a.toNat * 134217728 := by
    rw [hw2]
    repeat erw [toNat_append_eq]
    simp
    try omega
  have h_a := a.isLt
  have e0 : fld w1 26 6 = 0x34#6 := fld_eq (by simp; omega)
  have e1 : fld w1 6 7 = 5#7 := fld_eq (by simp; omega)
  have e2 : fld w2 27 5 = a := fld_eq (by simp; omega)
  have z0 : fld w1 0 6 = 0 := fld_eq (by simp; omega)
  have z1 : fld w1 13 13 = 0 := fld_eq (by simp; omega)
  have z2 : fld w2 0 27 = 0 := fld_eq (by simp; omega)
  have m0 : ∀ i, mbz2 w1 67100735#32 w2 134217727#32 i = .ok i :=
    fun i => if_pos ⟨mask_03ffe03f z0 z1, mask_07ffffff z2⟩
  exact ⟨by simp [isLong, e0], by simp [candidate, decKv, e0, e1, e2, m0]⟩


theorem cand_rsCkpt (a : Reg) (b : Reg) : Cand2 (.rsCkpt a b) := cand2_of _ _ rfl fun w1 w2 hw1 hw2 => by
  have h1 : w1.toNat = 3489661312 := by
    rw [hw1]
    repeat erw [toNat_append_eq]
    simp
    try omega
  have h2 : w2.toNat = a.toNat * 134217728 + b.toNat * 4194304 := by
    rw [hw2]
    repeat erw [toNat_append_eq]
    simp
    try omega
  have h_a := a.isLt
  have h_b := b.isLt
  have e0 : fld w1 26 6 = 0x34#6 := fld_eq (by simp; omega)
  have e1 : fld w1 6 7 = 6#7 := fld_eq (by simp; omega)
  have e2 : fld w2 27 5 = a := fld_eq (by simp; omega)
  have e3 : fld w2 22 5 = b := fld_eq (by simp; omega)
  have z0 : fld w1 0 6 = 0 := fld_eq (by simp; omega)
  have z1 : fld w1 13 13 = 0 := fld_eq (by simp; omega)
  have z2 : fld w2 0 22 = 0 := fld_eq (by simp; omega)
  have m0 : ∀ i, mbz2 w1 67100735#32 w2 4194303#32 i = .ok i :=
    fun i => if_pos ⟨mask_03ffe03f z0 z1, mask_003fffff z2⟩
  exact ⟨by simp [isLong, e0], by simp [candidate, decKv, e0, e1, e2, e3, m0]⟩


theorem cand_seqClaim (d : Reg) (a : Reg) (p : BitVec 4) : Cand2 (.seqClaim d a p) := cand2_of _ _ rfl fun w1 w2 hw1 hw2 => by
  have h1 : w1.toNat = 3489661376 := by
    rw [hw1]
    repeat erw [toNat_append_eq]
    simp
    try omega
  have h2 : w2.toNat = d.toNat * 134217728 + a.toNat * 4194304 + p.toNat := by
    rw [hw2]
    repeat erw [toNat_append_eq]
    simp
    try omega
  have h_d := d.isLt
  have h_a := a.isLt
  have h_p := p.isLt
  have e0 : fld w1 26 6 = 0x34#6 := fld_eq (by simp; omega)
  have e1 : fld w1 6 7 = 7#7 := fld_eq (by simp; omega)
  have e2 : fld w2 27 5 = d := fld_eq (by simp; omega)
  have e3 : fld w2 22 5 = a := fld_eq (by simp; omega)
  have e4 : fld w2 0 4 = p := fld_eq (by simp; omega)
  have z0 : fld w1 0 6 = 0 := fld_eq (by simp; omega)
  have z1 : fld w1 13 13 = 0 := fld_eq (by simp; omega)
  have z2 : fld w2 4 18 = 0 := fld_eq (by simp; omega)
  have m0 : ∀ i, mbz2 w1 67100735#32 w2 4194288#32 i = .ok i :=
    fun i => if_pos ⟨mask_03ffe03f z0 z1, mask_003ffff0 z2⟩
  exact ⟨by simp [isLong, e0], by simp [candidate, decKv, e0, e1, e2, e3, e4, m0]⟩


theorem cand_seqAdv (a : Reg) (p : BitVec 4) : Cand2 (.seqAdv a p) := cand2_of _ _ rfl fun w1 w2 hw1 hw2 => by
  have h1 : w1.toNat = 3489661440 := by
    rw [hw1]
    repeat erw [toNat_append_eq]
    simp
    try omega
  have h2 : w2.toNat = a.toNat * 134217728 + p.toNat := by
    rw [hw2]
    repeat erw [toNat_append_eq]
    simp
    try omega
  have h_a := a.isLt
  have h_p := p.isLt
  have e0 : fld w1 26 6 = 0x34#6 := fld_eq (by simp; omega)
  have e1 : fld w1 6 7 = 8#7 := fld_eq (by simp; omega)
  have e2 : fld w2 27 5 = a := fld_eq (by simp; omega)
  have e3 : fld w2 0 4 = p := fld_eq (by simp; omega)
  have z0 : fld w1 0 6 = 0 := fld_eq (by simp; omega)
  have z1 : fld w1 13 13 = 0 := fld_eq (by simp; omega)
  have z2 : fld w2 4 23 = 0 := fld_eq (by simp; omega)
  have m0 : ∀ i, mbz2 w1 67100735#32 w2 134217712#32 i = .ok i :=
    fun i => if_pos ⟨mask_03ffe03f z0 z1, mask_07fffff0 z2⟩
  exact ⟨by simp [isLong, e0], by simp [candidate, decKv, e0, e1, e2, e3, m0]⟩


theorem cand_seqRel (a : Reg) : Cand2 (.seqRel a) := cand2_of _ _ rfl fun w1 w2 hw1 hw2 => by
  have h1 : w1.toNat = 3489661504 := by
    rw [hw1]
    repeat erw [toNat_append_eq]
    simp
    try omega
  have h2 : w2.toNat = a.toNat * 134217728 := by
    rw [hw2]
    repeat erw [toNat_append_eq]
    simp
    try omega
  have h_a := a.isLt
  have e0 : fld w1 26 6 = 0x34#6 := fld_eq (by simp; omega)
  have e1 : fld w1 6 7 = 9#7 := fld_eq (by simp; omega)
  have e2 : fld w2 27 5 = a := fld_eq (by simp; omega)
  have z0 : fld w1 0 6 = 0 := fld_eq (by simp; omega)
  have z1 : fld w1 13 13 = 0 := fld_eq (by simp; omega)
  have z2 : fld w2 0 27 = 0 := fld_eq (by simp; omega)
  have m0 : ∀ i, mbz2 w1 67100735#32 w2 134217727#32 i = .ok i :=
    fun i => if_pos ⟨mask_03ffe03f z0 z1, mask_07ffffff z2⟩
  exact ⟨by simp [isLong, e0], by simp [candidate, decKv, e0, e1, e2, m0]⟩


theorem cand_launch (d : Reg) : Cand2 (.launch d) := cand2_of _ _ rfl fun w1 w2 hw1 hw2 => by
  have h1 : w1.toNat = 3556769792 := by
    rw [hw1]
    repeat erw [toNat_append_eq]
    simp
    try omega
  have h2 : w2.toNat = d.toNat * 134217728 := by
    rw [hw2]
    repeat erw [toNat_append_eq]
    simp
    try omega
  have h_d := d.isLt
  have e0 : fld w1 26 6 = 0x35#6 := fld_eq (by simp; omega)
  have e1 : fld w1 6 7 = 0#7 := fld_eq (by simp; omega)
  have e2 : fld w2 27 5 = d := fld_eq (by simp; omega)
  have z0 : fld w1 0 6 = 0 := fld_eq (by simp; omega)
  have z1 : fld w1 13 13 = 0 := fld_eq (by simp; omega)
  have z2 : fld w2 0 27 = 0 := fld_eq (by simp; omega)
  have m0 : ∀ i, mbz2 w1 67100735#32 w2 134217727#32 i = .ok i :=
    fun i => if_pos ⟨mask_03ffe03f z0 z1, mask_07ffffff z2⟩
  exact ⟨by simp [isLong, e0], by simp [candidate, decWk, e0, e1, e2, m0]⟩


theorem cand_walkNext (d : Reg) : Cand2 (.walkNext d) := cand2_of _ _ rfl fun w1 w2 hw1 hw2 => by
  have h1 : w1.toNat = 3556769856 := by
    rw [hw1]
    repeat erw [toNat_append_eq]
    simp
    try omega
  have h2 : w2.toNat = d.toNat * 134217728 := by
    rw [hw2]
    repeat erw [toNat_append_eq]
    simp
    try omega
  have h_d := d.isLt
  have e0 : fld w1 26 6 = 0x35#6 := fld_eq (by simp; omega)
  have e1 : fld w1 6 7 = 1#7 := fld_eq (by simp; omega)
  have e2 : fld w2 27 5 = d := fld_eq (by simp; omega)
  have z0 : fld w1 0 6 = 0 := fld_eq (by simp; omega)
  have z1 : fld w1 13 13 = 0 := fld_eq (by simp; omega)
  have z2 : fld w2 0 27 = 0 := fld_eq (by simp; omega)
  have m0 : ∀ i, mbz2 w1 67100735#32 w2 134217727#32 i = .ok i :=
    fun i => if_pos ⟨mask_03ffe03f z0 z1, mask_07ffffff z2⟩
  exact ⟨by simp [isLong, e0], by simp [candidate, decWk, e0, e1, e2, m0]⟩


theorem cand_nestSet (dim : BitVec 3) (nx : BitVec 2) (a : Reg) (b : Reg) (c : Reg) : Cand2 (.nestSet dim nx a b c) := cand2_of _ _ rfl fun w1 w2 hw1 hw2 => by
  have h1 : w1.toNat = 3623878656 + dim.toNat * 4 + nx.toNat := by
    rw [hw1]
    repeat erw [toNat_append_eq]
    simp
    try omega
  have h2 : w2.toNat = a.toNat * 4194304 + b.toNat * 131072 + c.toNat * 4096 := by
    rw [hw2]
    repeat erw [toNat_append_eq]
    simp
    try omega
  have h_dim := dim.isLt
  have h_nx := nx.isLt
  have h_a := a.isLt
  have h_b := b.isLt
  have h_c := c.isLt
  have e0 : fld w1 26 6 = 0x36#6 := fld_eq (by simp; omega)
  have e1 : fld w1 6 7 = 0#7 := fld_eq (by simp; omega)
  have e2 : fld w1 2 3 = dim := fld_eq (by simp; omega)
  have e3 : fld w1 0 2 = nx := fld_eq (by simp; omega)
  have e4 : fld w2 22 5 = a := fld_eq (by simp; omega)
  have e5 : fld w2 17 5 = b := fld_eq (by simp; omega)
  have e6 : fld w2 12 5 = c := fld_eq (by simp; omega)
  have z0 : fld w1 5 1 = 0 := fld_eq (by simp; omega)
  have z1 : fld w1 13 13 = 0 := fld_eq (by simp; omega)
  have z2 : fld w2 0 12 = 0 := fld_eq (by simp; omega)
  have z3 : fld w2 27 5 = 0 := fld_eq (by simp; omega)
  have m0 : ∀ i, mbz2 w1 67100704#32 w2 4160753663#32 i = .ok i :=
    fun i => if_pos ⟨mask_03ffe020 z0 z1, mask_f8000fff z2 z3⟩
  exact ⟨by simp [isLong, e0], by simp [candidate, decNest, e0, e1, e2, e3, e4, e5, e6, m0]⟩


theorem cand_erep (q : BitVec 2) (nx : BitVec 2) (n : BitVec 4) : Cand2 (.erep q nx n) := cand2_of _ _ rfl fun w1 w2 hw1 hw2 => by
  have h1 : w1.toNat = 3623878720 + q.toNat * 4 + nx.toNat := by
    rw [hw1]
    repeat erw [toNat_append_eq]
    simp
    try omega
  have h2 : w2.toNat = n.toNat := by
    rw [hw2]
    repeat erw [toNat_append_eq]
    simp
    try omega
  have h_q := q.isLt
  have h_nx := nx.isLt
  have h_n := n.isLt
  have e0 : fld w1 26 6 = 0x36#6 := fld_eq (by simp; omega)
  have e1 : fld w1 6 7 = 1#7 := fld_eq (by simp; omega)
  have e2 : fld w1 2 2 = q := fld_eq (by simp; omega)
  have e3 : fld w1 0 2 = nx := fld_eq (by simp; omega)
  have e4 : fld w2 0 4 = n := fld_eq (by simp; omega)
  have z0 : fld w1 4 2 = 0 := fld_eq (by simp; omega)
  have z1 : fld w1 13 13 = 0 := fld_eq (by simp; omega)
  have z2 : fld w2 4 28 = 0 := fld_eq (by simp; omega)
  have m0 : ∀ i, mbz2 w1 67100720#32 w2 4294967280#32 i = .ok i :=
    fun i => if_pos ⟨mask_03ffe030 z0 z1, mask_fffffff0 z2⟩
  exact ⟨by simp [isLong, e0], by simp [candidate, decNest, e0, e1, e2, e3, e4, m0]⟩


theorem cand_firnUnbind : Cand2 (.firnUnbind) := cand2_of _ _ rfl fun w1 w2 hw1 hw2 => by
  have h1 : w1.toNat = 3489661120 := by
    rw [hw1]
    repeat erw [toNat_append_eq]
    simp
    try omega
  have h2 : w2.toNat = 1 := by
    rw [hw2]
    repeat erw [toNat_append_eq]
    simp
    try omega
  have e0 : fld w1 26 6 = 0x34#6 := fld_eq (by simp; omega)
  have e1 : fld w1 6 7 = 3#7 := fld_eq (by simp; omega)
  have z0 : fld w1 0 6 = 0 := fld_eq (by simp; omega)
  have z1 : fld w1 13 13 = 0 := fld_eq (by simp; omega)
  have z2 : fld w2 1 31 = 0 := fld_eq (by simp; omega)
  have m0 : ∀ i, mbz2 w1 67100735#32 w2 4294967294#32 i = .ok i :=
    fun i => if_pos ⟨mask_03ffe03f z0 z1, mask_fffffffe z2⟩
  have u : w2.getLsbD 0 = true := fld_ofBool (fld_eq (by simp; omega))
  have u' : w2[0] = true := by simpa using u
  exact ⟨by simp [isLong, e0], by simp [candidate, decKv, e0, e1, m0, u']⟩

end Sys2Proof.Laws
end

