-- ==== Sys2Proof/Laws/EncodeShort.lean ====
section
/-! SUPPORT. The candidate of the word of each 32-bit instruction is the instruction (R46, R54). -/

namespace Sys2Proof.Laws

open Sys2Proof

set_option Elab.async false
set_option linter.all false

theorem cand_trapSw (a : Reg) : Cand1 (.trapSw a) := cand1_of _ rfl fun w h => by
  obtain ⟨h0, h1, h2, h3, h4⟩ := shape_6_5_5_5_11 h
  exact ⟨by simp [isLong, h0], by simp [candidate, decSys, h0, h2, h4, mbz_03e0f800 h3 h1]⟩

theorem cand_chkErr (d : Reg) : Cand1 (.chkErr d) := cand1_of _ rfl fun w h => by
  obtain ⟨h0, h1, h2, h3⟩ := shape_6_5_10_11 h
  exact ⟨by simp [isLong, h0], by simp [candidate, decSys, h0, h1, h3, mbz_001ff800 h2]⟩

theorem cand_rdcr (d : Reg) (n : BitVec 5) : Cand1 (.rdcr d n) := cand1_of _ rfl fun w h => by
  obtain ⟨h0, h1, h2, h3, h4⟩ := shape_6_5_5_5_11 h
  exact ⟨by simp [isLong, h0], by simp [candidate, decSys, h0, h1, h3, h4, mbz_001f0000 h2]⟩

theorem cand_wrcr (a : Reg) (n : BitVec 5) : Cand1 (.wrcr a n) := cand1_of _ rfl fun w h => by
  obtain ⟨h0, h1, h2, h3, h4⟩ := shape_6_5_5_5_11 h
  exact ⟨by simp [isLong, h0], by simp [candidate, decSys, h0, h2, h3, h4, mbz_03e00000 h1]⟩

theorem cand_rdcnt (d : Reg) (n : BitVec 5) : Cand1 (.rdcnt d n) := cand1_of _ rfl fun w h => by
  obtain ⟨h0, h1, h2, h3, h4⟩ := shape_6_5_5_5_11 h
  exact ⟨by simp [isLong, h0], by simp [candidate, decSys, h0, h1, h3, h4, mbz_001f0000 h2]⟩

theorem cand_grpid (d : Reg) : Cand1 (.grpid d) := cand1_of _ rfl fun w h => by
  obtain ⟨h0, h1, h2, h3⟩ := shape_6_5_10_11 h
  exact ⟨by simp [isLong, h0], by simp [candidate, decSys, h0, h1, h3, mbz_001ff800 h2]⟩

theorem cand_coresid (d : Reg) : Cand1 (.coresid d) := cand1_of _ rfl fun w h => by
  obtain ⟨h0, h1, h2, h3⟩ := shape_6_5_10_11 h
  exact ⟨by simp [isLong, h0], by simp [candidate, decSys, h0, h1, h3, mbz_001ff800 h2]⟩

theorem cand_add (d : Reg) (a : Reg) (b : Reg) : Cand1 (.add d a b) := cand1_of _ rfl fun w h => by
  obtain ⟨h0, h1, h2, h3, h4⟩ := shape_6_5_5_5_11 h
  exact ⟨by simp [isLong, h0], by simp [candidate, decAlu, h0, h1, h2, h3, h4]⟩

theorem cand_sub (d : Reg) (a : Reg) (b : Reg) : Cand1 (.sub d a b) := cand1_of _ rfl fun w h => by
  obtain ⟨h0, h1, h2, h3, h4⟩ := shape_6_5_5_5_11 h
  exact ⟨by simp [isLong, h0], by simp [candidate, decAlu, h0, h1, h2, h3, h4]⟩

theorem cand_mul (d : Reg) (a : Reg) (b : Reg) : Cand1 (.mul d a b) := cand1_of _ rfl fun w h => by
  obtain ⟨h0, h1, h2, h3, h4⟩ := shape_6_5_5_5_11 h
  exact ⟨by simp [isLong, h0], by simp [candidate, decAlu, h0, h1, h2, h3, h4]⟩

theorem cand_mulh (d : Reg) (a : Reg) (b : Reg) : Cand1 (.mulh d a b) := cand1_of _ rfl fun w h => by
  obtain ⟨h0, h1, h2, h3, h4⟩ := shape_6_5_5_5_11 h
  exact ⟨by simp [isLong, h0], by simp [candidate, decAlu, h0, h1, h2, h3, h4]⟩

theorem cand_mulhn (d : Reg) (a : Reg) (b : Reg) : Cand1 (.mulhn d a b) := cand1_of _ rfl fun w h => by
  obtain ⟨h0, h1, h2, h3, h4⟩ := shape_6_5_5_5_11 h
  exact ⟨by simp [isLong, h0], by simp [candidate, decAlu, h0, h1, h2, h3, h4]⟩

theorem cand_div (d : Reg) (a : Reg) (b : Reg) : Cand1 (.div d a b) := cand1_of _ rfl fun w h => by
  obtain ⟨h0, h1, h2, h3, h4⟩ := shape_6_5_5_5_11 h
  exact ⟨by simp [isLong, h0], by simp [candidate, decAlu, h0, h1, h2, h3, h4]⟩

theorem cand_divn (d : Reg) (a : Reg) (b : Reg) : Cand1 (.divn d a b) := cand1_of _ rfl fun w h => by
  obtain ⟨h0, h1, h2, h3, h4⟩ := shape_6_5_5_5_11 h
  exact ⟨by simp [isLong, h0], by simp [candidate, decAlu, h0, h1, h2, h3, h4]⟩

theorem cand_rem (d : Reg) (a : Reg) (b : Reg) : Cand1 (.rem d a b) := cand1_of _ rfl fun w h => by
  obtain ⟨h0, h1, h2, h3, h4⟩ := shape_6_5_5_5_11 h
  exact ⟨by simp [isLong, h0], by simp [candidate, decAlu, h0, h1, h2, h3, h4]⟩

theorem cand_remn (d : Reg) (a : Reg) (b : Reg) : Cand1 (.remn d a b) := cand1_of _ rfl fun w h => by
  obtain ⟨h0, h1, h2, h3, h4⟩ := shape_6_5_5_5_11 h
  exact ⟨by simp [isLong, h0], by simp [candidate, decAlu, h0, h1, h2, h3, h4]⟩

theorem cand_and (d : Reg) (a : Reg) (b : Reg) : Cand1 (.and d a b) := cand1_of _ rfl fun w h => by
  obtain ⟨h0, h1, h2, h3, h4⟩ := shape_6_5_5_5_11 h
  exact ⟨by simp [isLong, h0], by simp [candidate, decAlu, h0, h1, h2, h3, h4]⟩

theorem cand_or (d : Reg) (a : Reg) (b : Reg) : Cand1 (.or d a b) := cand1_of _ rfl fun w h => by
  obtain ⟨h0, h1, h2, h3, h4⟩ := shape_6_5_5_5_11 h
  exact ⟨by simp [isLong, h0], by simp [candidate, decAlu, h0, h1, h2, h3, h4]⟩

theorem cand_xor (d : Reg) (a : Reg) (b : Reg) : Cand1 (.xor d a b) := cand1_of _ rfl fun w h => by
  obtain ⟨h0, h1, h2, h3, h4⟩ := shape_6_5_5_5_11 h
  exact ⟨by simp [isLong, h0], by simp [candidate, decAlu, h0, h1, h2, h3, h4]⟩

theorem cand_andn (d : Reg) (a : Reg) (b : Reg) : Cand1 (.andn d a b) := cand1_of _ rfl fun w h => by
  obtain ⟨h0, h1, h2, h3, h4⟩ := shape_6_5_5_5_11 h
  exact ⟨by simp [isLong, h0], by simp [candidate, decAlu, h0, h1, h2, h3, h4]⟩

theorem cand_orn (d : Reg) (a : Reg) (b : Reg) : Cand1 (.orn d a b) := cand1_of _ rfl fun w h => by
  obtain ⟨h0, h1, h2, h3, h4⟩ := shape_6_5_5_5_11 h
  exact ⟨by simp [isLong, h0], by simp [candidate, decAlu, h0, h1, h2, h3, h4]⟩

theorem cand_sll (d : Reg) (a : Reg) (b : Reg) : Cand1 (.sll d a b) := cand1_of _ rfl fun w h => by
  obtain ⟨h0, h1, h2, h3, h4⟩ := shape_6_5_5_5_11 h
  exact ⟨by simp [isLong, h0], by simp [candidate, decAlu, h0, h1, h2, h3, h4]⟩

theorem cand_srl (d : Reg) (a : Reg) (b : Reg) : Cand1 (.srl d a b) := cand1_of _ rfl fun w h => by
  obtain ⟨h0, h1, h2, h3, h4⟩ := shape_6_5_5_5_11 h
  exact ⟨by simp [isLong, h0], by simp [candidate, decAlu, h0, h1, h2, h3, h4]⟩

theorem cand_sra (d : Reg) (a : Reg) (b : Reg) : Cand1 (.sra d a b) := cand1_of _ rfl fun w h => by
  obtain ⟨h0, h1, h2, h3, h4⟩ := shape_6_5_5_5_11 h
  exact ⟨by simp [isLong, h0], by simp [candidate, decAlu, h0, h1, h2, h3, h4]⟩

theorem cand_slt (d : Reg) (a : Reg) (b : Reg) : Cand1 (.slt d a b) := cand1_of _ rfl fun w h => by
  obtain ⟨h0, h1, h2, h3, h4⟩ := shape_6_5_5_5_11 h
  exact ⟨by simp [isLong, h0], by simp [candidate, decAlu, h0, h1, h2, h3, h4]⟩

theorem cand_sltn (d : Reg) (a : Reg) (b : Reg) : Cand1 (.sltn d a b) := cand1_of _ rfl fun w h => by
  obtain ⟨h0, h1, h2, h3, h4⟩ := shape_6_5_5_5_11 h
  exact ⟨by simp [isLong, h0], by simp [candidate, decAlu, h0, h1, h2, h3, h4]⟩

theorem cand_min (d : Reg) (a : Reg) (b : Reg) : Cand1 (.min d a b) := cand1_of _ rfl fun w h => by
  obtain ⟨h0, h1, h2, h3, h4⟩ := shape_6_5_5_5_11 h
  exact ⟨by simp [isLong, h0], by simp [candidate, decAlu, h0, h1, h2, h3, h4]⟩

theorem cand_max (d : Reg) (a : Reg) (b : Reg) : Cand1 (.max d a b) := cand1_of _ rfl fun w h => by
  obtain ⟨h0, h1, h2, h3, h4⟩ := shape_6_5_5_5_11 h
  exact ⟨by simp [isLong, h0], by simp [candidate, decAlu, h0, h1, h2, h3, h4]⟩

theorem cand_minn (d : Reg) (a : Reg) (b : Reg) : Cand1 (.minn d a b) := cand1_of _ rfl fun w h => by
  obtain ⟨h0, h1, h2, h3, h4⟩ := shape_6_5_5_5_11 h
  exact ⟨by simp [isLong, h0], by simp [candidate, decAlu, h0, h1, h2, h3, h4]⟩

theorem cand_maxn (d : Reg) (a : Reg) (b : Reg) : Cand1 (.maxn d a b) := cand1_of _ rfl fun w h => by
  obtain ⟨h0, h1, h2, h3, h4⟩ := shape_6_5_5_5_11 h
  exact ⟨by simp [isLong, h0], by simp [candidate, decAlu, h0, h1, h2, h3, h4]⟩

theorem cand_sel (d : Reg) (a : Reg) (b : Reg) : Cand1 (.sel d a b) := cand1_of _ rfl fun w h => by
  obtain ⟨h0, h1, h2, h3, h4⟩ := shape_6_5_5_5_11 h
  exact ⟨by simp [isLong, h0], by simp [candidate, decAlu, h0, h1, h2, h3, h4]⟩

theorem cand_addi (d : Reg) (a : Reg) (i : BitVec 12) : Cand1 (.addi d a i) := cand1_of _ rfl fun w h => by
  obtain ⟨h0, h1, h2, h3, h4⟩ := shape_6_5_5_4_12 h
  exact ⟨by simp [isLong, h0], by simp [candidate, decAluk, h0, h1, h2, h3, h4]⟩

theorem cand_andi (d : Reg) (a : Reg) (i : BitVec 12) : Cand1 (.andi d a i) := cand1_of _ rfl fun w h => by
  obtain ⟨h0, h1, h2, h3, h4⟩ := shape_6_5_5_4_12 h
  exact ⟨by simp [isLong, h0], by simp [candidate, decAluk, h0, h1, h2, h3, h4]⟩

theorem cand_ori (d : Reg) (a : Reg) (i : BitVec 12) : Cand1 (.ori d a i) := cand1_of _ rfl fun w h => by
  obtain ⟨h0, h1, h2, h3, h4⟩ := shape_6_5_5_4_12 h
  exact ⟨by simp [isLong, h0], by simp [candidate, decAluk, h0, h1, h2, h3, h4]⟩

theorem cand_xori (d : Reg) (a : Reg) (i : BitVec 12) : Cand1 (.xori d a i) := cand1_of _ rfl fun w h => by
  obtain ⟨h0, h1, h2, h3, h4⟩ := shape_6_5_5_4_12 h
  exact ⟨by simp [isLong, h0], by simp [candidate, decAluk, h0, h1, h2, h3, h4]⟩

theorem cand_slti (d : Reg) (a : Reg) (i : BitVec 12) : Cand1 (.slti d a i) := cand1_of _ rfl fun w h => by
  obtain ⟨h0, h1, h2, h3, h4⟩ := shape_6_5_5_4_12 h
  exact ⟨by simp [isLong, h0], by simp [candidate, decAluk, h0, h1, h2, h3, h4]⟩

theorem cand_sltni (d : Reg) (a : Reg) (i : BitVec 12) : Cand1 (.sltni d a i) := cand1_of _ rfl fun w h => by
  obtain ⟨h0, h1, h2, h3, h4⟩ := shape_6_5_5_4_12 h
  exact ⟨by simp [isLong, h0], by simp [candidate, decAluk, h0, h1, h2, h3, h4]⟩

theorem cand_slli (d : Reg) (a : Reg) (i : BitVec 6) : Cand1 (.slli d a i) := cand1_of _ rfl fun w h => by
  obtain ⟨h0, h1, h2, h3, h4, h5⟩ := shape_6_5_5_4_6_6 h
  exact ⟨by simp [isLong, h0], by simp [candidate, decAluk, h0, h1, h2, h3, h5, mbz_00000fc0 h4]⟩

theorem cand_srli (d : Reg) (a : Reg) (i : BitVec 6) : Cand1 (.srli d a i) := cand1_of _ rfl fun w h => by
  obtain ⟨h0, h1, h2, h3, h4, h5⟩ := shape_6_5_5_4_6_6 h
  exact ⟨by simp [isLong, h0], by simp [candidate, decAluk, h0, h1, h2, h3, h5, mbz_00000fc0 h4]⟩

theorem cand_srai (d : Reg) (a : Reg) (i : BitVec 6) : Cand1 (.srai d a i) := cand1_of _ rfl fun w h => by
  obtain ⟨h0, h1, h2, h3, h4, h5⟩ := shape_6_5_5_4_6_6 h
  exact ⟨by simp [isLong, h0], by simp [candidate, decAluk, h0, h1, h2, h3, h5, mbz_00000fc0 h4]⟩

theorem cand_mini (d : Reg) (a : Reg) (i : BitVec 12) : Cand1 (.mini d a i) := cand1_of _ rfl fun w h => by
  obtain ⟨h0, h1, h2, h3, h4⟩ := shape_6_5_5_4_12 h
  exact ⟨by simp [isLong, h0], by simp [candidate, decAluk, h0, h1, h2, h3, h4]⟩

theorem cand_maxi (d : Reg) (a : Reg) (i : BitVec 12) : Cand1 (.maxi d a i) := cand1_of _ rfl fun w h => by
  obtain ⟨h0, h1, h2, h3, h4⟩ := shape_6_5_5_4_12 h
  exact ⟨by simp [isLong, h0], by simp [candidate, decAluk, h0, h1, h2, h3, h4]⟩

theorem cand_li16 (d : Reg) (i : BitVec 16) : Cand1 (.li16 d i) := cand1_of _ rfl fun w h => by
  obtain ⟨h0, h1, h2, h3⟩ := shape_6_5_5_16 h
  exact ⟨by simp [isLong, h0], by simp [candidate, decLi16, h0, h1, h3, mbz_001f0000 h2]⟩

theorem cand_ins16 (d : Reg) (h : BitVec 2) (i : BitVec 16) : Cand1 (.ins16 d h i) := cand1_of _ rfl fun w h => by
  obtain ⟨h0, h1, h2, h3, h4⟩ := shape_6_5_2_3_16 h
  exact ⟨by simp [isLong, h0], by simp [candidate, decIns16, h0, h1, h2, h4, mbz_00070000 h3]⟩

theorem cand_bext (d : Reg) (a : Reg) (o : BitVec 6) (w : BitVec 7) : Cand1 (.bext d a o w) := cand1_of _ rfl fun w h => by
  obtain ⟨h0, h1, h2, h3, h4, h5⟩ := shape_6_5_5_6_7_3 h
  exact ⟨by simp [isLong, h0], by simp [candidate, decBit, h0, h1, h2, h3, h4, h5]⟩

theorem cand_bexts (d : Reg) (a : Reg) (o : BitVec 6) (w : BitVec 7) : Cand1 (.bexts d a o w) := cand1_of _ rfl fun w h => by
  obtain ⟨h0, h1, h2, h3, h4, h5⟩ := shape_6_5_5_6_7_3 h
  exact ⟨by simp [isLong, h0], by simp [candidate, decBit, h0, h1, h2, h3, h4, h5]⟩

theorem cand_bins (d : Reg) (a : Reg) (o : BitVec 6) (w : BitVec 7) : Cand1 (.bins d a o w) := cand1_of _ rfl fun w h => by
  obtain ⟨h0, h1, h2, h3, h4, h5⟩ := shape_6_5_5_6_7_3 h
  exact ⟨by simp [isLong, h0], by simp [candidate, decBit, h0, h1, h2, h3, h4, h5]⟩

theorem cand_bextv (d : Reg) (a : Reg) (b : Reg) : Cand1 (.bextv d a b) := cand1_of _ rfl fun w h => by
  obtain ⟨h0, h1, h2, h3, h4, h5⟩ := shape_6_5_5_5_6_5 h
  exact ⟨by simp [isLong, h0], by simp [candidate, decBitr, h0, h1, h2, h3, h5, mbz_000007e0 h4]⟩

theorem cand_bextsv (d : Reg) (a : Reg) (b : Reg) : Cand1 (.bextsv d a b) := cand1_of _ rfl fun w h => by
  obtain ⟨h0, h1, h2, h3, h4, h5⟩ := shape_6_5_5_5_6_5 h
  exact ⟨by simp [isLong, h0], by simp [candidate, decBitr, h0, h1, h2, h3, h5, mbz_000007e0 h4]⟩

theorem cand_binsv (d : Reg) (a : Reg) (b : Reg) : Cand1 (.binsv d a b) := cand1_of _ rfl fun w h => by
  obtain ⟨h0, h1, h2, h3, h4, h5⟩ := shape_6_5_5_5_6_5 h
  exact ⟨by simp [isLong, h0], by simp [candidate, decBitr, h0, h1, h2, h3, h5, mbz_000007e0 h4]⟩

theorem cand_fsh (d : Reg) (a : Reg) (b : Reg) (s : BitVec 6) : Cand1 (.fsh d a b s) := cand1_of _ rfl fun w h => by
  obtain ⟨h0, h1, h2, h3, h4, h5⟩ := shape_6_5_5_5_6_5 h
  exact ⟨by simp [isLong, h0], by simp [candidate, decBitr, h0, h1, h2, h3, h4, h5]⟩

theorem cand_bnet (d : Reg) (a : Reg) (b : Reg) (p : BitVec 3) : Cand1 (.bnet d a b p) := cand1_of _ rfl fun w h => by
  obtain ⟨h0, h1, h2, h3, h4, h5, h6⟩ := shape_6_5_5_5_3_3_5 h
  exact ⟨by simp [isLong, h0], by simp [candidate, decBitr, h0, h1, h2, h3, h4, h6, mbz_000000e0 h5]⟩

theorem cand_bnld (a : Reg) (b : Reg) (p : BitVec 3) (s : BitVec 3) : Cand1 (.bnld a b p s) := cand1_of _ rfl fun w h => by
  obtain ⟨h0, h1, h2, h3, h4, h5, h6⟩ := shape_6_5_5_5_3_3_5 h
  exact ⟨by simp [isLong, h0], by simp [candidate, decBitr, h0, h2, h3, h4, h5, h6, mbz_03e00000 h1]⟩

theorem cand_clz (d : Reg) (a : Reg) : Cand1 (.clz d a) := cand1_of _ rfl fun w h => by
  obtain ⟨h0, h1, h2, h3, h4⟩ := shape_6_5_5_11_5 h
  exact ⟨by simp [isLong, h0], by simp [candidate, decBitr, h0, h1, h2, h4, mbz_0000ffe0 h3]⟩

theorem cand_ctz (d : Reg) (a : Reg) : Cand1 (.ctz d a) := cand1_of _ rfl fun w h => by
  obtain ⟨h0, h1, h2, h3, h4⟩ := shape_6_5_5_11_5 h
  exact ⟨by simp [isLong, h0], by simp [candidate, decBitr, h0, h1, h2, h4, mbz_0000ffe0 h3]⟩

theorem cand_popc (d : Reg) (a : Reg) : Cand1 (.popc d a) := cand1_of _ rfl fun w h => by
  obtain ⟨h0, h1, h2, h3, h4⟩ := shape_6_5_5_11_5 h
  exact ⟨by simp [isLong, h0], by simp [candidate, decBitr, h0, h1, h2, h4, mbz_0000ffe0 h3]⟩

theorem cand_brev (d : Reg) (a : Reg) : Cand1 (.brev d a) := cand1_of _ rfl fun w h => by
  obtain ⟨h0, h1, h2, h3, h4⟩ := shape_6_5_5_11_5 h
  exact ⟨by simp [isLong, h0], by simp [candidate, decBitr, h0, h1, h2, h4, mbz_0000ffe0 h3]⟩

theorem cand_bswap (d : Reg) (a : Reg) : Cand1 (.bswap d a) := cand1_of _ rfl fun w h => by
  obtain ⟨h0, h1, h2, h3, h4⟩ := shape_6_5_5_11_5 h
  exact ⟨by simp [isLong, h0], by simp [candidate, decBitr, h0, h1, h2, h4, mbz_0000ffe0 h3]⟩

theorem cand_lea (d : Reg) (a : Reg) (b : Reg) (s : BitVec 2) : Cand1 (.lea d a b s) := cand1_of _ rfl fun w h => by
  obtain ⟨h0, h1, h2, h3, h4, h5, h6⟩ := shape_6_5_5_5_4_2_5 h
  exact ⟨by simp [isLong, h0], by simp [candidate, decBitr, h0, h1, h2, h3, h5, h6, mbz_00000780 h4]⟩

theorem cand_ldB (d : Reg) (a : Reg) (i : BitVec 13) : Cand1 (.ldB d a i) := cand1_of _ rfl fun w h => by
  obtain ⟨h0, h1, h2, h3, h4⟩ := shape_6_5_5_3_13 h
  exact ⟨by simp [isLong, h0], by simp [candidate, decLd, h0, h1, h2, h3, h4]⟩

theorem cand_ldBz (d : Reg) (a : Reg) (i : BitVec 13) : Cand1 (.ldBz d a i) := cand1_of _ rfl fun w h => by
  obtain ⟨h0, h1, h2, h3, h4⟩ := shape_6_5_5_3_13 h
  exact ⟨by simp [isLong, h0], by simp [candidate, decLd, h0, h1, h2, h3, h4]⟩

theorem cand_ldH (d : Reg) (a : Reg) (i : BitVec 13) : Cand1 (.ldH d a i) := cand1_of _ rfl fun w h => by
  obtain ⟨h0, h1, h2, h3, h4⟩ := shape_6_5_5_3_13 h
  exact ⟨by simp [isLong, h0], by simp [candidate, decLd, h0, h1, h2, h3, h4]⟩

theorem cand_ldHz (d : Reg) (a : Reg) (i : BitVec 13) : Cand1 (.ldHz d a i) := cand1_of _ rfl fun w h => by
  obtain ⟨h0, h1, h2, h3, h4⟩ := shape_6_5_5_3_13 h
  exact ⟨by simp [isLong, h0], by simp [candidate, decLd, h0, h1, h2, h3, h4]⟩

theorem cand_ldW (d : Reg) (a : Reg) (i : BitVec 13) : Cand1 (.ldW d a i) := cand1_of _ rfl fun w h => by
  obtain ⟨h0, h1, h2, h3, h4⟩ := shape_6_5_5_3_13 h
  exact ⟨by simp [isLong, h0], by simp [candidate, decLd, h0, h1, h2, h3, h4]⟩

theorem cand_ldWz (d : Reg) (a : Reg) (i : BitVec 13) : Cand1 (.ldWz d a i) := cand1_of _ rfl fun w h => by
  obtain ⟨h0, h1, h2, h3, h4⟩ := shape_6_5_5_3_13 h
  exact ⟨by simp [isLong, h0], by simp [candidate, decLd, h0, h1, h2, h3, h4]⟩

theorem cand_ldD (d : Reg) (a : Reg) (i : BitVec 13) : Cand1 (.ldD d a i) := cand1_of _ rfl fun w h => by
  obtain ⟨h0, h1, h2, h3, h4⟩ := shape_6_5_5_3_13 h
  exact ⟨by simp [isLong, h0], by simp [candidate, decLd, h0, h1, h2, h3, h4]⟩

theorem cand_stB (s : Reg) (a : Reg) (i : BitVec 13) : Cand1 (.stB s a i) := cand1_of _ rfl fun w h => by
  obtain ⟨h0, h1, h2, h3, h4⟩ := shape_6_5_5_3_13 h
  exact ⟨by simp [isLong, h0], by simp [candidate, decSt, h0, h1, h2, h3, h4]⟩

theorem cand_stH (s : Reg) (a : Reg) (i : BitVec 13) : Cand1 (.stH s a i) := cand1_of _ rfl fun w h => by
  obtain ⟨h0, h1, h2, h3, h4⟩ := shape_6_5_5_3_13 h
  exact ⟨by simp [isLong, h0], by simp [candidate, decSt, h0, h1, h2, h3, h4]⟩

theorem cand_stW (s : Reg) (a : Reg) (i : BitVec 13) : Cand1 (.stW s a i) := cand1_of _ rfl fun w h => by
  obtain ⟨h0, h1, h2, h3, h4⟩ := shape_6_5_5_3_13 h
  exact ⟨by simp [isLong, h0], by simp [candidate, decSt, h0, h1, h2, h3, h4]⟩

theorem cand_stD (s : Reg) (a : Reg) (i : BitVec 13) : Cand1 (.stD s a i) := cand1_of _ rfl fun w h => by
  obtain ⟨h0, h1, h2, h3, h4⟩ := shape_6_5_5_3_13 h
  exact ⟨by simp [isLong, h0], by simp [candidate, decSt, h0, h1, h2, h3, h4]⟩

theorem cand_ldAcq (d : Reg) (a : Reg) (z : BitVec 2) (c : BitVec 2) (i : BitVec 12) : Cand1 (.ldAcq d a z c i) := cand1_of _ rfl fun w h => by
  obtain ⟨h0, h1, h2, h3, h4, h5⟩ := shape_6_5_5_2_2_12 h
  exact ⟨by simp [isLong, h0], by simp [candidate, decLdAcq, h0, h1, h2, h3, h4, h5]⟩

theorem cand_stRel (s : Reg) (a : Reg) (z : BitVec 2) (c : BitVec 2) (i : BitVec 12) : Cand1 (.stRel s a z c i) := cand1_of _ rfl fun w h => by
  obtain ⟨h0, h1, h2, h3, h4, h5⟩ := shape_6_5_5_2_2_12 h
  exact ⟨by simp [isLong, h0], by simp [candidate, decStRel, h0, h1, h2, h3, h4, h5]⟩

theorem cand_ldsB (d : Reg) (a : Reg) (i : BitVec 13) : Cand1 (.ldsB d a i) := cand1_of _ rfl fun w h => by
  obtain ⟨h0, h1, h2, h3, h4⟩ := shape_6_5_5_3_13 h
  exact ⟨by simp [isLong, h0], by simp [candidate, decLds, h0, h1, h2, h3, h4]⟩

theorem cand_ldsBz (d : Reg) (a : Reg) (i : BitVec 13) : Cand1 (.ldsBz d a i) := cand1_of _ rfl fun w h => by
  obtain ⟨h0, h1, h2, h3, h4⟩ := shape_6_5_5_3_13 h
  exact ⟨by simp [isLong, h0], by simp [candidate, decLds, h0, h1, h2, h3, h4]⟩

theorem cand_ldsH (d : Reg) (a : Reg) (i : BitVec 13) : Cand1 (.ldsH d a i) := cand1_of _ rfl fun w h => by
  obtain ⟨h0, h1, h2, h3, h4⟩ := shape_6_5_5_3_13 h
  exact ⟨by simp [isLong, h0], by simp [candidate, decLds, h0, h1, h2, h3, h4]⟩

theorem cand_ldsHz (d : Reg) (a : Reg) (i : BitVec 13) : Cand1 (.ldsHz d a i) := cand1_of _ rfl fun w h => by
  obtain ⟨h0, h1, h2, h3, h4⟩ := shape_6_5_5_3_13 h
  exact ⟨by simp [isLong, h0], by simp [candidate, decLds, h0, h1, h2, h3, h4]⟩

theorem cand_ldsW (d : Reg) (a : Reg) (i : BitVec 13) : Cand1 (.ldsW d a i) := cand1_of _ rfl fun w h => by
  obtain ⟨h0, h1, h2, h3, h4⟩ := shape_6_5_5_3_13 h
  exact ⟨by simp [isLong, h0], by simp [candidate, decLds, h0, h1, h2, h3, h4]⟩

theorem cand_ldsWz (d : Reg) (a : Reg) (i : BitVec 13) : Cand1 (.ldsWz d a i) := cand1_of _ rfl fun w h => by
  obtain ⟨h0, h1, h2, h3, h4⟩ := shape_6_5_5_3_13 h
  exact ⟨by simp [isLong, h0], by simp [candidate, decLds, h0, h1, h2, h3, h4]⟩

theorem cand_ldsD (d : Reg) (a : Reg) (i : BitVec 13) : Cand1 (.ldsD d a i) := cand1_of _ rfl fun w h => by
  obtain ⟨h0, h1, h2, h3, h4⟩ := shape_6_5_5_3_13 h
  exact ⟨by simp [isLong, h0], by simp [candidate, decLds, h0, h1, h2, h3, h4]⟩

theorem cand_stsB (s : Reg) (a : Reg) (i : BitVec 13) : Cand1 (.stsB s a i) := cand1_of _ rfl fun w h => by
  obtain ⟨h0, h1, h2, h3, h4⟩ := shape_6_5_5_3_13 h
  exact ⟨by simp [isLong, h0], by simp [candidate, decSts, h0, h1, h2, h3, h4]⟩

theorem cand_stsH (s : Reg) (a : Reg) (i : BitVec 13) : Cand1 (.stsH s a i) := cand1_of _ rfl fun w h => by
  obtain ⟨h0, h1, h2, h3, h4⟩ := shape_6_5_5_3_13 h
  exact ⟨by simp [isLong, h0], by simp [candidate, decSts, h0, h1, h2, h3, h4]⟩

theorem cand_stsW (s : Reg) (a : Reg) (i : BitVec 13) : Cand1 (.stsW s a i) := cand1_of _ rfl fun w h => by
  obtain ⟨h0, h1, h2, h3, h4⟩ := shape_6_5_5_3_13 h
  exact ⟨by simp [isLong, h0], by simp [candidate, decSts, h0, h1, h2, h3, h4]⟩

theorem cand_stsD (s : Reg) (a : Reg) (i : BitVec 13) : Cand1 (.stsD s a i) := cand1_of _ rfl fun w h => by
  obtain ⟨h0, h1, h2, h3, h4⟩ := shape_6_5_5_3_13 h
  exact ⟨by simp [isLong, h0], by simp [candidate, decSts, h0, h1, h2, h3, h4]⟩

theorem cand_amoAdd (d : Reg) (a : Reg) (b : Reg) (z : BitVec 2) (r : BitVec 2) (c : BitVec 2) : Cand1 (.amoAdd d a b z r c) := cand1_of _ rfl fun w h => by
  obtain ⟨h0, h1, h2, h3, h4, h5, h6, h7, h8⟩ := shape_6_5_5_5_4_2_2_2_1 h
  exact ⟨by simp [isLong, h0], by simp [candidate, decAmo, h0, h1, h2, h3, h4, h5, h6, h7, mbz_00000001 h8]⟩

theorem cand_amoAnd (d : Reg) (a : Reg) (b : Reg) (z : BitVec 2) (r : BitVec 2) (c : BitVec 2) : Cand1 (.amoAnd d a b z r c) := cand1_of _ rfl fun w h => by
  obtain ⟨h0, h1, h2, h3, h4, h5, h6, h7, h8⟩ := shape_6_5_5_5_4_2_2_2_1 h
  exact ⟨by simp [isLong, h0], by simp [candidate, decAmo, h0, h1, h2, h3, h4, h5, h6, h7, mbz_00000001 h8]⟩

theorem cand_amoOr (d : Reg) (a : Reg) (b : Reg) (z : BitVec 2) (r : BitVec 2) (c : BitVec 2) : Cand1 (.amoOr d a b z r c) := cand1_of _ rfl fun w h => by
  obtain ⟨h0, h1, h2, h3, h4, h5, h6, h7, h8⟩ := shape_6_5_5_5_4_2_2_2_1 h
  exact ⟨by simp [isLong, h0], by simp [candidate, decAmo, h0, h1, h2, h3, h4, h5, h6, h7, mbz_00000001 h8]⟩

theorem cand_amoXor (d : Reg) (a : Reg) (b : Reg) (z : BitVec 2) (r : BitVec 2) (c : BitVec 2) : Cand1 (.amoXor d a b z r c) := cand1_of _ rfl fun w h => by
  obtain ⟨h0, h1, h2, h3, h4, h5, h6, h7, h8⟩ := shape_6_5_5_5_4_2_2_2_1 h
  exact ⟨by simp [isLong, h0], by simp [candidate, decAmo, h0, h1, h2, h3, h4, h5, h6, h7, mbz_00000001 h8]⟩

theorem cand_amoMin (d : Reg) (a : Reg) (b : Reg) (z : BitVec 2) (r : BitVec 2) (c : BitVec 2) : Cand1 (.amoMin d a b z r c) := cand1_of _ rfl fun w h => by
  obtain ⟨h0, h1, h2, h3, h4, h5, h6, h7, h8⟩ := shape_6_5_5_5_4_2_2_2_1 h
  exact ⟨by simp [isLong, h0], by simp [candidate, decAmo, h0, h1, h2, h3, h4, h5, h6, h7, mbz_00000001 h8]⟩

theorem cand_amoMax (d : Reg) (a : Reg) (b : Reg) (z : BitVec 2) (r : BitVec 2) (c : BitVec 2) : Cand1 (.amoMax d a b z r c) := cand1_of _ rfl fun w h => by
  obtain ⟨h0, h1, h2, h3, h4, h5, h6, h7, h8⟩ := shape_6_5_5_5_4_2_2_2_1 h
  exact ⟨by simp [isLong, h0], by simp [candidate, decAmo, h0, h1, h2, h3, h4, h5, h6, h7, mbz_00000001 h8]⟩

theorem cand_amoMinn (d : Reg) (a : Reg) (b : Reg) (z : BitVec 2) (r : BitVec 2) (c : BitVec 2) : Cand1 (.amoMinn d a b z r c) := cand1_of _ rfl fun w h => by
  obtain ⟨h0, h1, h2, h3, h4, h5, h6, h7, h8⟩ := shape_6_5_5_5_4_2_2_2_1 h
  exact ⟨by simp [isLong, h0], by simp [candidate, decAmo, h0, h1, h2, h3, h4, h5, h6, h7, mbz_00000001 h8]⟩

theorem cand_amoMaxn (d : Reg) (a : Reg) (b : Reg) (z : BitVec 2) (r : BitVec 2) (c : BitVec 2) : Cand1 (.amoMaxn d a b z r c) := cand1_of _ rfl fun w h => by
  obtain ⟨h0, h1, h2, h3, h4, h5, h6, h7, h8⟩ := shape_6_5_5_5_4_2_2_2_1 h
  exact ⟨by simp [isLong, h0], by simp [candidate, decAmo, h0, h1, h2, h3, h4, h5, h6, h7, mbz_00000001 h8]⟩

theorem cand_amoSwp (d : Reg) (a : Reg) (b : Reg) (z : BitVec 2) (r : BitVec 2) (c : BitVec 2) : Cand1 (.amoSwp d a b z r c) := cand1_of _ rfl fun w h => by
  obtain ⟨h0, h1, h2, h3, h4, h5, h6, h7, h8⟩ := shape_6_5_5_5_4_2_2_2_1 h
  exact ⟨by simp [isLong, h0], by simp [candidate, decAmo, h0, h1, h2, h3, h4, h5, h6, h7, mbz_00000001 h8]⟩

theorem cand_amoCas (d : Reg) (a : Reg) (b : Reg) (z : BitVec 2) (r : BitVec 2) (c : BitVec 2) : Cand1 (.amoCas d a b z r c) := cand1_of _ rfl fun w h => by
  obtain ⟨h0, h1, h2, h3, h4, h5, h6, h7, h8⟩ := shape_6_5_5_5_4_2_2_2_1 h
  exact ⟨by simp [isLong, h0], by simp [candidate, decAmo, h0, h1, h2, h3, h4, h5, h6, h7, mbz_00000001 h8]⟩

theorem cand_amoFadd (d : Reg) (a : Reg) (b : Reg) (z : BitVec 2) (r : BitVec 2) (c : BitVec 2) : Cand1 (.amoFadd d a b z r c) := cand1_of _ rfl fun w h => by
  obtain ⟨h0, h1, h2, h3, h4, h5, h6, h7, h8⟩ := shape_6_5_5_5_4_2_2_2_1 h
  exact ⟨by simp [isLong, h0], by simp [candidate, decAmo, h0, h1, h2, h3, h4, h5, h6, h7, mbz_00000001 h8]⟩

theorem cand_fence (c : BitVec 2) : Cand1 (.fence c) := cand1_of _ rfl fun w h => by
  obtain ⟨h0, h1, h2, h3, h4⟩ := shape_6_15_3_2_6 h
  exact ⟨by simp [isLong, h0], by simp [candidate, decFence, h0, h2, h3, mbz_03fff83f h4 h1]⟩

theorem cand_prom (a : Reg) (c : BitVec 2) : Cand1 (.prom a c) := cand1_of _ rfl fun w h => by
  obtain ⟨h0, h1, h2, h3, h4, h5, h6⟩ := shape_6_5_5_5_3_2_6 h
  exact ⟨by simp [isLong, h0], by simp [candidate, decFence, h0, h2, h4, h5, mbz_03e0f83f h6 h3 h1]⟩

theorem cand_waitEq (d : Reg) (a : Reg) (b : Reg) (c : BitVec 2) (z : BitVec 1) : Cand1 (.waitEq d a b c z) := cand1_of _ rfl fun w h => by
  obtain ⟨h0, h1, h2, h3, h4, h5, h6, h7⟩ := shape_6_5_5_5_3_2_1_5 h
  exact ⟨by simp [isLong, h0], by simp [candidate, decFence, h0, h1, h2, h3, h4, h5, h6, mbz_0000001f h7]⟩

theorem cand_waitNe (d : Reg) (a : Reg) (b : Reg) (c : BitVec 2) (z : BitVec 1) : Cand1 (.waitNe d a b c z) := cand1_of _ rfl fun w h => by
  obtain ⟨h0, h1, h2, h3, h4, h5, h6, h7⟩ := shape_6_5_5_5_3_2_1_5 h
  exact ⟨by simp [isLong, h0], by simp [candidate, decFence, h0, h1, h2, h3, h4, h5, h6, mbz_0000001f h7]⟩

theorem cand_pf (a : Reg) : Cand1 (.pf a) := cand1_of _ rfl fun w h => by
  obtain ⟨h0, h1, h2, h3, h4, h5⟩ := shape_6_5_5_5_3_8 h
  exact ⟨by simp [isLong, h0], by simp [candidate, decFence, h0, h2, h4, mbz_03e0f8ff h5 h3 h1]⟩

theorem cand_cln (a : Reg) (c : BitVec 2) : Cand1 (.cln a c) := cand1_of _ rfl fun w h => by
  obtain ⟨h0, h1, h2, h3, h4, h5, h6⟩ := shape_6_5_5_5_3_2_6 h
  exact ⟨by simp [isLong, h0], by simp [candidate, decFence, h0, h2, h4, h5, mbz_03e0f83f h6 h3 h1]⟩

theorem cand_inv (a : Reg) (c : BitVec 2) : Cand1 (.inv a c) := cand1_of _ rfl fun w h => by
  obtain ⟨h0, h1, h2, h3, h4, h5, h6⟩ := shape_6_5_5_5_3_2_6 h
  exact ⟨by simp [isLong, h0], by simp [candidate, decFence, h0, h2, h4, h5, mbz_03e0f83f h6 h3 h1]⟩

theorem cand_push (q : BitVec 3) (a : Reg) : Cand1 (.push q a) := cand1_of _ rfl fun w h => by
  obtain ⟨h0, h1, h2, h3, h4⟩ := shape_6_3_3_5_15 h
  exact ⟨by simp [isLong, h0], by simp [candidate, decQ, h0, h1, h2, h3, mbz_00007fff h4]⟩

theorem cand_pop (q : BitVec 3) (d : Reg) : Cand1 (.pop q d) := cand1_of _ rfl fun w h => by
  obtain ⟨h0, h1, h2, h3, h4⟩ := shape_6_3_3_5_15 h
  exact ⟨by simp [isLong, h0], by simp [candidate, decQ, h0, h1, h2, h3, mbz_00007fff h4]⟩

theorem cand_peek (q : BitVec 3) (d : Reg) : Cand1 (.peek q d) := cand1_of _ rfl fun w h => by
  obtain ⟨h0, h1, h2, h3, h4⟩ := shape_6_3_3_5_15 h
  exact ⟨by simp [isLong, h0], by simp [candidate, decQ, h0, h1, h2, h3, mbz_00007fff h4]⟩

theorem cand_qcnt (q : BitVec 3) (d : Reg) : Cand1 (.qcnt q d) := cand1_of _ rfl fun w h => by
  obtain ⟨h0, h1, h2, h3, h4⟩ := shape_6_3_3_5_15 h
  exact ⟨by simp [isLong, h0], by simp [candidate, decQ, h0, h1, h2, h3, mbz_00007fff h4]⟩

theorem cand_qdrop (q : BitVec 3) : Cand1 (.qdrop q) := cand1_of _ rfl fun w h => by
  obtain ⟨h0, h1, h2, h3⟩ := shape_6_3_3_20 h
  exact ⟨by simp [isLong, h0], by simp [candidate, decQ, h0, h1, h2, mbz_000fffff h3]⟩

theorem cand_slipset (a : Reg) : Cand1 (.slipset a) := cand1_of _ rfl fun w h => by
  obtain ⟨h0, h1, h2, h3, h4⟩ := shape_6_3_3_5_15 h
  exact ⟨by simp [isLong, h0], by simp [candidate, decQ, h0, h1, h3, mbz_00707fff h4 h2]⟩

theorem cand_lq (q : BitVec 2) (z : BitVec 2) (a : Reg) (i : BitVec 16) : Cand1 (.lq q z a i) := cand1_of _ rfl fun w h => by
  obtain ⟨h0, h1, h2, h3, h4, h5⟩ := shape_6_1_2_2_5_16 h
  exact ⟨by simp [isLong, h0], by simp [candidate, decLq, h0, h1, h2, h3, h4, h5]⟩

theorem cand_lqNf (q : BitVec 2) (z : BitVec 2) (a : Reg) (i : BitVec 16) : Cand1 (.lqNf q z a i) := cand1_of _ rfl fun w h => by
  obtain ⟨h0, h1, h2, h3, h4, h5⟩ := shape_6_1_2_2_5_16 h
  exact ⟨by simp [isLong, h0], by simp [candidate, decLq, h0, h1, h2, h3, h4, h5]⟩

theorem cand_beq (a : Reg) (b : Reg) (t : BitVec 13) : Cand1 (.beq a b t) := cand1_of _ rfl fun w h => by
  obtain ⟨h0, h1, h2, h3, h4⟩ := shape_6_5_5_3_13 h
  exact ⟨by simp [isLong, h0], by simp [candidate, decBr, h0, h1, h2, h3, h4]⟩

theorem cand_bne (a : Reg) (b : Reg) (t : BitVec 13) : Cand1 (.bne a b t) := cand1_of _ rfl fun w h => by
  obtain ⟨h0, h1, h2, h3, h4⟩ := shape_6_5_5_3_13 h
  exact ⟨by simp [isLong, h0], by simp [candidate, decBr, h0, h1, h2, h3, h4]⟩

theorem cand_blt (a : Reg) (b : Reg) (t : BitVec 13) : Cand1 (.blt a b t) := cand1_of _ rfl fun w h => by
  obtain ⟨h0, h1, h2, h3, h4⟩ := shape_6_5_5_3_13 h
  exact ⟨by simp [isLong, h0], by simp [candidate, decBr, h0, h1, h2, h3, h4]⟩

theorem cand_bge (a : Reg) (b : Reg) (t : BitVec 13) : Cand1 (.bge a b t) := cand1_of _ rfl fun w h => by
  obtain ⟨h0, h1, h2, h3, h4⟩ := shape_6_5_5_3_13 h
  exact ⟨by simp [isLong, h0], by simp [candidate, decBr, h0, h1, h2, h3, h4]⟩

theorem cand_bltn (a : Reg) (b : Reg) (t : BitVec 13) : Cand1 (.bltn a b t) := cand1_of _ rfl fun w h => by
  obtain ⟨h0, h1, h2, h3, h4⟩ := shape_6_5_5_3_13 h
  exact ⟨by simp [isLong, h0], by simp [candidate, decBr, h0, h1, h2, h3, h4]⟩

theorem cand_bgen (a : Reg) (b : Reg) (t : BitVec 13) : Cand1 (.bgen a b t) := cand1_of _ rfl fun w h => by
  obtain ⟨h0, h1, h2, h3, h4⟩ := shape_6_5_5_3_13 h
  exact ⟨by simp [isLong, h0], by simp [candidate, decBr, h0, h1, h2, h3, h4]⟩

theorem cand_bz (a : Reg) (t : BitVec 16) : Cand1 (.bz a t) := cand1_of _ rfl fun w h => by
  obtain ⟨h0, h1, h2, h3⟩ := shape_6_5_5_16 h
  exact ⟨by simp [isLong, h0], by simp [candidate, decBz, h0, h1, h2, h3]⟩

theorem cand_bnz (a : Reg) (t : BitVec 16) : Cand1 (.bnz a t) := cand1_of _ rfl fun w h => by
  obtain ⟨h0, h1, h2, h3⟩ := shape_6_5_5_16 h
  exact ⟨by simp [isLong, h0], by simp [candidate, decBz, h0, h1, h2, h3]⟩

theorem cand_br (t : BitVec 26) : Cand1 (.br t) := cand1_of _ rfl fun w h => by
  obtain ⟨h0, h1⟩ := shape_6_26 h
  exact ⟨by simp [isLong, h0], by simp [candidate, decB, h0, h1]⟩

theorem cand_call (t : BitVec 26) : Cand1 (.call t) := cand1_of _ rfl fun w h => by
  obtain ⟨h0, h1⟩ := shape_6_26 h
  exact ⟨by simp [isLong, h0], by simp [candidate, decCall, h0, h1]⟩

theorem cand_jr (a : Reg) : Cand1 (.jr a) := cand1_of _ rfl fun w h => by
  obtain ⟨h0, h1, h2, h3⟩ := shape_6_5_5_16 h
  exact ⟨by simp [isLong, h0], by simp [candidate, decJr, h0, h2, mbz_03e0ffff h3 h1]⟩

theorem cand_bqz (q : BitVec 1) (d : Reg) (t : BitVec 16) : Cand1 (.bqz q d t) := cand1_of _ rfl fun w h => by
  obtain ⟨h0, h1, h2, h3, h4, h5⟩ := shape_6_1_3_1_5_16 h
  exact ⟨by simp [isLong, h0], by simp [candidate, decBq, h0, h1, h3, h4, h5, mbz_01c00000 h2]⟩

theorem cand_bqnz (q : BitVec 1) (d : Reg) (t : BitVec 16) : Cand1 (.bqnz q d t) := cand1_of _ rfl fun w h => by
  obtain ⟨h0, h1, h2, h3, h4, h5⟩ := shape_6_1_3_1_5_16 h
  exact ⟨by simp [isLong, h0], by simp [candidate, decBq, h0, h1, h3, h4, h5, mbz_01c00000 h2]⟩

theorem cand_loop (c : BitVec 2) (a : Reg) (t : BitVec 16) : Cand1 (.loop c a t) := cand1_of _ rfl fun w h => by
  obtain ⟨h0, h1, h2, h3, h4, h5⟩ := shape_6_1_2_5_2_16 h
  exact ⟨by simp [isLong, h0], by simp [candidate, decLoop, h0, h1, h2, h3, h5, mbz_00030000 h4]⟩

theorem cand_loopi (c : BitVec 2) (n : BitVec 7) (t : BitVec 16) : Cand1 (.loopi c n t) := cand1_of _ rfl fun w h => by
  obtain ⟨h0, h1, h2, h3, h4⟩ := shape_6_1_2_7_16 h
  exact ⟨by simp [isLong, h0], by simp [candidate, decLoop, h0, h1, h2, h3, h4]⟩

theorem cand_spset (a : Reg) (i : BitVec 8) : Cand1 (.spset a i) := cand1_of _ rfl fun w h => by
  obtain ⟨h0, h1, h2, h3, h4, h5⟩ := shape_6_2_5_5_6_8 h
  exact ⟨by simp [isLong, h0], by simp [candidate, decSp, h0, h1, h3, h5, mbz_00f83f00 h4 h2]⟩

theorem cand_spshift (i : BitVec 1) : Cand1 (.spshift i) := cand1_of _ rfl fun w h => by
  obtain ⟨h0, h1, h2, h3⟩ := shape_6_2_23_1 h
  exact ⟨by simp [isLong, h0], by simp [candidate, decSp, h0, h1, h3, mbz_00fffffe h2]⟩

theorem cand_spget (d : Reg) : Cand1 (.spget d) := cand1_of _ rfl fun w h => by
  obtain ⟨h0, h1, h2, h3⟩ := shape_6_2_5_19 h
  exact ⟨by simp [isLong, h0], by simp [candidate, decSp, h0, h1, h2, mbz_0007ffff h3]⟩

theorem cand_nop : Cand1 (.nop) := cand1_of _ rfl fun w h => by
  obtain ⟨h0, h1, h2⟩ := shape_6_15_11 h
  exact ⟨by simp [isLong, h0], by simp [candidate, decSys, h0, h2, mbz_03fff800 h1]⟩

theorem cand_join : Cand1 (.join) := cand1_of _ rfl fun w h => by
  obtain ⟨h0, h1, h2⟩ := shape_6_15_11 h
  exact ⟨by simp [isLong, h0], by simp [candidate, decSys, h0, h2, mbz_03fff800 h1]⟩

theorem cand_yieldSlice : Cand1 (.yieldSlice) := cand1_of _ rfl fun w h => by
  obtain ⟨h0, h1, h2⟩ := shape_6_15_11 h
  exact ⟨by simp [isLong, h0], by simp [candidate, decSys, h0, h2, mbz_03fff800 h1]⟩

theorem cand_stepb : Cand1 (.stepb) := cand1_of _ rfl fun w h => by
  obtain ⟨h0, h1, h2⟩ := shape_6_15_11 h
  exact ⟨by simp [isLong, h0], by simp [candidate, decSys, h0, h2, mbz_03fff800 h1]⟩

theorem cand_brk : Cand1 (.brk) := cand1_of _ rfl fun w h => by
  obtain ⟨h0, h1, h2⟩ := shape_6_15_11 h
  exact ⟨by simp [isLong, h0], by simp [candidate, decSys, h0, h2, mbz_03fff800 h1]⟩

theorem cand_ifence : Cand1 (.ifence) := cand1_of _ rfl fun w h => by
  obtain ⟨h0, h1, h2⟩ := shape_6_15_11 h
  exact ⟨by simp [isLong, h0], by simp [candidate, decSys, h0, h2, mbz_03fff800 h1]⟩

theorem cand_slip : Cand1 (.slip) := cand1_of _ rfl fun w h => by
  obtain ⟨h0, h1, h2⟩ := shape_6_3_23 h
  exact ⟨by simp [isLong, h0], by simp [candidate, decQ, h0, h1, mbz_007fffff h2]⟩

theorem cand_slipCatch : Cand1 (.slipCatch) := cand1_of _ rfl fun w h => by
  obtain ⟨h0, h1, h2⟩ := shape_6_3_23 h
  exact ⟨by simp [isLong, h0], by simp [candidate, decQ, h0, h1, mbz_007fffff h2]⟩

end Sys2Proof.Laws
end

