-- ==== Sys2Proof/Laws/Memory.lean ====
section
/-! SUPPORT. Memory: what a read finds after a write, and that every operation keeps the canonical form. -/

namespace Sys2Proof.Machine

theorem Memory.wfFrom_cons (lo : Option Nat) (k : Nat) (v : Byte) (rest : Memory) :
    Memory.wfFrom lo ((k, v) :: rest) = true ↔ (∀ x, lo = some x → x < k) ∧ v ≠ 0 ∧ Memory.wfFrom (some k) rest = true := by
  cases lo <;> simp [Memory.wfFrom, and_assoc]

/-- A canonical memory is canonical above a lower bound. -/
theorem Memory.wfFrom_mono {lo : Option Nat} {l : Nat} {m : Memory} (h : Memory.wfFrom (some l) m = true)
    (hl : ∀ x, lo = some x → x ≤ l) : Memory.wfFrom lo m = true := by
  cases m with
  | nil => rfl
  | cons c rest =>
    obtain ⟨k, v⟩ := c
    rw [Memory.wfFrom_cons] at h ⊢
    refine ⟨fun x hx => ?_, h.2⟩
    have h1 := hl x hx
    have h2 := h.1 l rfl
    omega

/-- Nothing is listed at or below the bound. -/
theorem Memory.get_of_wfFrom {l : Nat} {m : Memory} (h : Memory.wfFrom (some l) m = true) {a : Nat} (ha : a ≤ l) :
    m.get a = 0 := by
  cases m with
  | nil => rfl
  | cons c rest =>
    obtain ⟨k, v⟩ := c
    have : a < k := by have := ((Memory.wfFrom_cons _ _ _ _).1 h).1 l rfl; omega
    simp [Memory.get, Nat.ne_of_lt this, this]

theorem Memory.set_wfFrom {lo : Option Nat} {m : Memory} {a : Nat} {b : Byte} (h : Memory.wfFrom lo m = true)
    (hl : ∀ x, lo = some x → x < a) : Memory.wfFrom lo (m.set a b) = true := by
  induction m generalizing lo with
  | nil =>
    unfold Memory.set
    split
    · rfl
    · rename_i hb
      exact (Memory.wfFrom_cons _ _ _ _).2 ⟨hl, hb, rfl⟩
  | cons c rest ih =>
    obtain ⟨k, v⟩ := c
    have h' := (Memory.wfFrom_cons _ _ _ _).1 h
    unfold Memory.set
    split_ifs with c1 c2 c3 c4
    · exact h
    · exact (Memory.wfFrom_cons _ _ _ _).2 ⟨hl, c2, (Memory.wfFrom_cons _ _ _ _).2 ⟨fun x hx => by cases hx; exact c1, h'.2⟩⟩
    · exact Memory.wfFrom_mono h'.2.2 (fun x hx => Nat.le_of_lt (h'.1 x hx))
    · subst c3
      exact (Memory.wfFrom_cons _ _ _ _).2 ⟨h'.1, c4, h'.2.2⟩
    · exact (Memory.wfFrom_cons _ _ _ _).2 ⟨h'.1, h'.2.1, ih h'.2.2 (fun x hx => by cases hx; omega)⟩

/-- Writing one byte keeps the canonical form. -/
theorem Memory.set_wf {m : Memory} {a : Nat} {b : Byte} (h : m.wf = true) : (m.set a b).wf = true :=
  Memory.set_wfFrom h (fun _ hx => by cases hx)

theorem Memory.get_set_from {lo : Option Nat} {m : Memory} {a x : Nat} {b : Byte} (h : Memory.wfFrom lo m = true) :
    (m.set a b).get x = if x = a then b else m.get x := by
  induction m generalizing lo with
  | nil =>
    unfold Memory.set
    split_ifs <;> simp_all [Memory.get]
  | cons c rest ih =>
    obtain ⟨k, v⟩ := c
    have h' := ((Memory.wfFrom_cons _ _ _ _).1 h).2.2
    unfold Memory.set
    split_ifs with c1 c2 c3 c4 c5 c6 c7
    · subst c3; simp [Memory.get, Nat.ne_of_lt c1, c1, c2]
    · rfl
    · subst c4; simp [Memory.get]
    · have hk : x < a → x < k := fun hx => by omega
      by_cases hx : x < a
      · simp [Memory.get, c4, hx, hk hx, Nat.ne_of_lt (hk hx)]
      · simp [Memory.get, c4, hx]
    · simp_all [Memory.get_of_wfFrom h' (Nat.le_refl k)]
    · subst c5
      by_cases hx : x < a
      · simp [Memory.get, c7, hx, Memory.get_of_wfFrom h' (Nat.le_of_lt hx)]
      · simp [Memory.get, c7, hx]
    · simp_all [Memory.get]
    · simp_all [Memory.get]
    all_goals
      have hi := ih h'
      simp_all only [Memory.get]
      try omega
    all_goals split_ifs <;> simp_all

/-- A byte written is read back, and every other byte is as it was. -/
theorem Memory.get_set {m : Memory} (h : m.wf = true) (a x : Nat) (b : Byte) :
    (m.set a b).get x = if x = a then b else m.get x :=
  Memory.get_set_from h

/-- Writing bytes keeps the canonical form. -/
theorem Memory.write_wf {m : Memory} (h : m.wf = true) (a : Nat) (bs : List Byte) : (m.write a bs).wf = true := by
  induction bs generalizing m a with
  | nil => exact h
  | cons b bs ih => exact ih (Memory.set_wf h) _

/-- Bytes written are read back, and every other byte is as it was. -/
theorem Memory.get_write {m : Memory} (h : m.wf = true) (a : Nat) (bs : List Byte) (x : Nat) :
    (m.write a bs).get x = if a ≤ x ∧ x < a + bs.length then bs.getD (x - a) 0 else m.get x := by
  induction bs generalizing m a with
  | nil => simp [Memory.write]
  | cons b bs ih =>
    rw [Memory.write, ih (Memory.set_wf h), Memory.get_set h]
    by_cases h1 : x = a
    · subst h1; simp
    · by_cases h2 : a + 1 ≤ x
      · have e : x - a = (x - (a + 1)) + 1 := by omega
        rw [e]
        simp only [h1, if_false, List.length_cons, List.getD_cons_succ]
        split_ifs <;> first | rfl | omega
      · simp only [h1, if_false, List.length_cons]
        split_ifs <;> first | rfl | omega

theorem Memory.filter_wfFrom {lo : Option Nat} {m : Memory} (p : Host.Cell → Bool) (h : Memory.wfFrom lo m = true) :
    Memory.wfFrom lo (m.filter p) = true := by
  induction m generalizing lo with
  | nil => rfl
  | cons c rest ih =>
    obtain ⟨k, v⟩ := c
    have h' := (Memory.wfFrom_cons _ _ _ _).1 h
    by_cases hp : p (k, v) = true
    · rw [List.filter_cons_of_pos hp]
      exact (Memory.wfFrom_cons _ _ _ _).2 ⟨h'.1, h'.2.1, ih h'.2.2⟩
    · rw [List.filter_cons_of_neg hp]
      exact ih (Memory.wfFrom_mono h'.2.2 (fun x hx => Nat.le_of_lt (h'.1 x hx)))

/-- Forgetting a range keeps the canonical form. -/
theorem Memory.clear_wf {m : Memory} (h : m.wf = true) (lo hi : Nat) : (m.clear lo hi).wf = true :=
  Memory.filter_wfFrom _ h

theorem leBytes_length (n v : Nat) : (leBytes n v).length = n := by
  induction n generalizing v with
  | zero => rfl
  | succ n ih => simp [leBytes, ih]

/-- Little-endian bytes read back as the number they were made from, as far as they reach (R8). -/
theorem leNat_leBytes (n v : Nat) : leNat (leBytes n v) = v % 256 ^ n := by
  induction n generalizing v with
  | zero => simp [leBytes, leNat, Nat.mod_one]
  | succ n ih =>
    have e : (BitVec.ofNat 8 v).toNat = v % 256 := by simp
    rw [leBytes, leNat, e, ih, Nat.pow_succ, Nat.mul_comm (256 ^ n) 256, Nat.mod_mul]

end Sys2Proof.Machine
end

