-- ==== Sys2Proof/Laws/State.lean ====
section
/-! SUPPORT. What each update of the state leaves alone: one lemma per field and update, true by definition, and what is
found again after an update. -/

namespace Sys2Proof.Machine

open Sys2Proof

/-! ### `State.setGrp` -/

@[simp] theorem State.setGrp_agenda (s : State) (g : Group) : (s.setGrp g).agenda = s.agenda := rfl
@[simp] theorem State.setGrp_cur (s : State) (g : Group) : (s.setGrp g).cur = s.cur := rfl
@[simp] theorem State.setGrp_now (s : State) (g : Group) : (s.setGrp g).now = s.now := rfl
@[simp] theorem State.setGrp_bring (s : State) (g : Group) : (s.setGrp g).bring = s.bring := rfl
@[simp] theorem State.setGrp_boot (s : State) (g : Group) : (s.setGrp g).boot = s.boot := rfl
@[simp] theorem State.setGrp_mr (s : State) (g : Group) : (s.setGrp g).mr = s.mr := rfl
@[simp] theorem State.setGrp_quotes (s : State) (g : Group) : (s.setGrp g).quotes = s.quotes := rfl
@[simp] theorem State.setGrp_vault (s : State) (g : Group) : (s.setGrp g).vault = s.vault := rfl
@[simp] theorem State.setGrp_vaultPoison (s : State) (g : Group) : (s.setGrp g).vaultPoison = s.vaultPoison := rfl
@[simp] theorem State.setGrp_host (s : State) (g : Group) : (s.setGrp g).host = s.host := rfl
@[simp] theorem State.setGrp_hostPoison (s : State) (g : Group) : (s.setGrp g).hostPoison = s.hostPoison := rfl
@[simp] theorem State.setGrp_codeLog (s : State) (g : Group) : (s.setGrp g).codeLog = s.codeLog := rfl
@[simp] theorem State.setGrp_codeSeq (s : State) (g : Group) : (s.setGrp g).codeSeq = s.codeSeq := rfl
@[simp] theorem State.setGrp_owners (s : State) (g : Group) : (s.setGrp g).owners = s.owners := rfl
@[simp] theorem State.setGrp_tlb (s : State) (g : Group) : (s.setGrp g).tlb = s.tlb := rfl
@[simp] theorem State.setGrp_peerLines (s : State) (g : Group) : (s.setGrp g).peerLines = s.peerLines := rfl
@[simp] theorem State.setGrp_stk (s : State) (g : Group) : (s.setGrp g).stk = s.stk := rfl
@[simp] theorem State.setGrp_ctxs (s : State) (g : Group) : (s.setGrp g).ctxs = s.ctxs := rfl
@[simp] theorem State.setGrp_launches (s : State) (g : Group) : (s.setGrp g).launches = s.launches := rfl
@[simp] theorem State.setGrp_nextGid (s : State) (g : Group) : (s.setGrp g).nextGid = s.nextGid := rfl
@[simp] theorem State.setGrp_nextLid (s : State) (g : Group) : (s.setGrp g).nextLid = s.nextLid := rfl
@[simp] theorem State.setGrp_launchPtr (s : State) (g : Group) : (s.setGrp g).launchPtr = s.launchPtr := rfl
@[simp] theorem State.setGrp_queuePtr (s : State) (g : Group) : (s.setGrp g).queuePtr = s.queuePtr := rfl
@[simp] theorem State.setGrp_windows (s : State) (g : Group) : (s.setGrp g).windows = s.windows := rfl
@[simp] theorem State.setGrp_contribs (s : State) (g : Group) : (s.setGrp g).contribs = s.contribs := rfl
@[simp] theorem State.setGrp_rounds (s : State) (g : Group) : (s.setGrp g).rounds = s.rounds := rfl
@[simp] theorem State.setGrp_mgmtQ (s : State) (g : Group) : (s.setGrp g).mgmtQ = s.mgmtQ := rfl
@[simp] theorem State.setGrp_unmaps (s : State) (g : Group) : (s.setGrp g).unmaps = s.unmaps := rfl
@[simp] theorem State.setGrp_preempts (s : State) (g : Group) : (s.setGrp g).preempts = s.preempts := rfl
@[simp] theorem State.setGrp_events (s : State) (g : Group) : (s.setGrp g).events = s.events := rfl
@[simp] theorem State.setGrp_ports (s : State) (g : Group) : (s.setGrp g).ports = s.ports := rfl
@[simp] theorem State.setGrp_routes (s : State) (g : Group) : (s.setGrp g).routes = s.routes := rfl
@[simp] theorem State.setGrp_pwins (s : State) (g : Group) : (s.setGrp g).pwins = s.pwins := rfl
@[simp] theorem State.setGrp_outReqs (s : State) (g : Group) : (s.setGrp g).outReqs = s.outReqs := rfl
@[simp] theorem State.setGrp_replies (s : State) (g : Group) : (s.setGrp g).replies = s.replies := rfl
@[simp] theorem State.setGrp_devReqs (s : State) (g : Group) : (s.setGrp g).devReqs = s.devReqs := rfl
@[simp] theorem State.setGrp_nextTag (s : State) (g : Group) : (s.setGrp g).nextTag = s.nextTag := rfl
@[simp] theorem State.setGrp_peerTab (s : State) (g : Group) : (s.setGrp g).peerTab = s.peerTab := rfl
@[simp] theorem State.setGrp_lostRecs (s : State) (g : Group) : (s.setGrp g).lostRecs = s.lostRecs := rfl
@[simp] theorem State.setGrp_sealing (s : State) (g : Group) : (s.setGrp g).sealing = s.sealing := rfl
@[simp] theorem State.setGrp_sclBad (s : State) (g : Group) : (s.setGrp g).sclBad = s.sclBad := rfl
@[simp] theorem State.setGrp_nextWait (s : State) (g : Group) : (s.setGrp g).nextWait = s.nextWait := rfl
@[simp] theorem State.setGrp_reply (s : State) (g : Group) : (s.setGrp g).reply = s.reply := rfl

/-! ### `State.setCtx` -/

@[simp] theorem State.setCtx_agenda (s : State) (c : Context) : (s.setCtx c).agenda = s.agenda := rfl
@[simp] theorem State.setCtx_cur (s : State) (c : Context) : (s.setCtx c).cur = s.cur := rfl
@[simp] theorem State.setCtx_now (s : State) (c : Context) : (s.setCtx c).now = s.now := rfl
@[simp] theorem State.setCtx_bring (s : State) (c : Context) : (s.setCtx c).bring = s.bring := rfl
@[simp] theorem State.setCtx_boot (s : State) (c : Context) : (s.setCtx c).boot = s.boot := rfl
@[simp] theorem State.setCtx_mr (s : State) (c : Context) : (s.setCtx c).mr = s.mr := rfl
@[simp] theorem State.setCtx_quotes (s : State) (c : Context) : (s.setCtx c).quotes = s.quotes := rfl
@[simp] theorem State.setCtx_vault (s : State) (c : Context) : (s.setCtx c).vault = s.vault := rfl
@[simp] theorem State.setCtx_vaultPoison (s : State) (c : Context) : (s.setCtx c).vaultPoison = s.vaultPoison := rfl
@[simp] theorem State.setCtx_host (s : State) (c : Context) : (s.setCtx c).host = s.host := rfl
@[simp] theorem State.setCtx_hostPoison (s : State) (c : Context) : (s.setCtx c).hostPoison = s.hostPoison := rfl
@[simp] theorem State.setCtx_codeLog (s : State) (c : Context) : (s.setCtx c).codeLog = s.codeLog := rfl
@[simp] theorem State.setCtx_codeSeq (s : State) (c : Context) : (s.setCtx c).codeSeq = s.codeSeq := rfl
@[simp] theorem State.setCtx_owners (s : State) (c : Context) : (s.setCtx c).owners = s.owners := rfl
@[simp] theorem State.setCtx_tlb (s : State) (c : Context) : (s.setCtx c).tlb = s.tlb := rfl
@[simp] theorem State.setCtx_peerLines (s : State) (c : Context) : (s.setCtx c).peerLines = s.peerLines := rfl
@[simp] theorem State.setCtx_stk (s : State) (c : Context) : (s.setCtx c).stk = s.stk := rfl
@[simp] theorem State.setCtx_launches (s : State) (c : Context) : (s.setCtx c).launches = s.launches := rfl
@[simp] theorem State.setCtx_groups (s : State) (c : Context) : (s.setCtx c).groups = s.groups := rfl
@[simp] theorem State.setCtx_nextGid (s : State) (c : Context) : (s.setCtx c).nextGid = s.nextGid := rfl
@[simp] theorem State.setCtx_nextLid (s : State) (c : Context) : (s.setCtx c).nextLid = s.nextLid := rfl
@[simp] theorem State.setCtx_launchPtr (s : State) (c : Context) : (s.setCtx c).launchPtr = s.launchPtr := rfl
@[simp] theorem State.setCtx_queuePtr (s : State) (c : Context) : (s.setCtx c).queuePtr = s.queuePtr := rfl
@[simp] theorem State.setCtx_windows (s : State) (c : Context) : (s.setCtx c).windows = s.windows := rfl
@[simp] theorem State.setCtx_contribs (s : State) (c : Context) : (s.setCtx c).contribs = s.contribs := rfl
@[simp] theorem State.setCtx_rounds (s : State) (c : Context) : (s.setCtx c).rounds = s.rounds := rfl
@[simp] theorem State.setCtx_mgmtQ (s : State) (c : Context) : (s.setCtx c).mgmtQ = s.mgmtQ := rfl
@[simp] theorem State.setCtx_unmaps (s : State) (c : Context) : (s.setCtx c).unmaps = s.unmaps := rfl
@[simp] theorem State.setCtx_preempts (s : State) (c : Context) : (s.setCtx c).preempts = s.preempts := rfl
@[simp] theorem State.setCtx_events (s : State) (c : Context) : (s.setCtx c).events = s.events := rfl
@[simp] theorem State.setCtx_ports (s : State) (c : Context) : (s.setCtx c).ports = s.ports := rfl
@[simp] theorem State.setCtx_routes (s : State) (c : Context) : (s.setCtx c).routes = s.routes := rfl
@[simp] theorem State.setCtx_pwins (s : State) (c : Context) : (s.setCtx c).pwins = s.pwins := rfl
@[simp] theorem State.setCtx_outReqs (s : State) (c : Context) : (s.setCtx c).outReqs = s.outReqs := rfl
@[simp] theorem State.setCtx_replies (s : State) (c : Context) : (s.setCtx c).replies = s.replies := rfl
@[simp] theorem State.setCtx_devReqs (s : State) (c : Context) : (s.setCtx c).devReqs = s.devReqs := rfl
@[simp] theorem State.setCtx_nextTag (s : State) (c : Context) : (s.setCtx c).nextTag = s.nextTag := rfl
@[simp] theorem State.setCtx_peerTab (s : State) (c : Context) : (s.setCtx c).peerTab = s.peerTab := rfl
@[simp] theorem State.setCtx_lostRecs (s : State) (c : Context) : (s.setCtx c).lostRecs = s.lostRecs := rfl
@[simp] theorem State.setCtx_sealing (s : State) (c : Context) : (s.setCtx c).sealing = s.sealing := rfl
@[simp] theorem State.setCtx_sclBad (s : State) (c : Context) : (s.setCtx c).sclBad = s.sclBad := rfl
@[simp] theorem State.setCtx_nextWait (s : State) (c : Context) : (s.setCtx c).nextWait = s.nextWait := rfl
@[simp] theorem State.setCtx_reply (s : State) (c : Context) : (s.setCtx c).reply = s.reply := rfl

/-! ### `State.setLaunch` -/

@[simp] theorem State.setLaunch_agenda (s : State) (l : Launch) : (s.setLaunch l).agenda = s.agenda := rfl
@[simp] theorem State.setLaunch_cur (s : State) (l : Launch) : (s.setLaunch l).cur = s.cur := rfl
@[simp] theorem State.setLaunch_now (s : State) (l : Launch) : (s.setLaunch l).now = s.now := rfl
@[simp] theorem State.setLaunch_bring (s : State) (l : Launch) : (s.setLaunch l).bring = s.bring := rfl
@[simp] theorem State.setLaunch_boot (s : State) (l : Launch) : (s.setLaunch l).boot = s.boot := rfl
@[simp] theorem State.setLaunch_mr (s : State) (l : Launch) : (s.setLaunch l).mr = s.mr := rfl
@[simp] theorem State.setLaunch_quotes (s : State) (l : Launch) : (s.setLaunch l).quotes = s.quotes := rfl
@[simp] theorem State.setLaunch_vault (s : State) (l : Launch) : (s.setLaunch l).vault = s.vault := rfl
@[simp] theorem State.setLaunch_vaultPoison (s : State) (l : Launch) : (s.setLaunch l).vaultPoison = s.vaultPoison := rfl
@[simp] theorem State.setLaunch_host (s : State) (l : Launch) : (s.setLaunch l).host = s.host := rfl
@[simp] theorem State.setLaunch_hostPoison (s : State) (l : Launch) : (s.setLaunch l).hostPoison = s.hostPoison := rfl
@[simp] theorem State.setLaunch_codeLog (s : State) (l : Launch) : (s.setLaunch l).codeLog = s.codeLog := rfl
@[simp] theorem State.setLaunch_codeSeq (s : State) (l : Launch) : (s.setLaunch l).codeSeq = s.codeSeq := rfl
@[simp] theorem State.setLaunch_owners (s : State) (l : Launch) : (s.setLaunch l).owners = s.owners := rfl
@[simp] theorem State.setLaunch_tlb (s : State) (l : Launch) : (s.setLaunch l).tlb = s.tlb := rfl
@[simp] theorem State.setLaunch_peerLines (s : State) (l : Launch) : (s.setLaunch l).peerLines = s.peerLines := rfl
@[simp] theorem State.setLaunch_stk (s : State) (l : Launch) : (s.setLaunch l).stk = s.stk := rfl
@[simp] theorem State.setLaunch_ctxs (s : State) (l : Launch) : (s.setLaunch l).ctxs = s.ctxs := rfl
@[simp] theorem State.setLaunch_groups (s : State) (l : Launch) : (s.setLaunch l).groups = s.groups := rfl
@[simp] theorem State.setLaunch_nextGid (s : State) (l : Launch) : (s.setLaunch l).nextGid = s.nextGid := rfl
@[simp] theorem State.setLaunch_nextLid (s : State) (l : Launch) : (s.setLaunch l).nextLid = s.nextLid := rfl
@[simp] theorem State.setLaunch_launchPtr (s : State) (l : Launch) : (s.setLaunch l).launchPtr = s.launchPtr := rfl
@[simp] theorem State.setLaunch_queuePtr (s : State) (l : Launch) : (s.setLaunch l).queuePtr = s.queuePtr := rfl
@[simp] theorem State.setLaunch_windows (s : State) (l : Launch) : (s.setLaunch l).windows = s.windows := rfl
@[simp] theorem State.setLaunch_contribs (s : State) (l : Launch) : (s.setLaunch l).contribs = s.contribs := rfl
@[simp] theorem State.setLaunch_rounds (s : State) (l : Launch) : (s.setLaunch l).rounds = s.rounds := rfl
@[simp] theorem State.setLaunch_mgmtQ (s : State) (l : Launch) : (s.setLaunch l).mgmtQ = s.mgmtQ := rfl
@[simp] theorem State.setLaunch_unmaps (s : State) (l : Launch) : (s.setLaunch l).unmaps = s.unmaps := rfl
@[simp] theorem State.setLaunch_preempts (s : State) (l : Launch) : (s.setLaunch l).preempts = s.preempts := rfl
@[simp] theorem State.setLaunch_events (s : State) (l : Launch) : (s.setLaunch l).events = s.events := rfl
@[simp] theorem State.setLaunch_ports (s : State) (l : Launch) : (s.setLaunch l).ports = s.ports := rfl
@[simp] theorem State.setLaunch_routes (s : State) (l : Launch) : (s.setLaunch l).routes = s.routes := rfl
@[simp] theorem State.setLaunch_pwins (s : State) (l : Launch) : (s.setLaunch l).pwins = s.pwins := rfl
@[simp] theorem State.setLaunch_outReqs (s : State) (l : Launch) : (s.setLaunch l).outReqs = s.outReqs := rfl
@[simp] theorem State.setLaunch_replies (s : State) (l : Launch) : (s.setLaunch l).replies = s.replies := rfl
@[simp] theorem State.setLaunch_devReqs (s : State) (l : Launch) : (s.setLaunch l).devReqs = s.devReqs := rfl
@[simp] theorem State.setLaunch_nextTag (s : State) (l : Launch) : (s.setLaunch l).nextTag = s.nextTag := rfl
@[simp] theorem State.setLaunch_peerTab (s : State) (l : Launch) : (s.setLaunch l).peerTab = s.peerTab := rfl
@[simp] theorem State.setLaunch_lostRecs (s : State) (l : Launch) : (s.setLaunch l).lostRecs = s.lostRecs := rfl
@[simp] theorem State.setLaunch_sealing (s : State) (l : Launch) : (s.setLaunch l).sealing = s.sealing := rfl
@[simp] theorem State.setLaunch_sclBad (s : State) (l : Launch) : (s.setLaunch l).sclBad = s.sclBad := rfl
@[simp] theorem State.setLaunch_nextWait (s : State) (l : Launch) : (s.setLaunch l).nextWait = s.nextWait := rfl
@[simp] theorem State.setLaunch_reply (s : State) (l : Launch) : (s.setLaunch l).reply = s.reply := rfl

/-! ### `State.setOwner` -/

@[simp] theorem State.setOwner_agenda (s : State) (e : OwnerEntry) : (s.setOwner e).agenda = s.agenda := rfl
@[simp] theorem State.setOwner_cur (s : State) (e : OwnerEntry) : (s.setOwner e).cur = s.cur := rfl
@[simp] theorem State.setOwner_now (s : State) (e : OwnerEntry) : (s.setOwner e).now = s.now := rfl
@[simp] theorem State.setOwner_bring (s : State) (e : OwnerEntry) : (s.setOwner e).bring = s.bring := rfl
@[simp] theorem State.setOwner_boot (s : State) (e : OwnerEntry) : (s.setOwner e).boot = s.boot := rfl
@[simp] theorem State.setOwner_mr (s : State) (e : OwnerEntry) : (s.setOwner e).mr = s.mr := rfl
@[simp] theorem State.setOwner_quotes (s : State) (e : OwnerEntry) : (s.setOwner e).quotes = s.quotes := rfl
@[simp] theorem State.setOwner_vault (s : State) (e : OwnerEntry) : (s.setOwner e).vault = s.vault := rfl
@[simp] theorem State.setOwner_vaultPoison (s : State) (e : OwnerEntry) : (s.setOwner e).vaultPoison = s.vaultPoison := rfl
@[simp] theorem State.setOwner_host (s : State) (e : OwnerEntry) : (s.setOwner e).host = s.host := rfl
@[simp] theorem State.setOwner_hostPoison (s : State) (e : OwnerEntry) : (s.setOwner e).hostPoison = s.hostPoison := rfl
@[simp] theorem State.setOwner_codeLog (s : State) (e : OwnerEntry) : (s.setOwner e).codeLog = s.codeLog := rfl
@[simp] theorem State.setOwner_codeSeq (s : State) (e : OwnerEntry) : (s.setOwner e).codeSeq = s.codeSeq := rfl
@[simp] theorem State.setOwner_tlb (s : State) (e : OwnerEntry) : (s.setOwner e).tlb = s.tlb := rfl
@[simp] theorem State.setOwner_peerLines (s : State) (e : OwnerEntry) : (s.setOwner e).peerLines = s.peerLines := rfl
@[simp] theorem State.setOwner_stk (s : State) (e : OwnerEntry) : (s.setOwner e).stk = s.stk := rfl
@[simp] theorem State.setOwner_ctxs (s : State) (e : OwnerEntry) : (s.setOwner e).ctxs = s.ctxs := rfl
@[simp] theorem State.setOwner_launches (s : State) (e : OwnerEntry) : (s.setOwner e).launches = s.launches := rfl
@[simp] theorem State.setOwner_groups (s : State) (e : OwnerEntry) : (s.setOwner e).groups = s.groups := rfl
@[simp] theorem State.setOwner_nextGid (s : State) (e : OwnerEntry) : (s.setOwner e).nextGid = s.nextGid := rfl
@[simp] theorem State.setOwner_nextLid (s : State) (e : OwnerEntry) : (s.setOwner e).nextLid = s.nextLid := rfl
@[simp] theorem State.setOwner_launchPtr (s : State) (e : OwnerEntry) : (s.setOwner e).launchPtr = s.launchPtr := rfl
@[simp] theorem State.setOwner_queuePtr (s : State) (e : OwnerEntry) : (s.setOwner e).queuePtr = s.queuePtr := rfl
@[simp] theorem State.setOwner_windows (s : State) (e : OwnerEntry) : (s.setOwner e).windows = s.windows := rfl
@[simp] theorem State.setOwner_contribs (s : State) (e : OwnerEntry) : (s.setOwner e).contribs = s.contribs := rfl
@[simp] theorem State.setOwner_rounds (s : State) (e : OwnerEntry) : (s.setOwner e).rounds = s.rounds := rfl
@[simp] theorem State.setOwner_mgmtQ (s : State) (e : OwnerEntry) : (s.setOwner e).mgmtQ = s.mgmtQ := rfl
@[simp] theorem State.setOwner_unmaps (s : State) (e : OwnerEntry) : (s.setOwner e).unmaps = s.unmaps := rfl
@[simp] theorem State.setOwner_preempts (s : State) (e : OwnerEntry) : (s.setOwner e).preempts = s.preempts := rfl
@[simp] theorem State.setOwner_events (s : State) (e : OwnerEntry) : (s.setOwner e).events = s.events := rfl
@[simp] theorem State.setOwner_ports (s : State) (e : OwnerEntry) : (s.setOwner e).ports = s.ports := rfl
@[simp] theorem State.setOwner_routes (s : State) (e : OwnerEntry) : (s.setOwner e).routes = s.routes := rfl
@[simp] theorem State.setOwner_pwins (s : State) (e : OwnerEntry) : (s.setOwner e).pwins = s.pwins := rfl
@[simp] theorem State.setOwner_outReqs (s : State) (e : OwnerEntry) : (s.setOwner e).outReqs = s.outReqs := rfl
@[simp] theorem State.setOwner_replies (s : State) (e : OwnerEntry) : (s.setOwner e).replies = s.replies := rfl
@[simp] theorem State.setOwner_devReqs (s : State) (e : OwnerEntry) : (s.setOwner e).devReqs = s.devReqs := rfl
@[simp] theorem State.setOwner_nextTag (s : State) (e : OwnerEntry) : (s.setOwner e).nextTag = s.nextTag := rfl
@[simp] theorem State.setOwner_peerTab (s : State) (e : OwnerEntry) : (s.setOwner e).peerTab = s.peerTab := rfl
@[simp] theorem State.setOwner_lostRecs (s : State) (e : OwnerEntry) : (s.setOwner e).lostRecs = s.lostRecs := rfl
@[simp] theorem State.setOwner_sealing (s : State) (e : OwnerEntry) : (s.setOwner e).sealing = s.sealing := rfl
@[simp] theorem State.setOwner_sclBad (s : State) (e : OwnerEntry) : (s.setOwner e).sclBad = s.sclBad := rfl
@[simp] theorem State.setOwner_nextWait (s : State) (e : OwnerEntry) : (s.setOwner e).nextWait = s.nextWait := rfl
@[simp] theorem State.setOwner_reply (s : State) (e : OwnerEntry) : (s.setOwner e).reply = s.reply := rfl

/-! ### `State.fillTlb` -/

@[simp] theorem State.fillTlb_agenda (s : State) (e : TlbEntry) : (s.fillTlb e).agenda = s.agenda := rfl
@[simp] theorem State.fillTlb_cur (s : State) (e : TlbEntry) : (s.fillTlb e).cur = s.cur := rfl
@[simp] theorem State.fillTlb_now (s : State) (e : TlbEntry) : (s.fillTlb e).now = s.now := rfl
@[simp] theorem State.fillTlb_bring (s : State) (e : TlbEntry) : (s.fillTlb e).bring = s.bring := rfl
@[simp] theorem State.fillTlb_boot (s : State) (e : TlbEntry) : (s.fillTlb e).boot = s.boot := rfl
@[simp] theorem State.fillTlb_mr (s : State) (e : TlbEntry) : (s.fillTlb e).mr = s.mr := rfl
@[simp] theorem State.fillTlb_quotes (s : State) (e : TlbEntry) : (s.fillTlb e).quotes = s.quotes := rfl
@[simp] theorem State.fillTlb_vault (s : State) (e : TlbEntry) : (s.fillTlb e).vault = s.vault := rfl
@[simp] theorem State.fillTlb_vaultPoison (s : State) (e : TlbEntry) : (s.fillTlb e).vaultPoison = s.vaultPoison := rfl
@[simp] theorem State.fillTlb_host (s : State) (e : TlbEntry) : (s.fillTlb e).host = s.host := rfl
@[simp] theorem State.fillTlb_hostPoison (s : State) (e : TlbEntry) : (s.fillTlb e).hostPoison = s.hostPoison := rfl
@[simp] theorem State.fillTlb_codeLog (s : State) (e : TlbEntry) : (s.fillTlb e).codeLog = s.codeLog := rfl
@[simp] theorem State.fillTlb_codeSeq (s : State) (e : TlbEntry) : (s.fillTlb e).codeSeq = s.codeSeq := rfl
@[simp] theorem State.fillTlb_owners (s : State) (e : TlbEntry) : (s.fillTlb e).owners = s.owners := rfl
@[simp] theorem State.fillTlb_peerLines (s : State) (e : TlbEntry) : (s.fillTlb e).peerLines = s.peerLines := rfl
@[simp] theorem State.fillTlb_stk (s : State) (e : TlbEntry) : (s.fillTlb e).stk = s.stk := rfl
@[simp] theorem State.fillTlb_ctxs (s : State) (e : TlbEntry) : (s.fillTlb e).ctxs = s.ctxs := rfl
@[simp] theorem State.fillTlb_launches (s : State) (e : TlbEntry) : (s.fillTlb e).launches = s.launches := rfl
@[simp] theorem State.fillTlb_groups (s : State) (e : TlbEntry) : (s.fillTlb e).groups = s.groups := rfl
@[simp] theorem State.fillTlb_nextGid (s : State) (e : TlbEntry) : (s.fillTlb e).nextGid = s.nextGid := rfl
@[simp] theorem State.fillTlb_nextLid (s : State) (e : TlbEntry) : (s.fillTlb e).nextLid = s.nextLid := rfl
@[simp] theorem State.fillTlb_launchPtr (s : State) (e : TlbEntry) : (s.fillTlb e).launchPtr = s.launchPtr := rfl
@[simp] theorem State.fillTlb_queuePtr (s : State) (e : TlbEntry) : (s.fillTlb e).queuePtr = s.queuePtr := rfl
@[simp] theorem State.fillTlb_windows (s : State) (e : TlbEntry) : (s.fillTlb e).windows = s.windows := rfl
@[simp] theorem State.fillTlb_contribs (s : State) (e : TlbEntry) : (s.fillTlb e).contribs = s.contribs := rfl
@[simp] theorem State.fillTlb_rounds (s : State) (e : TlbEntry) : (s.fillTlb e).rounds = s.rounds := rfl
@[simp] theorem State.fillTlb_mgmtQ (s : State) (e : TlbEntry) : (s.fillTlb e).mgmtQ = s.mgmtQ := rfl
@[simp] theorem State.fillTlb_unmaps (s : State) (e : TlbEntry) : (s.fillTlb e).unmaps = s.unmaps := rfl
@[simp] theorem State.fillTlb_preempts (s : State) (e : TlbEntry) : (s.fillTlb e).preempts = s.preempts := rfl
@[simp] theorem State.fillTlb_events (s : State) (e : TlbEntry) : (s.fillTlb e).events = s.events := rfl
@[simp] theorem State.fillTlb_ports (s : State) (e : TlbEntry) : (s.fillTlb e).ports = s.ports := rfl
@[simp] theorem State.fillTlb_routes (s : State) (e : TlbEntry) : (s.fillTlb e).routes = s.routes := rfl
@[simp] theorem State.fillTlb_pwins (s : State) (e : TlbEntry) : (s.fillTlb e).pwins = s.pwins := rfl
@[simp] theorem State.fillTlb_outReqs (s : State) (e : TlbEntry) : (s.fillTlb e).outReqs = s.outReqs := rfl
@[simp] theorem State.fillTlb_replies (s : State) (e : TlbEntry) : (s.fillTlb e).replies = s.replies := rfl
@[simp] theorem State.fillTlb_devReqs (s : State) (e : TlbEntry) : (s.fillTlb e).devReqs = s.devReqs := rfl
@[simp] theorem State.fillTlb_nextTag (s : State) (e : TlbEntry) : (s.fillTlb e).nextTag = s.nextTag := rfl
@[simp] theorem State.fillTlb_peerTab (s : State) (e : TlbEntry) : (s.fillTlb e).peerTab = s.peerTab := rfl
@[simp] theorem State.fillTlb_lostRecs (s : State) (e : TlbEntry) : (s.fillTlb e).lostRecs = s.lostRecs := rfl
@[simp] theorem State.fillTlb_sealing (s : State) (e : TlbEntry) : (s.fillTlb e).sealing = s.sealing := rfl
@[simp] theorem State.fillTlb_sclBad (s : State) (e : TlbEntry) : (s.fillTlb e).sclBad = s.sclBad := rfl
@[simp] theorem State.fillTlb_nextWait (s : State) (e : TlbEntry) : (s.fillTlb e).nextWait = s.nextWait := rfl
@[simp] theorem State.fillTlb_reply (s : State) (e : TlbEntry) : (s.fillTlb e).reply = s.reply := rfl

/-! ### `State.setStack` -/

@[simp] theorem State.setStack_agenda (s : State) (k : Nat) (t : Stack) : (s.setStack k t).agenda = s.agenda := by
  unfold State.setStack; split <;> rfl
@[simp] theorem State.setStack_cur (s : State) (k : Nat) (t : Stack) : (s.setStack k t).cur = s.cur := by
  unfold State.setStack; split <;> rfl
@[simp] theorem State.setStack_now (s : State) (k : Nat) (t : Stack) : (s.setStack k t).now = s.now := by
  unfold State.setStack; split <;> rfl
@[simp] theorem State.setStack_bring (s : State) (k : Nat) (t : Stack) : (s.setStack k t).bring = s.bring := by
  unfold State.setStack; split <;> rfl
@[simp] theorem State.setStack_boot (s : State) (k : Nat) (t : Stack) : (s.setStack k t).boot = s.boot := by
  unfold State.setStack; split <;> rfl
@[simp] theorem State.setStack_mr (s : State) (k : Nat) (t : Stack) : (s.setStack k t).mr = s.mr := by
  unfold State.setStack; split <;> rfl
@[simp] theorem State.setStack_quotes (s : State) (k : Nat) (t : Stack) : (s.setStack k t).quotes = s.quotes := by
  unfold State.setStack; split <;> rfl
@[simp] theorem State.setStack_vault (s : State) (k : Nat) (t : Stack) : (s.setStack k t).vault = s.vault := by
  unfold State.setStack; split <;> rfl
@[simp] theorem State.setStack_vaultPoison (s : State) (k : Nat) (t : Stack) : (s.setStack k t).vaultPoison = s.vaultPoison := by
  unfold State.setStack; split <;> rfl
@[simp] theorem State.setStack_host (s : State) (k : Nat) (t : Stack) : (s.setStack k t).host = s.host := by
  unfold State.setStack; split <;> rfl
@[simp] theorem State.setStack_hostPoison (s : State) (k : Nat) (t : Stack) : (s.setStack k t).hostPoison = s.hostPoison := by
  unfold State.setStack; split <;> rfl
@[simp] theorem State.setStack_codeLog (s : State) (k : Nat) (t : Stack) : (s.setStack k t).codeLog = s.codeLog := by
  unfold State.setStack; split <;> rfl
@[simp] theorem State.setStack_codeSeq (s : State) (k : Nat) (t : Stack) : (s.setStack k t).codeSeq = s.codeSeq := by
  unfold State.setStack; split <;> rfl
@[simp] theorem State.setStack_owners (s : State) (k : Nat) (t : Stack) : (s.setStack k t).owners = s.owners := by
  unfold State.setStack; split <;> rfl
@[simp] theorem State.setStack_tlb (s : State) (k : Nat) (t : Stack) : (s.setStack k t).tlb = s.tlb := by
  unfold State.setStack; split <;> rfl
@[simp] theorem State.setStack_peerLines (s : State) (k : Nat) (t : Stack) : (s.setStack k t).peerLines = s.peerLines := by
  unfold State.setStack; split <;> rfl
@[simp] theorem State.setStack_ctxs (s : State) (k : Nat) (t : Stack) : (s.setStack k t).ctxs = s.ctxs := by
  unfold State.setStack; split <;> rfl
@[simp] theorem State.setStack_launches (s : State) (k : Nat) (t : Stack) : (s.setStack k t).launches = s.launches := by
  unfold State.setStack; split <;> rfl
@[simp] theorem State.setStack_groups (s : State) (k : Nat) (t : Stack) : (s.setStack k t).groups = s.groups := by
  unfold State.setStack; split <;> rfl
@[simp] theorem State.setStack_nextGid (s : State) (k : Nat) (t : Stack) : (s.setStack k t).nextGid = s.nextGid := by
  unfold State.setStack; split <;> rfl
@[simp] theorem State.setStack_nextLid (s : State) (k : Nat) (t : Stack) : (s.setStack k t).nextLid = s.nextLid := by
  unfold State.setStack; split <;> rfl
@[simp] theorem State.setStack_launchPtr (s : State) (k : Nat) (t : Stack) : (s.setStack k t).launchPtr = s.launchPtr := by
  unfold State.setStack; split <;> rfl
@[simp] theorem State.setStack_queuePtr (s : State) (k : Nat) (t : Stack) : (s.setStack k t).queuePtr = s.queuePtr := by
  unfold State.setStack; split <;> rfl
@[simp] theorem State.setStack_windows (s : State) (k : Nat) (t : Stack) : (s.setStack k t).windows = s.windows := by
  unfold State.setStack; split <;> rfl
@[simp] theorem State.setStack_contribs (s : State) (k : Nat) (t : Stack) : (s.setStack k t).contribs = s.contribs := by
  unfold State.setStack; split <;> rfl
@[simp] theorem State.setStack_rounds (s : State) (k : Nat) (t : Stack) : (s.setStack k t).rounds = s.rounds := by
  unfold State.setStack; split <;> rfl
@[simp] theorem State.setStack_mgmtQ (s : State) (k : Nat) (t : Stack) : (s.setStack k t).mgmtQ = s.mgmtQ := by
  unfold State.setStack; split <;> rfl
@[simp] theorem State.setStack_unmaps (s : State) (k : Nat) (t : Stack) : (s.setStack k t).unmaps = s.unmaps := by
  unfold State.setStack; split <;> rfl
@[simp] theorem State.setStack_preempts (s : State) (k : Nat) (t : Stack) : (s.setStack k t).preempts = s.preempts := by
  unfold State.setStack; split <;> rfl
@[simp] theorem State.setStack_events (s : State) (k : Nat) (t : Stack) : (s.setStack k t).events = s.events := by
  unfold State.setStack; split <;> rfl
@[simp] theorem State.setStack_ports (s : State) (k : Nat) (t : Stack) : (s.setStack k t).ports = s.ports := by
  unfold State.setStack; split <;> rfl
@[simp] theorem State.setStack_routes (s : State) (k : Nat) (t : Stack) : (s.setStack k t).routes = s.routes := by
  unfold State.setStack; split <;> rfl
@[simp] theorem State.setStack_pwins (s : State) (k : Nat) (t : Stack) : (s.setStack k t).pwins = s.pwins := by
  unfold State.setStack; split <;> rfl
@[simp] theorem State.setStack_outReqs (s : State) (k : Nat) (t : Stack) : (s.setStack k t).outReqs = s.outReqs := by
  unfold State.setStack; split <;> rfl
@[simp] theorem State.setStack_replies (s : State) (k : Nat) (t : Stack) : (s.setStack k t).replies = s.replies := by
  unfold State.setStack; split <;> rfl
@[simp] theorem State.setStack_devReqs (s : State) (k : Nat) (t : Stack) : (s.setStack k t).devReqs = s.devReqs := by
  unfold State.setStack; split <;> rfl
@[simp] theorem State.setStack_nextTag (s : State) (k : Nat) (t : Stack) : (s.setStack k t).nextTag = s.nextTag := by
  unfold State.setStack; split <;> rfl
@[simp] theorem State.setStack_peerTab (s : State) (k : Nat) (t : Stack) : (s.setStack k t).peerTab = s.peerTab := by
  unfold State.setStack; split <;> rfl
@[simp] theorem State.setStack_lostRecs (s : State) (k : Nat) (t : Stack) : (s.setStack k t).lostRecs = s.lostRecs := by
  unfold State.setStack; split <;> rfl
@[simp] theorem State.setStack_sealing (s : State) (k : Nat) (t : Stack) : (s.setStack k t).sealing = s.sealing := by
  unfold State.setStack; split <;> rfl
@[simp] theorem State.setStack_sclBad (s : State) (k : Nat) (t : Stack) : (s.setStack k t).sclBad = s.sclBad := by
  unfold State.setStack; split <;> rfl
@[simp] theorem State.setStack_nextWait (s : State) (k : Nat) (t : Stack) : (s.setStack k t).nextWait = s.nextWait := by
  unfold State.setStack; split <;> rfl
@[simp] theorem State.setStack_reply (s : State) (k : Nat) (t : Stack) : (s.setStack k t).reply = s.reply := by
  unfold State.setStack; split <;> rfl

/-! ### `State.setPort` -/

@[simp] theorem State.setPort_agenda (s : State) (k : Nat) (p : Port) : (s.setPort k p).agenda = s.agenda := by
  unfold State.setPort; split <;> rfl
@[simp] theorem State.setPort_cur (s : State) (k : Nat) (p : Port) : (s.setPort k p).cur = s.cur := by
  unfold State.setPort; split <;> rfl
@[simp] theorem State.setPort_now (s : State) (k : Nat) (p : Port) : (s.setPort k p).now = s.now := by
  unfold State.setPort; split <;> rfl
@[simp] theorem State.setPort_bring (s : State) (k : Nat) (p : Port) : (s.setPort k p).bring = s.bring := by
  unfold State.setPort; split <;> rfl
@[simp] theorem State.setPort_boot (s : State) (k : Nat) (p : Port) : (s.setPort k p).boot = s.boot := by
  unfold State.setPort; split <;> rfl
@[simp] theorem State.setPort_mr (s : State) (k : Nat) (p : Port) : (s.setPort k p).mr = s.mr := by
  unfold State.setPort; split <;> rfl
@[simp] theorem State.setPort_quotes (s : State) (k : Nat) (p : Port) : (s.setPort k p).quotes = s.quotes := by
  unfold State.setPort; split <;> rfl
@[simp] theorem State.setPort_vault (s : State) (k : Nat) (p : Port) : (s.setPort k p).vault = s.vault := by
  unfold State.setPort; split <;> rfl
@[simp] theorem State.setPort_vaultPoison (s : State) (k : Nat) (p : Port) : (s.setPort k p).vaultPoison = s.vaultPoison := by
  unfold State.setPort; split <;> rfl
@[simp] theorem State.setPort_host (s : State) (k : Nat) (p : Port) : (s.setPort k p).host = s.host := by
  unfold State.setPort; split <;> rfl
@[simp] theorem State.setPort_hostPoison (s : State) (k : Nat) (p : Port) : (s.setPort k p).hostPoison = s.hostPoison := by
  unfold State.setPort; split <;> rfl
@[simp] theorem State.setPort_codeLog (s : State) (k : Nat) (p : Port) : (s.setPort k p).codeLog = s.codeLog := by
  unfold State.setPort; split <;> rfl
@[simp] theorem State.setPort_codeSeq (s : State) (k : Nat) (p : Port) : (s.setPort k p).codeSeq = s.codeSeq := by
  unfold State.setPort; split <;> rfl
@[simp] theorem State.setPort_owners (s : State) (k : Nat) (p : Port) : (s.setPort k p).owners = s.owners := by
  unfold State.setPort; split <;> rfl
@[simp] theorem State.setPort_tlb (s : State) (k : Nat) (p : Port) : (s.setPort k p).tlb = s.tlb := by
  unfold State.setPort; split <;> rfl
@[simp] theorem State.setPort_peerLines (s : State) (k : Nat) (p : Port) : (s.setPort k p).peerLines = s.peerLines := by
  unfold State.setPort; split <;> rfl
@[simp] theorem State.setPort_stk (s : State) (k : Nat) (p : Port) : (s.setPort k p).stk = s.stk := by
  unfold State.setPort; split <;> rfl
@[simp] theorem State.setPort_ctxs (s : State) (k : Nat) (p : Port) : (s.setPort k p).ctxs = s.ctxs := by
  unfold State.setPort; split <;> rfl
@[simp] theorem State.setPort_launches (s : State) (k : Nat) (p : Port) : (s.setPort k p).launches = s.launches := by
  unfold State.setPort; split <;> rfl
@[simp] theorem State.setPort_groups (s : State) (k : Nat) (p : Port) : (s.setPort k p).groups = s.groups := by
  unfold State.setPort; split <;> rfl
@[simp] theorem State.setPort_nextGid (s : State) (k : Nat) (p : Port) : (s.setPort k p).nextGid = s.nextGid := by
  unfold State.setPort; split <;> rfl
@[simp] theorem State.setPort_nextLid (s : State) (k : Nat) (p : Port) : (s.setPort k p).nextLid = s.nextLid := by
  unfold State.setPort; split <;> rfl
@[simp] theorem State.setPort_launchPtr (s : State) (k : Nat) (p : Port) : (s.setPort k p).launchPtr = s.launchPtr := by
  unfold State.setPort; split <;> rfl
@[simp] theorem State.setPort_queuePtr (s : State) (k : Nat) (p : Port) : (s.setPort k p).queuePtr = s.queuePtr := by
  unfold State.setPort; split <;> rfl
@[simp] theorem State.setPort_windows (s : State) (k : Nat) (p : Port) : (s.setPort k p).windows = s.windows := by
  unfold State.setPort; split <;> rfl
@[simp] theorem State.setPort_contribs (s : State) (k : Nat) (p : Port) : (s.setPort k p).contribs = s.contribs := by
  unfold State.setPort; split <;> rfl
@[simp] theorem State.setPort_rounds (s : State) (k : Nat) (p : Port) : (s.setPort k p).rounds = s.rounds := by
  unfold State.setPort; split <;> rfl
@[simp] theorem State.setPort_mgmtQ (s : State) (k : Nat) (p : Port) : (s.setPort k p).mgmtQ = s.mgmtQ := by
  unfold State.setPort; split <;> rfl
@[simp] theorem State.setPort_unmaps (s : State) (k : Nat) (p : Port) : (s.setPort k p).unmaps = s.unmaps := by
  unfold State.setPort; split <;> rfl
@[simp] theorem State.setPort_preempts (s : State) (k : Nat) (p : Port) : (s.setPort k p).preempts = s.preempts := by
  unfold State.setPort; split <;> rfl
@[simp] theorem State.setPort_events (s : State) (k : Nat) (p : Port) : (s.setPort k p).events = s.events := by
  unfold State.setPort; split <;> rfl
@[simp] theorem State.setPort_routes (s : State) (k : Nat) (p : Port) : (s.setPort k p).routes = s.routes := by
  unfold State.setPort; split <;> rfl
@[simp] theorem State.setPort_pwins (s : State) (k : Nat) (p : Port) : (s.setPort k p).pwins = s.pwins := by
  unfold State.setPort; split <;> rfl
@[simp] theorem State.setPort_outReqs (s : State) (k : Nat) (p : Port) : (s.setPort k p).outReqs = s.outReqs := by
  unfold State.setPort; split <;> rfl
@[simp] theorem State.setPort_replies (s : State) (k : Nat) (p : Port) : (s.setPort k p).replies = s.replies := by
  unfold State.setPort; split <;> rfl
@[simp] theorem State.setPort_devReqs (s : State) (k : Nat) (p : Port) : (s.setPort k p).devReqs = s.devReqs := by
  unfold State.setPort; split <;> rfl
@[simp] theorem State.setPort_nextTag (s : State) (k : Nat) (p : Port) : (s.setPort k p).nextTag = s.nextTag := by
  unfold State.setPort; split <;> rfl
@[simp] theorem State.setPort_peerTab (s : State) (k : Nat) (p : Port) : (s.setPort k p).peerTab = s.peerTab := by
  unfold State.setPort; split <;> rfl
@[simp] theorem State.setPort_lostRecs (s : State) (k : Nat) (p : Port) : (s.setPort k p).lostRecs = s.lostRecs := by
  unfold State.setPort; split <;> rfl
@[simp] theorem State.setPort_sealing (s : State) (k : Nat) (p : Port) : (s.setPort k p).sealing = s.sealing := by
  unfold State.setPort; split <;> rfl
@[simp] theorem State.setPort_sclBad (s : State) (k : Nat) (p : Port) : (s.setPort k p).sclBad = s.sclBad := by
  unfold State.setPort; split <;> rfl
@[simp] theorem State.setPort_nextWait (s : State) (k : Nat) (p : Port) : (s.setPort k p).nextWait = s.nextWait := by
  unfold State.setPort; split <;> rfl
@[simp] theorem State.setPort_reply (s : State) (k : Nat) (p : Port) : (s.setPort k p).reply = s.reply := by
  unfold State.setPort; split <;> rfl

/-! ### `State.mapGrp` -/

@[simp] theorem State.mapGrp_agenda (s : State) (gid : Nat) (f : Group → Group) : (s.mapGrp gid f).agenda = s.agenda := by
  unfold State.mapGrp; split <;> rfl
@[simp] theorem State.mapGrp_cur (s : State) (gid : Nat) (f : Group → Group) : (s.mapGrp gid f).cur = s.cur := by
  unfold State.mapGrp; split <;> rfl
@[simp] theorem State.mapGrp_now (s : State) (gid : Nat) (f : Group → Group) : (s.mapGrp gid f).now = s.now := by
  unfold State.mapGrp; split <;> rfl
@[simp] theorem State.mapGrp_bring (s : State) (gid : Nat) (f : Group → Group) : (s.mapGrp gid f).bring = s.bring := by
  unfold State.mapGrp; split <;> rfl
@[simp] theorem State.mapGrp_boot (s : State) (gid : Nat) (f : Group → Group) : (s.mapGrp gid f).boot = s.boot := by
  unfold State.mapGrp; split <;> rfl
@[simp] theorem State.mapGrp_mr (s : State) (gid : Nat) (f : Group → Group) : (s.mapGrp gid f).mr = s.mr := by
  unfold State.mapGrp; split <;> rfl
@[simp] theorem State.mapGrp_quotes (s : State) (gid : Nat) (f : Group → Group) : (s.mapGrp gid f).quotes = s.quotes := by
  unfold State.mapGrp; split <;> rfl
@[simp] theorem State.mapGrp_vault (s : State) (gid : Nat) (f : Group → Group) : (s.mapGrp gid f).vault = s.vault := by
  unfold State.mapGrp; split <;> rfl
@[simp] theorem State.mapGrp_vaultPoison (s : State) (gid : Nat) (f : Group → Group) : (s.mapGrp gid f).vaultPoison = s.vaultPoison := by
  unfold State.mapGrp; split <;> rfl
@[simp] theorem State.mapGrp_host (s : State) (gid : Nat) (f : Group → Group) : (s.mapGrp gid f).host = s.host := by
  unfold State.mapGrp; split <;> rfl
@[simp] theorem State.mapGrp_hostPoison (s : State) (gid : Nat) (f : Group → Group) : (s.mapGrp gid f).hostPoison = s.hostPoison := by
  unfold State.mapGrp; split <;> rfl
@[simp] theorem State.mapGrp_codeLog (s : State) (gid : Nat) (f : Group → Group) : (s.mapGrp gid f).codeLog = s.codeLog := by
  unfold State.mapGrp; split <;> rfl
@[simp] theorem State.mapGrp_codeSeq (s : State) (gid : Nat) (f : Group → Group) : (s.mapGrp gid f).codeSeq = s.codeSeq := by
  unfold State.mapGrp; split <;> rfl
@[simp] theorem State.mapGrp_owners (s : State) (gid : Nat) (f : Group → Group) : (s.mapGrp gid f).owners = s.owners := by
  unfold State.mapGrp; split <;> rfl
@[simp] theorem State.mapGrp_tlb (s : State) (gid : Nat) (f : Group → Group) : (s.mapGrp gid f).tlb = s.tlb := by
  unfold State.mapGrp; split <;> rfl
@[simp] theorem State.mapGrp_peerLines (s : State) (gid : Nat) (f : Group → Group) : (s.mapGrp gid f).peerLines = s.peerLines := by
  unfold State.mapGrp; split <;> rfl
@[simp] theorem State.mapGrp_stk (s : State) (gid : Nat) (f : Group → Group) : (s.mapGrp gid f).stk = s.stk := by
  unfold State.mapGrp; split <;> rfl
@[simp] theorem State.mapGrp_ctxs (s : State) (gid : Nat) (f : Group → Group) : (s.mapGrp gid f).ctxs = s.ctxs := by
  unfold State.mapGrp; split <;> rfl
@[simp] theorem State.mapGrp_launches (s : State) (gid : Nat) (f : Group → Group) : (s.mapGrp gid f).launches = s.launches := by
  unfold State.mapGrp; split <;> rfl
@[simp] theorem State.mapGrp_nextGid (s : State) (gid : Nat) (f : Group → Group) : (s.mapGrp gid f).nextGid = s.nextGid := by
  unfold State.mapGrp; split <;> rfl
@[simp] theorem State.mapGrp_nextLid (s : State) (gid : Nat) (f : Group → Group) : (s.mapGrp gid f).nextLid = s.nextLid := by
  unfold State.mapGrp; split <;> rfl
@[simp] theorem State.mapGrp_launchPtr (s : State) (gid : Nat) (f : Group → Group) : (s.mapGrp gid f).launchPtr = s.launchPtr := by
  unfold State.mapGrp; split <;> rfl
@[simp] theorem State.mapGrp_queuePtr (s : State) (gid : Nat) (f : Group → Group) : (s.mapGrp gid f).queuePtr = s.queuePtr := by
  unfold State.mapGrp; split <;> rfl
@[simp] theorem State.mapGrp_windows (s : State) (gid : Nat) (f : Group → Group) : (s.mapGrp gid f).windows = s.windows := by
  unfold State.mapGrp; split <;> rfl
@[simp] theorem State.mapGrp_contribs (s : State) (gid : Nat) (f : Group → Group) : (s.mapGrp gid f).contribs = s.contribs := by
  unfold State.mapGrp; split <;> rfl
@[simp] theorem State.mapGrp_rounds (s : State) (gid : Nat) (f : Group → Group) : (s.mapGrp gid f).rounds = s.rounds := by
  unfold State.mapGrp; split <;> rfl
@[simp] theorem State.mapGrp_mgmtQ (s : State) (gid : Nat) (f : Group → Group) : (s.mapGrp gid f).mgmtQ = s.mgmtQ := by
  unfold State.mapGrp; split <;> rfl
@[simp] theorem State.mapGrp_unmaps (s : State) (gid : Nat) (f : Group → Group) : (s.mapGrp gid f).unmaps = s.unmaps := by
  unfold State.mapGrp; split <;> rfl
@[simp] theorem State.mapGrp_preempts (s : State) (gid : Nat) (f : Group → Group) : (s.mapGrp gid f).preempts = s.preempts := by
  unfold State.mapGrp; split <;> rfl
@[simp] theorem State.mapGrp_events (s : State) (gid : Nat) (f : Group → Group) : (s.mapGrp gid f).events = s.events := by
  unfold State.mapGrp; split <;> rfl
@[simp] theorem State.mapGrp_ports (s : State) (gid : Nat) (f : Group → Group) : (s.mapGrp gid f).ports = s.ports := by
  unfold State.mapGrp; split <;> rfl
@[simp] theorem State.mapGrp_routes (s : State) (gid : Nat) (f : Group → Group) : (s.mapGrp gid f).routes = s.routes := by
  unfold State.mapGrp; split <;> rfl
@[simp] theorem State.mapGrp_pwins (s : State) (gid : Nat) (f : Group → Group) : (s.mapGrp gid f).pwins = s.pwins := by
  unfold State.mapGrp; split <;> rfl
@[simp] theorem State.mapGrp_outReqs (s : State) (gid : Nat) (f : Group → Group) : (s.mapGrp gid f).outReqs = s.outReqs := by
  unfold State.mapGrp; split <;> rfl
@[simp] theorem State.mapGrp_replies (s : State) (gid : Nat) (f : Group → Group) : (s.mapGrp gid f).replies = s.replies := by
  unfold State.mapGrp; split <;> rfl
@[simp] theorem State.mapGrp_devReqs (s : State) (gid : Nat) (f : Group → Group) : (s.mapGrp gid f).devReqs = s.devReqs := by
  unfold State.mapGrp; split <;> rfl
@[simp] theorem State.mapGrp_nextTag (s : State) (gid : Nat) (f : Group → Group) : (s.mapGrp gid f).nextTag = s.nextTag := by
  unfold State.mapGrp; split <;> rfl
@[simp] theorem State.mapGrp_peerTab (s : State) (gid : Nat) (f : Group → Group) : (s.mapGrp gid f).peerTab = s.peerTab := by
  unfold State.mapGrp; split <;> rfl
@[simp] theorem State.mapGrp_lostRecs (s : State) (gid : Nat) (f : Group → Group) : (s.mapGrp gid f).lostRecs = s.lostRecs := by
  unfold State.mapGrp; split <;> rfl
@[simp] theorem State.mapGrp_sealing (s : State) (gid : Nat) (f : Group → Group) : (s.mapGrp gid f).sealing = s.sealing := by
  unfold State.mapGrp; split <;> rfl
@[simp] theorem State.mapGrp_sclBad (s : State) (gid : Nat) (f : Group → Group) : (s.mapGrp gid f).sclBad = s.sclBad := by
  unfold State.mapGrp; split <;> rfl
@[simp] theorem State.mapGrp_nextWait (s : State) (gid : Nat) (f : Group → Group) : (s.mapGrp gid f).nextWait = s.nextWait := by
  unfold State.mapGrp; split <;> rfl
@[simp] theorem State.mapGrp_reply (s : State) (gid : Nat) (f : Group → Group) : (s.mapGrp gid f).reply = s.reply := by
  unfold State.mapGrp; split <;> rfl

/-! ### `Stream.goTo` and `Stream.wr` -/

@[simp] theorem Stream.goTo_g (st : Stream) (a : Word) : (st.goTo a).g = st.g := rfl
@[simp] theorem Stream.goTo_p (st : Stream) (a : Word) : (st.goTo a).p = st.p := rfl
@[simp] theorem Stream.goTo_lc (st : Stream) (a : Word) : (st.goTo a).lc = st.lc := rfl
@[simp] theorem Stream.goTo_nesting (st : Stream) (a : Word) : (st.goTo a).nesting = st.nesting := rfl
@[simp] theorem Stream.goTo_joined (st : Stream) (a : Word) : (st.goTo a).joined = st.joined := rfl
@[simp] theorem Stream.goTo_bp (st : Stream) (a : Word) : (st.goTo a).bp = st.bp := rfl
@[simp] theorem Stream.goTo_sb (st : Stream) (a : Word) : (st.goTo a).sb = st.sb := rfl
@[simp] theorem Stream.goTo_sbSeq (st : Stream) (a : Word) : (st.goTo a).sbSeq = st.sbSeq := rfl
@[simp] theorem Stream.goTo_fencedAt (st : Stream) (a : Word) : (st.goTo a).fencedAt = st.fencedAt := rfl
@[simp] theorem Stream.goTo_marks (st : Stream) (a : Word) : (st.goTo a).marks = st.marks := rfl
@[simp] theorem Stream.goTo_atStep (st : Stream) (a : Word) : (st.goTo a).atStep = st.atStep := rfl
@[simp] theorem Stream.goTo_wn (st : Stream) (a : Word) : (st.goTo a).wn = st.wn := rfl
@[simp] theorem Stream.goTo_chkMark (st : Stream) (a : Word) : (st.goTo a).chkMark = st.chkMark := rfl
@[simp] theorem Stream.goTo_kv (st : Stream) (a : Word) : (st.goTo a).kv = st.kv := rfl
@[simp] theorem Stream.goTo_asks (st : Stream) (a : Word) : (st.goTo a).asks = st.asks := rfl
@[simp] theorem Stream.goTo_recheck (st : Stream) (a : Word) : (st.goTo a).recheck = st.recheck := rfl
@[simp] theorem Stream.goTo_packet (st : Stream) (a : Word) : (st.goTo a).packet = st.packet := rfl
@[simp] theorem Stream.goTo_reqs (st : Stream) (a : Word) : (st.goTo a).reqs = st.reqs := rfl
@[simp] theorem Stream.goTo_parts (st : Stream) (a : Word) : (st.goTo a).parts = st.parts := rfl
@[simp] theorem Stream.goTo_past (st : Stream) (a : Word) : (st.goTo a).past = st.past := rfl
@[simp] theorem Stream.wr_lc (st : Stream) (r : Reg) (v : Word) (b : Bool) : (st.wr r v b).lc = st.lc := by
  unfold Stream.wr; split <;> rfl
@[simp] theorem Stream.wr_nesting (st : Stream) (r : Reg) (v : Word) (b : Bool) : (st.wr r v b).nesting = st.nesting := by
  unfold Stream.wr; split <;> rfl
@[simp] theorem Stream.wr_pc (st : Stream) (r : Reg) (v : Word) (b : Bool) : (st.wr r v b).pc = st.pc := by
  unfold Stream.wr; split <;> rfl
@[simp] theorem Stream.wr_skip (st : Stream) (r : Reg) (v : Word) (b : Bool) : (st.wr r v b).skip = st.skip := by
  unfold Stream.wr; split <;> rfl
@[simp] theorem Stream.wr_joined (st : Stream) (r : Reg) (v : Word) (b : Bool) : (st.wr r v b).joined = st.joined := by
  unfold Stream.wr; split <;> rfl
@[simp] theorem Stream.wr_bp (st : Stream) (r : Reg) (v : Word) (b : Bool) : (st.wr r v b).bp = st.bp := by
  unfold Stream.wr; split <;> rfl
@[simp] theorem Stream.wr_sb (st : Stream) (r : Reg) (v : Word) (b : Bool) : (st.wr r v b).sb = st.sb := by
  unfold Stream.wr; split <;> rfl
@[simp] theorem Stream.wr_sbSeq (st : Stream) (r : Reg) (v : Word) (b : Bool) : (st.wr r v b).sbSeq = st.sbSeq := by
  unfold Stream.wr; split <;> rfl
@[simp] theorem Stream.wr_pass (st : Stream) (r : Reg) (v : Word) (b : Bool) : (st.wr r v b).pass = st.pass := by
  unfold Stream.wr; split <;> rfl
@[simp] theorem Stream.wr_fencedAt (st : Stream) (r : Reg) (v : Word) (b : Bool) : (st.wr r v b).fencedAt = st.fencedAt := by
  unfold Stream.wr; split <;> rfl
@[simp] theorem Stream.wr_marks (st : Stream) (r : Reg) (v : Word) (b : Bool) : (st.wr r v b).marks = st.marks := by
  unfold Stream.wr; split <;> rfl
@[simp] theorem Stream.wr_stall (st : Stream) (r : Reg) (v : Word) (b : Bool) : (st.wr r v b).stall = st.stall := by
  unfold Stream.wr; split <;> rfl
@[simp] theorem Stream.wr_atStep (st : Stream) (r : Reg) (v : Word) (b : Bool) : (st.wr r v b).atStep = st.atStep := by
  unfold Stream.wr; split <;> rfl
@[simp] theorem Stream.wr_wn (st : Stream) (r : Reg) (v : Word) (b : Bool) : (st.wr r v b).wn = st.wn := by
  unfold Stream.wr; split <;> rfl
@[simp] theorem Stream.wr_chkMark (st : Stream) (r : Reg) (v : Word) (b : Bool) : (st.wr r v b).chkMark = st.chkMark := by
  unfold Stream.wr; split <;> rfl
@[simp] theorem Stream.wr_waiting (st : Stream) (r : Reg) (v : Word) (b : Bool) : (st.wr r v b).waiting = st.waiting := by
  unfold Stream.wr; split <;> rfl
@[simp] theorem Stream.wr_kv (st : Stream) (r : Reg) (v : Word) (b : Bool) : (st.wr r v b).kv = st.kv := by
  unfold Stream.wr; split <;> rfl
@[simp] theorem Stream.wr_asks (st : Stream) (r : Reg) (v : Word) (b : Bool) : (st.wr r v b).asks = st.asks := by
  unfold Stream.wr; split <;> rfl
@[simp] theorem Stream.wr_recheck (st : Stream) (r : Reg) (v : Word) (b : Bool) : (st.wr r v b).recheck = st.recheck := by
  unfold Stream.wr; split <;> rfl
@[simp] theorem Stream.wr_packet (st : Stream) (r : Reg) (v : Word) (b : Bool) : (st.wr r v b).packet = st.packet := by
  unfold Stream.wr; split <;> rfl
@[simp] theorem Stream.wr_reqs (st : Stream) (r : Reg) (v : Word) (b : Bool) : (st.wr r v b).reqs = st.reqs := by
  unfold Stream.wr; split <;> rfl
@[simp] theorem Stream.wr_parts (st : Stream) (r : Reg) (v : Word) (b : Bool) : (st.wr r v b).parts = st.parts := by
  unfold Stream.wr; split <;> rfl
@[simp] theorem Stream.wr_past (st : Stream) (r : Reg) (v : Word) (b : Bool) : (st.wr r v b).past = st.past := by
  unfold Stream.wr; split <;> rfl
@[simp] theorem Stream.wr_fetches (st : Stream) (r : Reg) (v : Word) (b : Bool) : (st.wr r v b).fetches = st.fetches := by
  unfold Stream.wr; split <;> rfl
@[simp] theorem Stream.wr_wide (st : Stream) (r : Reg) (v : Word) (b : Bool) : (st.wr r v b).wide = st.wide := by
  unfold Stream.wr; split <;> rfl
@[simp] theorem Stream.wr_reads (st : Stream) (r : Reg) (v : Word) (b : Bool) : (st.wr r v b).reads = st.reads := by
  unfold Stream.wr; split <;> rfl

/-! ### `Group.setStream` -/

@[simp] theorem Group.setStream_gid (g : Group) (sl : Slice) (st : Stream) : (g.setStream sl st).gid = g.gid := by
  cases sl <;> rfl
@[simp] theorem Group.setStream_ctx (g : Group) (sl : Slice) (st : Stream) : (g.setStream sl st).ctx = g.ctx := by
  cases sl <;> rfl
@[simp] theorem Group.setStream_lid (g : Group) (sl : Slice) (st : Stream) : (g.setStream sl st).lid = g.lid := by
  cases sl <;> rfl
@[simp] theorem Group.setStream_gnum (g : Group) (sl : Slice) (st : Stream) : (g.setStream sl st).gnum = g.gnum := by
  cases sl <;> rfl
@[simp] theorem Group.setStream_stack0 (g : Group) (sl : Slice) (st : Stream) : (g.setStream sl st).stack0 = g.stack0 := by
  cases sl <;> rfl
@[simp] theorem Group.setStream_row0 (g : Group) (sl : Slice) (st : Stream) : (g.setStream sl st).row0 = g.row0 := by
  cases sl <;> rfl
@[simp] theorem Group.setStream_n (g : Group) (sl : Slice) (st : Stream) : (g.setStream sl st).n = g.n := by
  cases sl <;> rfl
@[simp] theorem Group.setStream_w (g : Group) (sl : Slice) (st : Stream) : (g.setStream sl st).w = g.w := by
  cases sl <;> rfl
@[simp] theorem Group.setStream_x (g : Group) (sl : Slice) (st : Stream) : (g.setStream sl st).x = g.x := by
  cases sl <;> rfl
@[simp] theorem Group.setStream_prio (g : Group) (sl : Slice) (st : Stream) : (g.setStream sl st).prio = g.prio := by
  cases sl <;> rfl
@[simp] theorem Group.setStream_rbound (g : Group) (sl : Slice) (st : Stream) : (g.setStream sl st).rbound = g.rbound := by
  cases sl <;> rfl
@[simp] theorem Group.setStream_cor (g : Group) (sl : Slice) (st : Stream) : (g.setStream sl st).cor = g.cor := by
  cases sl <;> rfl
@[simp] theorem Group.setStream_code (g : Group) (sl : Slice) (st : Stream) : (g.setStream sl st).code = g.code := by
  cases sl <;> rfl
@[simp] theorem Group.setStream_status (g : Group) (sl : Slice) (st : Stream) : (g.setStream sl st).status = g.status := by
  cases sl <;> rfl
@[simp] theorem Group.setStream_preq (g : Group) (sl : Slice) (st : Stream) : (g.setStream sl st).preq = g.preq := by
  cases sl <;> rfl
@[simp] theorem Group.setStream_unit (g : Group) (sl : Slice) (st : Stream) : (g.setStream sl st).unit = g.unit := by
  cases sl <;> rfl
@[simp] theorem Group.setStream_chunk (g : Group) (sl : Slice) (st : Stream) : (g.setStream sl st).chunk = g.chunk := by
  cases sl <;> rfl
@[simp] theorem Group.setStream_iter (g : Group) (sl : Slice) (st : Stream) : (g.setStream sl st).iter = g.iter := by
  cases sl <;> rfl
@[simp] theorem Group.setStream_idle (g : Group) (sl : Slice) (st : Stream) : (g.setStream sl st).idle = g.idle := by
  cases sl <;> rfl
@[simp] theorem Group.setStream_icache (g : Group) (sl : Slice) (st : Stream) : (g.setStream sl st).icache = g.icache := by
  cases sl <;> rfl
@[simp] theorem Group.setStream_sp (g : Group) (sl : Slice) (st : Stream) : (g.setStream sl st).sp = g.sp := by
  cases sl <;> rfl
@[simp] theorem Group.setStream_qs (g : Group) (sl : Slice) (st : Stream) : (g.setStream sl st).qs = g.qs := by
  cases sl <;> rfl
@[simp] theorem Group.setStream_slip (g : Group) (sl : Slice) (st : Stream) : (g.setStream sl st).slip = g.slip := by
  cases sl <;> rfl
@[simp] theorem Group.setStream_sems (g : Group) (sl : Slice) (st : Stream) : (g.setStream sl st).sems = g.sems := by
  cases sl <;> rfl
@[simp] theorem Group.setStream_nests (g : Group) (sl : Slice) (st : Stream) : (g.setStream sl st).nests = g.nests := by
  cases sl <;> rfl
@[simp] theorem Group.setStream_chk (g : Group) (sl : Slice) (st : Stream) : (g.setStream sl st).chk = g.chk := by
  cases sl <;> rfl
@[simp] theorem Group.setStream_fflags (g : Group) (sl : Slice) (st : Stream) : (g.setStream sl st).fflags = g.fflags := by
  cases sl <;> rfl
@[simp] theorem Group.setStream_round (g : Group) (sl : Slice) (st : Stream) : (g.setStream sl st).round = g.round := by
  cases sl <;> rfl
@[simp] theorem Group.setStream_slipLim (g : Group) (sl : Slice) (st : Stream) : (g.setStream sl st).slipLim = g.slipLim := by
  cases sl <;> rfl
@[simp] theorem Group.setStream_tol (g : Group) (sl : Slice) (st : Stream) : (g.setStream sl st).tol = g.tol := by
  cases sl <;> rfl
@[simp] theorem Group.setStream_firn (g : Group) (sl : Slice) (st : Stream) : (g.setStream sl st).firn = g.firn := by
  cases sl <;> rfl
@[simp] theorem Group.setStream_cycle (g : Group) (sl : Slice) (st : Stream) : (g.setStream sl st).cycle = g.cycle := by
  cases sl <;> rfl
@[simp] theorem Group.setStream_cfg (g : Group) (sl : Slice) (st : Stream) : (g.setStream sl st).cfg = g.cfg := by
  cases sl <;> rfl
@[simp] theorem Group.setStream_fmt (g : Group) (sl : Slice) (st : Stream) : (g.setStream sl st).fmt = g.fmt := by
  cases sl <;> rfl
@[simp] theorem Group.setStream_counters (g : Group) (sl : Slice) (st : Stream) : (g.setStream sl st).counters = g.counters := by
  cases sl <;> rfl
@[simp] theorem Group.setStream_mchk (g : Group) (sl : Slice) (st : Stream) : (g.setStream sl st).mchk = g.mchk := by
  cases sl <;> rfl
@[simp] theorem Group.setStream_active (g : Group) (sl : Slice) (st : Stream) : (g.setStream sl st).active = g.active := by
  cases sl <;> rfl
@[simp] theorem Group.setStream_shadow (g : Group) (sl : Slice) (st : Stream) : (g.setStream sl st).shadow = g.shadow := by
  cases sl <;> rfl
@[simp] theorem Group.setStream_loads (g : Group) (sl : Slice) (st : Stream) : (g.setStream sl st).loads = g.loads := by
  cases sl <;> rfl
@[simp] theorem Group.setStream_acc (g : Group) (sl : Slice) (st : Stream) : (g.setStream sl st).acc = g.acc := by
  cases sl <;> rfl
@[simp] theorem Group.setStream_eq (g : Group) (sl : Slice) (st : Stream) : (g.setStream sl st).eq = g.eq := by
  cases sl <;> rfl
@[simp] theorem Group.setStream_cmdCount (g : Group) (sl : Slice) (st : Stream) : (g.setStream sl st).cmdCount = g.cmdCount := by
  cases sl <;> rfl
@[simp] theorem Group.setStream_nextUid (g : Group) (sl : Slice) (st : Stream) : (g.setStream sl st).nextUid = g.nextUid := by
  cases sl <;> rfl
@[simp] theorem Group.setStream_lastCopy (g : Group) (sl : Slice) (st : Stream) : (g.setStream sl st).lastCopy = g.lastCopy := by
  cases sl <;> rfl
@[simp] theorem Group.setStream_loop (g : Group) (sl : Slice) (st : Stream) : (g.setStream sl st).loop = g.loop := by
  cases sl <;> rfl
@[simp] theorem Group.setStream_watch (g : Group) (sl : Slice) (st : Stream) : (g.setStream sl st).watch = g.watch := by
  cases sl <;> rfl
@[simp] theorem Group.setStream_mredRound (g : Group) (sl : Slice) (st : Stream) : (g.setStream sl st).mredRound = g.mredRound := by
  cases sl <;> rfl
@[simp] theorem Group.setStream_spad (g : Group) (sl : Slice) (st : Stream) : (g.setStream sl st).spad = g.spad := by
  cases sl <;> rfl
@[simp] theorem Group.setStream_spadPoison (g : Group) (sl : Slice) (st : Stream) : (g.setStream sl st).spadPoison = g.spadPoison := by
  cases sl <;> rfl
@[simp] theorem Group.setStream_newPoison (g : Group) (sl : Slice) (st : Stream) : (g.setStream sl st).newPoison = g.newPoison := by
  cases sl <;> rfl
@[simp] theorem Group.setStream_recs (g : Group) (sl : Slice) (st : Stream) : (g.setStream sl st).recs = g.recs := by
  cases sl <;> rfl
@[simp] theorem Group.setStream_stopno (g : Group) (sl : Slice) (st : Stream) : (g.setStream sl st).stopno = g.stopno := by
  cases sl <;> rfl

/-! ### `Group.setQueue` -/

@[simp] theorem Group.setQueue_gid (g : Group) (q : EQueue) (l : List Cmd) : (g.setQueue q l).gid = g.gid := by
  cases q <;> rfl
@[simp] theorem Group.setQueue_ctx (g : Group) (q : EQueue) (l : List Cmd) : (g.setQueue q l).ctx = g.ctx := by
  cases q <;> rfl
@[simp] theorem Group.setQueue_lid (g : Group) (q : EQueue) (l : List Cmd) : (g.setQueue q l).lid = g.lid := by
  cases q <;> rfl
@[simp] theorem Group.setQueue_gnum (g : Group) (q : EQueue) (l : List Cmd) : (g.setQueue q l).gnum = g.gnum := by
  cases q <;> rfl
@[simp] theorem Group.setQueue_stack0 (g : Group) (q : EQueue) (l : List Cmd) : (g.setQueue q l).stack0 = g.stack0 := by
  cases q <;> rfl
@[simp] theorem Group.setQueue_row0 (g : Group) (q : EQueue) (l : List Cmd) : (g.setQueue q l).row0 = g.row0 := by
  cases q <;> rfl
@[simp] theorem Group.setQueue_n (g : Group) (q : EQueue) (l : List Cmd) : (g.setQueue q l).n = g.n := by
  cases q <;> rfl
@[simp] theorem Group.setQueue_w (g : Group) (q : EQueue) (l : List Cmd) : (g.setQueue q l).w = g.w := by
  cases q <;> rfl
@[simp] theorem Group.setQueue_x (g : Group) (q : EQueue) (l : List Cmd) : (g.setQueue q l).x = g.x := by
  cases q <;> rfl
@[simp] theorem Group.setQueue_prio (g : Group) (q : EQueue) (l : List Cmd) : (g.setQueue q l).prio = g.prio := by
  cases q <;> rfl
@[simp] theorem Group.setQueue_rbound (g : Group) (q : EQueue) (l : List Cmd) : (g.setQueue q l).rbound = g.rbound := by
  cases q <;> rfl
@[simp] theorem Group.setQueue_cor (g : Group) (q : EQueue) (l : List Cmd) : (g.setQueue q l).cor = g.cor := by
  cases q <;> rfl
@[simp] theorem Group.setQueue_code (g : Group) (q : EQueue) (l : List Cmd) : (g.setQueue q l).code = g.code := by
  cases q <;> rfl
@[simp] theorem Group.setQueue_status (g : Group) (q : EQueue) (l : List Cmd) : (g.setQueue q l).status = g.status := by
  cases q <;> rfl
@[simp] theorem Group.setQueue_preq (g : Group) (q : EQueue) (l : List Cmd) : (g.setQueue q l).preq = g.preq := by
  cases q <;> rfl
@[simp] theorem Group.setQueue_unit (g : Group) (q : EQueue) (l : List Cmd) : (g.setQueue q l).unit = g.unit := by
  cases q <;> rfl
@[simp] theorem Group.setQueue_chunk (g : Group) (q : EQueue) (l : List Cmd) : (g.setQueue q l).chunk = g.chunk := by
  cases q <;> rfl
@[simp] theorem Group.setQueue_iter (g : Group) (q : EQueue) (l : List Cmd) : (g.setQueue q l).iter = g.iter := by
  cases q <;> rfl
@[simp] theorem Group.setQueue_idle (g : Group) (q : EQueue) (l : List Cmd) : (g.setQueue q l).idle = g.idle := by
  cases q <;> rfl
@[simp] theorem Group.setQueue_icache (g : Group) (q : EQueue) (l : List Cmd) : (g.setQueue q l).icache = g.icache := by
  cases q <;> rfl
@[simp] theorem Group.setQueue_a (g : Group) (q : EQueue) (l : List Cmd) : (g.setQueue q l).a = g.a := by
  cases q <;> rfl
@[simp] theorem Group.setQueue_c (g : Group) (q : EQueue) (l : List Cmd) : (g.setQueue q l).c = g.c := by
  cases q <;> rfl
@[simp] theorem Group.setQueue_sp (g : Group) (q : EQueue) (l : List Cmd) : (g.setQueue q l).sp = g.sp := by
  cases q <;> rfl
@[simp] theorem Group.setQueue_qs (g : Group) (q : EQueue) (l : List Cmd) : (g.setQueue q l).qs = g.qs := by
  cases q <;> rfl
@[simp] theorem Group.setQueue_slip (g : Group) (q : EQueue) (l : List Cmd) : (g.setQueue q l).slip = g.slip := by
  cases q <;> rfl
@[simp] theorem Group.setQueue_sems (g : Group) (q : EQueue) (l : List Cmd) : (g.setQueue q l).sems = g.sems := by
  cases q <;> rfl
@[simp] theorem Group.setQueue_nests (g : Group) (q : EQueue) (l : List Cmd) : (g.setQueue q l).nests = g.nests := by
  cases q <;> rfl
@[simp] theorem Group.setQueue_chk (g : Group) (q : EQueue) (l : List Cmd) : (g.setQueue q l).chk = g.chk := by
  cases q <;> rfl
@[simp] theorem Group.setQueue_fflags (g : Group) (q : EQueue) (l : List Cmd) : (g.setQueue q l).fflags = g.fflags := by
  cases q <;> rfl
@[simp] theorem Group.setQueue_round (g : Group) (q : EQueue) (l : List Cmd) : (g.setQueue q l).round = g.round := by
  cases q <;> rfl
@[simp] theorem Group.setQueue_slipLim (g : Group) (q : EQueue) (l : List Cmd) : (g.setQueue q l).slipLim = g.slipLim := by
  cases q <;> rfl
@[simp] theorem Group.setQueue_tol (g : Group) (q : EQueue) (l : List Cmd) : (g.setQueue q l).tol = g.tol := by
  cases q <;> rfl
@[simp] theorem Group.setQueue_firn (g : Group) (q : EQueue) (l : List Cmd) : (g.setQueue q l).firn = g.firn := by
  cases q <;> rfl
@[simp] theorem Group.setQueue_cycle (g : Group) (q : EQueue) (l : List Cmd) : (g.setQueue q l).cycle = g.cycle := by
  cases q <;> rfl
@[simp] theorem Group.setQueue_cfg (g : Group) (q : EQueue) (l : List Cmd) : (g.setQueue q l).cfg = g.cfg := by
  cases q <;> rfl
@[simp] theorem Group.setQueue_fmt (g : Group) (q : EQueue) (l : List Cmd) : (g.setQueue q l).fmt = g.fmt := by
  cases q <;> rfl
@[simp] theorem Group.setQueue_counters (g : Group) (q : EQueue) (l : List Cmd) : (g.setQueue q l).counters = g.counters := by
  cases q <;> rfl
@[simp] theorem Group.setQueue_mchk (g : Group) (q : EQueue) (l : List Cmd) : (g.setQueue q l).mchk = g.mchk := by
  cases q <;> rfl
@[simp] theorem Group.setQueue_active (g : Group) (q : EQueue) (l : List Cmd) : (g.setQueue q l).active = g.active := by
  cases q <;> rfl
@[simp] theorem Group.setQueue_shadow (g : Group) (q : EQueue) (l : List Cmd) : (g.setQueue q l).shadow = g.shadow := by
  cases q <;> rfl
@[simp] theorem Group.setQueue_loads (g : Group) (q : EQueue) (l : List Cmd) : (g.setQueue q l).loads = g.loads := by
  cases q <;> rfl
@[simp] theorem Group.setQueue_acc (g : Group) (q : EQueue) (l : List Cmd) : (g.setQueue q l).acc = g.acc := by
  cases q <;> rfl
@[simp] theorem Group.setQueue_cmdCount (g : Group) (q : EQueue) (l : List Cmd) : (g.setQueue q l).cmdCount = g.cmdCount := by
  cases q <;> rfl
@[simp] theorem Group.setQueue_nextUid (g : Group) (q : EQueue) (l : List Cmd) : (g.setQueue q l).nextUid = g.nextUid := by
  cases q <;> rfl
@[simp] theorem Group.setQueue_lastCopy (g : Group) (q : EQueue) (l : List Cmd) : (g.setQueue q l).lastCopy = g.lastCopy := by
  cases q <;> rfl
@[simp] theorem Group.setQueue_loop (g : Group) (q : EQueue) (l : List Cmd) : (g.setQueue q l).loop = g.loop := by
  cases q <;> rfl
@[simp] theorem Group.setQueue_watch (g : Group) (q : EQueue) (l : List Cmd) : (g.setQueue q l).watch = g.watch := by
  cases q <;> rfl
@[simp] theorem Group.setQueue_mredRound (g : Group) (q : EQueue) (l : List Cmd) : (g.setQueue q l).mredRound = g.mredRound := by
  cases q <;> rfl
@[simp] theorem Group.setQueue_spad (g : Group) (q : EQueue) (l : List Cmd) : (g.setQueue q l).spad = g.spad := by
  cases q <;> rfl
@[simp] theorem Group.setQueue_spadPoison (g : Group) (q : EQueue) (l : List Cmd) : (g.setQueue q l).spadPoison = g.spadPoison := by
  cases q <;> rfl
@[simp] theorem Group.setQueue_newPoison (g : Group) (q : EQueue) (l : List Cmd) : (g.setQueue q l).newPoison = g.newPoison := by
  cases q <;> rfl
@[simp] theorem Group.setQueue_recs (g : Group) (q : EQueue) (l : List Cmd) : (g.setQueue q l).recs = g.recs := by
  cases q <;> rfl
@[simp] theorem Group.setQueue_stopno (g : Group) (q : EQueue) (l : List Cmd) : (g.setQueue q l).stopno = g.stopno := by
  cases q <;> rfl

/-! ### Streams of a group -/

@[simp] theorem Group.setStream_same (g : Group) (sl : Slice) (st : Stream) : (g.setStream sl st).stream sl = st := by
  cases sl <;> rfl

@[simp] theorem Group.setStream_partner (g : Group) (sl : Slice) (st : Stream) :
    (g.setStream sl st).stream sl.partner = g.stream sl.partner := by
  cases sl <;> rfl

@[simp] theorem Group.setStream_setStream (g : Group) (sl : Slice) (x y : Stream) :
    (g.setStream sl x).setStream sl y = g.setStream sl y := by
  cases sl <;> rfl

@[simp] theorem Group.setStream_stream (g : Group) (sl : Slice) : g.setStream sl (g.stream sl) = g := by
  cases sl <;> rfl

@[simp] theorem Group.setQueue_same (g : Group) (q : EQueue) (l : List Cmd) : (g.setQueue q l).queue q = l := by
  cases q <;> simp [Group.queue, Group.setQueue, EQueue.idx]

theorem Group.setQueue_other (g : Group) (q r : EQueue) (l : List Cmd) (h : r ≠ q) : (g.setQueue q l).queue r = g.queue r := by
  cases q <;> cases r <;> simp_all [Group.queue, Group.setQueue, EQueue.idx]

/-! ### Found again -/

theorem State.grp?_gid {s : State} {gid : Nat} {g : Group} (h : s.grp? gid = some g) : g.gid = gid := by
  simpa using List.find?_some h

theorem find?_map_replace {α : Type} (l : List α) (key : α → Nat) (x : α) (k : Nat) :
    (l.map (fun y => if key y == key x then x else y)).find? (fun y => key y == k) =
      if k = key x then (l.find? (fun y => key y == k)).map (fun _ => x) else l.find? (fun y => key y == k) := by
  induction l with
  | nil => simp
  | cons y l ih =>
    by_cases h1 : key y = key x <;> by_cases h2 : k = key x <;> by_cases h3 : key y = k <;> simp_all

/-- A group put back is found again; every other group is as it was. -/
theorem State.grp?_setGrp (s : State) (g : Group) (gid : Nat) :
    (s.setGrp g).grp? gid = if gid = g.gid then (s.grp? gid).map (fun _ => g) else s.grp? gid :=
  find?_map_replace s.groups Group.gid g gid

/-- A context put back is found again; every other context is as it was. -/
theorem State.ctx?_setCtx (s : State) (c : Context) (n : Nat) :
    (s.setCtx c).ctx? n = if n = c.num then (s.ctx? n).map (fun _ => c) else s.ctx? n :=
  find?_map_replace s.ctxs Context.num c n

/-- A launch put back is found again; every other launch is as it was. -/
theorem State.launch?_setLaunch (s : State) (l : Launch) (n : Nat) :
    (s.setLaunch l).launch? n = if n = l.lid then (s.launch? n).map (fun _ => l) else s.launch? n :=
  find?_map_replace s.launches Launch.lid l n

@[simp] theorem State.ctx?_setGrp (s : State) (g : Group) (c : Nat) : (s.setGrp g).ctx? c = s.ctx? c := rfl
@[simp] theorem State.launch?_setGrp (s : State) (g : Group) (c : Nat) : (s.setGrp g).launch? c = s.launch? c := rfl
@[simp] theorem State.grp?_setCtx (s : State) (c : Context) (n : Nat) : (s.setCtx c).grp? n = s.grp? n := rfl
@[simp] theorem State.grp?_setLaunch (s : State) (l : Launch) (n : Nat) : (s.setLaunch l).grp? n = s.grp? n := rfl

/-- Mapping a group that is there is putting its image back. -/
theorem State.mapGrp_eq {s : State} {gid : Nat} {g : Group} (h : s.grp? gid = some g) (f : Group → Group) :
    s.mapGrp gid f = s.setGrp (f g) := by
  simp [State.mapGrp, h]

theorem State.mapStream_eq {s : State} {gid : Nat} {g : Group} (h : s.grp? gid = some g) (sl : Slice) (f : Stream → Stream) :
    s.mapStream gid sl f = s.setGrp (g.setStream sl (f (g.stream sl))) := by
  simp [State.mapStream, State.mapGrp, h]

theorem State.setStream_eq {s : State} {gid : Nat} {g : Group} (h : s.grp? gid = some g) (sl : Slice) (st : Stream) :
    s.setStream gid sl st = s.setGrp (g.setStream sl st) := by
  simp [State.setStream, h]

/-- What a group is after `mapGrp`, where the map keeps its number. -/
theorem State.grp?_mapGrp {s : State} {gid : Nat} {g : Group} (h : s.grp? gid = some g) (f : Group → Group)
    (hf : (f g).gid = g.gid) : (s.mapGrp gid f).grp? gid = some (f g) := by
  rw [State.mapGrp_eq h, State.grp?_setGrp, hf, State.grp?_gid h]
  simp [h]

theorem State.grp?_mapStream {s : State} {gid : Nat} {g : Group} (h : s.grp? gid = some g) (sl : Slice) (f : Stream → Stream) :
    (s.mapStream gid sl f).grp? gid = some (g.setStream sl (f (g.stream sl))) :=
  State.grp?_mapGrp h _ (by simp)

end Sys2Proof.Machine
end

