-- ==== Sys2Proof/Laws/Ops.lean ====
section
/-! SUPPORT. Shared operations: what issuing does, what a trap and a wait leave, what the operations on memory keep,
how a turn begins, how a management event runs its request; what is known and copied of peers' memory. -/

namespace Sys2Proof.Machine

open Sys2Proof

/-! ### Issuing -/

/-- The issuing stream runs the meaning. -/
theorem issue_eq {s : State} {gid : Nat} {sl : Slice} {g : Group} (h : Issuing s gid sl g) (f : Nat → Slice → Group → Stream → Out) :
    issue s f = f gid sl g (g.stream sl) := by
  simp [issue, h.1, h.2.1, h.2.2]

/-- An instruction that writes one register. -/
theorem issueReg_eq {s : State} {gid : Nat} {sl : Slice} {g : Group} (h : Issuing s gid sl g) (d : Reg) (v : Stream → Word)
    (p : Stream → Bool) : issueReg d v p s = wrote s gid sl d (v (g.stream sl)) (p (g.stream sl)) := by
  simp only [issueReg, issue_eq h, wrote, State.done, State.mapStream_eq h.2.1, State.setStream_eq h.2.1]

theorem Issuing.grp {s : State} {gid : Nat} {sl : Slice} {g : Group} (h : Issuing s gid sl g) : s.grp? gid = some g := h.2.1

/-- Writing back the issuing stream changed by `f` is mapping it. -/
theorem Issuing.setStream {s : State} {gid : Nat} {sl : Slice} {g : Group} (h : Issuing s gid sl g) (f : Stream → Stream) :
    s.setStream gid sl (f (g.stream sl)) = s.mapStream gid sl f := by
  rw [State.mapStream_eq h.2.1, State.setStream_eq h.2.1]

/-- A read of a register just written. -/
theorem Stream.rd_wr (st : Stream) (d r : Reg) (v : Word) (p : Bool) :
    (st.wr d v p).rd r = if r = d ∧ d ≠ 0 then v else st.rd r := by
  by_cases hr : r = 0
  · have hn : ¬(r = d ∧ d ≠ 0) := fun h => h.2 (h.1 ▸ hr)
    rw [if_neg hn]
    simp only [Stream.rd, if_pos hr]
  · by_cases hd : d = 0
    · have hn : ¬(r = d ∧ d ≠ 0) := fun h => h.2 hd
      rw [if_neg hn]
      simp only [Stream.wr, if_pos hd]
    · simp only [Stream.rd, Stream.wr, if_neg hr, if_neg hd]
      by_cases e : r = d
      · subst e
        rw [if_pos ⟨rfl, hd⟩]
        simp
      · have hn : ¬(r = d ∧ d ≠ 0) := fun h => e h.1
        have : d.toNat ≠ r.toNat := fun x => e (BitVec.eq_of_toNat_eq x.symm)
        rw [if_neg hn]
        simp [this]

/-! ### Traps and waits -/

/-- A raised trap halts the group, enters its record where none of a stream stood before, and stops a running group. -/
theorem State.grp?_raise {s : State} {gid : Nat} {g : Group} (h : s.grp? gid = some g) (src : Nat) (t : TrapInfo) (skip : Bool)
    (idx : Nat) : (s.raise gid src t skip idx).grp? gid = some { g.halt with
      recs := if (src ≤ 1 && g.recs.any (fun r => r.src ≤ 1)) = true then g.recs
        else g.recs ++ [
          { src := src, cause := t.cause, reason := t.reason, level := t.level, phys := t.phys, skip := skip,
            addr := BitVec.ofNat 64 t.addr, status := t.status, qsel := t.qsel, slot := t.slot, cmdidx := idx, cycle := g.cycle }]
      status := match g.status with | .running => .stopping | st => st } := by
  simp only [State.raise, h]
  rw [State.grp?_setGrp]
  simp only [Group.halt, State.grp?_gid h, if_true, h, Option.map_some]
  all_goals rfl

/-- A stream that waits is the stream with its mark. -/
theorem State.stallOn_eq {s : State} {gid : Nat} {g : Group} (h : s.grp? gid = some g) (sl : Slice) (k : Stall) :
    s.stallOn gid sl k = s.setGrp (g.setStream sl { g.stream sl with stall := some k }) :=
  State.mapStream_eq h sl _

/-! ### Memory -/

theorem State.memoriesWf_iff (s : State) : s.memoriesWf = true ↔
    s.vault.wf = true ∧ s.host.wf = true ∧ ∀ g ∈ s.groups, g.spad.wf = true := by
  simp [State.memoriesWf, and_assoc]

/-- Putting a group back keeps every memory canonical where its scratchpad is. -/
theorem State.setGrp_memoriesWf {s : State} {g : Group} (h : s.memoriesWf = true) (hg : g.spad.wf = true) :
    (s.setGrp g).memoriesWf = true := by
  rw [State.memoriesWf_iff] at h ⊢
  refine ⟨h.1, h.2.1, ?_⟩
  intro k hk
  simp only [State.setGrp, List.mem_map] at hk
  obtain ⟨y, hy, rfl⟩ := hk
  split
  · exact hg
  · exact h.2.2 y hy

theorem State.grp?_mem {s : State} {gid : Nat} {g : Group} (h : s.grp? gid = some g) : g ∈ s.groups := List.mem_of_find?_eq_some h

/-- Mapping a group by what leaves its scratchpad alone keeps every memory canonical. -/
theorem State.mapGrp_memoriesWf {s : State} (h : s.memoriesWf = true) (gid : Nat) (f : Group → Group)
    (hf : ∀ g ∈ s.groups, (f g).spad.wf = true) : (s.mapGrp gid f).memoriesWf = true := by
  unfold State.mapGrp
  split
  · rename_i g hg
    exact State.setGrp_memoriesWf h (hf g (State.grp?_mem hg))
  · exact h

/-- The stack caches and the stacks' counters stand apart from the memories and the groups. -/
theorem State.dirtySector_memories (s : State) (a : Nat) : (s.dirtySector a).vault = s.vault ∧ (s.dirtySector a).host = s.host ∧
    (s.dirtySector a).groups = s.groups := by
  simp [State.dirtySector, State.cacheSector]

theorem State.poisonVault_memories (s : State) (a : Nat) : (s.poisonVault a).vault = s.vault ∧ (s.poisonVault a).host = s.host ∧
    (s.poisonVault a).groups = s.groups := by
  unfold State.poisonVault
  split
  · simp
  · unfold State.countStack
    simp only []
    split <;> simp

theorem foldl_memories (f : State → Nat → State)
    (hf : ∀ s a, (f s a).vault = s.vault ∧ (f s a).host = s.host ∧ (f s a).groups = s.groups) (l : List Nat) (s : State) :
    (l.foldl f s).vault = s.vault ∧ (l.foldl f s).host = s.host ∧ (l.foldl f s).groups = s.groups := by
  induction l generalizing s with
  | nil => exact ⟨rfl, rfl, rfl⟩
  | cons a l ih =>
    obtain ⟨h1, h2, h3⟩ := ih (f s a)
    obtain ⟨k1, k2, k3⟩ := hf s a
    exact ⟨h1.trans k1, h2.trans k2, h3.trans k3⟩

/-- Poison changes no byte of a scratchpad. -/
theorem Group.foldl_poisonSpad (l : List Nat) (g : Group) : (l.foldl Group.poisonSpad g).spad = g.spad := by
  induction l generalizing g with
  | nil => rfl
  | cons a l ih =>
    refine (ih (g.poisonSpad a)).trans ?_
    unfold Group.poisonSpad
    split <;> rfl

/-- What a write to a scratchpad leaves in it. -/
theorem Group.spadWrite_spad (g : Group) (o : Nat) (bs : List Byte) (p w : Bool) :
    (g.spadWrite o bs p w).spad = g.spad.write o bs := by
  unfold Group.spadWrite
  simp only []
  split
  · exact Group.foldl_poisonSpad _ _
  · rfl

/-- Performing raw bytes keeps every memory canonical and changes no group. -/
theorem State.performRaw_memories (s : State) (l : MemLoc) (bs : List Byte) (p w : Bool) :
    (s.performRaw l bs p w).groups = s.groups ∧
    ((s.performRaw l bs p w).vault = s.vault ∨ ∃ a, l = .vault a ∧ (s.performRaw l bs p w).vault = s.vault.write a bs) ∧
    ((s.performRaw l bs p w).host = s.host ∨ ∃ a, l = .host a ∧ (s.performRaw l bs p w).host = s.host.write a bs) := by
  have hl : ∀ n, (s.logWrite l n).groups = s.groups ∧ (s.logWrite l n).vault = s.vault ∧ (s.logWrite l n).host = s.host := by
    intro n; unfold State.logWrite; split
    · exact ⟨rfl, rfl, rfl⟩
    · split <;> exact ⟨rfl, rfl, rfl⟩
  have h := hl bs.length
  unfold State.performRaw
  by_cases hn : bs.length = 0
  · simp [hn]
  · simp only [hn, if_false]
    cases l with
    | vault a =>
      have hd := fun (s : State) => foldl_memories _ State.dirtySector_memories (sectorsOf a bs.length) s
      have hp := fun (s : State) => foldl_memories _ State.poisonVault_memories (sectorsOf a bs.length) s
      cases p <;>
        simp [(hp _).1, (hp _).2.1, (hp _).2.2, (hd _).1, (hd _).2.1, (hd _).2.2, h]
    | host a => simp [h]
    | peer i a => simp [h]
    | spad o => simp [h]

/-- A performed write keeps every memory canonical. -/
theorem State.performWrite_memoriesWf {s : State} (h : s.memoriesWf = true) (l : MemLoc) (bs : List Byte) (p w : Bool) :
    (s.performWrite l bs p w).memoriesWf = true := by
  have raw : (s.performRaw l bs p w).memoriesWf = true := by
    rw [State.memoriesWf_iff] at h ⊢
    obtain ⟨h1, h2, h3⟩ := State.performRaw_memories s l bs p w
    rw [h1]
    refine ⟨?_, ?_, h.2.2⟩
    · rcases h2 with e | ⟨a, _, e⟩ <;> rw [e]
      · exact h.1
      · exact Memory.write_wf h.1 _ _
    · rcases h3 with e | ⟨a, _, e⟩ <;> rw [e]
      · exact h.2.1
      · exact Memory.write_wf h.2.1 _ _
  unfold State.performWrite
  split
  · split
    · exact h
    · exact raw
  · exact raw

theorem State.performEntry_memoriesWf {s : State} (h : s.memoriesWf = true) (gid : Nat) (e : StoreEntry) :
    (s.performEntry gid e).memoriesWf = true := by
  unfold State.performEntry
  split
  · split
    · rename_i g hg
      refine State.setGrp_memoriesWf h ?_
      rw [Group.spadWrite_spad]
      exact Memory.write_wf (((State.memoriesWf_iff s).1 h).2.2 g (State.grp?_mem hg)) _ _
    · exact h
  · exact State.performWrite_memoriesWf h _ _ _ _

theorem State.dropEntry_memoriesWf {s : State} (h : s.memoriesWf = true) (gid : Nat) (sl : Slice) (q : Nat) :
    (s.dropEntry gid sl q).memoriesWf = true := by
  unfold State.dropEntry
  split
  · rename_i g hg
    refine State.setGrp_memoriesWf h ?_
    simpa using ((State.memoriesWf_iff s).1 h).2.2 g (State.grp?_mem hg)
  · exact h

theorem State.drainList_memoriesWf (gid : Nat) (sl : Slice) (es : List StoreEntry) {s : State} (h : s.memoriesWf = true) :
    (s.drainList gid sl es).memoriesWf = true := by
  induction es generalizing s with
  | nil => exact h
  | cons e es ih => exact ih (State.dropEntry_memoriesWf (State.performEntry_memoriesWf h gid e) gid sl e.seq)

theorem State.drainSlice_memoriesWf {s : State} (h : s.memoriesWf = true) (gid : Nat) (sl : Slice) :
    (s.drainSlice gid sl).memoriesWf = true := by
  unfold State.drainSlice
  split
  · exact State.drainList_memoriesWf gid sl _ h
  · exact h

/-- What a step of a fold keeps, the fold keeps. -/
theorem foldl_keeps {α : Type} (P : State → Prop) (f : State → α → State) (l : List α) {s : State}
    (hf : ∀ s a, P s → P (f s a)) (h : P s) : P (l.foldl f s) := by
  induction l generalizing s with
  | nil => exact h
  | cons a l ih => exact ih (hf s a h)

/-- Performing every pending store keeps every memory canonical. -/
theorem State.drainAll_memoriesWf {s : State} (h : s.memoriesWf = true) : s.drainAll.memoriesWf = true :=
  foldl_keeps (fun s => s.memoriesWf = true) _ _
    (fun _ _ h => State.drainSlice_memoriesWf (State.drainSlice_memoriesWf h _ _) _ _) h

theorem State.drainWhere_memoriesWf {s : State} (h : s.memoriesWf = true) (gid : Nat) (sl : Slice) (pick : StoreEntry → Bool) :
    (s.drainWhere gid sl pick).memoriesWf = true := by
  unfold State.drainWhere
  split
  · split
    · exact State.drainList_memoriesWf gid sl _ h
    · exact h
  · exact h

theorem State.drainOverlap_memoriesWf {s : State} (h : s.memoriesWf = true) (v : Viewer) (own : Bool) (l : MemLoc) (n : Nat) :
    (s.drainOverlap v own l n).memoriesWf = true := by
  refine foldl_keeps (fun s => s.memoriesWf = true) _ _ (fun s g h => ?_) h
  refine foldl_keeps (fun s => s.memoriesWf = true) _ _ (fun s sl h => ?_) h
  simp only []
  repeat' split
  all_goals first
    | exact h
    | exact State.drainWhere_memoriesWf h _ _ _

/-! ### Translation -/

/-- A translation changes the translation caches alone. -/
theorem State.translate_frame (s : State) (h : TlbHolder) (v : Viewer) (cx : Context) (va : Nat) (need : Need) :
    (s.translate h v cx va need).1 = { s with tlb := (s.translate h v cx va need).1.tlb } := by
  unfold State.translate State.fillTlb
  split
  · rfl
  · split
    · rfl
    · split
      · rfl
      · rfl
      · simp only []; split <;> rfl

theorem State.translatePieces_frame (h : TlbHolder) (v : Viewer) (cx : Context) (need : Need) (l : List (Nat × Nat)) (s : State) :
    (s.translatePieces h v cx need l).1 = { s with tlb := (s.translatePieces h v cx need l).1.tlb } := by
  induction l generalizing s with
  | nil => rfl
  | cons x l ih =>
    obtain ⟨va, n⟩ := x
    simp only [State.translatePieces]
    rw [ih, State.translate_frame]

/-- Forgetting cached translations changes the caches alone, and one piece needs none of it. -/
theorem State.walkAnew_frame (s : State) (h : TlbHolder) (c : Nat) (vas : List Nat) :
    s.walkAnew h c vas = { s with tlb := (s.walkAnew h c vas).tlb } := by
  unfold State.walkAnew
  split <;> rfl

theorem State.walkAnew_one (s : State) (h : TlbHolder) (c : Nat) (vas : List Nat) (one : vas.length ≤ 1) : s.walkAnew h c vas = s :=
  if_pos one

/-- An access over several pieces keeps no cached entry of its caches for any of them (R377); every other entry stays. -/
theorem State.mem_walkAnew (s : State) (h : TlbHolder) (c : Nat) (vas : List Nat) (many : 1 < vas.length) (e : TlbEntry) :
    e ∈ (s.walkAnew h c vas).tlb ↔ e ∈ s.tlb ∧
      ¬((e.holder = h ∨ e.holder = .stack h.home) ∧ e.ctx = c ∧ ∃ va ∈ vas, e.base ≤ va ∧ va < e.base + 2 ^ e.bits) := by
  simp only [State.walkAnew, if_neg (by omega : ¬vas.length ≤ 1), List.mem_filter, Bool.not_eq_true', Bool.and_eq_false_iff,
    Bool.or_eq_false_iff, List.any_eq_false, Bool.and_eq_true, decide_eq_true_eq, beq_eq_false_iff_ne]
  refine and_congr_right fun _ => ?_
  constructor
  · rintro (⟨⟨a, b⟩ | a⟩ | a) ⟨k, e', x, hx, y⟩
    · exact k.elim a b
    · exact a e'
    · exact a x hx y
  · intro n
    by_cases k : e.holder = h ∨ e.holder = .stack h.home
    · by_cases e' : e.ctx = c
      · exact .inr fun x hx y => n ⟨k, e', x, hx, y⟩
      · exact .inl (.inr e')
    · exact .inl (.inl (not_or.1 k))

/-- The pieces of an access are translated in one state of the tables; the translation caches alone change. -/
theorem State.translateAll_frame (s : State) (h : TlbHolder) (v : Viewer) (cx : Context) (need : Need) (l : List (Nat × Nat)) :
    (s.translateAll h v cx need l).1 = { s with tlb := (s.translateAll h v cx need l).1.tlb } := by
  unfold State.translateAll
  rw [State.translatePieces_frame, State.walkAnew_frame]

/-- One piece is translated as it is. -/
theorem State.translateAll_one (s : State) (h : TlbHolder) (v : Viewer) (cx : Context) (need : Need) (x : Nat × Nat) :
    s.translateAll h v cx need [x] = s.translatePieces h v cx need [x] := by
  rw [State.translateAll, State.walkAnew_one _ _ _ _ (by simp)]

/-! ### Ports and peers -/

/-- An agent that waits for no port any more changes the ports alone. -/
@[simp] theorem State.unwait_grp? (s : State) (w : Nat × Nat) (gid : Nat) : (s.unwait w).grp? gid = s.grp? gid := rfl
@[simp] theorem State.unwait_ctx? (s : State) (w : Nat × Nat) (c : Nat) : (s.unwait w).ctx? c = s.ctx? c := rfl
@[simp] theorem State.unwait_groups (s : State) (w : Nat × Nat) : (s.unwait w).groups = s.groups := rfl
@[simp] theorem State.unwait_outReqs (s : State) (w : Nat × Nat) : (s.unwait w).outReqs = s.outReqs := rfl
@[simp] theorem State.unwait_memoriesWf (s : State) (w : Nat × Nat) : (s.unwait w).memoriesWf = s.memoriesWf := rfl
@[simp] theorem State.unwait_baseByte (s : State) (w : Nat × Nat) (l : MemLoc) : (s.unwait w).baseByte l = s.baseByte l := by
  cases l <;> rfl

/-- Nothing is lost, so that no record is written. -/
theorem State.settleLost_nil {s : State} (h : s.lostRecs = []) : s.settleLost = s := by
  simp [State.settleLost, h]

/-- While peers have requests of the device to answer, no record of a loss is written and no PREEMPT completes (R415). -/
theorem State.settleLost_busy {s : State} (h : s.deviceIdle = false) : s.settleLost = s := by
  simp [State.settleLost, h]

theorem State.settlePreempts_busy {s : State} (h : s.deviceIdle = false) : s.settlePreempts = s := by
  simp [State.settlePreempts, h]

/-- What is known of a peer's bytes is what was noted last, and of all others what was known. -/
theorem noteBytes_find? (id a : Nat) (bs : List Byte) (t : List (Nat × Nat × Byte)) (i p : Nat) :
    (noteBytes id a bs t).find? (fun x => x.1 == i && x.2.1 == p) =
      if i = id ∧ a ≤ p ∧ p < a + bs.length then some (id, p, bs.getD (p - a) 0)
      else t.find? (fun x => x.1 == i && x.2.1 == p) := by
  unfold noteBytes
  rw [List.find?_append]
  have inside : ∀ (bs : List Byte) (a : Nat),
      (bs.mapIdx (fun k b => (id, a + k, b))).find? (fun x => x.1 == i && x.2.1 == p) =
        if i = id ∧ a ≤ p ∧ p < a + bs.length then some (id, p, bs.getD (p - a) 0) else none := by
    intro bs
    induction bs with
    | nil => intro a; simp
    | cons b bs ih =>
      intro a
      have shift : (fun k (c : Byte) => (id, a + (k + 1), c)) = fun k c => (id, a + 1 + k, c) := by
        funext k c; rw [Nat.add_assoc, Nat.add_comm 1 k]
      rw [List.mapIdx_cons, List.find?_cons, shift, ih (a + 1)]
      by_cases h : i = id ∧ p = a
      · obtain ⟨rfl, rfl⟩ := h
        simp
      · have e : ((id, a + 0, b).1 == i && (id, a + 0, b).2.1 == p) = false := by
          simp only [Nat.add_zero, Bool.and_eq_false_iff, beq_eq_false_iff_ne]
          by_cases x : i = id
          · exact .inr (fun y => h ⟨x, y.symm⟩)
          · exact .inl (fun y => x y.symm)
        rw [e]
        by_cases g : i = id ∧ a + 1 ≤ p ∧ p < a + 1 + bs.length
        · rw [if_pos g, if_pos ⟨g.1, by omega, by simp; omega⟩]
          have : p - a = p - (a + 1) + 1 := by omega
          rw [this, List.getD_cons_succ]
        · rw [if_neg g, if_neg (fun x => g ⟨x.1, by
            have : p ≠ a := fun y => h ⟨x.1, y⟩
            omega, by have := x.2.2; simp at this; omega⟩)]
  rw [inside]
  by_cases h : i = id ∧ a ≤ p ∧ p < a + bs.length
  · rw [if_pos h, if_pos h]; rfl
  · rw [if_neg h, if_neg h, Option.none_or, List.find?_filter]
    congr 1
    funext x
    by_cases e : x.1 = i ∧ x.2.1 = p
    · obtain ⟨rfl, rfl⟩ := e
      simp only [beq_self_eq_true, Bool.and_self, and_true, decide_eq_true_eq, Bool.not_eq_true', Bool.and_eq_false_iff,
        beq_eq_false_iff_ne, decide_eq_false_iff_not]
      tauto
    · have : (x.1 == i && x.2.1 == p) = false := by
        simp only [Bool.and_eq_false_iff, beq_eq_false_iff_ne]
        tauto
      simp [this]

/-! ### A turn begins -/

@[simp] theorem State.beginTurn_cur (s : State) (gid : Nat) (sl : Slice) : (s.beginTurn gid sl).cur = some (gid, sl) := rfl

/-- The stream that a turn begins with is as it was, but that it has had a turn. -/
theorem State.grp?_beginTurn {s : State} {gid : Nat} {g : Group} (h : s.grp? gid = some g) (sl : Slice) :
    (s.beginTurn gid sl).grp? gid = some (g.setStream sl { g.stream sl with fresh := false }) :=
  State.grp?_mapStream (s := s.unwait (gid, sl.src)) (by simpa using h) sl _

/-! ### Copies of peers' lines -/

@[simp] theorem State.dropOwn_vault (s : State) (ctl a n : Nat) : s.dropOwn ctl (.vault a) n = s := rfl
@[simp] theorem State.dropOwn_host (s : State) (ctl a n : Nat) : s.dropOwn ctl (.host a) n = s := rfl
@[simp] theorem State.dropOwn_spad (s : State) (ctl a n : Nat) : s.dropOwn ctl (.spad a) n = s := rfl

/-- Of an access of a controller to a peer's bytes no copy of their lines is left to it; every other copy stays. -/
theorem State.mem_dropOwn (s : State) (ctl id a n : Nat) (l : PeerLine) :
    l ∈ (s.dropOwn ctl (.peer id a) n).peerLines ↔ l ∈ s.peerLines ∧ ¬(l.ctl = ctl ∧ l.peer = id ∧ l.addr ∈ linesOf a n) := by
  simp [State.dropOwn, State.dropLines, touches, List.mem_filter]
  tauto

/-- A copy that a controller reads for a context is one that the context brought (R35). -/
theorem State.mem_linesFor (s : State) (ctl ctx : Nat) (l : PeerLine) :
    l ∈ s.linesFor ctl ctx ↔ l ∈ s.peerLines ∧ l.ctl = ctl ∧ l.ctx = ctx := by
  simp [State.linesFor, List.mem_filter]

/-- An access that has begun is at the place at which it was. -/
theorem State.takeHit_same (s : State) (g : Group) (p : Part) :
    (s.takeHit g p).va = p.va ∧ (s.takeHit g p).n = p.n ∧ (s.takeHit g p).loc = p.loc ∧ (s.takeHit g p).ord = p.ord := by
  unfold State.takeHit
  split
  · dsimp only
    split <;> simp
  · simp

/-- A part of memory of the module or the host asks no peer. -/
theorem readAsks_local (p : Part) (h : ∀ id a, p.loc ≠ .peer id a) : readAsks p = [] := by
  unfold readAsks
  split
  · exact absurd ‹_› (h _ _)
  · rfl

/-! ### What a response says -/

/-- A note says nothing of the bytes that it does not hold. -/
theorem noteEach_other (id : Nat) (xs : List (Nat × Byte)) (t : List (Nat × Nat × Byte)) (i p : Nat)
    (h : i = id → p ∉ xs.map Prod.fst) :
    (noteEach id xs t).find? (fun x => x.1 == i && x.2.1 == p) = t.find? (fun x => x.1 == i && x.2.1 == p) := by
  induction xs generalizing t with
  | nil => rfl
  | cons x xs ih =>
    have step : (noteBytes id x.1 [x.2] t).find? (fun x => x.1 == i && x.2.1 == p) = t.find? (fun x => x.1 == i && x.2.1 == p) := by
      rw [noteBytes_find?, if_neg]
      rintro ⟨e, l, u⟩
      exact h e (by simp at u; simp; left; omega)
    exact (ih _ (fun e m => h e (by simp [m]))).trans step

/-- The fresh bytes of a response lie in no range that a later write has changed. -/
theorem freshBytes_not_stale (stale : List (Nat × Nat)) (a : Nat) (bs : List Byte) (x : Nat × Byte) (h : x ∈ freshBytes stale a bs) :
    ∀ r ∈ stale, ¬(r.1 ≤ x.1 ∧ x.1 < r.1 + r.2) := by
  simp only [freshBytes, List.mem_filter, Bool.not_eq_true', List.any_eq_false] at h
  intro r hr
  have := h.2 r hr
  simp at this
  omega

/-- Noting a write for R383 changes the log and its count alone. -/
theorem State.logWrite_only (s : State) (l : MemLoc) (n : Nat) :
    s.logWrite l n = { s with codeLog := (s.logWrite l n).codeLog, codeSeq := (s.logWrite l n).codeSeq } := by
  unfold State.logWrite
  split
  · rfl
  · split <;> rfl

@[simp] theorem State.logWrite_peerTab (s : State) (l : MemLoc) (n : Nat) : (s.logWrite l n).peerTab = s.peerTab := by
  rw [State.logWrite_only]
@[simp] theorem State.logWrite_outReqs (s : State) (l : MemLoc) (n : Nat) : (s.logWrite l n).outReqs = s.outReqs := by
  rw [State.logWrite_only]
@[simp] theorem State.logWrite_groups (s : State) (l : MemLoc) (n : Nat) : (s.logWrite l n).groups = s.groups := by
  rw [State.logWrite_only]

/-- A response leaves what is known of the bytes that a write has changed since its request was sent. -/
theorem State.noteReply_stale (s : State) (r : OutReq) (bs : List Byte) (i p : Nat) (w : Nat × Nat) (hw : w ∈ r.stale)
    (hp : w.1 ≤ p ∧ p < w.1 + w.2) :
    (s.noteReply r bs).peerTab.find? (fun x => x.1 == i && x.2.1 == p) = s.peerTab.find? (fun x => x.1 == i && x.2.1 == p) := by
  unfold State.noteReply
  simp only [State.logWrite_peerTab]
  exact noteEach_other _ _ _ _ _ (fun _ m => by
    obtain ⟨x, hx, e⟩ := List.mem_map.1 m
    exact freshBytes_not_stale _ _ _ x hx w hw (e ▸ hp))

/-! ### Rows, waiters, chunks -/

/-- A row that lies in no peer's memory is written at once. -/
theorem State.rowWritable_local (s : State) (gid : Nat) (sl : Slice) (l : MemLoc) (n : Nat) (h : ∀ id a, l ≠ .peer id a) :
    s.rowWritable gid sl l n = .ok s () := by
  unfold State.rowWritable
  split
  · exact absurd rfl (h _ _)
  · rfl

/-- Where no waiter was left, none waits again. -/
theorem State.waitAgain_none {s : State} {gid k : Nat} {g : Group} (h : s.grp? gid = some g) (e : (g.sem k).left = []) :
    s.waitAgain gid k = s := by
  simp [State.waitAgain, h, e]

/-- A group that waits for work keeps its place: it is noted once, behind those that waited before it, and nothing else of its
launch changes (R347). -/
theorem State.launch?_awaitWork {s : State} {l : Launch} {lid : Nat} (h : s.launch? lid = some l) (e : l.lid = lid) (gid : Nat) :
    (s.awaitWork gid lid).launch? lid = some { l with takers := if l.takers.contains gid then l.takers else l.takers ++ [gid] } := by
  unfold State.awaitWork
  rw [h]
  dsimp only
  split
  · exact h
  · rw [State.launch?_setLaunch]
    simp [h, e]

@[simp] theorem State.awaitWork_groups (s : State) (gid lid : Nat) : (s.awaitWork gid lid).groups = s.groups := by
  unfold State.awaitWork
  split
  · rfl
  · split <;> rfl

/-- No group stands before one where none waits. -/
theorem State.takersBefore_none (s : State) (l : Launch) (who : Option Nat) (h : l.takers = []) : s.takersBefore l who = [] := by
  simp [State.takersBefore, h]

/-- A group that waits before another stands in the launch's list, is of the launch and may take work (R347). -/
theorem State.mem_takersBefore {s : State} {l : Launch} {who : Option Nat} {g : Group} :
    g ∈ s.takersBefore l who ↔
      (∃ k ∈ l.takers.takeWhile (fun j => some j != who), s.grp? k = some g) ∧ g.lid = l.lid ∧ g.mayTake = true := by
  simp [State.takersBefore, List.mem_filter, List.mem_filterMap]

@[simp] theorem Launch.served_lid (l : Launch) (gid : Nat) : (l.served gid).lid = l.lid := rfl
@[simp] theorem Launch.served_takers (l : Launch) (gid : Nat) : (l.served gid).takers = l.takers.erase gid := rfl
@[simp] theorem Launch.served_index (l : Launch) (gid : Nat) : (l.served gid).index = l.index := rfl
@[simp] theorem Launch.served_args (l : Launch) (gid : Nat) : (l.served gid).args = l.args := rfl

/-! ### Waiting heads, clk, windows -/

/-- A head that waits for no unit is free; one that waits is not while the slices of a resumed group come first (R294). -/
theorem Group.wenFree_clear (g : Group) (q : EQueue) (c : Cmd) (h : c.wen = false) : g.wenFree q c = true := by
  simp [Group.wenFree, h]

theorem Group.wenFree_resuming (g : Group) (q : EQueue) (c : Cmd) (h : c.wen = true) (r : g.resuming = true) : g.wenFree q c = false := by
  simp [Group.wenFree, h, r]

/-- A group whose parts have all stopped counts no clk as it stops (R349, R379, R426). -/
theorem Group.counting_stopped (g : Group) (h : g.status = .stopping) (q : g.quiet = true) : g.counting = false := by
  simp [Group.counting, h, q]

/-- Opening a window changes the open windows, and the areas that a context notes, and nothing else. -/
theorem State.openWindow_frame (s : State) (cx : Context) (seq w : Nat) (r : SeqRow) :
    ∃ cs : List Context, s.openWindow cx seq w r = { s with windows := (cx.num, seq, w) :: s.windowsBut cx.num seq w, ctxs := cs } := by
  unfold State.openWindow
  dsimp only
  split
  · exact ⟨s.ctxs, rfl⟩
  · split
    · exact ⟨_, rfl⟩
    · exact ⟨s.ctxs, rfl⟩

/-- The first job of a chunk has no earlier one to wait for. -/
theorem State.chunkQuiet_first (s : State) (lid : Nat) (dropped : List Nat) (w : Work) (h : w.iter = 0) :
    s.chunkQuiet lid dropped w = true := by
  simp [State.chunkQuiet, h]

/-! ### Management events -/

/-- A management event runs the request that is picked, in the state without it. -/
theorem manage_eq {s v : State} {b : BootCfg} {mine : MgmtReq → Bool} {k : Nat} {r : MgmtReq} (hb : s.managed = some b)
    (hq : s.devQuiet [] = true)
    (hk : ((s.takeRequests b).settlePreempts).nextReq mine = some k)
    (hr : ((s.takeRequests b).settlePreempts).mgmtQ[k]? = some r)
    (hv : v = { (s.takeRequests b).settlePreempts with mgmtQ := ((s.takeRequests b).settlePreempts).mgmtQ.eraseIdx k })
    (f : State → MgmtReq → Dev Unit) :
    s.manage mine f = match f v r with
      | .ok t _ => .next t.devDone
      | .wait t => .next (((s.takeRequests b).settlePreempts).withLinks t)
      | .bad t => .next t.devDone
      | .poison t _ _ _ => .next t.devDone := by
  subst hv
  simp only [State.manage, hb, hq, hk, hr]
  all_goals rfl

theorem manage_picked {s v : State} {b : BootCfg} {mine : MgmtReq → Bool} {r : MgmtReq} (h : Picked s b mine r v)
    (f : State → MgmtReq → Dev Unit) {t : State} (hf : f v r = .ok t ()) : s.manage mine f = .next t.devDone := by
  obtain ⟨hb, hq, k, hk, hr, hv⟩ := h
  rw [manage_eq hb hq hk hr hv, hf]

theorem manageNow_picked {s v : State} {b : BootCfg} {opc : Nat} {r : MgmtReq} (h : Picked s b (wellFormedReq opc) r v)
    (f : State → MgmtReq → State × Nat) : s.manageNow opc f = .next ((f v r).1.finishReq r.compl (f v r).2 0).devDone :=
  manage_picked h _ rfl


/-! ### Reads of peers after own writes, `launch` past its checks, draining -/

/-- A slice's read waits while a write of its own to the bytes is out (R237). -/
theorem State.readParts_ownOut {s : State} {gid src ctl : Nat} {v : Viewer} {parts : List Part} (hv : v.sl.isSome = true)
    (h : s.ownOut gid src parts = true) : s.readParts gid src ctl v [] parts = (s, [], none) := by
  simp [State.readParts, hv, h]

/-- The access of a `launch` past its checks is made with the parts as they were translated (R388). -/
theorem State.access_past {s : State} {gid : Nat} {sl : Slice} {g : Group} {cx : Context} (hg : s.grp? gid = some g)
    (hc : s.ctx? g.ctx = some cx) (h : (g.stream sl).past = true) (a n : Nat) (need : Need) (al uo : Bool) :
    s.access gid sl a n need al uo = .ok s (g.stream sl).parts := by
  simp [State.access, hg, hc, h]

theorem Group.foldl_poisonSpad_only (l : List Nat) (g : Group) :
    l.foldl Group.poisonSpad g = { g with
      spadPoison := (l.foldl Group.poisonSpad g).spadPoison, newPoison := (l.foldl Group.poisonSpad g).newPoison } := by
  induction l generalizing g with
  | nil => rfl
  | cons a l ih =>
    simp only [List.foldl_cons]
    have e := ih (g.poisonSpad a)
    rw [e]
    unfold Group.poisonSpad
    split <;> rfl

/-- A write to a scratchpad changes its bytes and poison alone. -/
theorem Group.spadWrite_only (g : Group) (o : Nat) (bs : List Byte) (p w : Bool) :
    g.spadWrite o bs p w = { g with
      spad := (g.spadWrite o bs p w).spad, spadPoison := (g.spadWrite o bs p w).spadPoison,
      newPoison := (g.spadWrite o bs p w).newPoison } := by
  unfold Group.spadWrite
  dsimp only
  split
  · rw [Group.foldl_poisonSpad_only]
  · rfl

/-- Draining one slice leaves every other slice's stream as it was. -/
theorem State.drainList_stream (j : Nat) (x : Slice) (es : List StoreEntry) {s : State} {gid : Nat} {sl : Slice} {g : Group}
    (hne : ¬(gid = j ∧ sl = x)) (hg : s.grp? gid = some g) :
    ∃ h : Group, (s.drainList j x es).grp? gid = some h ∧ h.stream sl = g.stream sl := by
  induction es generalizing s g with
  | nil => exact ⟨g, hg, rfl⟩
  | cons e es ih =>
    have hp : ∃ h : Group, (s.performEntry j e).grp? gid = some h ∧ h.stream sl = g.stream sl := by
      have raw (l : MemLoc) : (s.performWrite l e.bytes e.poison true).grp? gid = some g := by
        unfold State.grp? at hg ⊢
        have h1 := (State.performRaw_memories s l e.bytes e.poison true).1
        unfold State.performWrite
        split
        · split
          · exact hg
          · rw [h1]; exact hg
        · rw [h1]; exact hg
      unfold State.performEntry
      split
      · split
        · rename_i o _ _ k hk
          have hk' := State.grp?_gid hk
          have e1 := Group.spadWrite_only k o e.bytes e.poison true
          generalize k.spadWrite o e.bytes e.poison true = k2 at e1
          have hgid : k2.gid = j := by rw [e1]; exact hk'
          rw [State.grp?_setGrp, hgid]
          by_cases hj : gid = j
          · subst hj
            have e2 : k = g := by rw [hg] at hk; exact (Option.some.inj hk).symm
            subst e2
            exact ⟨k2, by simp [hg], by rw [e1]; cases sl <;> rfl⟩
          · exact ⟨g, by rw [if_neg hj]; exact hg, rfl⟩
        · exact ⟨g, hg, rfl⟩
      · exact ⟨g, raw _, rfl⟩
    obtain ⟨h, hh, he⟩ := hp
    have hd : ∃ k : Group, ((s.performEntry j e).dropEntry j x e.seq).grp? gid = some k ∧ k.stream sl = h.stream sl := by
      unfold State.dropEntry
      split
      · rename_i k hk
        rw [State.grp?_setGrp]
        by_cases hj : gid = j
        · subst hj
          have e2 : k = h := by rw [hh] at hk; exact (Option.some.inj hk).symm
          subst e2
          refine ⟨_, by rw [if_pos (by simpa using (State.grp?_gid hh).symm), hh]; rfl, ?_⟩
          have hx : sl ≠ x := fun c => hne ⟨rfl, c⟩
          cases sl <;> cases x <;> first | rfl | exact absurd rfl hx
        · exact ⟨h, by rw [if_neg (by simpa [State.grp?_gid hk] using hj)]; exact hh, rfl⟩
      · exact ⟨h, hh, rfl⟩
    obtain ⟨k, hk, hke⟩ := hd
    obtain ⟨m, hm, hme⟩ := ih hk
    exact ⟨m, hm, hme.trans (hke.trans he)⟩

theorem State.drainWhere_stream {s : State} {gid : Nat} {sl : Slice} {g : Group} (j : Nat) (x : Slice) (pick : StoreEntry → Bool)
    (hne : ¬(gid = j ∧ sl = x)) (hg : s.grp? gid = some g) :
    ∃ h : Group, (s.drainWhere j x pick).grp? gid = some h ∧ h.stream sl = g.stream sl := by
  unfold State.drainWhere
  split
  · split
    · exact State.drainList_stream j x _ hne hg
    · exact ⟨g, hg, rfl⟩
  · exact ⟨g, hg, rfl⟩

/-- Performing what other slices have pending leaves a slice's own stream, its store buffer too, as it was. -/
theorem State.drainOverlap_stream {s : State} {gid : Nat} {sl : Slice} {g : Group} (l : MemLoc) (n : Nat) (hg : s.grp? gid = some g) :
    ∃ h : Group, (s.drainOverlap (g.viewer sl) false l n).grp? gid = some h ∧ h.stream sl = g.stream sl := by
  refine foldl_keeps (fun t => ∃ h : Group, t.grp? gid = some h ∧ h.stream sl = g.stream sl) _ _ (fun t k ht => ?_) ⟨g, hg, rfl⟩
  refine foldl_keeps (fun t => ∃ h : Group, t.grp? gid = some h ∧ h.stream sl = g.stream sl) _ _ (fun t x ht => ?_) ht
  obtain ⟨h, hh, he⟩ := ht
  by_cases hc : gid = k.gid ∧ sl = x
  · exact ⟨h, by simpa [Group.viewer, State.grp?_gid hg, hc.1.symm, hc.2.symm] using hh, he⟩
  · obtain ⟨m, hm, hme⟩ := State.drainWhere_stream k.gid x (fun e => ((visibleOf t k x (g.viewer sl)).map StoreEntry.seq).contains e.seq &&
      overlap e.loc e.bytes.length l n) hc hh
    have either (c : Bool) (a b : State) (ha : ∃ h : Group, a.grp? gid = some h ∧ h.stream sl = g.stream sl)
        (hb : ∃ h : Group, b.grp? gid = some h ∧ h.stream sl = g.stream sl) :
        ∃ h : Group, (if c = true then a else b).grp? gid = some h ∧ h.stream sl = g.stream sl := by
      cases c
      · exact hb
      · exact ha
    exact either _ _ _ ⟨h, hh, he⟩ ⟨m, hm, hme.trans he⟩

/-! ### Copies of peers' lines -/

theorem mem_capLines (ctl : Nat) {l : PeerLine} (ls : List PeerLine) (n : Nat) (h : l ∈ capLines ctl n ls) : l ∈ ls := by
  induction ls generalizing n with
  | nil => exact h
  | cons x ls ih =>
    unfold capLines at h
    split at h
    · cases n with
      | zero => exact List.mem_cons_of_mem _ (ih _ h)
      | succ n =>
        rcases List.mem_cons.1 h with e | e
        · exact e ▸ List.mem_cons_self
        · exact List.mem_cons_of_mem _ (ih _ e)
    · rcases List.mem_cons.1 h with e | e
      · exact e ▸ List.mem_cons_self
      · exact List.mem_cons_of_mem _ (ih _ e)

/-- What stands in the scalar data caches after a read of lines: what its answers without poison brought, and of older copies only those
of other lines (R230, R250). -/
theorem mem_addLines {ctl ctx peer : Nat} {l : PeerLine} (as : List Nat) (data : List (List Byte × Bool)) (ls : List PeerLine)
    (h : l ∈ addLines ctl ctx peer as data ls) :
    (l ∈ ls ∧ ∀ x ∈ as.zip data, ¬(l.ctl = ctl ∧ l.ctx = ctx ∧ l.peer = peer ∧ l.addr = x.1)) ∨
    ∃ x ∈ as.zip data, x.2.2 = false ∧ l = { ctl := ctl, ctx := ctx, peer := peer, addr := x.1, bytes := x.2.1 } := by
  induction as generalizing data with
  | nil => exact .inl ⟨by simpa [addLines] using h, by simp⟩
  | cons a as ih =>
    cases data with
    | nil => exact .inl ⟨by simpa [addLines] using h, by simp⟩
    | cons d data =>
      obtain ⟨b, pz⟩ := d
      have others (m : l ∈ (addLines ctl ctx peer as data ls).filter
          (fun l => !(l.ctl == ctl && l.ctx == ctx && l.peer == peer && l.addr == a))) :
          (l ∈ ls ∧ ∀ x ∈ (a :: as).zip ((b, pz) :: data), ¬(l.ctl = ctl ∧ l.ctx = ctx ∧ l.peer = peer ∧ l.addr = x.1)) ∨
          ∃ x ∈ (a :: as).zip ((b, pz) :: data), x.2.2 = false ∧
            l = { ctl := ctl, ctx := ctx, peer := peer, addr := x.1, bytes := x.2.1 } := by
        rw [List.mem_filter] at m
        rcases ih data m.1 with ⟨h1, h2⟩ | ⟨x, h1, h2⟩
        · refine .inl ⟨h1, fun x hx => ?_⟩
          rcases List.mem_cons.1 hx with e | e
          · subst e; have := m.2; simp at this; tauto
          · exact h2 x e
        · exact .inr ⟨x, List.mem_cons_of_mem _ h1, h2⟩
      cases pz with
      | true => exact others h
      | false =>
        rcases List.mem_cons.1 (mem_capLines ctl _ _ h) with e | e
        · exact .inr ⟨(a, b, false), by simp, rfl, e⟩
        · exact others e

end Sys2Proof.Machine
end

