-- ==== Sys2Proof/Laws/PerInstr.lean ====
section
/-! SUPPORT. Per instruction: its bytes, followed by any others, decode to it and to the others (R8, R45 to R64). -/

namespace Sys2Proof.Laws

open Sys2Proof

set_option Elab.async false

theorem word32_codeBytes (w : BitVec 32) : word32 (fld w 0 8) (fld w 8 8) (fld w 16 8) (fld w 24 8) = w := by
  apply BitVec.eq_of_toNat_eq
  unfold word32
  repeat erw [toNat_append_eq]
  simp only [fld, BitVec.extractLsb'_toNat, Nat.shiftRight_eq_div_pow]
  have h := w.isLt
  omega

theorem decodeWords_eq {w1 w2 : BitVec 32} {i : Instr} (h : candidate w1 w2 = .ok i) (hw : WellFormed i = true) :
    decodeWords w1 w2 = .ok i := by
  simp only [decodeWords, h, hw, if_true]

/-- What each constructor of an instruction owes: its bytes decode to it, and the bytes after them are left. -/
def RoundTrip.Statement (i : Instr) : Prop :=
  WellFormed i = true → encode i ≠ [] → ∀ rest : List Byte, decode (encodeBytes i ++ rest) = .ok (i, rest)

theorem RoundTrip.of_cand1 {i : Instr} (h : Cand1 i) : RoundTrip.Statement i := by
  obtain ⟨w, he, hl, hc⟩ := h
  intro hw _ rest
  have hb : encodeBytes i ++ rest = fld w 0 8 :: fld w 8 8 :: fld w 16 8 :: fld w 24 8 :: rest := by
    simp only [encodeBytes, he, List.flatMap_cons, List.flatMap_nil, codeBytes, List.cons_append, List.nil_append]
  rw [hb]
  simp only [decode, word32_codeBytes, hl, Bool.false_eq_true, if_false, decodeWords_eq (hc 0) hw, Except.map]

theorem RoundTrip.of_cand2 {i : Instr} (h : Cand2 i) : RoundTrip.Statement i := by
  obtain ⟨w, x, he, hl, hc⟩ := h
  intro hw _ rest
  have hb : encodeBytes i ++ rest = fld w 0 8 :: fld w 8 8 :: fld w 16 8 :: fld w 24 8 ::
      fld x 0 8 :: fld x 8 8 :: fld x 16 8 :: fld x 24 8 :: rest := by
    simp only [encodeBytes, he, List.flatMap_cons, List.flatMap_nil, codeBytes, List.cons_append, List.nil_append]
  rw [hb]
  simp only [decode, word32_codeBytes, hl, if_true, decodeWords_eq hc hw, Except.map]

theorem RoundTrip.of_event {i : Instr} (h : encode i = []) : RoundTrip.Statement i := fun _ hn => absurd h hn

theorem RoundTrip.trapSw (a : Reg) : RoundTrip.Statement (.trapSw a) := RoundTrip.of_cand1 (cand_trapSw a)

theorem RoundTrip.chkErr (d : Reg) : RoundTrip.Statement (.chkErr d) := RoundTrip.of_cand1 (cand_chkErr d)

theorem RoundTrip.rdcr (d : Reg) (n : BitVec 5) : RoundTrip.Statement (.rdcr d n) := RoundTrip.of_cand1 (cand_rdcr d n)

theorem RoundTrip.wrcr (a : Reg) (n : BitVec 5) : RoundTrip.Statement (.wrcr a n) := RoundTrip.of_cand1 (cand_wrcr a n)

theorem RoundTrip.rdcnt (d : Reg) (n : BitVec 5) : RoundTrip.Statement (.rdcnt d n) := RoundTrip.of_cand1 (cand_rdcnt d n)

theorem RoundTrip.grpid (d : Reg) : RoundTrip.Statement (.grpid d) := RoundTrip.of_cand1 (cand_grpid d)

theorem RoundTrip.coresid (d : Reg) : RoundTrip.Statement (.coresid d) := RoundTrip.of_cand1 (cand_coresid d)

theorem RoundTrip.add (d : Reg) (a : Reg) (b : Reg) : RoundTrip.Statement (.add d a b) := RoundTrip.of_cand1 (cand_add d a b)

theorem RoundTrip.sub (d : Reg) (a : Reg) (b : Reg) : RoundTrip.Statement (.sub d a b) := RoundTrip.of_cand1 (cand_sub d a b)

theorem RoundTrip.mul (d : Reg) (a : Reg) (b : Reg) : RoundTrip.Statement (.mul d a b) := RoundTrip.of_cand1 (cand_mul d a b)

theorem RoundTrip.mulh (d : Reg) (a : Reg) (b : Reg) : RoundTrip.Statement (.mulh d a b) := RoundTrip.of_cand1 (cand_mulh d a b)

theorem RoundTrip.mulhn (d : Reg) (a : Reg) (b : Reg) : RoundTrip.Statement (.mulhn d a b) := RoundTrip.of_cand1 (cand_mulhn d a b)

theorem RoundTrip.div (d : Reg) (a : Reg) (b : Reg) : RoundTrip.Statement (.div d a b) := RoundTrip.of_cand1 (cand_div d a b)

theorem RoundTrip.divn (d : Reg) (a : Reg) (b : Reg) : RoundTrip.Statement (.divn d a b) := RoundTrip.of_cand1 (cand_divn d a b)

theorem RoundTrip.rem (d : Reg) (a : Reg) (b : Reg) : RoundTrip.Statement (.rem d a b) := RoundTrip.of_cand1 (cand_rem d a b)

theorem RoundTrip.remn (d : Reg) (a : Reg) (b : Reg) : RoundTrip.Statement (.remn d a b) := RoundTrip.of_cand1 (cand_remn d a b)

theorem RoundTrip.and (d : Reg) (a : Reg) (b : Reg) : RoundTrip.Statement (.and d a b) := RoundTrip.of_cand1 (cand_and d a b)

theorem RoundTrip.or (d : Reg) (a : Reg) (b : Reg) : RoundTrip.Statement (.or d a b) := RoundTrip.of_cand1 (cand_or d a b)

theorem RoundTrip.xor (d : Reg) (a : Reg) (b : Reg) : RoundTrip.Statement (.xor d a b) := RoundTrip.of_cand1 (cand_xor d a b)

theorem RoundTrip.andn (d : Reg) (a : Reg) (b : Reg) : RoundTrip.Statement (.andn d a b) := RoundTrip.of_cand1 (cand_andn d a b)

theorem RoundTrip.orn (d : Reg) (a : Reg) (b : Reg) : RoundTrip.Statement (.orn d a b) := RoundTrip.of_cand1 (cand_orn d a b)

theorem RoundTrip.sll (d : Reg) (a : Reg) (b : Reg) : RoundTrip.Statement (.sll d a b) := RoundTrip.of_cand1 (cand_sll d a b)

theorem RoundTrip.srl (d : Reg) (a : Reg) (b : Reg) : RoundTrip.Statement (.srl d a b) := RoundTrip.of_cand1 (cand_srl d a b)

theorem RoundTrip.sra (d : Reg) (a : Reg) (b : Reg) : RoundTrip.Statement (.sra d a b) := RoundTrip.of_cand1 (cand_sra d a b)

theorem RoundTrip.slt (d : Reg) (a : Reg) (b : Reg) : RoundTrip.Statement (.slt d a b) := RoundTrip.of_cand1 (cand_slt d a b)

theorem RoundTrip.sltn (d : Reg) (a : Reg) (b : Reg) : RoundTrip.Statement (.sltn d a b) := RoundTrip.of_cand1 (cand_sltn d a b)

theorem RoundTrip.min (d : Reg) (a : Reg) (b : Reg) : RoundTrip.Statement (.min d a b) := RoundTrip.of_cand1 (cand_min d a b)

theorem RoundTrip.max (d : Reg) (a : Reg) (b : Reg) : RoundTrip.Statement (.max d a b) := RoundTrip.of_cand1 (cand_max d a b)

theorem RoundTrip.minn (d : Reg) (a : Reg) (b : Reg) : RoundTrip.Statement (.minn d a b) := RoundTrip.of_cand1 (cand_minn d a b)

theorem RoundTrip.maxn (d : Reg) (a : Reg) (b : Reg) : RoundTrip.Statement (.maxn d a b) := RoundTrip.of_cand1 (cand_maxn d a b)

theorem RoundTrip.sel (d : Reg) (a : Reg) (b : Reg) : RoundTrip.Statement (.sel d a b) := RoundTrip.of_cand1 (cand_sel d a b)

theorem RoundTrip.addi (d : Reg) (a : Reg) (i : BitVec 12) : RoundTrip.Statement (.addi d a i) := RoundTrip.of_cand1 (cand_addi d a i)

theorem RoundTrip.andi (d : Reg) (a : Reg) (i : BitVec 12) : RoundTrip.Statement (.andi d a i) := RoundTrip.of_cand1 (cand_andi d a i)

theorem RoundTrip.ori (d : Reg) (a : Reg) (i : BitVec 12) : RoundTrip.Statement (.ori d a i) := RoundTrip.of_cand1 (cand_ori d a i)

theorem RoundTrip.xori (d : Reg) (a : Reg) (i : BitVec 12) : RoundTrip.Statement (.xori d a i) := RoundTrip.of_cand1 (cand_xori d a i)

theorem RoundTrip.slti (d : Reg) (a : Reg) (i : BitVec 12) : RoundTrip.Statement (.slti d a i) := RoundTrip.of_cand1 (cand_slti d a i)

theorem RoundTrip.sltni (d : Reg) (a : Reg) (i : BitVec 12) : RoundTrip.Statement (.sltni d a i) := RoundTrip.of_cand1 (cand_sltni d a i)

theorem RoundTrip.slli (d : Reg) (a : Reg) (i : BitVec 6) : RoundTrip.Statement (.slli d a i) := RoundTrip.of_cand1 (cand_slli d a i)

theorem RoundTrip.srli (d : Reg) (a : Reg) (i : BitVec 6) : RoundTrip.Statement (.srli d a i) := RoundTrip.of_cand1 (cand_srli d a i)

theorem RoundTrip.srai (d : Reg) (a : Reg) (i : BitVec 6) : RoundTrip.Statement (.srai d a i) := RoundTrip.of_cand1 (cand_srai d a i)

theorem RoundTrip.mini (d : Reg) (a : Reg) (i : BitVec 12) : RoundTrip.Statement (.mini d a i) := RoundTrip.of_cand1 (cand_mini d a i)

theorem RoundTrip.maxi (d : Reg) (a : Reg) (i : BitVec 12) : RoundTrip.Statement (.maxi d a i) := RoundTrip.of_cand1 (cand_maxi d a i)

theorem RoundTrip.li16 (d : Reg) (i : BitVec 16) : RoundTrip.Statement (.li16 d i) := RoundTrip.of_cand1 (cand_li16 d i)

theorem RoundTrip.ins16 (d : Reg) (h : BitVec 2) (i : BitVec 16) : RoundTrip.Statement (.ins16 d h i) := RoundTrip.of_cand1 (cand_ins16 d h i)

theorem RoundTrip.bext (d : Reg) (a : Reg) (o : BitVec 6) (w : BitVec 7) : RoundTrip.Statement (.bext d a o w) := RoundTrip.of_cand1 (cand_bext d a o w)

theorem RoundTrip.bexts (d : Reg) (a : Reg) (o : BitVec 6) (w : BitVec 7) : RoundTrip.Statement (.bexts d a o w) := RoundTrip.of_cand1 (cand_bexts d a o w)

theorem RoundTrip.bins (d : Reg) (a : Reg) (o : BitVec 6) (w : BitVec 7) : RoundTrip.Statement (.bins d a o w) := RoundTrip.of_cand1 (cand_bins d a o w)

theorem RoundTrip.bextv (d : Reg) (a : Reg) (b : Reg) : RoundTrip.Statement (.bextv d a b) := RoundTrip.of_cand1 (cand_bextv d a b)

theorem RoundTrip.bextsv (d : Reg) (a : Reg) (b : Reg) : RoundTrip.Statement (.bextsv d a b) := RoundTrip.of_cand1 (cand_bextsv d a b)

theorem RoundTrip.binsv (d : Reg) (a : Reg) (b : Reg) : RoundTrip.Statement (.binsv d a b) := RoundTrip.of_cand1 (cand_binsv d a b)

theorem RoundTrip.fsh (d : Reg) (a : Reg) (b : Reg) (s : BitVec 6) : RoundTrip.Statement (.fsh d a b s) := RoundTrip.of_cand1 (cand_fsh d a b s)

theorem RoundTrip.bnet (d : Reg) (a : Reg) (b : Reg) (p : BitVec 3) : RoundTrip.Statement (.bnet d a b p) := RoundTrip.of_cand1 (cand_bnet d a b p)

theorem RoundTrip.bnld (a : Reg) (b : Reg) (p : BitVec 3) (s : BitVec 3) : RoundTrip.Statement (.bnld a b p s) := RoundTrip.of_cand1 (cand_bnld a b p s)

theorem RoundTrip.clz (d : Reg) (a : Reg) : RoundTrip.Statement (.clz d a) := RoundTrip.of_cand1 (cand_clz d a)

theorem RoundTrip.ctz (d : Reg) (a : Reg) : RoundTrip.Statement (.ctz d a) := RoundTrip.of_cand1 (cand_ctz d a)

theorem RoundTrip.popc (d : Reg) (a : Reg) : RoundTrip.Statement (.popc d a) := RoundTrip.of_cand1 (cand_popc d a)

theorem RoundTrip.brev (d : Reg) (a : Reg) : RoundTrip.Statement (.brev d a) := RoundTrip.of_cand1 (cand_brev d a)

theorem RoundTrip.bswap (d : Reg) (a : Reg) : RoundTrip.Statement (.bswap d a) := RoundTrip.of_cand1 (cand_bswap d a)

theorem RoundTrip.lea (d : Reg) (a : Reg) (b : Reg) (s : BitVec 2) : RoundTrip.Statement (.lea d a b s) := RoundTrip.of_cand1 (cand_lea d a b s)

theorem RoundTrip.ldB (d : Reg) (a : Reg) (i : BitVec 13) : RoundTrip.Statement (.ldB d a i) := RoundTrip.of_cand1 (cand_ldB d a i)

theorem RoundTrip.ldBz (d : Reg) (a : Reg) (i : BitVec 13) : RoundTrip.Statement (.ldBz d a i) := RoundTrip.of_cand1 (cand_ldBz d a i)

theorem RoundTrip.ldH (d : Reg) (a : Reg) (i : BitVec 13) : RoundTrip.Statement (.ldH d a i) := RoundTrip.of_cand1 (cand_ldH d a i)

theorem RoundTrip.ldHz (d : Reg) (a : Reg) (i : BitVec 13) : RoundTrip.Statement (.ldHz d a i) := RoundTrip.of_cand1 (cand_ldHz d a i)

theorem RoundTrip.ldW (d : Reg) (a : Reg) (i : BitVec 13) : RoundTrip.Statement (.ldW d a i) := RoundTrip.of_cand1 (cand_ldW d a i)

theorem RoundTrip.ldWz (d : Reg) (a : Reg) (i : BitVec 13) : RoundTrip.Statement (.ldWz d a i) := RoundTrip.of_cand1 (cand_ldWz d a i)

theorem RoundTrip.ldD (d : Reg) (a : Reg) (i : BitVec 13) : RoundTrip.Statement (.ldD d a i) := RoundTrip.of_cand1 (cand_ldD d a i)

theorem RoundTrip.stB (s : Reg) (a : Reg) (i : BitVec 13) : RoundTrip.Statement (.stB s a i) := RoundTrip.of_cand1 (cand_stB s a i)

theorem RoundTrip.stH (s : Reg) (a : Reg) (i : BitVec 13) : RoundTrip.Statement (.stH s a i) := RoundTrip.of_cand1 (cand_stH s a i)

theorem RoundTrip.stW (s : Reg) (a : Reg) (i : BitVec 13) : RoundTrip.Statement (.stW s a i) := RoundTrip.of_cand1 (cand_stW s a i)

theorem RoundTrip.stD (s : Reg) (a : Reg) (i : BitVec 13) : RoundTrip.Statement (.stD s a i) := RoundTrip.of_cand1 (cand_stD s a i)

theorem RoundTrip.ldAcq (d : Reg) (a : Reg) (z : BitVec 2) (c : BitVec 2) (i : BitVec 12) : RoundTrip.Statement (.ldAcq d a z c i) := RoundTrip.of_cand1 (cand_ldAcq d a z c i)

theorem RoundTrip.stRel (s : Reg) (a : Reg) (z : BitVec 2) (c : BitVec 2) (i : BitVec 12) : RoundTrip.Statement (.stRel s a z c i) := RoundTrip.of_cand1 (cand_stRel s a z c i)

theorem RoundTrip.ldsB (d : Reg) (a : Reg) (i : BitVec 13) : RoundTrip.Statement (.ldsB d a i) := RoundTrip.of_cand1 (cand_ldsB d a i)

theorem RoundTrip.ldsBz (d : Reg) (a : Reg) (i : BitVec 13) : RoundTrip.Statement (.ldsBz d a i) := RoundTrip.of_cand1 (cand_ldsBz d a i)

theorem RoundTrip.ldsH (d : Reg) (a : Reg) (i : BitVec 13) : RoundTrip.Statement (.ldsH d a i) := RoundTrip.of_cand1 (cand_ldsH d a i)

theorem RoundTrip.ldsHz (d : Reg) (a : Reg) (i : BitVec 13) : RoundTrip.Statement (.ldsHz d a i) := RoundTrip.of_cand1 (cand_ldsHz d a i)

theorem RoundTrip.ldsW (d : Reg) (a : Reg) (i : BitVec 13) : RoundTrip.Statement (.ldsW d a i) := RoundTrip.of_cand1 (cand_ldsW d a i)

theorem RoundTrip.ldsWz (d : Reg) (a : Reg) (i : BitVec 13) : RoundTrip.Statement (.ldsWz d a i) := RoundTrip.of_cand1 (cand_ldsWz d a i)

theorem RoundTrip.ldsD (d : Reg) (a : Reg) (i : BitVec 13) : RoundTrip.Statement (.ldsD d a i) := RoundTrip.of_cand1 (cand_ldsD d a i)

theorem RoundTrip.stsB (s : Reg) (a : Reg) (i : BitVec 13) : RoundTrip.Statement (.stsB s a i) := RoundTrip.of_cand1 (cand_stsB s a i)

theorem RoundTrip.stsH (s : Reg) (a : Reg) (i : BitVec 13) : RoundTrip.Statement (.stsH s a i) := RoundTrip.of_cand1 (cand_stsH s a i)

theorem RoundTrip.stsW (s : Reg) (a : Reg) (i : BitVec 13) : RoundTrip.Statement (.stsW s a i) := RoundTrip.of_cand1 (cand_stsW s a i)

theorem RoundTrip.stsD (s : Reg) (a : Reg) (i : BitVec 13) : RoundTrip.Statement (.stsD s a i) := RoundTrip.of_cand1 (cand_stsD s a i)

theorem RoundTrip.amoAdd (d : Reg) (a : Reg) (b : Reg) (z : BitVec 2) (r : BitVec 2) (c : BitVec 2) : RoundTrip.Statement (.amoAdd d a b z r c) := RoundTrip.of_cand1 (cand_amoAdd d a b z r c)

theorem RoundTrip.amoAnd (d : Reg) (a : Reg) (b : Reg) (z : BitVec 2) (r : BitVec 2) (c : BitVec 2) : RoundTrip.Statement (.amoAnd d a b z r c) := RoundTrip.of_cand1 (cand_amoAnd d a b z r c)

theorem RoundTrip.amoOr (d : Reg) (a : Reg) (b : Reg) (z : BitVec 2) (r : BitVec 2) (c : BitVec 2) : RoundTrip.Statement (.amoOr d a b z r c) := RoundTrip.of_cand1 (cand_amoOr d a b z r c)

theorem RoundTrip.amoXor (d : Reg) (a : Reg) (b : Reg) (z : BitVec 2) (r : BitVec 2) (c : BitVec 2) : RoundTrip.Statement (.amoXor d a b z r c) := RoundTrip.of_cand1 (cand_amoXor d a b z r c)

theorem RoundTrip.amoMin (d : Reg) (a : Reg) (b : Reg) (z : BitVec 2) (r : BitVec 2) (c : BitVec 2) : RoundTrip.Statement (.amoMin d a b z r c) := RoundTrip.of_cand1 (cand_amoMin d a b z r c)

theorem RoundTrip.amoMax (d : Reg) (a : Reg) (b : Reg) (z : BitVec 2) (r : BitVec 2) (c : BitVec 2) : RoundTrip.Statement (.amoMax d a b z r c) := RoundTrip.of_cand1 (cand_amoMax d a b z r c)

theorem RoundTrip.amoMinn (d : Reg) (a : Reg) (b : Reg) (z : BitVec 2) (r : BitVec 2) (c : BitVec 2) : RoundTrip.Statement (.amoMinn d a b z r c) := RoundTrip.of_cand1 (cand_amoMinn d a b z r c)

theorem RoundTrip.amoMaxn (d : Reg) (a : Reg) (b : Reg) (z : BitVec 2) (r : BitVec 2) (c : BitVec 2) : RoundTrip.Statement (.amoMaxn d a b z r c) := RoundTrip.of_cand1 (cand_amoMaxn d a b z r c)

theorem RoundTrip.amoSwp (d : Reg) (a : Reg) (b : Reg) (z : BitVec 2) (r : BitVec 2) (c : BitVec 2) : RoundTrip.Statement (.amoSwp d a b z r c) := RoundTrip.of_cand1 (cand_amoSwp d a b z r c)

theorem RoundTrip.amoCas (d : Reg) (a : Reg) (b : Reg) (z : BitVec 2) (r : BitVec 2) (c : BitVec 2) : RoundTrip.Statement (.amoCas d a b z r c) := RoundTrip.of_cand1 (cand_amoCas d a b z r c)

theorem RoundTrip.amoFadd (d : Reg) (a : Reg) (b : Reg) (z : BitVec 2) (r : BitVec 2) (c : BitVec 2) : RoundTrip.Statement (.amoFadd d a b z r c) := RoundTrip.of_cand1 (cand_amoFadd d a b z r c)

theorem RoundTrip.fence (c : BitVec 2) : RoundTrip.Statement (.fence c) := RoundTrip.of_cand1 (cand_fence c)

theorem RoundTrip.prom (a : Reg) (c : BitVec 2) : RoundTrip.Statement (.prom a c) := RoundTrip.of_cand1 (cand_prom a c)

theorem RoundTrip.waitEq (d : Reg) (a : Reg) (b : Reg) (c : BitVec 2) (z : BitVec 1) : RoundTrip.Statement (.waitEq d a b c z) := RoundTrip.of_cand1 (cand_waitEq d a b c z)

theorem RoundTrip.waitNe (d : Reg) (a : Reg) (b : Reg) (c : BitVec 2) (z : BitVec 1) : RoundTrip.Statement (.waitNe d a b c z) := RoundTrip.of_cand1 (cand_waitNe d a b c z)

theorem RoundTrip.pf (a : Reg) : RoundTrip.Statement (.pf a) := RoundTrip.of_cand1 (cand_pf a)

theorem RoundTrip.cln (a : Reg) (c : BitVec 2) : RoundTrip.Statement (.cln a c) := RoundTrip.of_cand1 (cand_cln a c)

theorem RoundTrip.inv (a : Reg) (c : BitVec 2) : RoundTrip.Statement (.inv a c) := RoundTrip.of_cand1 (cand_inv a c)

theorem RoundTrip.push (q : BitVec 3) (a : Reg) : RoundTrip.Statement (.push q a) := RoundTrip.of_cand1 (cand_push q a)

theorem RoundTrip.pop (q : BitVec 3) (d : Reg) : RoundTrip.Statement (.pop q d) := RoundTrip.of_cand1 (cand_pop q d)

theorem RoundTrip.peek (q : BitVec 3) (d : Reg) : RoundTrip.Statement (.peek q d) := RoundTrip.of_cand1 (cand_peek q d)

theorem RoundTrip.qcnt (q : BitVec 3) (d : Reg) : RoundTrip.Statement (.qcnt q d) := RoundTrip.of_cand1 (cand_qcnt q d)

theorem RoundTrip.qdrop (q : BitVec 3) : RoundTrip.Statement (.qdrop q) := RoundTrip.of_cand1 (cand_qdrop q)

theorem RoundTrip.slipset (a : Reg) : RoundTrip.Statement (.slipset a) := RoundTrip.of_cand1 (cand_slipset a)

theorem RoundTrip.lq (q : BitVec 2) (z : BitVec 2) (a : Reg) (i : BitVec 16) : RoundTrip.Statement (.lq q z a i) := RoundTrip.of_cand1 (cand_lq q z a i)

theorem RoundTrip.lqNf (q : BitVec 2) (z : BitVec 2) (a : Reg) (i : BitVec 16) : RoundTrip.Statement (.lqNf q z a i) := RoundTrip.of_cand1 (cand_lqNf q z a i)

theorem RoundTrip.beq (a : Reg) (b : Reg) (t : BitVec 13) : RoundTrip.Statement (.beq a b t) := RoundTrip.of_cand1 (cand_beq a b t)

theorem RoundTrip.bne (a : Reg) (b : Reg) (t : BitVec 13) : RoundTrip.Statement (.bne a b t) := RoundTrip.of_cand1 (cand_bne a b t)

theorem RoundTrip.blt (a : Reg) (b : Reg) (t : BitVec 13) : RoundTrip.Statement (.blt a b t) := RoundTrip.of_cand1 (cand_blt a b t)

theorem RoundTrip.bge (a : Reg) (b : Reg) (t : BitVec 13) : RoundTrip.Statement (.bge a b t) := RoundTrip.of_cand1 (cand_bge a b t)

theorem RoundTrip.bltn (a : Reg) (b : Reg) (t : BitVec 13) : RoundTrip.Statement (.bltn a b t) := RoundTrip.of_cand1 (cand_bltn a b t)

theorem RoundTrip.bgen (a : Reg) (b : Reg) (t : BitVec 13) : RoundTrip.Statement (.bgen a b t) := RoundTrip.of_cand1 (cand_bgen a b t)

theorem RoundTrip.bz (a : Reg) (t : BitVec 16) : RoundTrip.Statement (.bz a t) := RoundTrip.of_cand1 (cand_bz a t)

theorem RoundTrip.bnz (a : Reg) (t : BitVec 16) : RoundTrip.Statement (.bnz a t) := RoundTrip.of_cand1 (cand_bnz a t)

theorem RoundTrip.br (t : BitVec 26) : RoundTrip.Statement (.br t) := RoundTrip.of_cand1 (cand_br t)

theorem RoundTrip.call (t : BitVec 26) : RoundTrip.Statement (.call t) := RoundTrip.of_cand1 (cand_call t)

theorem RoundTrip.jr (a : Reg) : RoundTrip.Statement (.jr a) := RoundTrip.of_cand1 (cand_jr a)

theorem RoundTrip.bqz (q : BitVec 1) (d : Reg) (t : BitVec 16) : RoundTrip.Statement (.bqz q d t) := RoundTrip.of_cand1 (cand_bqz q d t)

theorem RoundTrip.bqnz (q : BitVec 1) (d : Reg) (t : BitVec 16) : RoundTrip.Statement (.bqnz q d t) := RoundTrip.of_cand1 (cand_bqnz q d t)

theorem RoundTrip.loop (c : BitVec 2) (a : Reg) (t : BitVec 16) : RoundTrip.Statement (.loop c a t) := RoundTrip.of_cand1 (cand_loop c a t)

theorem RoundTrip.loopi (c : BitVec 2) (n : BitVec 7) (t : BitVec 16) : RoundTrip.Statement (.loopi c n t) := RoundTrip.of_cand1 (cand_loopi c n t)

theorem RoundTrip.spset (a : Reg) (i : BitVec 8) : RoundTrip.Statement (.spset a i) := RoundTrip.of_cand1 (cand_spset a i)

theorem RoundTrip.spshift (i : BitVec 1) : RoundTrip.Statement (.spshift i) := RoundTrip.of_cand1 (cand_spshift i)

theorem RoundTrip.spget (d : Reg) : RoundTrip.Statement (.spget d) := RoundTrip.of_cand1 (cand_spget d)

theorem RoundTrip.ml (e : EWord) : RoundTrip.Statement (.ml e) := RoundTrip.of_cand2 (cand_ml e)

theorem RoundTrip.mlT (e : EWord) : RoundTrip.Statement (.mlT e) := RoundTrip.of_cand2 (cand_mlT e)

theorem RoundTrip.mm (e : EWord) : RoundTrip.Statement (.mm e) := RoundTrip.of_cand2 (cand_mm e)

theorem RoundTrip.mzero (e : EWord) : RoundTrip.Statement (.mzero e) := RoundTrip.of_cand2 (cand_mzero e)

theorem RoundTrip.mdrain (e : EWord) : RoundTrip.Statement (.mdrain e) := RoundTrip.of_cand2 (cand_mdrain e)

theorem RoundTrip.mred (e : EWord) : RoundTrip.Statement (.mred e) := RoundTrip.of_cand2 (cand_mred e)

theorem RoundTrip.mcfg (e : EWord) : RoundTrip.Statement (.mcfg e) := RoundTrip.of_cand2 (cand_mcfg e)

theorem RoundTrip.mfmt (e : EWord) : RoundTrip.Statement (.mfmt e) := RoundTrip.of_cand2 (cand_mfmt e)

theorem RoundTrip.mchk (e : EWord) : RoundTrip.Statement (.mchk e) := RoundTrip.of_cand2 (cand_mchk e)

theorem RoundTrip.vadd (e : EWord) : RoundTrip.Statement (.vadd e) := RoundTrip.of_cand2 (cand_vadd e)

theorem RoundTrip.vsub (e : EWord) : RoundTrip.Statement (.vsub e) := RoundTrip.of_cand2 (cand_vsub e)

theorem RoundTrip.vmul (e : EWord) : RoundTrip.Statement (.vmul e) := RoundTrip.of_cand2 (cand_vmul e)

theorem RoundTrip.vfma (e : EWord) : RoundTrip.Statement (.vfma e) := RoundTrip.of_cand2 (cand_vfma e)

theorem RoundTrip.vmax (e : EWord) : RoundTrip.Statement (.vmax e) := RoundTrip.of_cand2 (cand_vmax e)

theorem RoundTrip.vmin (e : EWord) : RoundTrip.Statement (.vmin e) := RoundTrip.of_cand2 (cand_vmin e)

theorem RoundTrip.vabs (e : EWord) : RoundTrip.Statement (.vabs e) := RoundTrip.of_cand2 (cand_vabs e)

theorem RoundTrip.vneg (e : EWord) : RoundTrip.Statement (.vneg e) := RoundTrip.of_cand2 (cand_vneg e)

theorem RoundTrip.vexp (e : EWord) : RoundTrip.Statement (.vexp e) := RoundTrip.of_cand2 (cand_vexp e)

theorem RoundTrip.vlog (e : EWord) : RoundTrip.Statement (.vlog e) := RoundTrip.of_cand2 (cand_vlog e)

theorem RoundTrip.vrcp (e : EWord) : RoundTrip.Statement (.vrcp e) := RoundTrip.of_cand2 (cand_vrcp e)

theorem RoundTrip.vrsq (e : EWord) : RoundTrip.Statement (.vrsq e) := RoundTrip.of_cand2 (cand_vrsq e)

theorem RoundTrip.vsqrt (e : EWord) : RoundTrip.Statement (.vsqrt e) := RoundTrip.of_cand2 (cand_vsqrt e)

theorem RoundTrip.vsin (e : EWord) : RoundTrip.Statement (.vsin e) := RoundTrip.of_cand2 (cand_vsin e)

theorem RoundTrip.vcos (e : EWord) : RoundTrip.Statement (.vcos e) := RoundTrip.of_cand2 (cand_vcos e)

theorem RoundTrip.vtanh (e : EWord) : RoundTrip.Statement (.vtanh e) := RoundTrip.of_cand2 (cand_vtanh e)

theorem RoundTrip.vcvt (e : EWord) : RoundTrip.Statement (.vcvt e) := RoundTrip.of_cand2 (cand_vcvt e)

theorem RoundTrip.vcmp (e : EWord) : RoundTrip.Statement (.vcmp e) := RoundTrip.of_cand2 (cand_vcmp e)

theorem RoundTrip.vsel (e : EWord) : RoundTrip.Statement (.vsel e) := RoundTrip.of_cand2 (cand_vsel e)

theorem RoundTrip.vredsum (e : EWord) : RoundTrip.Statement (.vredsum e) := RoundTrip.of_cand2 (cand_vredsum e)

theorem RoundTrip.vredmax (e : EWord) : RoundTrip.Statement (.vredmax e) := RoundTrip.of_cand2 (cand_vredmax e)

theorem RoundTrip.vargmax (e : EWord) : RoundTrip.Statement (.vargmax e) := RoundTrip.of_cand2 (cand_vargmax e)

theorem RoundTrip.vtopk (e : EWord) : RoundTrip.Statement (.vtopk e) := RoundTrip.of_cand2 (cand_vtopk e)

theorem RoundTrip.vscan (e : EWord) : RoundTrip.Statement (.vscan e) := RoundTrip.of_cand2 (cand_vscan e)

theorem RoundTrip.vswp2 (e : EWord) : RoundTrip.Statement (.vswp2 e) := RoundTrip.of_cand2 (cand_vswp2 e)

theorem RoundTrip.vgath (e : EWord) : RoundTrip.Statement (.vgath e) := RoundTrip.of_cand2 (cand_vgath e)

theorem RoundTrip.vscat (e : EWord) : RoundTrip.Statement (.vscat e) := RoundTrip.of_cand2 (cand_vscat e)

theorem RoundTrip.vcopy (e : EWord) : RoundTrip.Statement (.vcopy e) := RoundTrip.of_cand2 (cand_vcopy e)

theorem RoundTrip.vfill (e : EWord) : RoundTrip.Statement (.vfill e) := RoundTrip.of_cand2 (cand_vfill e)

theorem RoundTrip.vlut (e : EWord) : RoundTrip.Statement (.vlut e) := RoundTrip.of_cand2 (cand_vlut e)

theorem RoundTrip.vtern (e : EWord) : RoundTrip.Statement (.vtern e) := RoundTrip.of_cand2 (cand_vtern e)

theorem RoundTrip.vdot8 (e : EWord) : RoundTrip.Statement (.vdot8 e) := RoundTrip.of_cand2 (cand_vdot8 e)

theorem RoundTrip.vquant (e : EWord) : RoundTrip.Statement (.vquant e) := RoundTrip.of_cand2 (cand_vquant e)

theorem RoundTrip.vrand (e : EWord) : RoundTrip.Statement (.vrand e) := RoundTrip.of_cand2 (cand_vrand e)

theorem RoundTrip.cp (e : EWord) : RoundTrip.Statement (.cp e) := RoundTrip.of_cand2 (cand_cp e)

theorem RoundTrip.cpRed (e : EWord) : RoundTrip.Statement (.cpRed e) := RoundTrip.of_cand2 (cand_cpRed e)

theorem RoundTrip.cpBc (e : EWord) : RoundTrip.Statement (.cpBc e) := RoundTrip.of_cand2 (cand_cpBc e)

theorem RoundTrip.semWait (s : BitVec 4) : RoundTrip.Statement (.semWait s) := RoundTrip.of_cand2 (cand_semWait s)

theorem RoundTrip.semSig (s : BitVec 4) : RoundTrip.Statement (.semSig s) := RoundTrip.of_cand2 (cand_semSig s)

theorem RoundTrip.semSet (s : BitVec 4) (a : Reg) : RoundTrip.Statement (.semSet s a) := RoundTrip.of_cand2 (cand_semSet s a)

theorem RoundTrip.semCeil (s : BitVec 4) (a : Reg) : RoundTrip.Statement (.semCeil s a) := RoundTrip.of_cand2 (cand_semCeil s a)

theorem RoundTrip.semRd (d : Reg) (s : BitVec 4) : RoundTrip.Statement (.semRd d s) := RoundTrip.of_cand2 (cand_semRd d s)

theorem RoundTrip.qfence (qm : BitVec 4) : RoundTrip.Statement (.qfence qm) := RoundTrip.of_cand2 (cand_qfence qm)

theorem RoundTrip.tbarInit (a : Reg) (b : Reg) : RoundTrip.Statement (.tbarInit a b) := RoundTrip.of_cand2 (cand_tbarInit a b)

theorem RoundTrip.tbarExp (a : Reg) (b : Reg) : RoundTrip.Statement (.tbarExp a b) := RoundTrip.of_cand2 (cand_tbarExp a b)

theorem RoundTrip.tbarWait (a : Reg) (b : Reg) : RoundTrip.Statement (.tbarWait a b) := RoundTrip.of_cand2 (cand_tbarWait a b)

theorem RoundTrip.kvAlloc (d : Reg) (a : Reg) (b : Reg) : RoundTrip.Statement (.kvAlloc d a b) := RoundTrip.of_cand2 (cand_kvAlloc d a b)

theorem RoundTrip.kvFree (a : Reg) : RoundTrip.Statement (.kvFree a) := RoundTrip.of_cand2 (cand_kvFree a)

theorem RoundTrip.firnOpen (d : Reg) (a : Reg) : RoundTrip.Statement (.firnOpen d a) := RoundTrip.of_cand2 (cand_firnOpen d a)

theorem RoundTrip.firnBind (a : Reg) : RoundTrip.Statement (.firnBind a) := RoundTrip.of_cand2 (cand_firnBind a)

theorem RoundTrip.firnSeal (a : Reg) (b : Reg) : RoundTrip.Statement (.firnSeal a b) := RoundTrip.of_cand2 (cand_firnSeal a b)

theorem RoundTrip.firnDrop (a : Reg) : RoundTrip.Statement (.firnDrop a) := RoundTrip.of_cand2 (cand_firnDrop a)

theorem RoundTrip.rsCkpt (a : Reg) (b : Reg) : RoundTrip.Statement (.rsCkpt a b) := RoundTrip.of_cand2 (cand_rsCkpt a b)

theorem RoundTrip.seqClaim (d : Reg) (a : Reg) (p : BitVec 4) : RoundTrip.Statement (.seqClaim d a p) := RoundTrip.of_cand2 (cand_seqClaim d a p)

theorem RoundTrip.seqAdv (a : Reg) (p : BitVec 4) : RoundTrip.Statement (.seqAdv a p) := RoundTrip.of_cand2 (cand_seqAdv a p)

theorem RoundTrip.seqRel (a : Reg) : RoundTrip.Statement (.seqRel a) := RoundTrip.of_cand2 (cand_seqRel a)

theorem RoundTrip.launch (d : Reg) : RoundTrip.Statement (.launch d) := RoundTrip.of_cand2 (cand_launch d)

theorem RoundTrip.walkNext (d : Reg) : RoundTrip.Statement (.walkNext d) := RoundTrip.of_cand2 (cand_walkNext d)

theorem RoundTrip.nestSet (dim : BitVec 3) (nx : BitVec 2) (a : Reg) (b : Reg) (c : Reg) : RoundTrip.Statement (.nestSet dim nx a b c) := RoundTrip.of_cand2 (cand_nestSet dim nx a b c)

theorem RoundTrip.erep (q : BitVec 2) (nx : BitVec 2) (n : BitVec 4) : RoundTrip.Statement (.erep q nx n) := RoundTrip.of_cand2 (cand_erep q nx n)

theorem RoundTrip.lqFill (grp : Nat) (q : Nat) (slot : Nat) : RoundTrip.Statement (.lqFill grp q slot) := RoundTrip.of_event rfl

theorem RoundTrip.engineCommandStart (grp : Nat) (q : EQueue) : RoundTrip.Statement (.engineCommandStart grp q) := RoundTrip.of_event rfl

theorem RoundTrip.matrixCommandPerform (grp : Nat) : RoundTrip.Statement (.matrixCommandPerform grp) := RoundTrip.of_event rfl

theorem RoundTrip.vectorCommandPerform (grp : Nat) : RoundTrip.Statement (.vectorCommandPerform grp) := RoundTrip.of_event rfl

theorem RoundTrip.copyBurst (grp : Nat) (q : EQueue) : RoundTrip.Statement (.copyBurst grp q) := RoundTrip.of_event rfl

theorem RoundTrip.copyPerform (grp : Nat) (q : EQueue) : RoundTrip.Statement (.copyPerform grp q) := RoundTrip.of_event rfl

theorem RoundTrip.qfencePerform (grp : Nat) (q : EQueue) : RoundTrip.Statement (.qfencePerform grp q) := RoundTrip.of_event rfl

theorem RoundTrip.mredRoundComplete (grp : Nat) : RoundTrip.Statement (.mredRoundComplete grp) := RoundTrip.of_event rfl

theorem RoundTrip.reductionWatchdog (grp : Nat) : RoundTrip.Statement (.reductionWatchdog grp) := RoundTrip.of_event rfl

theorem RoundTrip.waitReread (grp : Nat) (sl : Slice) : RoundTrip.Statement (.waitReread grp sl) := RoundTrip.of_event rfl

theorem RoundTrip.groupStopComplete (grp : Nat) : RoundTrip.Statement (.groupStopComplete grp) := RoundTrip.of_event rfl

theorem RoundTrip.trapRecordWrite (ctx : Nat) : RoundTrip.Statement (.trapRecordWrite ctx) := RoundTrip.of_event rfl

theorem RoundTrip.leaseExpiry (k : Nat) : RoundTrip.Statement (.leaseExpiry k) := RoundTrip.of_event rfl

theorem RoundTrip.cacheWriteback (sector : Nat) (evict : Bool) (found : Option EccResult) : RoundTrip.Statement (.cacheWriteback sector evict found) := RoundTrip.of_event rfl

theorem RoundTrip.scrub (sector : Nat) (found : Option EccResult) : RoundTrip.Statement (.scrub sector found) := RoundTrip.of_event rfl

theorem RoundTrip.uncorrectableError (holder : EccHolder) (found : EccResult) : RoundTrip.Statement (.uncorrectableError holder found) := RoundTrip.of_event rfl

theorem RoundTrip.refresh (stack : Nat) (row : Nat) (col : Nat) : RoundTrip.Statement (.refresh stack row col) := RoundTrip.of_event rfl

theorem RoundTrip.powerWindow (stack : Nat) (grant : Nat) : RoundTrip.Statement (.powerWindow stack grant) := RoundTrip.of_event rfl

theorem RoundTrip.counterSnapshot (stack : Nat) : RoundTrip.Statement (.counterSnapshot stack) := RoundTrip.of_event rfl

theorem RoundTrip.crossingRetry (stack : Nat) (row : Nat) : RoundTrip.Statement (.crossingRetry stack row) := RoundTrip.of_event rfl

theorem RoundTrip.moduleFatalError (stack : Nat) (edge : Nat) : RoundTrip.Statement (.moduleFatalError stack edge) := RoundTrip.of_event rfl

theorem RoundTrip.hostAcquire (tag : Nat) (addr : Nat) (n : Nat) : RoundTrip.Statement (.hostAcquire tag addr n) := RoundTrip.of_event rfl

theorem RoundTrip.hostRelease (tag : Nat) (addr : Nat) (bytes : List Byte) : RoundTrip.Statement (.hostRelease tag addr bytes) := RoundTrip.of_event rfl

theorem RoundTrip.hostAtomic (tag : Nat) (addr : Nat) (op : BitVec 4) (size : BitVec 2) (operand : Word) (comparand : Word) : RoundTrip.Statement (.hostAtomic tag addr op size operand comparand) := RoundTrip.of_event rfl

theorem RoundTrip.peerInboundRequest (port : Nat) (src : Nat) (addr : Nat) (op : PeerOp) : RoundTrip.Statement (.peerInboundRequest port src addr op) := RoundTrip.of_event rfl

theorem RoundTrip.peerResponse (tag : Nat) (error : Bool) (poisoned : Bool) (bytes : List Byte) : RoundTrip.Statement (.peerResponse tag error poisoned bytes) := RoundTrip.of_event rfl

theorem RoundTrip.peerTimeout (tag : Nat) : RoundTrip.Statement (.peerTimeout tag) := RoundTrip.of_event rfl

theorem RoundTrip.unmapComplete (k : Nat) : RoundTrip.Statement (.unmapComplete k) := RoundTrip.of_event rfl

theorem RoundTrip.bringupWindowWrite (off : Nat) (value : Word) : RoundTrip.Statement (.bringupWindowWrite off value) := RoundTrip.of_event rfl

theorem RoundTrip.packetTake (queue : Nat) : RoundTrip.Statement (.packetTake queue) := RoundTrip.of_event rfl

theorem RoundTrip.launchAdmit (lid : Nat) : RoundTrip.Statement (.launchAdmit lid) := RoundTrip.of_event rfl

theorem RoundTrip.preemptionRequest (grp : Nat) : RoundTrip.Statement (.preemptionRequest grp) := RoundTrip.of_event rfl

theorem RoundTrip.groupPlacement (lid : Nat) : RoundTrip.Statement (.groupPlacement lid) := RoundTrip.of_event rfl

theorem RoundTrip.jobEnd (grp : Nat) : RoundTrip.Statement (.jobEnd grp) := RoundTrip.of_event rfl

theorem RoundTrip.groupSave (grp : Nat) : RoundTrip.Statement (.groupSave grp) := RoundTrip.of_event rfl

theorem RoundTrip.groupResume (grp : Nat) : RoundTrip.Statement (.groupResume grp) := RoundTrip.of_event rfl

theorem RoundTrip.calvingRequest (lid : Nat) (set : Nat) : RoundTrip.Statement (.calvingRequest lid set) := RoundTrip.of_event rfl

theorem RoundTrip.calve (lid : Nat) (set : Nat) : RoundTrip.Statement (.calve lid set) := RoundTrip.of_event rfl

theorem RoundTrip.chainSetAdd (lid : Nat) (set : Nat) : RoundTrip.Statement (.chainSetAdd lid set) := RoundTrip.of_event rfl

theorem RoundTrip.illegalInstruction (w1 : BitVec 32) (w2 : BitVec 32) : RoundTrip.Statement (.illegalInstruction w1 w2) := RoundTrip.of_event rfl

theorem RoundTrip.storeBufferDrain (grp : Nat) (sl : Slice) (k : Nat) : RoundTrip.Statement (.storeBufferDrain grp sl k) := RoundTrip.of_event rfl

theorem RoundTrip.scalarCacheReplacement (k : Nat) : RoundTrip.Statement (.scalarCacheReplacement k) := RoundTrip.of_event rfl

theorem RoundTrip.translationEntryDrop (k : Nat) : RoundTrip.Statement (.translationEntryDrop k) := RoundTrip.of_event rfl

theorem RoundTrip.nop : RoundTrip.Statement (.nop) := RoundTrip.of_cand1 (cand_nop)

theorem RoundTrip.join : RoundTrip.Statement (.join) := RoundTrip.of_cand1 (cand_join)

theorem RoundTrip.yieldSlice : RoundTrip.Statement (.yieldSlice) := RoundTrip.of_cand1 (cand_yieldSlice)

theorem RoundTrip.stepb : RoundTrip.Statement (.stepb) := RoundTrip.of_cand1 (cand_stepb)

theorem RoundTrip.brk : RoundTrip.Statement (.brk) := RoundTrip.of_cand1 (cand_brk)

theorem RoundTrip.ifence : RoundTrip.Statement (.ifence) := RoundTrip.of_cand1 (cand_ifence)

theorem RoundTrip.slip : RoundTrip.Statement (.slip) := RoundTrip.of_cand1 (cand_slip)

theorem RoundTrip.slipCatch : RoundTrip.Statement (.slipCatch) := RoundTrip.of_cand1 (cand_slipCatch)

theorem RoundTrip.firnUnbind : RoundTrip.Statement (.firnUnbind) := RoundTrip.of_cand2 (cand_firnUnbind)

theorem RoundTrip.eventWrite : RoundTrip.Statement (.eventWrite) := RoundTrip.of_event rfl

theorem RoundTrip.moduleReset : RoundTrip.Statement (.moduleReset) := RoundTrip.of_event rfl

theorem RoundTrip.createCtx : RoundTrip.Statement (.createCtx) := RoundTrip.of_event rfl

theorem RoundTrip.killCtx : RoundTrip.Statement (.killCtx) := RoundTrip.of_event rfl

theorem RoundTrip.preemptCtx : RoundTrip.Statement (.preemptCtx) := RoundTrip.of_event rfl

theorem RoundTrip.resumeCtx : RoundTrip.Statement (.resumeCtx) := RoundTrip.of_event rfl

theorem RoundTrip.resumeGroup : RoundTrip.Statement (.resumeGroup) := RoundTrip.of_event rfl

theorem RoundTrip.unmap : RoundTrip.Statement (.unmap) := RoundTrip.of_event rfl

theorem RoundTrip.pwin : RoundTrip.Statement (.pwin) := RoundTrip.of_event rfl

theorem RoundTrip.frame : RoundTrip.Statement (.frame) := RoundTrip.of_event rfl

theorem RoundTrip.pcfg : RoundTrip.Statement (.pcfg) := RoundTrip.of_event rfl

theorem RoundTrip.qrel : RoundTrip.Statement (.qrel) := RoundTrip.of_event rfl

theorem RoundTrip.route : RoundTrip.Statement (.route) := RoundTrip.of_event rfl

theorem RoundTrip.mgmtInvalidRequest : RoundTrip.Statement (.mgmtInvalidRequest) := RoundTrip.of_event rfl

theorem RoundTrip.bootCmd : RoundTrip.Statement (.bootCmd) := RoundTrip.of_event rfl

theorem RoundTrip.quoteCmd : RoundTrip.Statement (.quoteCmd) := RoundTrip.of_event rfl

end Sys2Proof.Laws
end

