-- ==== Sys2Proof/Tests/Slice0.lean ====
section
/-! SUPPORT. Tests. Expected results come from the spec's tables, worked programs and examples; the words of the
decoding tests are put together from the field tables of R46, R49, R54, R171, R204, R275, R298, R324 and R361. The
last part shows, for every statement with hypotheses, a state and operands that meet them. -/

set_option Elab.async false
set_option synthInstance.maxSize 2000

namespace Sys2Proof

open Sys2Proof.Machine

/-! ### Decoding: one word of every instruction -/

/-- Every word pair decodes to the instruction beside it. -/
def readsAll (rows : List (BitVec 32 × BitVec 32 × Instr)) : Bool :=
  rows.all (fun x => match decodeWords x.1 x.2.1 with
    | .ok i => i == x.2.2
    | .error _ => false)

/-- Every word pair is refused. -/
def refusesAll (rows : List (BitVec 32 × BitVec 32)) : Bool :=
  rows.all (fun x => match decodeWords x.1 x.2 with
    | .ok _ => false
    | .error _ => true)

/-- The E fields of the decoding tests: WSEM 2, WEN, SSEM 3, SEN, PRED 5 (R49). -/
def testE (mod : BitVec 6) (d a b c : Reg) (imm : BitVec 12) : EWord :=
  { wsem := 2, wen := true, ssem := 3, sen := true, pred := 5, mod := mod, d := d, a := a, b := b, c := c, imm := imm }

/-- R54, R56: SYS. -/
theorem test_words_sys : readsAll [
    (0x00000000, 0x00000000, .nop),
    (0x00000001, 0x00000000, .join),
    (0x00000002, 0x00000000, .yieldSlice),
    (0x00070003, 0x00000000, .trapSw 7),
    (0x00600004, 0x00000000, .chkErr 3),
    (0x00604805, 0x00000000, .rdcr 3 9),
    (0x00074806, 0x00000000, .wrcr 7 9),
    (0x00604807, 0x00000000, .rdcnt 3 9),
    (0x00000008, 0x00000000, .stepb),
    (0x00600009, 0x00000000, .grpid 3),
    (0x0060000A, 0x00000000, .coresid 3),
    (0x0000000B, 0x00000000, .brk),
    (0x0000000C, 0x00000000, .ifence)] = true := by decide +kernel

/-- R54, R134: ALU. -/
theorem test_words_alu : readsAll [
    (0x04676000, 0x00000000, .add 3 7 12),
    (0x04676001, 0x00000000, .sub 3 7 12),
    (0x04676002, 0x00000000, .mul 3 7 12),
    (0x04676003, 0x00000000, .mulh 3 7 12),
    (0x04676004, 0x00000000, .mulhn 3 7 12),
    (0x04676005, 0x00000000, .div 3 7 12),
    (0x04676006, 0x00000000, .divn 3 7 12),
    (0x04676007, 0x00000000, .rem 3 7 12),
    (0x04676008, 0x00000000, .remn 3 7 12),
    (0x04676009, 0x00000000, .and 3 7 12),
    (0x0467600A, 0x00000000, .or 3 7 12),
    (0x0467600B, 0x00000000, .xor 3 7 12),
    (0x0467600C, 0x00000000, .andn 3 7 12),
    (0x0467600D, 0x00000000, .orn 3 7 12),
    (0x0467600E, 0x00000000, .sll 3 7 12),
    (0x0467600F, 0x00000000, .srl 3 7 12),
    (0x04676010, 0x00000000, .sra 3 7 12),
    (0x04676011, 0x00000000, .slt 3 7 12),
    (0x04676012, 0x00000000, .sltn 3 7 12),
    (0x04676013, 0x00000000, .min 3 7 12),
    (0x04676014, 0x00000000, .max 3 7 12),
    (0x04676015, 0x00000000, .minn 3 7 12),
    (0x04676016, 0x00000000, .maxn 3 7 12),
    (0x04676017, 0x00000000, .sel 3 7 12)] = true := by decide +kernel

/-- R54, R136 to R138: ALUK, `li16` and `ins16`. -/
theorem test_words_aluk : readsAll [
    (0x086705B7, 0x00000000, .addi 3 7 1463),
    (0x086715B7, 0x00000000, .andi 3 7 1463),
    (0x086725B7, 0x00000000, .ori 3 7 1463),
    (0x086735B7, 0x00000000, .xori 3 7 1463),
    (0x086745B7, 0x00000000, .slti 3 7 1463),
    (0x086755B7, 0x00000000, .sltni 3 7 1463),
    (0x08676037, 0x00000000, .slli 3 7 55),
    (0x08677037, 0x00000000, .srli 3 7 55),
    (0x08678037, 0x00000000, .srai 3 7 55),
    (0x086795B7, 0x00000000, .mini 3 7 1463),
    (0x0867A5B7, 0x00000000, .maxi 3 7 1463),
    (0x0C60A5B7, 0x00000000, .li16 3 42423),
    (0x1070A5B7, 0x00000000, .ins16 3 2 42423)] = true := by decide +kernel

/-- R54, R140 to R146: BIT and BITR. -/
theorem test_words_bits : readsAll [
    (0x1467A630, 0x00000000, .bext 3 7 41 70),
    (0x1467A631, 0x00000000, .bexts 3 7 41 70),
    (0x1467A632, 0x00000000, .bins 3 7 41 70),
    (0x18676000, 0x00000000, .bextv 3 7 12),
    (0x18676001, 0x00000000, .bextsv 3 7 12),
    (0x18676002, 0x00000000, .binsv 3 7 12),
    (0x18676043, 0x00000000, .fsh 3 7 12 2),
    (0x18676504, 0x00000000, .bnet 3 7 12 5),
    (0x18076545, 0x00000000, .bnld 7 12 5 2),
    (0x18670006, 0x00000000, .clz 3 7),
    (0x18670007, 0x00000000, .ctz 3 7),
    (0x18670008, 0x00000000, .popc 3 7),
    (0x18670009, 0x00000000, .brev 3 7),
    (0x1867000A, 0x00000000, .bswap 3 7),
    (0x1867604B, 0x00000000, .lea 3 7 12 2)] = true := by decide +kernel

/-- R54, R233, R239, R240: loads and stores. -/
theorem test_words_loads : readsAll [
    (0x206705B7, 0x00000000, .ldB 3 7 1463),
    (0x206725B7, 0x00000000, .ldBz 3 7 1463),
    (0x206745B7, 0x00000000, .ldH 3 7 1463),
    (0x206765B7, 0x00000000, .ldHz 3 7 1463),
    (0x206785B7, 0x00000000, .ldW 3 7 1463),
    (0x2067A5B7, 0x00000000, .ldWz 3 7 1463),
    (0x2067C5B7, 0x00000000, .ldD 3 7 1463),
    (0x26A705B7, 0x00000000, .stB 21 7 1463),
    (0x26A745B7, 0x00000000, .stH 21 7 1463),
    (0x26A785B7, 0x00000000, .stW 21 7 1463),
    (0x26A7C5B7, 0x00000000, .stD 21 7 1463),
    (0x2867A5B7, 0x00000000, .ldAcq 3 7 2 2 1463),
    (0x2EA7A5B7, 0x00000000, .stRel 21 7 2 2 1463),
    (0x306705B7, 0x00000000, .ldsB 3 7 1463),
    (0x306725B7, 0x00000000, .ldsBz 3 7 1463),
    (0x306745B7, 0x00000000, .ldsH 3 7 1463),
    (0x306765B7, 0x00000000, .ldsHz 3 7 1463),
    (0x306785B7, 0x00000000, .ldsW 3 7 1463),
    (0x3067A5B7, 0x00000000, .ldsWz 3 7 1463),
    (0x3067C5B7, 0x00000000, .ldsD 3 7 1463),
    (0x36A705B7, 0x00000000, .stsB 21 7 1463),
    (0x36A745B7, 0x00000000, .stsH 21 7 1463),
    (0x36A785B7, 0x00000000, .stsW 21 7 1463),
    (0x36A7C5B7, 0x00000000, .stsD 21 7 1463)] = true := by decide +kernel

/-- R54, R59, R241: AMO. -/
theorem test_words_amo : readsAll [
    (0x3867605C, 0x00000000, .amoAdd 3 7 12 2 3 2),
    (0x386760DC, 0x00000000, .amoAnd 3 7 12 2 3 2),
    (0x3867615C, 0x00000000, .amoOr 3 7 12 2 3 2),
    (0x386761DC, 0x00000000, .amoXor 3 7 12 2 3 2),
    (0x3867625C, 0x00000000, .amoMin 3 7 12 2 3 2),
    (0x386762DC, 0x00000000, .amoMax 3 7 12 2 3 2),
    (0x3867635C, 0x00000000, .amoMinn 3 7 12 2 3 2),
    (0x386763DC, 0x00000000, .amoMaxn 3 7 12 2 3 2),
    (0x3867645C, 0x00000000, .amoSwp 3 7 12 2 3 2),
    (0x386764DC, 0x00000000, .amoCas 3 7 12 2 3 2),
    (0x3867655C, 0x00000000, .amoFadd 3 7 12 2 3 2)] = true := by decide +kernel

/-- R54, R59, R243 to R246: FENCE. -/
theorem test_words_fence : readsAll [
    (0x3C000080, 0x00000000, .fence 2),
    (0x3C070180, 0x00000000, .prom 7 2),
    (0x3C6762A0, 0x00000000, .waitEq 3 7 12 2 1),
    (0x3C6763A0, 0x00000000, .waitNe 3 7 12 2 1),
    (0x3C070400, 0x00000000, .pf 7),
    (0x3C070580, 0x00000000, .cln 7 2),
    (0x3C070680, 0x00000000, .inv 7 2)] = true := by decide +kernel

/-- R54, R60, R106: Q and LQ. -/
theorem test_words_queues : readsAll [
    (0x40138000, 0x00000000, .push 1 7),
    (0x40918000, 0x00000000, .pop 1 3),
    (0x41118000, 0x00000000, .peek 1 3),
    (0x41918000, 0x00000000, .qcnt 1 3),
    (0x42100000, 0x00000000, .qdrop 1),
    (0x42800000, 0x00000000, .slip),
    (0x43000000, 0x00000000, .slipCatch),
    (0x43838000, 0x00000000, .slipset 7),
    (0x44C7A5B7, 0x00000000, .lq 1 2 7 42423),
    (0x46C7A5B7, 0x00000000, .lqNf 1 2 7 42423)] = true := by decide +kernel

/-- R54, R121, R122, R125: branches, loops and stage predicates. -/
theorem test_words_flow : readsAll [
    (0x48EC05D9, 0x00000000, .beq 7 12 1497),
    (0x48EC25D9, 0x00000000, .bne 7 12 1497),
    (0x48EC45D9, 0x00000000, .blt 7 12 1497),
    (0x48EC65D9, 0x00000000, .bge 7 12 1497),
    (0x48EC85D9, 0x00000000, .bltn 7 12 1497),
    (0x48ECA5D9, 0x00000000, .bgen 7 12 1497),
    (0x4CE0C5D9, 0x00000000, .bz 7 50649),
    (0x4CE1C5D9, 0x00000000, .bnz 7 50649),
    (0x52B3C5D9, 0x00000000, .br 45336025),
    (0x56B3C5D9, 0x00000000, .call 45336025),
    (0x58070000, 0x00000000, .jr 7),
    (0x5C23C5D9, 0x00000000, .bqz 1 3 50649),
    (0x5E23C5D9, 0x00000000, .bqnz 1 3 50649),
    (0x611CC5D9, 0x00000000, .loop 2 7 50649),
    (0x6364C5D9, 0x00000000, .loopi 2 100 50649),
    (0x6401C0B7, 0x00000000, .spset 7 183),
    (0x65000001, 0x00000000, .spshift 1),
    (0x66180000, 0x00000000, .spget 3)] = true := by decide +kernel

/-- R49, R171: MX. -/
theorem test_words_mx : readsAll [
    (0xC0A7A000, 0x1800003E, .ml (testE 0 3 0 0 0 0x03E)),
    (0xC0A7A040, 0x1800000E, .mlT (testE 0 3 0 0 0 0x00E)),
    (0xC0A7A083, 0x19D80000, .mm (testE 3 3 7 12 0 0x000)),
    (0xC0A7A0C0, 0x18000000, .mzero (testE 0 3 0 0 0 0x000)),
    (0xC0A7A100, 0x19C0000C, .mdrain (testE 0 3 7 0 0 0x00C)),
    (0xC0A7A140, 0x19D80000, .mred (testE 0 3 7 12 0 0x000)),
    (0xC0A7A180, 0x18000000, .mcfg (testE 0 3 0 0 0 0x000)),
    (0xC0A7A1C0, 0x1800000B, .mfmt (testE 0 3 0 0 0 0x00B)),
    (0xC0A7A200, 0x18000001, .mchk (testE 0 3 0 0 0 0x001))] = true := by decide +kernel

/-- R49, R204, R205: VX, OP 0 to 16. -/
theorem test_words_vx : readsAll [
    (0xC4A7A01D, 0x19D8000A, .vadd (testE 29 3 7 12 0 0x00A)),
    (0xC4A7A05D, 0x19D8000A, .vsub (testE 29 3 7 12 0 0x00A)),
    (0xC4A7A09D, 0x19D8000A, .vmul (testE 29 3 7 12 0 0x00A)),
    (0xC4A7A0DD, 0x19D9500A, .vfma (testE 29 3 7 12 21 0x00A)),
    (0xC4A7A11D, 0x19D8000A, .vmax (testE 29 3 7 12 0 0x00A)),
    (0xC4A7A15D, 0x19D8000A, .vmin (testE 29 3 7 12 0 0x00A)),
    (0xC4A7A19D, 0x19C0000A, .vabs (testE 29 3 7 0 0 0x00A)),
    (0xC4A7A1DD, 0x19C0000A, .vneg (testE 29 3 7 0 0 0x00A)),
    (0xC4A7A21D, 0x19C0000A, .vexp (testE 29 3 7 0 0 0x00A)),
    (0xC4A7A25D, 0x19C0000A, .vlog (testE 29 3 7 0 0 0x00A)),
    (0xC4A7A29D, 0x19C0000A, .vrcp (testE 29 3 7 0 0 0x00A)),
    (0xC4A7A2DD, 0x19C0000A, .vrsq (testE 29 3 7 0 0 0x00A)),
    (0xC4A7A31D, 0x19C0000A, .vsqrt (testE 29 3 7 0 0 0x00A)),
    (0xC4A7A35D, 0x19C0000A, .vsin (testE 29 3 7 0 0 0x00A)),
    (0xC4A7A39D, 0x19C0000A, .vcos (testE 29 3 7 0 0 0x00A)),
    (0xC4A7A3DD, 0x19C0000A, .vtanh (testE 29 3 7 0 0 0x00A)),
    (0xC4A7A41D, 0x19C0000A, .vcvt (testE 29 3 7 0 0 0x00A))] = true := by decide +kernel

/-- R49, R204, R205: VX, OP 17 to 33. -/
theorem test_words_vx_rest : readsAll [
    (0xC4A7A45D, 0x19D80050, .vcmp (testE 29 3 7 12 0 0x050)),
    (0xC4A7A49D, 0x19D9500A, .vsel (testE 29 3 7 12 21 0x00A)),
    (0xC4A7A4DD, 0x19C0000A, .vredsum (testE 29 3 7 0 0 0x00A)),
    (0xC4A7A51D, 0x19C0000A, .vredmax (testE 29 3 7 0 0 0x00A)),
    (0xC4A7A55D, 0x19C00000, .vargmax (testE 29 3 7 0 0 0x000)),
    (0xC4A7A59D, 0x19D805BA, .vtopk (testE 29 3 7 12 0 0x5BA)),
    (0xC4A7A5DD, 0x19C0002A, .vscan (testE 29 3 7 0 0 0x02A)),
    (0xC4A7A61D, 0x19C0015A, .vswp2 (testE 29 3 7 0 0 0x15A)),
    (0xC4A7A65D, 0x19D8000A, .vgath (testE 29 3 7 12 0 0x00A)),
    (0xC4A7A69D, 0x19D8000A, .vscat (testE 29 3 7 12 0 0x00A)),
    (0xC4A7A6DD, 0x19C00000, .vcopy (testE 29 3 7 0 0 0x000)),
    (0xC4A7A71D, 0x19C00000, .vfill (testE 29 3 7 0 0 0x000)),
    (0xC4A7A75D, 0x19D8000A, .vlut (testE 29 3 7 12 0 0x00A)),
    (0xC4A7A79D, 0x19C00000, .vtern (testE 29 3 7 0 0 0x000)),
    (0xC4A7A7DD, 0x19D9509A, .vdot8 (testE 29 3 7 12 21 0x09A)),
    (0xC4A7A81D, 0x19C00002, .vquant (testE 29 3 7 0 0 0x002)),
    (0xC4A7A85D, 0x19D8001A, .vrand (testE 29 3 7 12 0 0x01A))] = true := by decide +kernel

/-- R49, R275: CX. -/
theorem test_words_cx : readsAll [
    (0xC8A7A002, 0x19D95000, .cp (testE 2 3 7 12 21 0x000)),
    (0xC8A7A042, 0x19D95000, .cpRed (testE 2 3 7 12 21 0x000)),
    (0xC8A7A082, 0x19D95000, .cpBc (testE 2 3 7 12 21 0x000))] = true := by decide +kernel

/-- R62, R298: SYNC. -/
theorem test_words_sync : readsAll [
    (0xCC240000, 0x00000000, .semWait 9),
    (0xCC640000, 0x00000000, .semSig 9),
    (0xCCA4E000, 0x00000000, .semSet 9 7),
    (0xCCE4E000, 0x00000000, .semCeil 9 7),
    (0xCD246000, 0x00000000, .semRd 3 9),
    (0xCD4000A0, 0x00000000, .qfence 0xA),
    (0xCD80EC00, 0x00000000, .tbarInit 7 12),
    (0xCDC0EC00, 0x00000000, .tbarExp 7 12),
    (0xCE00EC00, 0x00000000, .tbarWait 7 12)] = true := by decide +kernel

/-- R324: KV. -/
theorem test_words_kv : readsAll [
    (0xD0000000, 0x19D80000, .kvAlloc 3 7 12),
    (0xD0000040, 0x38000000, .kvFree 7),
    (0xD0000080, 0x19C00000, .firnOpen 3 7),
    (0xD00000C0, 0x38000000, .firnBind 7),
    (0xD00000C0, 0x00000001, .firnUnbind),
    (0xD0000100, 0x3B000000, .firnSeal 7 12),
    (0xD0000140, 0x38000000, .firnDrop 7),
    (0xD0000180, 0x3B000000, .rsCkpt 7 12),
    (0xD00001C0, 0x19C0000B, .seqClaim 3 7 11),
    (0xD0000200, 0x3800000B, .seqAdv 7 11),
    (0xD0000240, 0x38000000, .seqRel 7)] = true := by decide +kernel

/-- R272, R290, R361: WK and NEST. -/
theorem test_words_wk_nest : readsAll [
    (0xD4000000, 0x38000000, .launch 7),
    (0xD4000040, 0x18000000, .walkNext 3),
    (0xD8000016, 0x01D95000, .nestSet 5 2 7 12 21),
    (0xD8000046, 0x0000000D, .erep 1 2 13)] = true := by decide +kernel

/-- The worked encodings of 02, the constants of R138, the fields of R141 and R142, `ld.acq` of R239, R402's examples. -/
theorem test_words_of_the_spec : readsAll [
    (0x0C200040, 0, .li16 1 0x40), (0x40810000, 0, .pop 0 2), (0x40008000, 0, .push 0 1), (0x04621000, 0, .add 3 2 2),
    (0x53FFFFEA, 0, .br 0x3FFFFEA), (0x0C80CDEF, 0, .li16 4 0xCDEF), (0x108889AB, 0, .ins16 4 1 0x89AB),
    (0x10904567, 0, .ins16 4 2 0x4567), (0x10980123, 0, .ins16 4 3 0x0123), (0x14C5F040, 0, .bext 6 5 60 8),
    (0x14E5F041, 0, .bexts 7 5 60 8), (0x1545F842, 0, .bins 10 5 62 8), (0x19656000, 0, .bextv 11 5 12),
    (0x18821A03, 0, .fsh 4 2 3 16), (0x28899010, 0, .ldAcq 4 9 2 1 0x010), (0x00050003, 0, .trapSw 5),
    (0x00E00004, 0, .chkErr 7), (0x00605005, 0, .rdcr 3 10), (0x00000806, 0, .wrcr 0 1), (0x00804807, 0, .rdcnt 4 9),
    (0xC4A72000, 0x31D00001, .vadd { testE 0 6 7 8 0 1 with pred := 1 })] = true := by decide +kernel

/-- R55: reserved majors, reserved functions, codes outside their tables, nonzero must-be-zero fields. -/
theorem test_words_refused : refusesAll [
    (0x1C000000, 0), (0x68000000, 0), (0xDC000000, 0), (0xFC000000, 0), (0x0000000D, 0), (0x04000018, 0),
    (0x0800B000, 0), (0x08006040, 0), (0x0C010000, 0), (0x10010000, 0), (0x14000003, 0), (0x1800000C, 0),
    (0x2000E000, 0), (0x24002000, 0), (0x38000000, 0), (0x38000560, 0), (0x3C000700, 0), (0x40600000, 0),
    (0x40000001, 0), (0x4800C000, 0), (0x4C020000, 0), (0x5C400000, 0), (0x60010000, 0), (0x67000000, 0),
    (0xC0000240, 0), (0xC0000000, 0x00000040), (0xC4000880, 0), (0xC4000000, 5), (0xC8000000, 1), (0xC8000004, 0),
    (0xCD400000, 0), (0xCE400000, 0), (0xCC000000, 1), (0xD0000280, 0), (0xD0200000, 0), (0xD4000080, 0),
    (0xD8000018, 0), (0xD800004C, 0), (0x00005805, 0), (0x0000C007, 0)] = true := by decide +kernel

/-- The job `twice` of the worked encodings: header 0x0212_1210 (KIND 0, tags 1, 2, 1, 2, 1, 2, 0) is a good line. -/
theorem test_line_of_twice :
    let ws : List (BitVec 32) := [0x02121210, 0x0C200040, 0x40810000, 0x40008000, 0x04621000, 1, 1, 0]
    lineOk ws = true ∧ lineKind ws = 0 ∧ (List.range 8).map (laneTag ws) = [0, 1, 2, 1, 2, 1, 2, 0] := by decide +kernel

/-- One ill-formed term for each check of WellFormed. -/
theorem test_ill_formed : ([
    .rdcr 0 11, .wrcr 0 11, .rdcnt 0 24, .amoAdd 0 0 0 1 0 0, .amoAnd 0 0 0 0 0 0, .amoOr 0 0 0 1 0 0, .amoXor 0 0 0 0 0 0,
    .amoMin 0 0 0 1 0 0, .amoMax 0 0 0 0 0 0, .amoMinn 0 0 0 1 0 0, .amoMaxn 0 0 0 0 0 0, .amoSwp 0 0 0 1 0 0,
    .amoCas 0 0 0 1 0 0, .amoFadd 0 0 0 3 0 0, .push 6 0, .pop 7 0, .peek 6 0, .qcnt 7 0, .qdrop 6, .qfence 0,
    .nestSet 6 0 0 0 0, .erep 3 0 0, .refresh 16 0 0, .powerWindow 0 63, .counterSnapshot 16, .crossingRetry 0 16,
    .moduleFatalError 0 4, .packetTake 576] : List Instr).all (fun i => !WellFormed i) = true := by decide +kernel

/-- The same for the matrix and copy commands: semaphores without their enables, unused fields, MOD, IMM12. -/
theorem test_ill_formed_mx : ([
    .ml { testE 0 3 0 0 0 0 with wen := false }, .ml { testE 0 3 0 0 0 0 with sen := false }, .ml (testE 0 3 0 0 0 0x040),
    .mlT (testE 0 3 0 0 0 0x010), .mm (testE 4 3 7 12 0 0), .mm (testE 0 3 7 12 0 1), .mm (testE 0 3 7 12 1 0),
    .mzero (testE 1 3 0 0 0 0), .mdrain (testE 0 3 7 0 0 5), .mdrain (testE 0 3 7 1 0 0), .mred (testE 0 3 7 12 0 1),
    .mcfg (testE 0 3 1 0 0 0), .mfmt (testE 0 3 0 0 0 0x010), .mchk (testE 0 3 0 0 0 2), .cp (testE 4 3 7 12 21 0),
    .cpRed (testE 0 3 7 12 21 1), .cpBc { testE 0 3 7 12 21 0 with wen := false }] : List Instr).all
    (fun i => !WellFormed i) = true := by decide +kernel

/-- The same for the vector commands: MOD, ROW without ROWEN, unused fields, IMM12, rounding codes 5 and 6. -/
theorem test_ill_formed_vx : ([
    .vadd (testE 0x20 3 7 12 0 0), .vadd (testE 1 3 7 12 0 0), .vadd (testE 0 3 7 12 1 0), .vsub (testE 0 3 7 12 0 6),
    .vmul (testE 0 3 7 12 0 0x010), .vfma (testE 0 3 7 12 21 5), .vmax (testE 0 3 7 12 1 0), .vmin (testE 0 3 7 12 1 0),
    .vabs (testE 0 3 7 1 0 0), .vneg (testE 0 3 7 1 0 0), .vexp (testE 0 3 7 1 0 0), .vlog (testE 0 3 7 1 0 0),
    .vrcp (testE 0 3 7 1 0 0), .vrsq (testE 0 3 7 1 0 0), .vsqrt (testE 0 3 7 1 0 0), .vsin (testE 0 3 7 1 0 0),
    .vcos (testE 0 3 7 1 0 0), .vtanh (testE 0 3 7 1 0 0), .vcvt (testE 0 3 7 0 0 0x800), .vcmp (testE 0 3 7 12 0 1),
    .vsel (testE 0 3 7 12 21 0x010), .vredsum (testE 0 3 7 1 0 0), .vredmax (testE 0 3 7 1 0 0),
    .vargmax (testE 0 3 7 0 0 1), .vtopk (testE 0 3 7 12 1 0x010), .vscan (testE 0 3 7 0 0 0x030),
    .vswp2 (testE 0 3 7 0 0 0x180), .vgath (testE 0 3 7 12 1 0), .vscat (testE 0 3 7 12 1 0), .vcopy (testE 0 3 7 0 0 1),
    .vfill (testE 0 3 7 0 0 1), .vlut (testE 0 3 7 12 0 0x010), .vtern (testE 0 3 7 0 0 1), .vdot8 (testE 0 3 7 12 21 0x100),
    .vquant (testE 0 3 7 0 0 8), .vrand (testE 0 3 7 12 0 0x020)] : List Instr).all
    (fun i => !WellFormed i) = true := by decide +kernel

/-! ### Numbers and formats -/

/-- 03: the element 0x3 of MXFP4 E2M1 under the scale byte 0x81 is 6, and the trits of the byte 0x2A. -/
theorem test_small_formats :
    (elemValue { elem := fmtE2M1, width := 4, mx := true, frac := 0 } 3 0x81).numEq (.ofInt 6) = true ∧
    (List.range 5).map (tritOf 0x2A) = [(0, false), (-1, false), (1, false), (1, false), (0, false)] := by decide +kernel

/-- R85's example: the entry word 0x1340_0C00 is e3m4 without specials, whose largest value 0x7F is 31. -/
theorem test_format_entry : entryValid 0x13400C00 = true ∧
    (elemValue (entryFormat 0x13400C00) 0x7F 0).numEq (.ofInt 31) = true := by decide +kernel

/-- R75, R76: 257 rounds to BF16 256 (a tie, to even) under RNE and to 258 upward, both inexact. -/
theorem test_rounding_ties : roundCvt (.ofInt 257) fmtBF16 0 false = (0x4380, flagNX) ∧
    roundCvt (.ofInt 257) fmtBF16 3 false = (0x4381, flagNX) := by decide +kernel

/-! ### Single instructions -/

/-- A group as its job starts, its A-slice at the first lane. -/
def testG : Group :=
  let g := (Group.placed loaderCtx 0 0 0 0 0 1 1 4096 0 0 false 0 { unit := 0, chunk := 0, iter := 0 }).startJob loaderCtx 0 [] []
  { g with a := { g.a with pc := 4 }, c := { g.c with pc := 4 } }

/-- Host memory of the tests: the tables of Loader, a line of seven `nop` of one slice at page 0, and then a vault page
and a page of peer 1; page 3 is not mapped. -/
def testHost (sl : Slice) : Memory :=
  ((loaderHost [] (BitVec.ofNat 32 (0x11111110 * sl.tag) :: List.replicate 7 0)).write 0x13008 (leBytes 8 0x1002F)).write 0x13010
    (leBytes 8 (2 ^ 54 + 0x12F))

/-- The state after reset with one running group whose slice `sl` issues; `f` sets the group up. -/
def testState (sl : Slice) (f : Group → Group) : State :=
  { State.reset with
    cur := some (0, sl)
    host := testHost sl
    owners := [{ index := frameIndex 0x10000, valid := true, retired := false, ord := 1, ctx := 0 }]
    ctxs := [loaderCtx]
    groups := [f testG]
    nextGid := 1 }

/-- Registers of a slice, each with its value. -/
def withRegs (sl : Slice) (rs : List (Nat × Word)) (g : Group) : Group :=
  rs.foldl (fun g x => g.setStream sl ((g.stream sl).wr (BitVec.ofNat 5 x.1) x.2 false)) g

/-- What `f` reads of group 0 after an instruction. -/
def after {α : Type} (i : Instr) (s : State) (f : Group → α) : Option α :=
  match exec i s with
  | .next t => (t.grp? 0).map f
  | _ => none

/-- Register `r` of the A-slice after an instruction of it, from the registers given. -/
def aluTest (i : Instr) (rs : List (Nat × Word)) (r : Reg) : Option Word :=
  after i (testState .a (withRegs .a rs)) (fun g => g.a.rd r)

/-- The table of R135, signed rows. -/
theorem test_division_signed :
    aluTest (.div 3 1 2) [(1, 0xFFFFFFFFFFFFFFF9), (2, 2)] 3 = some 0xFFFFFFFFFFFFFFFD ∧
    aluTest (.rem 3 1 2) [(1, 0xFFFFFFFFFFFFFFF9), (2, 2)] 3 = some 0xFFFFFFFFFFFFFFFF ∧
    aluTest (.div 3 1 2) [(1, 5), (2, 0)] 3 = some 0xFFFFFFFFFFFFFFFF ∧ aluTest (.rem 3 1 2) [(1, 5), (2, 0)] 3 = some 5 ∧
    aluTest (.div 3 1 2) [(1, 0x8000000000000000), (2, 0xFFFFFFFFFFFFFFFF)] 3 = some 0x8000000000000000 ∧
    aluTest (.rem 3 1 2) [(1, 0x8000000000000000), (2, 0xFFFFFFFFFFFFFFFF)] 3 = some 0 := by decide +kernel

/-- The table of R135, unsigned rows and products. -/
theorem test_division_unsigned :
    aluTest (.divn 3 1 2) [(1, 0xFFFFFFFFFFFFFFF9), (2, 2)] 3 = some 0x7FFFFFFFFFFFFFFC ∧
    aluTest (.remn 3 1 2) [(1, 0xFFFFFFFFFFFFFFF9), (2, 2)] 3 = some 1 ∧
    aluTest (.mulh 3 1 1) [(1, 0x8000000000000000)] 3 = some 0x4000000000000000 ∧
    aluTest (.mulhn 3 1 1) [(1, 0xFFFFFFFFFFFFFFFF)] 3 = some 0xFFFFFFFFFFFFFFFE ∧
    aluTest (.mul 3 1 1) [(1, 0xFFFFFFFFFFFFFFFF)] 3 = some 1 := by decide +kernel

/-- R136's example and R138's constant, step by step. -/
theorem test_constants :
    aluTest (.sltni 5 6 0xFFF) [(6, 7)] 5 = some 1 ∧ aluTest (.sltni 5 6 0xFFF) [(6, 0xFFFFFFFFFFFFFFFF)] 5 = some 0 ∧
    aluTest (.li16 4 0xCDEF) [] 4 = some 0xFFFFFFFFFFFFCDEF ∧
    aluTest (.ins16 4 1 0x89AB) [(4, 0xFFFFFFFFFFFFCDEF)] 4 = some 0xFFFFFFFF89ABCDEF ∧
    aluTest (.ins16 4 3 0x0123) [(4, 0xFFFF456789ABCDEF)] 4 = some 0x0123456789ABCDEF := by decide +kernel

/-- The table of R141 and the example of R142. -/
theorem test_fields :
    aluTest (.bext 6 5 60 8) [(5, 0xF0000000000000A5)] 6 = some 0xF ∧
    aluTest (.bexts 7 5 60 8) [(5, 0xF0000000000000A5)] 7 = some 0xF ∧
    aluTest (.bexts 8 5 60 4) [(5, 0xF0000000000000A5)] 8 = some 0xFFFFFFFFFFFFFFFF ∧
    aluTest (.bext 9 5 4 0) [(5, 0xF0000000000000A5)] 9 = some 0 ∧
    aluTest (.bins 10 5 62 8) [(5, 0xF0000000000000A5)] 10 = some 0x4000000000000000 ∧
    aluTest (.bextv 11 5 12) [(5, 0xF0000000000000A5), (12, 0x0846)] 11 = some 0 ∧
    aluTest (.bextv 11 5 12) [(5, 0xF0000000000000A5), (12, 0x083C)] 11 = some 0xF ∧
    aluTest (.fsh 4 2 3 16) [(2, 0x0123456789ABCDEF), (3, 0xFEDCBA9876543210)] 4 = some 0xCDEFFEDCBA987654 := by decide +kernel

/-- R102: g0 reads as zero and takes nothing; R143: `clz` of 0, `bswap`. -/
theorem test_g0_and_counts : aluTest (.addi 0 0 5) [] 0 = some 0 ∧ aluTest (.clz 3 0) [] 3 = some 64 ∧
    aluTest (.bswap 3 1) [(1, 0x0123456789ABCDEF)] 3 = some 0xEFCDAB8967452301 := by decide +kernel

/-- R147's table: with the identity pattern `bnet` returns gb; after one `bnld` of entry 0 to 64, bit 0 comes from ga. -/
theorem test_bit_network :
    aluTest (.bnet 6 4 5 1) [(4, 1), (5, 0xF0)] 6 = some 0xF0 ∧
    (after (.bnld 3 2 1 0) (testState .a (withRegs .a [(3, 64), (2, 1)])) (fun g =>
      ((patternEntry g.a 1 0).1, (patternEntry g.a 1 1).1))) = some (64, 1) := by decide +kernel

/-- R42: after the instruction in lane 1 the stream stands at lane 2, whose word bears its tag. -/
theorem test_scan : after .nop (testState .a id) (fun g => g.a.pc) = some 8 := by decide +kernel

/-- R117, R382: a `pop` of an empty queue whose producer has joined traps with cause 0x11; else it stalls. -/
theorem test_pop_empty :
    (after (.pop 0 3) (testState .c id) (fun g => (g.status, g.c.stall))) = some (.running, some .queueEmpty) ∧
    (after (.pop 0 3) (testState .c (fun g => { g with a := { g.a with joined := true } }))
      (fun g => (g.status, g.recs.map (fun r => (r.src, r.cause))))) = some (.stopping, [(1, 0x11)]) := by decide +kernel

/-- The job `twice`: what `push` puts in fq0, `pop` takes. -/
theorem test_queue_of_twice :
    (after (.push 0 1) (testState .a (withRegs .a [(1, 0x40)])) (fun g => (g.q 0).ents)) = some [.data 0x40] ∧
    (after (.pop 0 2) (testState .c (fun g => g.setQ 0 { head := 0, ents := [.data 0x40] }))
      (fun g => (g.c.rd 2, (g.q 0).ents))) = some (0x40, []) := by decide +kernel

/-- R403: `trap g5` stops the group with cause 0x30, SKIP and g5 in ADDR; the PC stays. -/
theorem test_trap :
    after (.trapSw 5) (testState .a (withRegs .a [(5, 77)])) (fun g => (g.status, g.a.pc, g.a.skip)) = some (.stopping, 4, true) ∧
    after (.trapSw 5) (testState .a (withRegs .a [(5, 77)])) (fun g => g.recs.map (fun r => (r.cause, r.addr, r.skip))) =
      some [(0x30, 77, true)] := by decide +kernel

/-- R125: bit 0 of sp stays 1; `spshift 0` moves bit 0 to bit 1. -/
theorem test_stage_predicates :
    (after (.spshift 0) (testState .c (fun g => { g with sp := 0x83 })) (fun g => g.sp)) = some 0x05 ∧
    (after (.spset 0 0x06) (testState .c (fun g => { g with sp := 0x81 })) (fun g => g.sp)) = some 0x07 := by decide +kernel

/-- R299, R382: `sem.sig` at the ceiling traps with cause 0x18; below it the value rises. -/
theorem test_semaphores :
    (after (.semSig 3) (testState .a id) (fun g => (g.sem 3).value)) = some 1 ∧
    (after (.semSig 3) (testState .a (fun g => g.setSem 3 { value := 2, ceil := 2, waiters := [] }))
      (fun g => g.recs.map (fun r => (r.cause, r.addr, r.status)))) = some [(0x18, 3, 3)] := by decide +kernel

/-- R8, R233: a store enters its bytes little-endian; a load reads them and sign-extends. -/
theorem test_store_and_load :
    (after (.stH 1 2 0) (testState .a (withRegs .a [(1, 0x1289), (2, 0x100)])) (fun g => g.a.sb.map (fun e => e.bytes))) =
      some [[0x89, 0x12]] ∧
    aluTest (.ldB 3 2 0) [(2, 4)] 3 = some 0 ∧ aluTest (.ldH 3 2 0) [(2, 0)] 3 = some 0x1110 := by decide +kernel

/-- R241: `amo.add` gives the old value and leaves the sum; here of the header word of the line. -/
theorem test_amo_add : aluTest (.amoAdd 3 2 1 2 0 0) [(1, 5), (2, 0)] 3 = some 0x11111110 ∧
    (match exec (.amoAdd 3 2 1 2 0 0) (testState .a (withRegs .a [(1, 5), (2, 0)])) with
      | .next t => some (leNat (t.host.read 0x20000 4))
      | _ => none) = some 0x11111115 := by decide +kernel

/-- R236: a misaligned `ld.acq` traps with cause 0x0B and the address. -/
theorem test_misaligned : after (.ldAcq 3 2 3 0 0) (testState .a (withRegs .a [(2, 12)]))
    (fun g => g.recs.map (fun r => (r.cause, r.addr))) = some [(0x0B, 12)] := by decide +kernel

/-- "A walk and an unmap" of 14: the leaf word is a well-formed level-3 leaf of that frame, the pointer one of level 2. -/
theorem test_walk_entries : leafOk 0x00000053A003002F 3 = true ∧ (entryLeaf 0x120000 0x00000053A003002F 3).frame = 0x53A0030000 ∧
    pointerOk 0x0000005008001001 2 = true ∧ levelIndex 0x120000 3 = 18 := by decide +kernel

/-- 00: 0x53_A000_1000 is stack 5, row 3, column 20, offset 0x1000; R227: columns 24 to 31 are no memory. -/
theorem test_vault_address : vaultStack 0x53A0001000 = 5 ∧ vaultHole 0x53A0001000 = false ∧ vaultHole 0x53C0000000 = true := by
  decide +kernel

/-- R37, R49: the command `vadd` of the worked encodings is counted at issue and stands in the vector queue. -/
theorem test_command_enters : after (.mcfg { testE 0 1 0 0 0 0 with pred := 0 }) (testState .c (withRegs .c [(1, 1)]))
    (fun g => ((g.queue .mat).length, g.cmdCount)) = some (1, 1) := by decide +kernel

/-- R63: a VX command from the A-slice raises cause 0x01 with its words in STATUS. -/
theorem test_wrong_slice : after (.vadd (testE 0 6 7 8 0 1)) (testState .a id)
    (fun g => g.recs.map (fun r => (r.cause, r.status))) = some [(0x01, 0x31D00001C4A7A000)] := by decide +kernel


/-! ### What meets the hypotheses of the statements -/

/-- The state and value of an access that succeeds. -/
def gotten {α : Type} (x : Got α) : Option (State × α) :=
  match x with
  | .ok s a => some (s, a)
  | _ => none

theorem gotten_some {α : Type} {x : Got α} {s : State} {a : α} : gotten x = some (s, a) ↔ x = .ok s a := by
  cases x <;> simp [gotten]

/-- The cause of an access that traps. -/
def caught {α : Type} (x : Got α) : Option Nat :=
  match x with
  | .trap _ t => some t.cause
  | _ => none

theorem caught_some {α : Type} {x : Got α} {k : Nat} : caught x = some k ↔ ∃ s t, x = .trap s t ∧ t.cause = k := by
  cases x <;> simp [caught]

/-- The state and value of an access of the device that succeeds. -/
def devGot {α : Type} (x : Dev α) : Option (State × α) :=
  match x with
  | .ok s a => some (s, a)
  | _ => none

theorem devGot_some {α : Type} {x : Dev α} {s : State} {a : α} : devGot x = some (s, a) ↔ x = .ok s a := by
  cases x <;> simp [devGot]

theorem issuing_test (sl : Slice) (f : Group → Group) (h : (f testG).gid = 0) (m : (f testG).mayIssue sl = true) :
    Issuing (testState sl f) 0 sl (f testG) :=
  ⟨rfl, by simp [State.grp?, testState, h], m⟩

/-- The one hypothesis of AluResults, StagePredicates, DivisionResults, ImmediateResults, ConstantsAndFunnelShift, BitFieldResults,
CountingResults and BitNetworks, of IllegalInstructionsTrap, SliceControl and SoftwareTraps; and a C-slice that issues. -/
theorem test_meets_issuing : Issuing (testState .a id) 0 .a testG ∧ Issuing (testState .c id) 0 .c testG :=
  ⟨issuing_test .a id rfl (by decide +kernel), issuing_test .c id rfl (by decide +kernel)⟩

/-- Reserved values: AluResults, ImmediateResults, BitFieldResults; the words of IllegalInstructionsTrap. -/
theorem test_meets_reserved : (0x04000018#32).toNat / 2 ^ 26 = 1 ∧ 24 ≤ (0x04000018#32).toNat % 2 ^ 11 ∧
    (0x0800B000#32).toNat / 2 ^ 26 = 2 ∧ 11 ≤ (0x0800B000#32).toNat / 2 ^ 12 % 2 ^ 4 ∧
    (0x08006040#32).toNat / 2 ^ 12 % 2 ^ 4 = 6 ∧ (0x08006040#32).toNat / 2 ^ 6 % 2 ^ 6 ≠ 0 ∧
    (0x14000003#32).toNat / 2 ^ 26 = 5 ∧ 3 ≤ (0x14000003#32).toNat % 2 ^ 3 ∧ (0x64000000#32).toNat / 2 ^ 26 = 0x19 ∧
    readsAll [(0x64000000, 0, .spset 0 0)] = true := by decide +kernel

/-- EncodeThenDecode and DecodeThenEncode: a short and a long instruction. -/
theorem test_meets_encoding : WellFormed (.li16 1 0x40) = true ∧ encode (.li16 1 0x40) ≠ [] ∧
    WellFormed (.vadd (testE 0 6 7 8 0 1)) = true ∧ encode (.vadd (testE 0 6 7 8 0 1)) = [0xC4A7A000, 0x31D00001] := by
  decide +kernel

/-- StepRunsDecoded: the `add` of the loader's line, a stream that is midway, and an event whose turn it is. -/
theorem test_meets_step_runs :
    let s := State.reset.loadWord 32 0x04621000
    let s0 : State := s.takeTurn.2.beginTurn 0 .a
    s.takeTurn.1 = .stream 0 .a ∧
    (match s0.grp? 0, s0.ctx? 0, gotten (s0.fetchLine 0 .a 0) with
     | some g, some cx, some (s2, ws) => g.mayIssue .a && !g.a.midway && !g.a.skip && !g.a.recheck && g.a.pc == 4 && g.code == 0 &&
         lineOk ws && !State.privilegedWritten (s2.mapStream 0 .a (fun x => { x with pass := some { va := 0, words := ws } })) g cx .a 0 &&
         lineKind ws == 0 && laneTag ws 1 == Slice.a.tag && ws.getD 1 0 == 0x04621000
     | _, _, _ => false) = true ∧
    readsAll [(0x04621000, 0, .add 3 2 2)] = true ∧
    (let g := { testG with a := { testG.a with reqs := [0], pass := some { va := 0, words := [0x110, 0x04621000] } } }
     g.a.midway = true ∧ g.mayIssue .a = true) ∧
    ({ State.reset with agenda := [.event .eventWrite] } : State).takeTurn.1 = .event .eventWrite ∧
    isEvent .eventWrite = true := by decide +kernel

/-- StepKeepsMemoriesCanonical: State.reset, whose step answers. -/
theorem test_meets_invariant : State.reset.memoriesWf = true ∧
    (match step State.reset with | .next _ => true | _ => false) = true := by decide +kernel

/-- RegisterFrame: an instruction of the family, and the group after it. -/
theorem test_meets_register_frame : Issuing (testState .a id) 0 .a testG ∧ regDest (.add 3 1 2) = some 3 ∧
    after (.add 3 1 2) (testState .a id) (fun h => h.ctx) = some testG.ctx ∧ (3 : Reg) ≠ 0 ∧ (2 : Reg) ≠ 3 :=
  ⟨test_meets_issuing.1, rfl, by decide +kernel, by decide, by decide⟩

/-- SliceControl: a launch of the group; a stream whose requests to peers are answered, and one with an open request. -/
def testLaunch : Launch :=
  { lid := 0, ctx := 0, queue := 8, parent := none, n := 1, w := 1, minst := 1, maxst := 1, nlev := 0, prio := 0, cor := false,
    rbound := 0, xpages := 1, code := 0, compl := 0, args := [], levels := [], admitted := true,
    sets := [{ west := 0, unit := none, next := 0, request := false, calved := false }], nextUnit := 0, nextChunk := 0,
    returned := [], jobs := 0, ffl := 0, chk := 0, asked := [], takers := [] }

/-- A request of the A-slice of group 0 that peer 1 has not answered. -/
def testOutReq : OutReq :=
  { tag := 0, port := 0, peer := 1, addr := 0, kind := .read 8, gid := 0, src := 0, lid := none, chunk := none, ord := 1,
    ctx := some 0, home := 0, stale := [] }

theorem test_meets_slice_control :
    ({ testState .a id with launches := [testLaunch] } : State).launch? testG.lid = some testLaunch ∧
    (testState .a id).drainAll.peerQuiet 0 Slice.a.src = true ∧
    ({ testState .a id with outReqs := [testOutReq] } : State).drainAll.peerQuiet 0 Slice.a.src = false := by decide +kernel

/-- SoftwareTraps: a stop of the stream that has no record yet; a resumed stream with SKIP set. TrapEntry: a running
group. -/
theorem test_meets_trap_entry : testG.recs.all (fun r => 1 < r.src) = true ∧ testG.status = .running ∧
    Issuing (testState .a (fun g => { g with a := { g.a with skip := true } })) 0 .a { testG with a := { testG.a with skip := true } } ∧
    (testState .a id).ctx? 0 = some loaderCtx ∧ testG.a.midway = false :=
  ⟨by decide +kernel, by decide +kernel, issuing_test .a _ rfl (by decide +kernel), by decide +kernel, by decide +kernel⟩

/-- A boot record's configuration with no ring. -/
def testBoot : BootCfg :=
  { pcap := 1024, aperture := 0, mgmt := 0, cntbase := 0x40000, snap := 1, gsel := List.replicate 8 0,
    ssel := List.replicate 8 (2 ^ 14), evtq := 0x100, svn := 0 }

/-- A command as captured. -/
def testCmd (w1 w2 : BitVec 32) (uid : Nat) : Cmd :=
  { w1 := w1, w2 := w2, vD := 0, vA := 0, vB := 0, vC := 0, cursor := 0, null := false, started := false, qf := none,
    nest := [], fmtw := [], cfg := 0, uid := uid, idx := 0, bind := 0, rnd := 0, hold := none, reqs := [], fl := 0, pz := false, eng := none }

/-- ControlRegisters: register and counter numbers at the ends of their ranges, a boot configuration, `chk.err` with no
command before its mark and with one. -/
theorem test_meets_control_registers : (testState .a id).ctx? testG.ctx = some loaderCtx ∧ (10#5).toNat < 11 ∧ testG.a.rp 1 = false ∧
    (7#5).toNat < 8 ∧ 8 ≤ (8#5).toNat ∧ ({ testState .a id with boot := some testBoot } : State).boot = some testBoot ∧
    (∀ q ∈ [EQueue.mat, .vec, .cpl, .cps], testG.queue q = []) ∧
    (let g := { testG.setQueue .mat [testCmd 0xC0000180 0 0] with nextUid := 1 }
     ∃ c ∈ g.queue .mat, c.uid < g.a.chkMark.getD g.nextUid) := by decide +kernel

/-- BranchesAndJumps: a condition that holds and one that fails; a target with a lane of the stream and one in lane 0; a
link; a jump register. -/
theorem test_meets_branches :
    branchShape (.beq 1 2 2) ≠ none ∧ testG.a.rp 1 = false ∧ testG.a.rd 1 = testG.a.rd 2 ∧
    ((withRegs .a [(1, 5)] testG).a.rd 1 ≠ (withRegs .a [(1, 5)] testG).a.rd 2) ∧ branchTarget testG.a.pc 13 2 = 8 ∧
    (gotten ((testState .a id).checkTarget 0 .a 8 false)).isSome = true ∧
    caught ((testState .a id).checkTarget 0 .a (branchTarget testG.a.pc 13 0) false) = some 0x04 ∧
    branchTarget testG.a.pc 26 2 = 8 ∧
    (do let (s1, _) ← gotten ((testState .a id).checkTarget 0 .a 8 false)
        gotten (s1.scanAfter 0 .a 4)).map (fun (x : State × Word) => x.2) = some 8 ∧
    (gotten ((testState .a id).checkTarget 0 .a 8 true)).isSome = true ∧ (2#64).toNat % 4 ≠ 0 := by decide +kernel

/-- A group whose queue `k` holds the entries. -/
def holding (k : Nat) (es : List QEntry) (g : Group) : Group := g.setQ k { head := 0, ents := es }

/-- BranchesAndJumps: bq1 holds a zero or another value, and the target passes its checks. -/
theorem test_meets_queue_branches : Issuing (testState .a (holding 5 [.data 0])) 0 .a (holding 5 [.data 0] testG) ∧
    ((holding 5 [.data 0] testG).q (4 + (1#1).toNat)).ents = [.data 0] ∧
    ((holding 5 [.data 9] testG).q (4 + (1#1).toNat)).ents = [.data 9] ∧
    (gotten ((testState .a (holding 5 [.data 0])).checkTarget 0 .a (branchTarget 4 16 2) false)).isSome = true :=
  ⟨issuing_test .a _ (by decide +kernel) (by decide +kernel), by decide +kernel, by decide +kernel, by decide +kernel⟩

/-- LoopResults, first part: a body of lanes 2 and 3, counts of 0 and not. -/
theorem test_meets_loop_start :
    (do let (s1, ws) ← gotten ((testState .a id).checkTarget 0 .a (branchTarget 4 16 3) false)
        let (_, pc) ← gotten (s1.scanAfter 0 .a (branchTarget 4 16 3))
        let (_, hd) ← gotten (s1.scanAfter 0 .a 4)
        pure (pc, hd, endsNoBody (ws.getD 3 0))) = some (16, 8, false) ∧
    testG.a.pc.toNat < (branchTarget 4 16 3).toNat ∧ (testG.a.loopAt 2).active = false ∧ testG.a.nesting = [] ∧
    testG.a.rp 1 = false ∧ testG.a.rd 1 = 0 ∧ (withRegs .a [(1, 5)] testG).a.rd 1 ≠ 0 := by decide +kernel

/-- The A-slice in lane 2, at the end of loop 1, which has `n` iterations to go. -/
def looping (n : Word) (g : Group) : Group :=
  g.setStream .a { (g.a.setLoop 1 { count := n, head := 4, end_ := 8, active := true }) with nesting := [1], pc := 8 }

/-- LoopResults, second part: a count above 1 and a count of 1. -/
theorem test_meets_loop_end : ((looping 2 testG).stream .a).nesting = [] ++ [1] ∧ (((looping 2 testG).stream .a).loopAt 1).end_ = 8 ∧
    ((looping 2 testG).stream .a).pc = 8 ∧ 1 < (((looping 2 testG).stream .a).loopAt 1).count.toNat ∧
    (((looping 1 testG).stream .a).loopAt 1).count = 1 ∧
    (gotten ((testState .a (looping 2)).checkTarget 0 .a 4 false)).isSome = true ∧
    ((testState .a (looping 2)).grp? 0).isSome = true := by decide +kernel

/-- LoopResults, the scan: lane 2 after lane 1, and no lane between. -/
theorem test_meets_scan : testG.a.nesting = [] ∧ (gotten ((testState .a id).fetchLine 0 .a 0)).map (fun x =>
    (lineOk x.2, lineKind x.2, laneTag x.2 2, isLong (x.2.getD 1 0))) = some (true, 0, Slice.a.tag, false) := by decide +kernel

/-- QueueResults, its slip counter: below the limit in force, at it, above zero and at zero, with and without the partner. -/
theorem test_meets_slip : testG.slip < min testG.slipLim.toNat 64 ∧ (0#7).toNat = 0 ∧
    Issuing (testState .a (fun g => { g with slip := 64 })) 0 .a { testG with slip := 64 } ∧
    Issuing (testState .c (fun g => { g with slip := 1 })) 0 .c { testG with slip := 1 } ∧
    Issuing (testState .c (fun g => { g with a := { g.a with joined := true } })) 0 .c { testG with a := { testG.a with joined := true } } ∧
    Issuing (testState .a (fun g => { g with slip := 64, c := { g.c with joined := true } })) 0 .a
      { testG with slip := 64, c := { testG.c with joined := true } } :=
  ⟨by decide +kernel, rfl, issuing_test .a _ rfl (by decide +kernel), issuing_test .c _ rfl (by decide +kernel),
   issuing_test .c _ rfl (by decide +kernel), issuing_test .a _ rfl (by decide +kernel)⟩

/-- QueueResults: queues with room, with a value, a poison and a fault marker at the head, full and empty, with their
partners joined and not. IllegalInstructionsTrap: each queue has one producer and one consumer. -/
theorem test_meets_queues :
    Issuing (testState .c (holding 3 [.data 7, .data 8])) 0 .c (holding 3 [.data 7, .data 8] testG) ∧
    Issuing (testState .a (holding 3 (List.replicate 32 (.data 1)))) 0 .a (holding 3 (List.replicate 32 (.data 1)) testG) ∧
    ((holding 3 (List.replicate 32 (.data 1)) testG).q 3).ents.length = 32 ∧ ((holding 3 [.data 7] testG).q 3).ents = [.data 7] ∧
    ((holding 0 [.poison 0 0 0] testG).q 0).ents = [.poison 0 0 0] ∧ ((holding 0 [.fault 8 3 64] testG).q 0).ents = [.fault 8 3 64] ∧
    (testG.q 5).ents = [] ∧ testG.a.joined = false ∧ producer 5 = .c ∧ consumer 5 = .a ∧ producer 3 = .a ∧ consumer 3 = .c ∧
    commandWord (.vadd (testE 0 6 7 8 0 1)) = some (testE 0 6 7 8 0 1) ∧ Instr.major? (.vadd (testE 0 6 7 8 0 1)) = some .vx :=
  ⟨issuing_test .c _ (by decide +kernel) (by decide +kernel), issuing_test .a _ (by decide +kernel) (by decide +kernel), by decide +kernel⟩

/-- LoadQueueResults: room in fq0; a pending entry at its head whose address is misaligned, not mapped, and readable. -/
theorem test_meets_load_queue :
    let at_ (x : Word) : State := testState .a (holding 0 [.pending false 2 x 0 none []])
    let tr (x : Word) : State × XRes :=
      ((at_ x).unwait (0, 8)).translate (.ctl testG.ctl) { gid := some 0, sl := some .a, upTo := some 0, bind := testG.bind } loaderCtx x.toNat needR
    (testG.q 0).ents.length < 32 ∧ testG.a.rp 1 = false ∧
    (((holding 0 [.pending false 2 6 0 none []] testG).q 0).ents.head? = some (.pending false 2 6 0 none [])) ∧ (6#64).toNat % 2 ^ 2 ≠ 0 ∧
    (holding 0 [.pending false 2 6 0 none []] testG).pendings.filter (fun y => y.1 < 0 + 1) = [(0, 0, 0)] ∧ ((at_ 4).unwait (0, 8)).soQuiet 0 0 (some 0) = true ∧
    ((tr 0x30000).2 = .fault { cause := 0x08, reason := 2, level := 3 }) ∧ (tr 4).2 = .ok (.host 0x20004) 1 := by decide +kernel

/-- LoadResults: a load of page 0, a poisoned one, one of an address not mapped, a misaligned `ld.acq`. LoadFrame and
RegisterFrame: the load answers. -/
theorem test_meets_loads :
    loadShape (.ldW 3 1 0) = some (1, 0, 4, true, false, true, 3) ∧ testG.a.rp 1 = false ∧ testG.a.reqs = [] ∧ testG.pendings = [] ∧
    (do let (s1, ps) ← gotten ((testState .a id).access 0 .a 0 4 needR false true)
        let (_, b) ← gotten ((s1.settleLoads 0 .a).readSlice 0 .a ps)
        pure (b.1.length, b.2)) = some (4, false) ∧
    (do let (s1, ps) ← gotten (({ testState .a id with hostPoison := [0x20000] } : State).access 0 .a 0 4 needR false true)
        let (_, b) ← gotten ((s1.settleLoads 0 .a).readSlice 0 .a ps)
        pure b.2) = some true ∧
    caught ((testState .a id).access 0 .a 0x30000 4 needR false true) = some 0x08 ∧
    loadShape (.ldAcq 3 1 3 0 4) = some (1, 4, 8, false, true, false, 3) ∧ (testG.a.rd 1 + 4).toNat % 8 ≠ 0 ∧
    after (.ldW 3 1 0) (testState .a id) (fun h => h.ctx) = some testG.ctx ∧ spadLoadShape (.ldsW 3 1 0) ≠ none ∧
    after (.ldsW 3 1 0) (testState .a id) (fun h => h.ctx) = some testG.ctx ∧ testG.pendingFill = false ∧
    (let f := holding 0 [.data 7, .pending false 2 4 0 none []]
     after (.ldW 3 1 0) (testState .a f) (fun h => h.ctx) = some testG.ctx ∧ after (.ldW 3 1 0) (testState .c f) (fun h => h.ctx) = some testG.ctx) := by
  decide +kernel

/-- WalkEnds: an address out of range, a root without V, and the entries at which a walk ends. -/
theorem test_meets_walk_ends :
    2 ^ 48 ≤ 2 ^ 48 ∧ (0#64).toNat % 2 = 0 ∧ (5 % 2 = 1 ∧ 5 / 2 % 2 = 0 ∧ pointerOk 5 0 = false) ∧
    (3 % 2 = 1 ∧ 3 / 2 % 2 = 1 ∧ leafOk 3 0 = false) ∧ leafOk (2 ^ 35 - 2 ^ 31 + 0x2F) 3 = true ∧
    (entryLeaf 0 (2 ^ 35 - 2 ^ 30 + 0x2F) 3).locOf 0 = .vault (2 ^ 35 - 2 ^ 30) ∧ vaultHole (2 ^ 32 - 2 ^ 30) = true ∧
    leafOk (2 ^ 32 - 2 ^ 30 + 0x2F) 3 = true ∧ (entryLeaf 0 (2 ^ 32 - 2 ^ 30 + 0x2F) 3).locOf 0 = .vault (2 ^ 32 - 2 ^ 30) ∧
    vaultHole 0 = false ∧ (testState .a id).owns 0 0 = false ∧ (entryLeaf 0 0x2F 3).locOf 0 = .vault 0 ∧
    ((entryLeaf 0 0xA3 3).loc ≠ 0 ∧ (entryLeaf 0 0xA3 3).r = false ∧ leafOk 0xA3 3 = true) ∧
    ((entryLeaf 0 0xAF 3).loc ≠ 0 ∧ (entryLeaf 0 0xAF 3).permits needRW = true) := by decide +kernel

/-- StoreResults and StoreFrame: a store and an `st.rel` to page 0, one to an address not mapped, a misaligned `st.rel`. -/
theorem test_meets_stores :
    storeShape (.stD 1 2 8) = some (1, 2, 8, 8) ∧ testG.a.rp 2 = false ∧ testG.a.reqs = [] ∧
    (do let (s1, ps) ← gotten ((testState .a id).access 0 .a 8 8 needW false true)
        gotten ((s1.settleLoads 0 .a).storeParts 0 .a ps (leBytes 8 7) false none)).isSome = true ∧
    (do let (s1, ps) ← gotten ((testState .a id).access 0 .a 8 8 needW true false)
        if (s1.settleLoads 0 .a).quietFor 0 .a then
          gotten (((s1.settleLoads 0 .a).release 0 .a 3).storeParts 0 .a ps (leBytes 8 7) false (some 3))
        else none).isSome = true ∧ (testState .a id).memoriesWf = true ∧
    caught ((testState .a id).access 0 .a 0x30000 8 needW false true) = some 0x08 ∧ (testG.a.rd 2 + 12).toNat % 8 ≠ 0 ∧
    storedAt testG.a (.stD 1 2 8) = some (8, 8, needW, false, true, 0) ∧
    storedAt testG.a (.amoAdd 3 2 1 3 0 0) = some (0, 8, needRW, true, false, 3) ∧
    after (.stD 1 2 8) (testState .a id) (fun h => h.ctx) = some testG.ctx ∧
    after (.amoAdd 3 2 1 3 0 0) (testState .a id) (fun h => h.ctx) = some testG.ctx ∧
    (testState .a id).pendingOn (.host 0x20010) = false ∧ MemLoc.covers (.host 0x20008) 8 (.host 0x20010) = false ∧
    spadStoreShape (.stsD 1 2 8) = some (1, 2, 8, 8) ∧
    after (.stsD 1 2 8) (testState .a id) (fun h => h.ctx) = some testG.ctx := by decide +kernel

/-- StoreResults: the last two bytes of a line of host memory, of the vault, and of the scratchpad's extent, as the slice reads them back;
an SO page; a peer's place with a route, and a write of the slice's own that is out there, up to its last byte. -/
theorem test_meets_store_buffers :
    let bs : List Byte := [7, 8]
    let p (l : MemLoc) (o : Nat) : Part := { va := 6, n := 2, loc := l, ord := o }
    let s : State := testState .a id
    let v := testG.viewer .a
    let u (l : MemLoc) : State := s.storePart 0 .a v (p l 1) bs true none
    (s.groups.map Group.gid).Nodup ∧ bs.length = 2 ∧ testG.a.reqs = [] ∧ s.soQuiet 0 Slice.a.src none = true ∧
    s.lqOverlaps 0 none [p (.host 0x20006) 0] = false ∧
    [MemLoc.host 0x2003E, .vault 0x3E].all (fun l => (u l).viewRead v l 2 == (bs, true) && !(u l).masked testG.bind l) ∧
    ((u (.spad 4094)).grp? 0).map (fun h => ((u (.spad 4094)).viewSpad v h 4094 2).1) = some bs ∧
    ((s.drainOverlap v true (.vault 0) 2).freePage 0 = false ∧ (s.drainOverlap v true (.vault 0) 2).vault.wf = true ∧
     (s.drainOverlap v true (.vault 0) 2).host.wf = true) ∧
    (let r : State := { s with routes := [(1, 0)] }
     let q : Part := { va := 0x200FE, n := 2, loc := .peer 1 0xFE, ord := 1 }
     let a : PeerAsk := { peer := 1, addr := 0xFE, ord := 1, kind := .write bs true }
     r.route 1 = some 0 ∧ r.peerDown 1 = false ∧ r.portFree 0 1 (0, Slice.a.src) = true ∧ r.tableBusy 0 Slice.a.src a = false ∧
     testG.reading q = false ∧ r.lqOverlaps 0 none [q] = false ∧ 0xFE % 256 + 2 ≤ 256 ∧
     (match r.storeParts 0 .a [q] bs true none with | .ok t _ => t.outReqs.map OutReq.kind | _ => []) = [.write bs true] ∧
     (let w : State := { r with outReqs := [{ testOutReq with addr := 0xF8, kind := .write (leBytes 8 5) false }] }
      (w.takeHit testG q).got = none ∧ (0xF8 < 0xFE + 2 ∧ 0xFE < 0xF8 + 8) ∧
      (match w.readSlice 0 .a [q] with | .wait _ => true | _ => false) = true)) := by decide +kernel

/-- ScratchpadResults: the last bytes of the extent, clean and poisoned; the first offset beyond it; a misaligned one. -/
theorem test_meets_scratchpad :
    spadLoadShape (.ldsD 3 1 0) = some (1, 0, 8, false, 3) ∧ (4088 < 2 ^ 26 ∧ 4088 % 8 = 0 ∧ 4088 / 2 ^ 22 < testG.n ∧ 4088 % 2 ^ 22 < testG.x) ∧
    ((testState .a id).viewSpad (testG.viewer .a) testG 4088 8).2 = false ∧
    ((testState .a id).viewSpad (testG.viewer .a) testG 4088 8).1.length = 8 ∧
    ((testState .a id).viewSpad (testG.viewer .a) { testG with spadPoison := [3840] } 4088 8).2 = true ∧
    (4096 % 8 = 0 ∧ testG.x ≤ 4096 % 2 ^ 22) ∧ (4092 < 2 ^ 26 ∧ 4092 % 8 ≠ 0) := by decide +kernel

/-- AtomicResults: an aligned word of page 0, with order codes 0 and 2, clean and poisoned; operands of both sizes. -/
theorem test_meets_atomics :
    amoShape (.amoCas 3 2 1 3 2 3) = some (9, 3, 2, 1, 3, 2, 3) ∧ (2#2).getLsbD 1 = true ∧
    (gotten ((testState .a id).access 0 .a 16 8 needRW true false)).map (fun x => x.2.map (fun p => p.loc)) = some [.host 0x20010] ∧
    (do let (s1, _) ← gotten ((testState .a id).access 0 .a 16 8 needRW true false)
        pure ((s1.settleLoads 0 .a).quietFor 0 .a, (s1.settleLoads 0 .a).soQuiet 0 Slice.a.src none,
          (s1.settleLoads 0 .a).lqOverlaps 0 none [{ va := 16, n := 8, loc := .host 0x20010, ord := 1 }])) = some (true, true, false) ∧
    ((testState .a id).amoAt (testG.viewer .a) (.host 0x20010) 0 8 5 0 false).2.poison = false ∧
    (({ testState .a id with hostPoison := [0x20000] } : State).amoAt (testG.viewer .a) (.host 0x20010) 0 8 5 0 false).2.poison = true ∧
    (0xFFFFFFFF#64).toNat < 2 ^ (8 * 4) ∧ (0xFFFFFFFFFFFFFFFF#64).toNat < 2 ^ (8 * 8) := by decide +kernel

/-- FenceResults: nothing pending, a pending load of fq0, and a request to a peer that is not answered. Its last part:
group identifiers that differ. -/
theorem test_meets_fences :
    (((testState .a id).settleLoads 0 .a).release 0 .a 3).peerQuiet 0 0 = true ∧ testG.pendingFill = false ∧
    (testState .a id).peerQuiet 0 Slice.a.src = true ∧
    (holding 0 [.pending false 2 4 0 none [0]] testG).pendingFill = true ∧
    ((((testState .a (holding 0 [.pending false 2 4 0 none [0]])).settleLoads 0 .a).release 0 .a 3).grp? 0).map Group.pendingFill =
      some true ∧
    ((({ testState .a id with outReqs := [testOutReq] } : State).settleLoads 0 .a).release 0 .a 3).peerQuiet 0 0 = false ∧
    ((testState .a id).groups.map Group.gid).Nodup := by decide +kernel

/-- FenceResults: releases at the scopes 0 and 2 with a store of the slice pending, which overlaps no other; a store of the other slice
performed at group scope, which the release takes to its own. -/
theorem test_meets_narrow_release :
    let e (vis : Option Nat) (a : Nat) : StoreEntry := { loc := .host a, bytes := [7], poison := false, uo := false, vis := vis, seq := 0 }
    let s : State := testState .a (fun g => { g with a := { g.a with sb := [e none 0x20010] }, c := { g.c with sb := [e (some 0) 0x20020] } })
    let left (k : Nat) : Option (List (Option Nat)) :=
      ((s.release 0 .a k).grp? 0).map (fun g => (g.a.sb ++ g.c.sb).map (fun e => e.vis))
    left 0 = some [some 0, some 0] ∧ left 2 = some [some 2, some 2] ∧
    s.groups.all (fun h => [Slice.a, Slice.c].all (fun x => (h.stream x).sb.all (fun e => !s.contended h.gid x e))) := by decide +kernel

/-- CacheControlResults: `prom` of page 0; a poisoned address; an address not mapped; the vault page and the peer's page. -/
theorem test_meets_cache_control :
    (do let (s1, ps) ← gotten ((testState .a id).access 0 .a 8 1 needR false false)
        gotten (s1.drainAll.readSlice 0 .a (ps.map Part.word))).isSome = true ∧
    (testG.a.wr 1 0 true).rp 1 = true ∧ caught ((testState .a id).access 0 .a 0x30000 1 needR false true) = some 0x08 ∧
    (gotten ((testState .a id).access 0 .a 0x10100 1 needR false true)).map (fun x => x.2.map (fun p => p.loc)) = some [.vault 0x10100] ∧
    (gotten ((testState .a id).access 0 .a 0x20100 1 needR false true)).map (fun x => x.2.map (fun p => p.loc)) = some [.peer 1 0x100] := by
  decide +kernel

/-- A group whose A-slice waits at a fetched `wait.eq` of register 7, which has met the value `v`. -/
def waitingAt (v : Option Nat) (g : Group) : Group :=
  { g with a := { g.a with stall := some .wait, pass := some { va := 0, words := [0x11111110, 0x3C676220, 0, 0, 0, 0, 0, 0] },
                           waiting := some { order := 0, what := .word { va := 16, n := 8, loc := .host 0x20010, ord := 1 } 0 true, caught := v, ahead := [], since := 0 } } }

/-- WaitResults: a word equal to the operand and one that differs; a stream that waits at a fetched `wait.eq`, with and without
a value that it has met, and one that waits at nothing. -/
theorem test_meets_waits :
    (do let (s1, ps) ← gotten ((testState .a id).access 0 .a 16 8 needR true false)
        let (s2, b) ← gotten ((s1.settleLoads 0 .a).readSlice 0 .a ps)
        let p ← ps.head?
        let u := s2.shareRead testG.bind p (leNat b.1) s2.nextWait s2.nextTag
        pure (leNat b.1, b.2, u.passedOver { order := s2.nextWait, what := .word p 0 true, caught := none,
                                              ahead := u.mustRead testG.bind p s2.nextWait s2.nextTag, since := u.nextTag } p)) = some (0, false, false) ∧
    (0#64).toNat % 2 ^ 64 = 0 ∧ (1#64).toNat % 2 ^ 64 ≠ 0 ∧ testG.a.waiting = none ∧ testG.a.stall ≠ some .wait ∧
    (let g := waitingAt (some 9) testG
     let p : Part := { va := 16, n := 8, loc := .host 0x20010, ord := 1 }
     g.mayIssue .a = true ∧ g.a.stall = some .wait ∧ g.a.rp 7 = false ∧ g.a.rp 12 = false ∧
     lineInstr [0x11111110, 0x3C676220, 0, 0, 0, 0, 0, 0] (g.a.pc.toNat % 32 / 4) = .waitEq 3 7 12 0 1 ∧
     g.a.waiting = some { order := 0, what := .word p 0 true, caught := some 9, ahead := [], since := 0 } ∧
     State.passedOver { (testState .a (waitingAt (some 9))).unwait (0, Slice.a.src) with cur := some (0, .a) }
       { order := 0, what := .word p (g.a.rd 12).toNat true, caught := none, ahead := [], since := 0 } p = false) ∧
    after (.waitReread 0 .a) (testState .a (waitingAt (some 9))) (fun g => (g.a.rd 3, g.a.stall, g.a.waiting)) = some (9, none, none) := by
  decide +kernel

/-- R245, R250: a value that another slice's read of a peer's word found serves a stalled wait where its request was sent since that
wait last read, and not where it was sent before; then the wait reads once more first. -/
theorem test_older_read_serves_no_wait :
    let p : Part := { va := 0x20100, n := 8, loc := .peer 1 0x100, ord := 1 }
    let w : Waiting := { order := 0, what := .word p 9 true, caught := none, ahead := [], since := 5 }
    let s : State := testState .a (fun g => { g with a := { g.a with stall := some .wait, waiting := some w } })
    let got (sent : Nat) : Option (Option Waiting) := ((s.shareRead testG.bind p 9 1 sent).grp? 0).map (fun g => g.a.waiting)
    got 5 = some (some { w with caught := some 9 }) ∧ got 4 = some (some w) ∧ s.mustRead testG.bind p 1 4 = [0] ∧
    s.mustRead testG.bind p 1 5 = [] := by decide +kernel

/-- MemoryReadAfterWrite: a memory in canonical form, at the ends of the bytes written; a vault place that is no free page, and one in
a free page of the pool. -/
theorem test_meets_memory : Memory.wf [(4, 1)] = true ∧ (0 : Nat) < ([7, 8] : List Byte).length ∧
    (testHost .a).wf = true ∧ (testState .a id).vault.wf = true ∧ (testState .a id).freePage 0 = false ∧
    (let t := (testState .a id).performWrite (.vault 255) [7, 8] true true
     t.baseByte (.vault 256) = 8 ∧ t.basePoison (.vault 256) = true ∧ t.baseByte (.vault 257) = 0) := by decide +kernel

/-- Register 1 of a slice poisoned. -/
def poisoned (sl : Slice) (g : Group) : Group := g.setStream sl ((g.stream sl).wr 1 0 true)

/-- ControlPoison: a load, a branch, a jump, a loop whose end is lane 3, and an `spset` of the C-slice, from a poisoned register. -/
theorem test_meets_control_poison : Issuing (testState .a (poisoned .a)) 0 .a (poisoned .a testG) ∧
    Issuing (testState .c (poisoned .c)) 0 .c (poisoned .c testG) ∧ (testState .a (poisoned .a)).ctx? 0 = some loaderCtx ∧
    ((poisoned .a testG).a.packet = none ∧ (poisoned .a testG).a.midway = false) ∧
    ((poisoned .a testG).a.rp 1 = true) ∧ ((poisoned .c testG).c.rp 1 = true) ∧ loadShape (.ldW 3 1 0) = some (1, 0, 4, true, false, true, 3) ∧
    (branchShape (.beq 1 2 2)).isSome = true ∧
    (gotten ((testState .a (poisoned .a)).checkTarget 0 .a (branchTarget 4 16 3) false)).map (fun x => endsNoBody (x.2.getD 3 0)) =
      some false ∧ ((poisoned .a testG).a.loopAt 0).active = false ∧ (poisoned .a testG).a.nesting = [] :=
  ⟨issuing_test .a _ (by decide +kernel) (by decide +kernel), issuing_test .c _ (by decide +kernel) (by decide +kernel),
   by decide +kernel⟩

/-- What the admission of a command comes to: whether it enters and whether it is nullified, or its cause. -/
def admission (g : Group) (i : Instr) (e : EWord) (d : Word) : Option Bool × Option Nat :=
  match g.accept i e true (g.capture i e d 0 0 0) with
  | .enter k => (some k.null, none)
  | .trap k => (none, some k)

/-- CommandIssue: an `mcfg` that enters, one that fails its check (reserved bits), one nullified by its predicate; room
and none. -/
theorem test_meets_command_issue :
    (let e : EWord := { testE 0 1 0 0 0 0 with pred := 0 }
     commandWord (.mcfg e) = some e ∧ (testG.c.mark (markCode (commandQueue (.mcfg e) .c))).active = false ∧
     testG.c.rp e.d = false ∧ testG.c.rp e.a = false ∧ admission testG (.mcfg e) e 1 = (some false, none) ∧
     admission testG (.mcfg e) e (2 ^ 63) = (none, some 0x21)) ∧
    admission testG (.mcfg (testE 0 1 0 0 0 0)) (testE 0 1 0 0 0 0) 1 = (some true, none) ∧
    testG.sp.getLsbD (testE 0 1 0 0 0 0).pred.toNat = false ∧ (testG.queue .mat).length < 16 ∧
    ((testG.setQueue .mat (List.replicate 16 (testCmd 0xC0000180 0 0))).queue .mat).length = 16 := by decide +kernel

/-- NestErepQfence: clean registers, no marking, room in every queue and a full one. -/
theorem test_meets_nest : testG.a.rp 1 = false ∧ (testG.a.mark 2).active = false ∧ 2 ≤ (2#2).toNat ∧
    (∀ r ∈ [EQueue.mat, .vec, .cpl, .cps], (testG.queue r).length < 16) ∧ (0xF#4).getLsbD EQueue.cps.idx = true := by decide +kernel

/-- A region descriptor (R191): FP32, one element. -/
def testRegion (base : Nat) : Word := BitVec.ofNat 64 (2 * 2 ^ 58 + 1 * 2 ^ 42 + 1 * 2 ^ 26 + base)

/-- A group with a started or waiting command at the head of its matrix queue. -/
def queued (q : EQueue) (c : Cmd) (g : Group) : Group := g.setQueue q [c]

/-- CommandStarts: no wait; a unit that is there; none that another can still raise; none that nobody can. -/
theorem test_meets_command_starts :
    (let c := testCmd 0xC0000180 0 0
     let w := testCmd 0xC0A00180 0 0
     let g := queued .mat c testG
     c.wen = false ∧ w.wen = true ∧ w.wsem = 2 ∧ g.mayBegin = true ∧ c.started = false ∧ c.qf = none ∧ isCopy .mat = false ∧
     ((g.setSem 2 { value := 1, ceil := 0xFFFF, waiters := [] }).sem 2).waiters = [] ∧
     (testG.starved 2 (testG.waitsOn 2) = false ∧ Waiter.queue .mat ∉ (testG.sem 2).waiters ∧ (testG.sem 2).value = 0) ∧
     (let h := { testG with a := { testG.a with joined := true }, c := { testG.c with joined := true } }
      h.starved 2 (h.waitsOn 2) = true)) ∧
    (let c := testCmd 0xC8000000 0 0
     (testState .a (queued .cpl c)).copyTurn (queued .cpl c testG) .cpl = true ∧ isCopy .cpl = true) := by decide +kernel

/-- CommandsPerform: a begun `mcfg`, `mred`, `vfill` and `cp`, null and not; a `qfence` at the heads it names; a head with
and without SEN, below the ceiling and at it; a group at its watchdog's bound. -/
theorem test_meets_commands_perform :
    (let c := { testCmd 0xC0000180 0 0 with started := true }
     (queued .mat c testG).begun .mat = some c ∧ c.instr?.isSome = true ∧ c.null = false ∧ c.sen = false) ∧
    (let c := { testCmd 0xC0000140 0 0 with started := true }
     (queued .mat c testG).begun .mat = some c ∧ c.instr?.isSome = true ∧ c.cursor = 0) ∧
    (let c := { testCmd 0xC4000700 0 0 with started := true }
     (queued .vec c testG).begun .vec = some c ∧ c.instr?.isSome = true) ∧
    (let c := { testCmd 0xC8000000 0 0 with started := true, null := true, eng := some 0 }
     (queued .cpl c testG).begun .cpl = some c ∧ c.instr?.isSome = true ∧ isCopy .cpl = true ∧ c.eng ≠ none ∧
     (queued .cpl c testG).trapped .cpl = false ∧ (testState .a (queued .cpl c)).peerQuiet 0 EQueue.cpl.src = true) ∧
    (let c := { testCmd 0xC8000000 0 0 with started := true, vC := 0x10000000, nest := NestSet.reset, eng := some 0 }
     c.reqs = [] ∧ c.hold = none ∧ c.burst.isSome = true ∧ ((testState .a (queued .cpl c)).settleEngine 0 |>.grp? 0).isSome = true) ∧
    (let c := { testCmd 0xCD400010 0 0 with qf := some 1 }
     (queued .mat c testG).queue .mat = [c] ∧ c.qf = some 1 ∧ (queued .mat c testG).mayBegin = true) ∧
    (let c := testCmd 0xC0070180 0 0
     c.sen = true ∧ c.ssem = 3 ∧ (testG.sem 3).value < (testG.sem 3).ceil) ∧
    (let g := { testG with loop := true, rbound := 1, watch := 2 }
     g.status = .running ∧ g.loopOpen = true ∧ g.rbound ≠ 0 ∧ g.rbound < g.watch ∧ g.recs.any (fun r => r.src == 6) = false) := by decide +kernel

/-- CommandsPerform: an `mred` that is its own root contributes, and its round is then ready and completes. -/
theorem test_meets_reduction :
    let c := { testCmd 0xC0000140 0 0 with started := true, vD := testRegion 128, vA := testRegion 0, vB := 1 }
    (match exec (.matrixCommandPerform 0) (testState .c (queued .mat c)) with
     | .next t => (t.grp? 0).bind (fun g => (g.begun .mat).map (fun d => (d.cursor, t.roundReady g d,
         match t.finishMred 0 d with | .ok _ => true | .error _ => false)))
     | _ => none) = some (1, true, true) := by decide +kernel

/-- SemaphoreResults: a unit there and none; below the ceiling and at it; operands at the ends of their ranges; a wait
that another can end and one that nobody can. -/
theorem test_meets_semaphores :
    (let x : Sem := { value := 1, ceil := 2, waiters := [] }
     0 < x.value ∧ x.waiters = [] ∧ x.value < x.ceil ∧ (2#64).toNat ≤ x.ceil ∧ x.ceil < (3#64).toNat ∧ (0xFFFF#64).toNat < 2 ^ 16 ∧
     x.value ≤ (1#64).toNat ∧ 2 ^ 16 ≤ (0x10000#64).toNat ∧ (0#64).toNat < x.value) ∧
    (testG.sem 2).value = 0 ∧ testG.starved 2 (fun y => y == Slice.a || testG.waitsOn 2 y) = false ∧
    Waiter.slice .a ∉ (testG.sem 2).waiters ∧ ((testState .a id).settleLoads 0 .a).quietFor 0 .a = true ∧
    (({ testState .a id with outReqs := [testOutReq] } : State).settleLoads 0 .a).quietFor 0 .a = false ∧
    (let h := { testG with c := { testG.c with joined := true } }
     h.starved 2 (fun y => y == Slice.a || h.waitsOn 2 y) = true) := by decide +kernel

/-- SemaphoreResults: no waiter; one more waiter than units, and one unit more than waiters; a group that begins nothing. -/
theorem test_meets_semaphore_waiters :
    let x : Sem := { value := 0, ceil := 9, waiters := [.queue .mat, .queue .vec] }
    let s (f : Group → Group) : State := testState .a (fun g => f (g.setSem 15 x))
    let after (v : Nat) (f : Group → Group) : Option (Nat × List Waiter) :=
      (((s f).semTo 0 15 v).grp? 0).map (fun g => ((g.sem 15).value, (g.sem 15).waiters))
    (testG.sem 15).waiters = [] ∧ testG.mayBegin = true ∧ ({ testG with status := .stopping } : Group).mayBegin = false ∧
    after 1 id = some (0, [.queue .vec]) ∧ after 3 id = some (1, []) ∧ after 1 (fun g => { g with status := .stopping }) = some (1, []) := by
  decide +kernel

/-- BarrierResults: the last barrier of the extent, counts and phases at the ends of their ranges, a place beyond. -/
theorem test_meets_barriers :
    (4080 < 2 ^ 26 ∧ 4080 % 16 = 0 ∧ 4080 / 2 ^ 22 < testG.n ∧ 4080 % 2 ^ 22 + 16 ≤ testG.x) ∧
    ((testState .a id).tbarAt (testG.viewer .a) 0 4080).2 = some ({ exp := 0, arr := 0, phase := false, spare := 0 }, false) ∧
    testG.a.caught = false ∧ (waitingAt (some 1) testG).a.caught = true ∧
    (0xFFFFFFFF#64).toNat < 2 ^ 32 ∧ 2 ^ 32 ≤ (0x100000000#64).toNat ∧ 2 ^ 32 ≤ 1 + (0xFFFFFFFF#64).toNat ∧
    ((true = true) ↔ (0#64).toNat = 0) ∧ ((true = true) ↔ (1#64).toNat = 1) ∧ 2 ≤ (2#64).toNat ∧ ¬ (4096 + 16 ≤ testG.x) := by
  decide +kernel

/-! ### KV pages, rows and windows -/

/-- The context of the KV tests: rows 0 and 1 at virtual 0x1000, two pages at virtual 0x2000, state at virtual 0x10000. -/
def kvCtx : Context :=
  { loaderCtx with desc := { loaderCtx.desc with sqbase := 0x1000, sqrows := 1, ptbase := 0x2000, np := 2 } }

/-- The A-slice with operands, over those tables; row 0 has the FIRN field, the flags, RSBYTES and CKMAX given, and page 1
is held. -/
def kvState (sl : Slice) (f : Group → Group) (firn flags rsb ckmax : Nat) : State :=
  let m := (testHost sl).write 0x21020 (leBytes 32 firn)
  let m := (m.write 0x2100C (leBytes 4 flags)).write 0x21048 (leBytes 8 0x10000 ++ leBytes 4 rsb ++ leBytes 2 ckmax)
  let m := (m.write 0x22000 (leBytes 16 0)).write 0x22010 (leBytes 8 (2 ^ 62) ++ leBytes 8 (2 ^ 20))
  { testState sl f with ctxs := [kvCtx], host := m }

/-- PageResults: a pool with a free page, one with none that matches, a held page and none; nothing lies in peer memory. -/
theorem test_meets_pages :
    let s := kvState .a id 0 0 0 0
    let pick (f : Word) (l : List PoolSlot) : Option PoolSlot := l.find? (fun x => x.e.state == 0 && filterMatches f x.e)
    let held (f : Word) (l : List PoolSlot) : Option PoolSlot := l.find? (fun x => x.e.pword == f && (x.e.state == 1 || x.e.state == 2))
    let meets (how : List PoolSlot → Option PoolSlot) : Option (Option (Nat × Bool)) :=
      (gotten ((s.settleLoads 0 .a).poolAccess 0 .a kvCtx (fun l => (how l).toList))).map (fun x =>
        (how (x.1.pool kvCtx x.2)).map (fun y => (y.idx, y.loc.isPeer)))
    s.ctx? 0 = some kvCtx ∧ testG.a.midway = false ∧ wbits (0#64) 47 0 = 0 ∧ wbits (1#64) 47 32 ≤ kvCtx.desc.sqrows ∧
    meets (pick 0) = some (some (0, false)) ∧ meets (pick (2 ^ 50 + 2 ^ 63)) = some none ∧
    meets (held (2 ^ 20)) = some (some (1, false)) ∧ meets (held 7) = some none := by decide +kernel

/-- WindowResults and CheckpointAndSeal: row 0 read with its window 0 closed, open, and open and bound; a group
bound to it and one that is not. -/
theorem test_meets_windows :
    let row (firn : Nat) : Option (Bool × Bool × Bool × Bool × Bool) :=
      (gotten (((kvState .a id firn 0 0 0).settleLoads 0 .a).windowRow 0 .a kvCtx 0)).map (fun x =>
        (x.2.isOpen 0, x.2.isBound 0, decide (x.2.clen < 2 ^ 32 - 4096), x.2.rsb == 0, x.2.loc.isPeer))
    windowName kvCtx 0 = some (0, 0) ∧ windowName kvCtx 1 = some (1, 0) ∧ row 0 = some (false, false, true, true, false) ∧
    row 1 = some (true, false, true, true, false) ∧ row 0x10001 = some (true, true, true, true, false) ∧
    ({ testG with firn := 2 ^ 63 } : Group).bind = some (0, 0, 0) ∧ testG.bind = none ∧ (kvState .a id 1 0 0 0).windows.length < 4096 ∧
    (do let (s1, _) ← gotten (((kvState .a id 1 0 0 0).settleLoads 0 .a).windowRow 0 .a kvCtx 0)
        gotten (s1.poolAccess 0 .a kvCtx (fun l => l.filter (fun x => x.e.provisional 0 0)))).isSome = true := by decide +kernel

/-- CheckpointAndSeal: a sequence with a recurrent state of 256 bytes in the vault page, whose checkpoint is stored, then read
and copied to slot 0. -/
theorem test_meets_checkpoint :
    let s := kvState .c (fun g => { g with firn := 2 ^ 63 }) 0x10001 0 256 4
    ckptOffsetOk testG 0 256 = true ∧
    (do let (s1, r) ← gotten ((s.settleLoads 0 .c).windowRow 0 .c kvCtx 0)
        let (_, dst) ← gotten (s1.kvRange 0 .c needW (r.slotVa 0 (r.written 0 + 1)) r.rsb)
        let (t0, _) ← gotten ((s.settleLoads 0 .c).releaseSystem 0 .c)
        let (t1, _) ← gotten (t0.windowRow 0 .c kvCtx 0)
        let (t2, ps) ← gotten (t1.poolAccess 0 .c kvCtx (fun l => l.filter (fun x => x.e.state == 2 && x.e.seq == 0 && x.e.win == 0)))
        let (t3, src) ← gotten (t2.kvRange 0 .c needR (r.slotVa 0 1) r.rsb)
        let (_, out) ← gotten (t3.kvRange 0 .c needW r.rsptr r.rsb)
        pure (r.badLayout 0, r.isOpen 0, decide (r.written 0 < r.limit), (ps ++ src ++ dst ++ out).all (fun p => !p.loc.isPeer))) =
      some (false, true, true, true) := by
  decide +kernel

/-- SequenceResults: a claimed and an unclaimed row, a phase with a row to claim and one with none. -/
theorem test_meets_sequences :
    let row (flags : Nat) : Option (Nat × Bool × Bool) := do
      let (s1, _) ← gotten (((kvState .a id 0 flags 0 0).settleLoads 0 .a).releaseSystem 0 .a)
      let (s2, r) ← gotten (s1.seqRow 0 .a kvCtx needRW 0)
      pure (r.flags, s2.sealing.isEmpty, r.loc.isPeer)
    let chosen (p : Nat) : Option (Option Nat) :=
      (gotten (((kvState .a id 0 0 0 0).settleLoads 0 .a).kvTable 0 .a needR 0x1000 512)).map (fun x =>
        (chooseRow ((tableRows x.1 kvCtx x.2).filter (fun y => y.2.claimable p)) (kvCtx.phasePtr.toList.getD p 0) 2).map Prod.fst)
    row 0 = some (0, true, false) ∧ row 1 = some (1, true, false) ∧ chosen 0 = some (some 0) ∧ chosen 5 = some none ∧
    (0 % 64 = 0 ∧ 0 / 2 ^ 22 < testG.n ∧ 0 % 2 ^ 22 + 256 ≤ testG.x) ∧
    (gotten (((kvState .a id 0 0 0 0).settleLoads 0 .a).seqRow 0 .a kvCtx needRW 0)).isSome = true := by decide +kernel

/-! ### Launches, dispatch and stops -/

/-- LaunchAndWalk: a `launch` past its checks while a peer has still to answer its slice. R388: the slice completes it although its group
is chosen for pre-emption. -/
theorem test_launch_midway :
    let s : State := { testState .a (withRegs .a [(2, 0x100)]) with outReqs := [testOutReq] }
    (gotten (s.access 0 .a 0x100 128 needR true false)).map (fun x =>
      ((x.1.settleLoads 0 .a).mapStream 0 .a (fun st => { st with parts := x.2, past := true })).quietFor 0 .a) = some false ∧
    after (.launch 2) s (fun g => (g.a.stall, g.a.past, { g with preq := true }.mayIssue .a)) = some (some .peer, true, true) := by
  decide +kernel

/-- LaunchAndWalk: a packet at the aligned address 0x100, a device queue with room and a full one, a partner that waits at
its `walk.next` and one that has joined. -/
theorem test_meets_launch :
    (do let (s1, ps) ← gotten ((testState .a id).access 0 .a 0x100 128 needR true false)
        let (s2, b) ← gotten ((s1.settleLoads 0 .a).drainAll.readSlice 0 .a ps)
        let g ← s2.grp? 0
        pure (b.2, (s1.settleLoads 0 .a).peerQuiet 0 Slice.a.src, s2.launchAhead g, (s2.ctx? 0).map (fun c => (c.devq.length, c.spilled.length)))) =
      some (false, true, false, some (0, 0)) ∧
    testG.a.packet = none ∧
    ({ testState .a id with launches := [testLaunch] } : State).launchAhead testG = false ∧
    64 ≤ ({ loaderCtx with devq := List.replicate 64 { parent := 0, words := [] } } : Context).devq.length ∧ loaderCtx.desc.squota ≤ 0 ∧
    Issuing (testState .a (fun g => { g with c := { g.c with wn := some 4, stall := some .walkNext } })) 0 .a
      { testG with c := { testG.c with wn := some 4, stall := some .walkNext } } ∧
    (testG.stream Slice.a.partner).joined = false ∧ (testG.stream Slice.a.partner).wn = none ∧
    (∀ q ∈ [EQueue.mat, .vec, .cpl, .cps], testG.queue q = []) ∧ (testState .a id).outReqs = [] :=
  ⟨by decide +kernel, by decide +kernel, by decide +kernel, by decide +kernel, by decide +kernel,
   issuing_test .a _ rfl (by decide +kernel), by decide +kernel⟩

/-- GroupStopsAndSaves: a quiet stopping group with no image free and with one; a pre-empting group; a saved one. -/
theorem test_meets_stops :
    let cx : Context := { loaderCtx with desc := { loaderCtx.desc with savecnt := 1, imgsize := 2 } }
    let s (f : Group → Group) : State := { testState .a f with ctxs := [cx] }
    let st (g : Group) : Group := { g with status := .stopping }
    let pre (g : Group) : Group := { g with preq := true }
    (testState .a st).burstTo testG = false ∧ cx.canSave [testG] = true ∧ loaderCtx.canSave [testG] = false ∧
    loaderCtx.freeImage = none ∧ cx.freeImage = some 0 ∧ ((testState .a st).settleGroup 0 |>.grp? 0).map Group.quiet = some true ∧
    (st testG).status = .stopping ∧ (pre testG).held = true ∧ testG.n * testG.x ≤ 0 + 4096 ∧
    ({ testG with status := .saved 0 } : Group).cor = false ∧
    (s (fun g => { g with status := .saved 0 })).mayBringBack { testG with status := .saved 0 } = true := by decide +kernel

/-- The same: an image is written, and one of a group with no scratchpad (XPAGES 0) is read back. -/
theorem test_meets_images :
    let cx : Context := { loaderCtx with desc := { loaderCtx.desc with savecnt := 1, imgsize := 2 } }
    let s (f : Group → Group) : State := { testState .a f with ctxs := [cx] }
    (do let (t, _) ← devGot ((s id).devWrite cx (cx.imageAt 0) (leBytes 64 0) true)
        devGot t.devAwait).isSome = true ∧
    (devGot ((s (fun g => { g with status := .saved 0, x := 0 })).bringBack 0)).isSome = true ∧
    (devGot ((s id).saveSpad cx { testG with x := 256 } (cx.imageAt 0))).isSome = true ∧
    256 ≤ (cx.desc.imgsize - 1) * 32768 := by decide +kernel

/-- The context of the ring tests, whose trap ring has its header at virtual 0x4000 and `n` records not yet read. -/
def ringCtx (n : Nat) : Context × State :=
  let cx : Context := { loaderCtx with desc := { loaderCtx.desc with trapq := 0x4000 },
                                       waiting := [{ gid := 0, dwords := List.replicate 8 0 }] }
  let m := ((testHost .a).write 0x24000 (leBytes 8 0x5000 ++ leBytes 4 1)).write 0x24040 (leBytes 8 n)
  (cx, { testState .a id with ctxs := [cx], host := m })

/-- GroupStopsAndSaves, its rings: a trap ring with room and a full one; an event ring with room. -/
theorem test_meets_rings :
    let used (n : Nat) : Option (Bool × Nat) := (devGot ((ringCtx n).2.devRead (ringCtx n).1 0x4000 136)).map (fun x =>
      ((ringOf 64 12 x.2).good, (ringOf 64 12 x.2).used))
    used 0 = some (true, 0) ∧ used 2 = some (true, 2) ∧
    (do let (s1, _) ← devGot ((ringCtx 0).2.devRead (ringCtx 0).1 0x4000 136)
        let (s2, _) ← devGot (s1.devWrite (ringCtx 0).1 0x5000 ((List.replicate 8 0).flatMap wordBytes) true)
        devGot (s2.devWrite (ringCtx 0).1 0x4040 (leBytes 8 1) true)).isSome = true ∧
    (let s : State := { testState .a id with host := Memory.write [] 0x100 (leBytes 8 0x2000 ++ leBytes 4 1), boot := some testBoot,
                                             events := [[0, 0, 0, 0]] }
     (s.hostRing testBoot.evtq 32).good = true ∧ (s.hostRing testBoot.evtq 32).used = 0 ∧ testBoot.evtq % 256 = 0) := by decide +kernel

/-- A launch that waits for admission, of a queue of its own. -/
def waitingLaunch (prio : Nat) : Launch := { testLaunch with lid := 1, queue := 17, prio := prio, admitted := false, sets := [] }

/-- DispatchEvents: a device queue with a packet, a launch to accept, one with work and a free rectangle, a job that is over
with and without more work. -/
theorem test_meets_dispatch :
    let cx : Context := { loaderCtx with devq := [{ parent := 0, words := [0] }] }
    let s : State := { testState .a id with ctxs := [cx], launches := [testLaunch] }
    s.queueWaits 8 = false ∧ (packetOf [0]).valid = true ∧ (packetOf [0]).nlev = 0 ∧ testLaunch.corImpossible = false ∧
    ({ s with launches := [waitingLaunch 0] } : State).admissible (waitingLaunch 0) = true ∧
    testLaunch.workLeft = true ∧ (s.freeRects testLaunch).head? = some (0, 1) ∧
    (match s.giveWork testLaunch 0 none with | .work _ _ => true | _ => false) = true ∧
    (let done (g : Group) : Group := { g with a := { g.a with joined := true }, c := { g.c with joined := true } }
     let t (l : Launch) : State := { testState .a done with launches := [l] }
     let more (l : Launch) : Option (Option Bool) := do
       let (v, _) ← gotten ((t l).drainAll.unbindAtEnd 0)
       let h ← v.grp? 0
       let u := (v.countJob h).calve h.lid h.west
       let m ← u.launch? h.lid
       match u.nextWork m h with
       | .work _ w => pure (some (v.chunkQuiet h.lid h.fillTags w))
       | .nothing => pure none
       | .wait => none
     (done testG).held = false ∧ (done testG).c.midway = false ∧ (∀ q ∈ [EQueue.mat, .vec, .cpl, .cps], (done testG).queue q = []) ∧
     more testLaunch = some (some true) ∧ more { testLaunch with nextChunk := 1 } = some none) := by
  decide +kernel

/-- DispatchEvents: a host queue; a group that a waiting launch wants; a chain set that may be calved, and one to add. -/
theorem test_meets_calving :
    let cx : Context := { loaderCtx with desc := { loaderCtx.desc with lqh := List.replicate 8 0x4000 } }
    let set (k : Nat) : ChainSet := { west := k, unit := none, next := 0, request := false, calved := false }
    let wide : Launch := { testLaunch with maxst := 1, minst := 0, sets := [set 0, set 1] }
    let s : State := { testState .a id with ctxs := [cx], launches := [wide, waitingLaunch 7] }
    cx.desc.lqh.getD 7 0 ≠ 0 ∧ s.queueWaits 7 = false ∧
    ({ s with launches := [testLaunch, { waitingLaunch 7 with minst := 15, maxst := 15 }] } : State).wanted testG = true ∧
    s.launch? 0 = some wide ∧ wide.set? 1 = some (set 1) ∧ wide.least < wide.held.length ∧ s.workWaits wide 1 = true ∧
    wide.set? 2 = none ∧ ({ wide with sets := [set 0] } : Launch).held.length < wide.most ∧ s.rectFree wide 2 0 = true ∧
    ({ set 1 with request := true } : ChainSet).request = true := by decide +kernel

/-! ### Requests, links and bring-up -/

/-- A module that is up, with one request of the management ring taken. -/
def mgmtState (r : MgmtReq) : State :=
  { testState .a id with bring := { State.reset.bring with state := .up }, boot := some testBoot, mgmtQ := [r] }

theorem picked_first (s : State) (b : BootCfg) (mine : MgmtReq → Bool) (r : MgmtReq) (h1 : s.managed = some b) (h0 : s.devQuiet [] = true)
    (h2 : ((s.takeRequests b).settlePreempts).nextReq mine = some 0)
    (h3 : ((s.takeRequests b).settlePreempts).mgmtQ[0]? = some r) :
    Picked s b mine r
      { (s.takeRequests b).settlePreempts with mgmtQ := ((s.takeRequests b).settlePreempts).mgmtQ.eraseIdx 0 } :=
  ⟨h1, h0, 0, h2, h3, rfl⟩

/-- A request: OPC, completion address, then the dwords from 2 on. -/
def testReq (opc : Nat) (ds : List Nat) : MgmtReq :=
  { dwords := ((opc :: 0x3000 :: ds ++ List.replicate 6 0).take 8).map (BitVec.ofNat 64) }

/-- What the four premises of `picked_first` come to. -/
def picks (mine : MgmtReq → Bool) (r : MgmtReq) : Bool :=
  let s := mgmtState r
  s.managed == some testBoot && s.devQuiet [] && ((s.takeRequests testBoot).settlePreempts).nextReq mine == some 0 &&
    ((s.takeRequests testBoot).settlePreempts).mgmtQ[0]? == some r

theorem picks_picked (mine : MgmtReq → Bool) (r : MgmtReq) (h : picks mine r = true) : ∃ v, Picked (mgmtState r) testBoot mine r v := by
  simp only [picks, Bool.and_eq_true, beq_iff_eq] at h
  exact ⟨_, picked_first _ _ _ _ h.1.1.1 h.1.1.2 h.1.2 h.2⟩

/-- ContextRequests: one request of each OPC, of a context that is there and of one that is not; an invalid request. -/
theorem test_meets_context_requests :
    ([(1, testReq 1 [0x6000]), (2, testReq 2 [0]), (2, testReq 2 [5]), (3, testReq 3 [0]), (3, testReq 3 [63]), (4, testReq 4 [0]),
      (4, testReq 4 [1]), (5, testReq 5 [0]), (5, testReq 5 [9]), (6, testReq 6 [1, 2 ^ 32, 0x10000, 0x3000]),
      (6, testReq 6 [0, 2 ^ 32 + 7, 0, 0x3000])] : List (Nat × MgmtReq)).all (fun x => picks (wellFormedReq x.1) x.2) = true ∧
    ([testReq 5 [0], testReq 5 [9]].all (fun r => picks (fun x => wellFormedReq 5 x && !(mgmtState r).recordsWait x) r)) = true ∧
    (mgmtState (testReq 2 [0])).ctx? 0 = some loaderCtx ∧ (mgmtState (testReq 2 [5])).ctx? 5 = none ∧
    (mgmtState (testReq 1 [])).freeCtx = some 1 ∧
    (let s := mgmtState (testReq 12 [])
     (s.takeRequests testBoot).settlePreempts.nextReq (fun r => !r.valid || r.compl % 8 != 0) = some 0) := by decide +kernel

/-- ContextRequests: a descriptor that meets R386 and one that does not; a stopped group; an unmap in progress. -/
theorem test_meets_descriptors :
    descOk (leBytes 8 0x10081 ++ leBytes 8 1 ++ List.replicate 24 0 ++ leBytes 4 1 ++ List.replicate 212 0) = true ∧
    descOk (leBytes 256 0) = false ∧
    (let s := { mgmtState (testReq 5 [0]) with groups := [{ testG with status := .stopped none }] }
     s.groups = [] ++ { testG with status := .stopped none } :: [] ∧
     (devGot (s.restart 0 { testG with status := .stopped none } loaderCtx none)).isSome = true) ∧
    ({ testState .a id with unmaps := [{ ctx := 0, vbase := 0, npg := 1, compl := 0 }] } : State).unmaps[0]?.isSome = true ∧
    testG.heldParts = [] := by
  decide +kernel

/-- ModuleRequests: one request of each OPC, a frame that is free and one that a live context holds. -/
theorem test_meets_module_requests :
    ([(7, testReq 7 [63, 0, 0, 2 ^ 32 + 2 ^ 8, 0x10000, 0x20000]), (8, testReq 8 [7, 2 ^ 15]), (8, testReq 8 [frameIndex 0x10000, 2 ^ 15 + 1]),
      (9, testReq 9 [15, 1]), (10, testReq 10 [15 + 1023 * 2 ^ 16]), (11, testReq 11 [1023 + 15 * 2 ^ 16])] :
      List (Nat × MgmtReq)).all (fun x => picks (wellFormedReq x.1) x.2) = true ∧
    (let o := (mgmtState (testReq 8 [])).ownerEntry (frameIndex 0x10000)
     o.retired = false ∧ o.valid = true ∧ o.ctx ≠ 1 ∧ (mgmtState (testReq 8 [])).ctx? o.ctx ≠ none) ∧
    ((mgmtState (testReq 8 [])).ownerEntry 7).valid = false := by decide +kernel

/-- HostAndPeerTraffic: addresses inside and outside the aperture, a hole, the end of memory, a UO frame, an atomic of both
sizes and one of no operation or misaligned; an inbound request through a window; a request that a response and a
timeout meet, below QTH and at it. -/
theorem test_meets_traffic :
    let s := mgmtState (testReq 2 [0])
    let w : PeerWindow := { vabase := 0, wbase := 0, size := 1, peer := 1, ctx := 0, aw := true, ww := true, rw := true, vw := true }
    let p : State := { s with pwins := s.pwins.set 0 w }
    s.aperture 0x10 = some 0x10 ∧ s.aperture (2 ^ 40) = none ∧ vaultHole 0x10 = false ∧ vaultHole (2 ^ 32 - 2 ^ 30) = true ∧
    (∀ q ∈ pagePieces (8 / 65536 + 2) 0x10 8, vaultHole q.1 = false) ∧ s.hostKind 0x10 ≠ 2 ∧ amoLegal 9 3 = true ∧ amoLegal 10 2 = true ∧
    (s.aperture (2 ^ 40 - 8) = some (2 ^ 40 - 8) ∧ ¬ (2 ^ 40 - 8 + 16 ≤ 2 ^ 40) ∧ s.aperture (2 ^ 32 - 2 ^ 30) = some (2 ^ 32 - 2 ^ 30)) ∧
    ({ s with owners := [{ index := 0, valid := true, retired := false, ord := 2, ctx := 0 }] } : State).hostKind 0x10 = 2 ∧
    (∀ q ∈ pagePieces (8 / 65536 + 2) 0x10 8, s.hostKind q.1 ≠ 2) ∧ amoLegal 10 3 = false ∧ 4 % 2 ^ (3#2).toNat ≠ 0 ∧
    p.window 1 8 = some w ∧ peerForm 8 (.read 8) = true ∧ w.permits (.read 8) = true ∧ (p.port 0).quarantined.contains 1 = false ∧
    (({ p with routes := [(1, 0)] } : State).route 1 ≠ none ∧ p.route 2 = none) ∧
    (p.translate (.stack (portStack 0)) viewDevice loaderCtx 8 (peerNeed (.read 8))).2 = .ok (.host 0x20008) 1 ∧
    p.window 2 8 = none ∧ ({ s with outReqs := [testOutReq] } : State).outReqs.find? (fun x => x.tag == 0) = some testOutReq ∧
    (s.port 0).qth ≠ 0 ∧ (s.port 0).run 1 + 1 < (s.port 0).qth ∧ ({ s.port 0 with qth := 1 } : Port).qth ≤ (s.port 0).run 1 + 1 := by
  decide +kernel

/-- CachesErrorsAndPower: a buffered store, a cached sector, a sector with an owner, a queue entry, an accumulator lane; a
stack, a grant at each end and a snapshot that is asked for. -/
theorem test_meets_errors :
    (let e : StoreEntry := { loc := .host 0x20000, bytes := [1], poison := false, seq := 0, uo := false, vis := none }
     ∀ f ∈ ([e] : List StoreEntry).take 0, overlap e.loc e.bytes.length f.loc f.bytes.length = false) ∧
    (let t : Stack := { Stack.reset with cache := [{ line := sectorLine 0x10100, held := 2, dirty := 2 }] }
     let a := 0x101FF / 256 * 256
     (t.cache.find? (fun d => d.line == sectorLine a && d.held &&& sectorBit a != 0)).isSome = true ∧ (2#4 &&& sectorBit a ≠ 0)) ∧
    vaultHole (0x100FF / 256 * 256) = false ∧ (testState .a id).ownerOf 0x10000 = some 0 ∧
    ({ loaderCtx with desc := { loaderCtx.desc with interval := 1 } } : Context).desc.interval ≠ 0 ∧ testG.resident = true ∧
    ((holding 5 [.data 7] testG).q 5).ents[0]? = some (.data 7) ∧ 4095 / 2 ^ 22 < testG.n ∧ 4095 % 2 ^ 22 < testG.x ∧
    (0 < testG.n ∧ 31 < (testG.accEntry 0 0).lanes.length) ∧ 64 ≤ 64 ∧ 1024 ≤ 1024 ∧ testBoot.cntbase ≠ 0 ∧ testBoot.snap ≠ 0 ∧
    (mgmtState (testReq 2 [0])).managed = some testBoot ∧ (mgmtState (testReq 2 [0])).deviceIdle = true := by decide +kernel

/-- BringUpCommands: a boot record that meets R422 and one that does not, a module that is held, up, and neither failed nor
fatal. Which of the later failures of BOOT applies depends on the values that Config leaves open. -/
theorem test_meets_bring_up :
    bootRecordOk (leBytes 8 0x1000 ++ leBytes 4 1024 ++ leBytes 4 1000 ++ List.replicate 240 0) = true ∧
    bootRecordOk (leBytes 256 0) = false ∧ State.reset.bring.state = .held ∧ (mgmtState (testReq 2 [0])).bring.state = .up ∧
    (mgmtState (testReq 2 [0])).boot = some testBoot ∧ State.reset.bring.state ≠ .failed ∧ State.reset.bring.state ≠ .fatal := by
  decide +kernel

/-! ### Commands and pages as performed -/

/-- The FP32 word at group offset 128 after a vector command over the words at 0 and 64. -/
def vectorTest (op : Nat) (x y : Nat) : Option Nat :=
  let c := { testCmd (BitVec.ofNat 32 (0xC4000000 + 64 * op)) 0 0 with started := true, vD := testRegion 128, vA := testRegion 0,
                                                                       vB := testRegion 64 }
  after (.vectorCommandPerform 0) (testState .c (fun g => queued .vec c { g with
    spad := (Memory.write [] 0 (leBytes 4 x)).write 64 (leBytes 4 y) })) (fun g => leNat (g.spad.read 128 4))

/-- R207: 1.0 + 2.0, 1.0 - 2.0, 1.5 * 2.0 in FP32 (R70, R71); R206, R207: the greater of -0 and +0 is +0. -/
theorem test_vector_arithmetic : vectorTest 0 0x3F800000 0x40000000 = some 0x40400000 ∧
    vectorTest 1 0x3F800000 0x40000000 = some 0xBF800000 ∧ vectorTest 2 0x3FC00000 0x40000000 = some 0x40400000 ∧
    vectorTest 4 0x80000000 0 = some 0 := by decide +kernel

/-- R276 to R279: a `cp` of 8 bytes from virtual 0 to the scratchpad: the header word of the line and a `nop`. -/
theorem test_copy :
    let c := { testCmd 0xC8000000 0 0 with started := true, eng := some 0, vD := 0x40, vA := 0, vC := 8 * 2 ^ 20 + 1 * 2 ^ 2, nest := NestSet.reset }
    after (.copyBurst 0 .cpl) (testState .a (queued .cpl c)) (fun g => leNat (g.spad.read 0x40 8)) = some 0x11111110 := by decide +kernel

/-- R327: `kv.alloc` with an empty filter answers the page word of entry 0, which becomes held. -/
theorem test_kv_alloc :
    (match exec (.kvAlloc 3 1 2) (kvState .a id 0 0 0 0) with
     | .next t => (t.grp? 0).map (fun g => (g.a.rd 3, (t.kvEntry kvCtx 0).state))
     | _ => none) = some (0, 1) := by decide +kernel

/-- R334: `seq.claim` answers the row's number and sets its CLAIM flag. -/
theorem test_seq_claim :
    (match exec (.seqClaim 3 1 0) (kvState .a id 0 0 0 0) with
     | .next t => (t.grp? 0).map (fun g => (g.a.rd 3, leNat (t.host.read 0x2100C 4)))
     | _ => none) = some (0, 1) := by decide +kernel

/-- R243, R250: a fence performs the stores of the stream. -/
theorem test_fence :
    (match exec (.fence 3) (testState .a (fun g => { g with a := { g.a with sb := [
        { loc := .host 0x20100, bytes := [7], poison := false, seq := 0, uo := false, vis := none }] } })) with
     | .next t => some (t.host.read 0x20100 1)
     | _ => none) = some [7] := by decide +kernel

/-! ### What meets the clauses about lines, walks and the engines' results -/

/-- The A-slice at the first lane of a line of code, with the lines after it. -/
def codeState (ws : List (BitVec 32)) : State :=
  { testState .a id with host := (testHost .a).write 0x20000 (ws.flatMap (fun w => leBytes 4 w.toNat)) }

/-- Lines that are fetched in turn from address 0: their words, and whether all were there. -/
def fetched (s : State) : Nat → Nat → Option (List (List (BitVec 32)))
  | _, 0 => some []
  | va, n + 1 => (gotten (s.fetchLine 0 .a va)).bind (fun x => (fetched x.1 (va + 32) n).map (fun l => x.2 :: l))

/-- A line in which the scan stops at no lane from `first` on. -/
def passes (ws : List (BitVec 32)) (first : Nat) : Bool :=
  lineOk ws && !(List.range 8).any (fun k => lineKind ws == 0 && first ≤ k && laneTag ws k == Slice.a.tag)

/-- LoopResults, the scan: a lane of the next line, and of the one after a data line; a malformed next line; no lane in 17 lines. -/
theorem test_meets_scan_lines :
    ((fetched (codeState ([0x10] ++ List.replicate 7 0 ++ [0x100])) 0 2).map (fun l =>
      (passes (l.getD 0 []) 2, lineOk (l.getD 1 []), lineKind (l.getD 1 []), laneTag (l.getD 1 []) 2, passes (l.getD 1 []) 3)) =
        some (true, true, 0, Slice.a.tag, true)) ∧
    ((fetched (codeState ([0x10] ++ List.replicate 7 0 ++ [1] ++ List.replicate 7 0 ++ [0x10])) 0 3).map (fun l =>
      ((l.take 2).map (fun w => passes w 2), lineKind (l.getD 1 []), laneTag (l.getD 2 []) 1)) = some ([true, true], 1, Slice.a.tag)) ∧
    ((fetched (codeState ([0x10] ++ List.replicate 7 0 ++ [2])) 0 2).map (fun l => (passes (l.getD 0 []) 2, lineOk (l.getD 1 []))) =
      some (true, false)) ∧
    ((fetched (codeState [0x10]) 0 17).map (fun l => (l.length, passes (l.getD 0 []) 2, (l.drop 1).all (fun w => passes w 1))) =
      some (17, true, true)) ∧ testG.a.wideAt 4 0 = false := by decide +kernel

/-- TrapEntry: a group that is stopping, and a source that is no stream. -/
theorem test_meets_trap_stopping : ({ testG with status := .stopping } : Group).status = .stopping ∧ 1 < EQueue.mat.src ∧
    (testState .a (fun g => { g with status := .stopping })).grp? 0 = some { testG with status := .stopping } := by decide +kernel

/-- QueueResults: a poison marker to peek at in each kind of queue; a back queue whose producer has joined. LoadQueueResults: a
full queue, with the C-slice joined and not; an address on a page of class ORD 3. -/
theorem test_meets_queue_edges :
    ((holding 4 [.poison 0 0 0] testG).q 4).ents = [.poison 0 0 0] ∧ (testG.q 4).ents = [] ∧ consumer 4 = .a ∧
    ({ testG with c := { testG.c with joined := true } } : Group).c.joined = true ∧
    32 ≤ ((holding 0 (List.replicate 32 (.data 1)) testG).q 0).ents.length ∧
    (holding 0 (List.replicate 32 (.data 1)) testG).mayIssue .a = true ∧ testG.c.joined = false ∧
    (let s := testState .a (holding 0 [.pending false 2 0x30004 0 none []])
     (({ s with host := s.host.write 0x13018 (leBytes 8 0x200EF) } : State).translate (.ctl testG.ctl)
       { gid := some 0, sl := some .a, upTo := some 0, bind := testG.bind } loaderCtx 0x30004 needR).2 = .ok (.host 0x20004) 3) := by
  decide +kernel

/-- WalkEnds: a root and an entry that point on, to host memory and to vault memory that is owned, not owned and a hole; leaves that
lack R, W and X, and one that gives all three. -/
theorem test_meets_walk_on :
    loaderCtx.desc.root.toNat % 2 = 1 ∧ loaderCtx.desc.root.toNat / 2 ^ 7 % 2 = 1 ∧
    (let e := 1 + 2 ^ 7 + 0x11000
     e % 2 = 1 ∧ e / 2 % 2 = 0 ∧ e / 2 ^ 7 % 2 = 1 ∧ pointerOk e 1 = true) ∧
    (let e := 1 + 0x10000
     e / 2 ^ 7 % 2 = 0 ∧ pointerOk e 1 = true ∧ vaultHole (e / 2 ^ 8 % 2 ^ 46 * 2 ^ 8) = false ∧
       (testState .a id).owns 0 (e / 2 ^ 8 % 2 ^ 46 * 2 ^ 8) = true ∧ (testState .a id).owns 1 (e / 2 ^ 8 % 2 ^ 46 * 2 ^ 8) = false ∧
       vaultHole ((1 + 2 ^ 32 - 2 ^ 30) / 2 ^ 8 % 2 ^ 46 * 2 ^ 8) = true) ∧
    ([0x1002B, 0x10027, 0x1002F, 0x1003F].map (fun e => (leafOk e 3, e / 4 % 2, e / 8 % 2, e / 16 % 2)) =
      [(true, 0, 1, 0), (true, 1, 0, 0), (true, 1, 1, 0), (true, 1, 1, 1)]) ∧
    (entryLeaf 8 0x1003F 3).locOf 8 = .vault 0x10008 ∧ vaultHole 0x10008 = false ∧ (testState .a id).owns 0 0x10008 = true ∧
    (testState .a id).sclFails (.host 0) = false := by decide +kernel

/-- AtomicResults: operands of `amo.fadd` of each kind; R241: 1.0 + 2.0, a sum out of range, and a tie that goes to the even word. -/
theorem test_meets_float_sums :
    (0x7FC00000#32).toNat % 2 ^ 31 > 255 * 2 ^ 23 ∧ (0xFF800000#32).toNat % 2 ^ 31 = 255 * 2 ^ 23 ∧ (0x7F7FFFFF#32).toNat % 2 ^ 31 < 255 * 2 ^ 23 ∧
    amoValue 10 4 0x3F800000 0x40000000 0 = (0x40400000, 0) ∧ amoValue 10 4 0x7F7FFFFF 0x7F7FFFFF 0 = (0x7F800000, flagOF ||| flagNX) ∧
    nearestFloat (floatUnits 0x4B800000 + floatUnits 0x3F800000) false = (0x4B800000, flagNX) := by decide +kernel

/-- NestErepQfence: a queue that is marked already. -/
theorem test_meets_active_marking :
    ((testG.c.setMark 2 { active := true, nx := 0, nest := [], n := 1, marked := [], next := 1, sub := 0 }).mark 2).active = true := by
  decide +kernel

/-- WindowResults and CheckpointAndSeal, what a drop and a seal do: a page word of an owned frame, of none, and of a SLOT that begins
no frame; a seal of one position and a checkpoint of the last window. -/
theorem test_meets_seal :
    (testState .a id).vault.wf = true ∧ pageBase 32 % 65536 = 0 ∧ (32#64) ≠ 0 ∧ (testState .a id).owns 0 (pageBase 32) = true ∧
    (testState .a id).owns 0 (pageBase 64) = false ∧ pageBase 33 % 65536 ≠ 0 ∧
    (let m : KvMove := { sealK := some 1, seq := 0, win := 15, row := .host 0x21000, firn := 1, table := [], src := [], dst := [], got := none }
     m.win < 16 ∧ m.sealK = some 1 ∧ { m with sealK := none }.sealK = none) := by decide +kernel

/-- DispatchEvents: the next iteration of a chunk waits for the answer of a peer to its group. ContextRequests: an access under way in
the range of an unmap, and one of another context that is none of its business. -/
theorem test_meets_chunk_and_unmap :
    (let w : Work := { unit := 0, chunk := 0, iter := 1 }
     (testState .a id).chunkQuiet 0 [] w = true ∧
     ({ testState .a id with outReqs := [{ testOutReq with lid := some 0, chunk := some (0, 0) }] } : State).chunkQuiet 0 [] w = false) ∧
    (let p : Part := { va := 8, n := 8, loc := .peer 1 8, ord := 1 }
     let g := { testG with a := { testG.a with reqs := [0], parts := [p] } }
     let u : UnmapReq := { ctx := 0, vbase := 0, npg := 1, compl := 0 }
     g.heldParts.any u.meets = true ∧ testG.heldParts.any u.meets = false ∧ testG.a.mustWrite = false ∧ testG.c.mustWrite = false ∧
     (let q : OutReq := { testOutReq with ctx := some 1 }
      q.gid ≠ deviceGid ∧ q.ctx ≠ some u.ctx) ∧ (testState .a id).grp? 0 = some testG ∧ testG.ctx ≠ 1) := by decide +kernel

/-- The matrix state of a group: a cell's latch of FP8 E4M3 with every weight 1.0, an entry of the accumulator, and 32 activations 1.0
at row offset 64. -/
def matrixG : Group :=
  { testG with
    active := [{ row := 0, col := 0, fmt := 3, sp := 0, t := false, slotD := 0, imm := 0, eword := 0,
                 image := Memory.write [] 0 (List.replicate 1024 0x38), hits := [], sums := [] }]
    acc := [{ row := 0, entry := 5, lanes := List.replicate 34 0x40000000, flags := 0, dirty := true }]
    spad := Memory.write [] 64 (List.replicate 32 0x38) }

/-- A matrix command over entry 5, with the region of 32 elements of E4M3 at 64, for one column. -/
def matrixCmd (w1 : BitVec 32) : Cmd :=
  { testCmd w1 0 0 with started := true, vD := 5, vA := BitVec.ofNat 64 (3 * 2 ^ 58 + 32 * 2 ^ 42 + 2 ^ 26 + 64), cfg := 1 }

/-- MatrixEffects and ReductionEffects: what their clauses about `ml`, `mm`, `mdrain`, `mchk`, `mfmt` and `mred` ask for. -/
theorem test_meets_matrix_effects :
    formatOf 3 0 ≠ none ∧ cfgCols (matrixCmd 0).cfg = 1 ∧ (testState .c (fun _ => matrixG)).owns 0 (cellPlace matrixG 32 0 0) = true ∧
    (testState .c (fun _ => matrixG)).owns 0 (cellPlace matrixG 0 0 0) = false ∧
    (0 < matrixG.n ∧ accE (matrixCmd 0).vD ≤ 5 ∧ 5 < accE (matrixCmd 0).vD + accV (matrixCmd 0).vD) ∧
    (matrixG.active.find? (fun l => l.row == 0 && l.col == 0)).map (fun l => (l.fmt, l.hits, l.sums)) = some (3, [], []) ∧
    (matrixG.accEntry 0 5).lanes.length = 34 ∧ (matrixG.accEntry 0 9).lanes.length = 34 ∧ matrixG.spad.wf = true ∧
    (∀ f : Format, formatOf 3 0 = some f → f.mx = false ∧ 64 + f.bytes (32 * 1) ≤ 2 ^ 22) ∧ wbits (64#64) 21 0 + 64 ≤ 2 ^ 22 ∧
    10 ≤ ({ testCmd 0xC00001C0 15 0 with vD := 0 } : Cmd).imm.toNat % 16 ∧ (testState .c (fun _ => matrixG)).ctx? 0 = some loaderCtx ∧
    (regionOf (testRegion 128)).base + 4 * (regionOf (testRegion 0)).count ≤ 2 ^ 22 := by decide +kernel

/-- R95 to R97, R174: `mm` of 32 ones with a tile of ones adds 32.0 to 2.0 in every lane. -/
theorem test_mm_adds : (match (testState .c (fun _ => matrixG)).matrixEffect 0 (.mm (testE 0 0 0 0 0 0)) (matrixCmd 2) with
    | .ok t => (t.grp? 0).map (fun g => (g.accEntry 0 5).lanes.take 2)
    | .error _ => none) = some [0x42080000, 0x42080000] := by decide +kernel

/-- VectorEffects and VectorIndexEffects: formats and regions of every kind of their clauses; an exchange inside the elements, a rank,
an index that is named. -/
theorem test_meets_vector_effects :
    (let c := { testCmd 0xC4000000 0x020 0 with vD := testRegion 128, vA := testRegion 0, vB := testRegion 64 }
     (mkArg c.vD (c.word 0)).map (fun d => (vxCount (.vadd (testE 0 0 0 0 0 0)) c, touched (.vadd (testE 0 0 0 0 0 0)) c d.r 1,
        regionOk testG.x d.r d.f 1, d.f.mx, d.r.stride)) = some (1, 1, true, false, 1) ∧
     touched (.vtopk (testE 0 0 0 0 0 0)) c (regionOf c.vD) 1 = 1 ∧ c.imm.toNat / 16 % 4 ≠ 0 ∧ c.mod.getLsbD 4 = false ∧
     (testG.elem 0 (regionOf c.vD) { elem := fmtFP32, width := 32, mx := false, frac := 0 } 0).2.2 = false ∧
     (testG.elemVal 0 (regionOf c.vB) { elem := .int 32, width := 32, mx := false, frac := 0 } 0).1.toInt = 0) ∧
    (mkArg (BitVec.ofNat 64 (6 * 2 ^ 58 + 32 * 2 ^ 42 + 2 ^ 26 + 64)) 0).map (fun d => (d.f.mx, regionOk testG.x d.r d.f 32)) = some (true, true) ∧
    (0 ^^^ 2 ^ 0 < 2) ∧ (scanX 1 false false none [XVal.zero])[0]? = some (XVal.zero, 0) ∧
    XVal.zero.isNan = false ∧ XVal.nan.isNan = true := by decide +kernel

/-- A `cp` of 8 bytes from virtual `a` to `d`, and to the scratchpad where `sp` is 1. -/
def copyCmd (a d sp : Nat) : Cmd :=
  { testCmd 0xC8000000 0 0 with started := true, eng := some 0, vD := BitVec.ofNat 64 d, vA := BitVec.ofNat 64 a,
                                vC := BitVec.ofNat 64 (8 * 2 ^ 20 + 4 * sp), nest := NestSet.reset }

/-- What CopyEffects asks of a burst: its receiving groups, how many parts it has, and whether the engine's SO accesses are answered. -/
def burstMeets (c : Cmd) : Option (Option (List Nat) × Nat × Nat × Bool × Bool) := do
  let g := queued .cpl c testG
  let s := testState .a (queued .cpl c)
  let b ← c.burst
  let ts ← (s.burstTargets g c).toOption
  let (s1, sps) ← gotten (s.sourceParts g .cpl c b)
  let (s2, dps) ← gotten (s1.destParts g .cpl c b c.isRed)
  pure (ts, sps.length, dps.length, (sps ++ dps).all (fun p => !p.onPeer), s2.soQuiet 0 EQueue.cpl.src none)

/-- CopyEffects: a burst to memory, one to the scratchpad in range and one out of range; a barrier that is clean and one that is not. -/
theorem test_meets_copy_effects :
    burstMeets (copyCmd 0 0x10100 0) = some (some [], 1, 1, true, true) ∧ burstMeets (copyCmd 0 0x40 1) = some (some [0], 1, 0, true, true) ∧
    burstMeets (copyCmd 0 (2 ^ 26) 1) = some (some [0], 1, 0, true, true) ∧ testG.inRange 0x40 = true ∧ testG.inRange (2 ^ 26) = false ∧
    (testState .a id).memoriesWf = true ∧ cpTben (copyCmd 0 0x40 1).vB = false ∧ cpTben (2 ^ 63) = true ∧
    (let v : Viewer := { gid := some 0, sl := none, upTo := none, bind := none }
     ((testState .a id).tbarAt v 0 0).2 = some ({ exp := 0, arr := 0, phase := false, spare := 0 }, false) ∧
     (({ testState .a id with groups := [{ testG with spadPoison := [0] }] } : State).tbarAt v 0 0).2.map Prod.snd = some true) ∧
    arrive { exp := 2, arr := 1, phase := false, spare := 0 } 1 = some { exp := 0, arr := 0, phase := true, spare := 0 } ∧
    arrive { exp := 2, arr := 2, phase := false, spare := 0 } 1 = none := by decide +kernel

/-- A contribution to round 0 of channel 0, as group 0 makes it where the mask and the root are those of `testCmd`. -/
def testContrib (mask : Nat) : Contribution :=
  { ctx := 0, ch := 0, round := 0, stack := 0, mask := mask, root := 0, n := 1, absent := false, rows := [[0x3F800000]] }

/-- ReductionEffects: a round whose contributors agree, and one in which another has a MASK of its own; a nullified root. -/
theorem test_meets_rounds :
    let c := { testCmd 0xC0000140 0 0 with started := true, vD := testRegion 128, vA := testRegion 0, vB := 1 }
    let s (mask : Nat) : State := { testState .c (queued .mat c) with contribs := [testContrib mask] }
    (testG.roundHeld c).getD 0 = 0 ∧ redMask c.vB = 1 ∧ redRoot c.vB = testG.drain ∧ redCh c.vB = 0 ∧
    (match (s 1).finishMred 0 c with | .ok _ => true | .error _ => false) = true ∧
    (∃ x ∈ (s 3).roundContribs 0 0 0, x.absent = false ∧ x.mask ≠ redMask c.vB) ∧
    (match (s 3).finishMred 0 { c with null := true } with | .ok u => u.contribs == [] | .error _ => false) = true := by
  decide +kernel

/-- BranchesAndJumps, the checks of a target: a line that passes them, a malformed line, a data line, lane 0, a lane of another
stream, an address that is not mapped; a `call` after which no lane is found. -/
theorem test_meets_targets :
    ([([0x210], 1), ([2], 1), ([1], 1), ([0x210], 0), ([0x210], 2)].map (fun (x : List (BitVec 32) × Nat) =>
      (gotten ((codeState x.1).fetchNew 0 .a 0)).map (fun y =>
        (lineOk y.2, decide (lineKind y.2 = 0), decide (x.2 = 0), decide (laneTag y.2 x.2 = Slice.a.tag)))) =
      [some (true, true, false, true), some (false, false, false, false), some (true, false, false, false),
       some (true, true, true, false), some (true, true, false, false)]) ∧
    caught ((testState .a id).fetchNew 0 .a 0x30000) = some 0x08 ∧
    branchTarget testG.a.pc 26 0 = 0 ∧ caught ((testState .a id).checkTarget 0 .a 0 false) = some 0x04 ∧
    caught ((testState .a id).checkTarget 0 .a 0 true) = some 0x04 ∧ testG.a.rd 1 = 0 ∧
    (do let (s1, _) ← gotten ((codeState [0x10]).checkTarget 0 .a 4 false)
        caught (s1.scanAfter 0 .a 4)) = some 0x03 := by decide +kernel

/-- QueueResults: an entry of fq0 that is still pending; LoadQueueResults and LoadFrame: an SO page, by which a load reads, and the
store that waits for it; CommandStarts: a group whose slices have had no turn since it was resumed. -/
theorem test_meets_pending_and_ordered :
    ((holding 0 [.pending false 3 8 0 none []] testG).q 0).ents = [.pending false 3 8 0 none []] ∧ consumer 0 = .c ∧
    (holding 0 [.pending false 3 8 0 none []] testG).mayIssue .c = true ∧ testG.resuming = false ∧
    ({ testG with c := { testG.c with fresh := true } } : Group).resuming = true ∧ testG.pendingFill = false ∧
    (gotten ((testState .a id).access 0 .a 8 8 needR false true)).map (fun x => x.2.map Part.ord) = some [1] ∧
    (let s : State := { testState .a id with host := (testHost .a).write 0x13018 (leBytes 8 0x2008F) }
     let v : Viewer := { gid := some 0, sl := some .a, upTo := some 0, bind := testG.bind }
     (s.translate (.ctl testG.ctl) v loaderCtx 0x30008 needR).2 = .ok (.host 0x20008) 0 ∧ s.soQuiet 0 0 (some 0) = true) ∧
    (let e : StoreEntry := { loc := .host 0x20008, bytes := [7], poison := false, seq := 0, uo := false, vis := none }
     let s := testState .a (fun g => { g with a := { g.a with sb := [e] } })
     s.memoriesWf = true ∧ s.pendingOn (.host 0x20008) = true ∧ s.pendingOn (.host 0x20009) = false ∧ s.pendingOn (.spad 0) = false) := by
  decide +kernel

/-- LaunchAndWalk: a full device queue and a spill ring with room on a page of the context. -/
theorem test_meets_spill :
    let cx : Context := { loaderCtx with devq := List.replicate 64 { parent := 0, words := [] },
                                         desc := { loaderCtx.desc with spill := 0x6000, squota := 2 } }
    let s : State := { testState .a id with ctxs := [cx] }
    64 ≤ cx.devq.length ∧ cx.spilled.length < cx.desc.squota ∧ s.launchAhead testG = false ∧
    ((devGot (s.devWrite cx 0x6000 ((List.replicate 16 0).flatMap wordBytes) false)).bind (fun x => x.1.ctx? 0)).isSome = true ∧
    (let h : Group := { testG with gid := 1, prio := 1, c := { testG.c with stall := some .launch } }
     ({ s with groups := [testG, h] } : State).launchAhead testG = true) := by decide +kernel

/-- GroupStopsAndSaves: a ring that is full and one that is malformed, and a device that waits for an answer. -/
theorem test_meets_event_rings :
    let m (wptr log2 : Nat) : Memory := (Memory.write [] 0x100 (leBytes 8 0x2000 ++ leBytes 4 log2)).write 0x140 (leBytes 8 wptr)
    let s (wptr log2 : Nat) : State := { testState .a id with boot := some testBoot, events := [[0, 0, 0, 0]], host := m wptr log2 }
    let r (wptr log2 : Nat) : Ring := (s wptr log2).hostRing testBoot.evtq 32
    (r 2 1).good = true ∧ (r 2 1).used = 2 ^ (r 2 1).log2 ∧ (r 0 13).good = false ∧ 2 ^ (r 3 1).log2 < (r 3 1).used ∧
    ({ s 0 1 with outReqs := [{ testOutReq with gid := deviceGid }] } : State).devQuiet [] = false := by decide +kernel

/-- HostAndPeerTraffic: a window that denies, one without a context, an address that is not mapped, a page of class ORD 3, and an
atomic to a UO page. -/
theorem test_meets_refused_requests :
    let w : PeerWindow := { vabase := 0, wbase := 0, size := 16, peer := 1, ctx := 0, aw := true, ww := true, rw := false, vw := true }
    let s : State := testState .a id
    let look (e va : Nat) : XRes := (({ s with host := s.host.write 0x13018 (leBytes 8 e) } : State).translate
      (.stack (portStack 0)) viewDevice loaderCtx va needR).2
    w.permits (.read 8) = false ∧ s.ctx? 5 = none ∧ (match look 0x200EF 0x40000 with | .fault _ => true | _ => false) = true ∧
    look 0x200EF 0x30000 = .ok (.host 0x20000) 3 ∧ look 0x200CF 0x30000 = .ok (.host 0x20000) 2 := by decide +kernel

/-- BringUpCommands: a module that is not up; one with two contexts whose records lie apart, and an event ring. -/
theorem test_meets_fatal :
    let other : Context := { loaderCtx with num := 1, desc := { loaderCtx.desc with lostrec := 0x7000 } }
    let s : State := { mgmtState (testReq 2 [0]) with ctxs := [loaderCtx, other] }
    State.reset.bring.state ≠ .up ∧ s.bring.state ≠ .failed ∧ s.bring.state ≠ .fatal ∧ s.deviceIdle = true ∧ s.lostRecs = [] ∧
    (s.ctxs.map Context.num).Nodup ∧ s.boot = some testBoot ∧ testBoot.evtq ≠ 0 ∧ s.memoriesWf = true ∧
    (s.groups.map Group.gid).Nodup ∧ loaderCtx.desc.lostrec + 64 ≤ 0x7000 ∧ ¬ (1 = 0 ∧ 0 < 4) := by decide +kernel

/-- BranchesAndJumps: markers at the head of bq1, and a target in lane 0. -/
theorem test_meets_queue_branch_checks :
    ((holding 5 [.fault 8 3 64] testG).q (4 + (1#1).toNat)).ents = [.fault 8 3 64] ∧
    ((holding 5 [.poison 8 3 64] testG).q (4 + (1#1).toNat)).ents = [.poison 8 3 64] ∧
    branchTarget 4 16 0 = 0 ∧ caught ((testState .a (holding 5 [.data 0])).checkTarget 0 .a 0 false) = some 0x04 := by decide +kernel

/-- LoopResults, its checks: an end in lane 0, at the loop itself, at a control instruction and at a `join`; an active counter; an
enclosing loop that ends before. -/
theorem test_meets_loop_checks :
    caught ((testState .a id).checkTarget 0 .a (branchTarget 4 16 0) false) = some 0x04 ∧
    (gotten ((testState .a id).checkTarget 0 .a (branchTarget 4 16 1) false)).isSome = true ∧
    (branchTarget 4 16 1).toNat ≤ testG.a.pc.toNat ∧
    ([0x60000000, 1].map (fun w => (gotten ((codeState [0x11110, 0, 0, w]).checkTarget 0 .a (branchTarget 4 16 3) false)).map (fun x =>
      x.2.getD 3 0)) = [some 0x60000000, some 1]) ∧
    (0x12 ≤ (0x60000000#32).toNat / 2 ^ 26 ∧ (0x60000000#32).toNat / 2 ^ 26 ≤ 0x18) ∧
    (((looping 2 testG).stream .a).loopAt 1).active = true ∧ ((looping 2 testG).stream .a).nesting = [1] ∧
    (((looping 2 testG).stream .a).loopAt 1).end_.toNat < (branchTarget 8 16 3).toNat := by decide +kernel

/-- ControlPoison: room in a queue that `lq` loads into, a queue without a marking, a command whose operand is poisoned, a poison
marker at the head of bq0. -/
theorem test_meets_control_operands :
    ((poisoned .a testG).q 0).ents.length < 32 ∧
    (let e : EWord := { testE 0 1 0 0 0 0 with pred := 0 }
     commandWord (.mcfg e) = some e ∧ e.d = 1 ∧ ((poisoned .c testG).c.mark (markCode (commandQueue (.mcfg e) .c))).full = false ∧
     commandQueue (.cp e) .a = .cpl ∧ ((poisoned .a testG).a.mark (markCode .cpl)).full = false) ∧
    ((holding 4 [.poison 0 0 0] testG).q (4 + (0#1).toNat)).ents = [.poison 0 0 0] := by decide +kernel

/-- CommandIssue, its checks: a predicate bit that is set, a ROW below n and one that is not; a command of each kind that a check
refuses. -/
theorem test_meets_issue_checks :
    testG.sp.getLsbD 0 = true ∧ ((0x10#6).getLsbD 4 = true ∧ (0x10#6).toNat % 16 < testG.n) ∧
    ((0x11#6).getLsbD 4 = true ∧ testG.n ≤ (0x11#6).toNat % 16) ∧
    (let e : EWord := { testE 0 1 2 3 4 0 with pred := 0 }
     let c (i : Instr) : Cmd := testG.capture i e (2 ^ 63) (2 ^ 63) (2 ^ 62) (2 ^ 43)
     ([.ml e, .ml { e with imm := 2 }, .mm e, .mdrain e, .mcfg e, .mfmt e, .cp e] : List Instr).map (fun i =>
        ((issueChecks testG i (c i)).find? (fun x => !x.1)).map Prod.snd) =
      [none, some 0x20, some 0x21, some 0x21, some 0x21, some 0x21, some 0x21]) := by
  decide +kernel

/-- BranchesAndJumps: a loop whose body a transfer leaves, with one inner to it, and one that it stays in. -/
theorem test_meets_loops_left :
    let st := (looping 2 testG).a
    let both := { st.setLoop 2 { count := 1, head := 8, end_ := 8, active := true } with nesting := [1, 2] }
    st.nesting = [] ++ 1 :: [] ∧ both.nesting = [] ++ 1 :: [2] ∧ (st.loopAt 1).head.toNat ≤ st.pc.toNat ∧
    st.pc.toNat ≤ (st.loopAt 1).end_.toNat ∧ ¬ ((12#64).toNat ≤ (st.loopAt 1).end_.toNat) ∧
    ((st.loopAt 1).head.toNat ≤ (4#64).toNat ∧ (4#64).toNat ≤ (st.loopAt 1).end_.toNat) := by decide +kernel

/-- AtomicResults: a word of a peer, whose last byte a write of the slice is out to; one whose request is sent, and one whose response is there, clean and poisoned. -/
theorem test_meets_peer_atomic :
    let p : Part := { va := 0x20100, n := 8, loc := .peer 1 0x100, ord := 1 }
    let s (f : Group → Group) : State := { testState .a f with routes := [(1, 0)] }
    let r (bad : Bool) : OutReply := { tag := 3, poison := bad, bytes := leBytes 8 7 }
    let waits (bad : Bool) : State := { s (fun g => { g with a := { g.a with reqs := [3], parts := [p] } }) with replies := [r bad] }
    ((gotten ((s id).access 0 .a 0x20100 8 needRW true false)).map (fun x => (x.2,
      (((x.1.settleLoads 0 .a).exchange 0 Slice.a.src []
        [{ peer := 1, addr := 0x100, ord := 1, kind := .atomic 0 8 5 0 false }]).2.2.isNone))) = some ([p], true)) ∧
    ((gotten ((waits false).access 0 .a 0x20100 8 needRW true false)).map (fun x => (x.2, (x.1.settleLoads 0 .a).replyOf 3)) =
      some ([p], some (r false))) ∧
    ({ s id with outReqs := [{ testOutReq with addr := 0x107, kind := .write [5] false }] } : State).ownOut 0 Slice.a.src [p] = true ∧
    ((gotten ((waits true).access 0 .a 0x20100 8 needRW true false)).bind (fun x => (x.1.settleLoads 0 .a).replyOf 3)) = some (r true) := by
  decide +kernel

/-- A marking of the matrix queue over two tuples, which holds the commands. -/
def testMarking (n next : Nat) (cs : List Cmd) : Marking :=
  { active := true, nx := 0, nest := [{ bound := 2, limit := 0, sstr := 64, dstr := 1 }], n := n, marked := cs, next := next, sub := 0 }

/-- CommandIssue and NestErepQfence: a marking that still takes a command, its last and one before it; a marking that holds all of
them, at a tuple, behind its last command and behind the last tuple; a replay that enters, one that leaves its range, and a full queue. -/
theorem test_meets_replays :
    let c : Cmd := { testCmd 0xC0000000 0x00000002 0 with vD := 5 }
    let m (n next : Nat) (cs : List Cmd) : Marking := ((testG.c.setMark 0 (testMarking n next cs)).mark 0)
    (m 2 1 []).full = false ∧ (m 2 1 []).active = true ∧ (m 2 1 []).marked.length + 1 < (m 2 1 []).n ∧
    (m 1 1 []).full = false ∧ (m 1 1 []).n ≤ (m 1 1 []).marked.length + 1 ∧
    (m 1 1 [c]).full = true ∧ (m 1 1 [c]).next < nestCount (m 1 1 [c]).nest ∧ nestCount (m 1 2 [c]).nest ≤ (m 1 2 [c]).next ∧
    (m 1 1 [c]).marked[(m 1 1 [c]).sub]? = some c ∧ (m 1 1 []).marked.length ≤ (m 1 1 []).sub ∧
    (match c.instr? with | some (.ml _) => true | _ => false) = true ∧ nestOffsets (m 1 1 [c]).nest 1 = (64, 1) ∧
    advanceOp .slot 5 1 = some 6 ∧ advanceOp .slot 0xFFFF 1 = none ∧ advanceOp .region 63 (-64) = none ∧ advanceOp .acc 0 (-1) = none ∧
    advanceOp .acc 4094 1 = some 4095 ∧ advanceOp .acc 4095 1 = none ∧ advanceOp .goff 0x3FFFFFF 1 = none := by decide +kernel

/-- LaunchAndWalk: a partner that waits; a further iteration of the chunk, a next chunk, none, and returned work that another group
runs; an iteration that peers have still to answer for, and a load of a queue that is pending. -/
theorem test_meets_walk_next :
    let f (g : Group) : Group := { g with c := { g.c with wn := some 4, stall := some .walkNext } }
    let two : List Level := [{ kind := 0, rank := 0, bound := 2 }]
    let s (l : Launch) : State := { testState .a f with launches := [l] }
    let t (l : Launch) : State := (((s l).mapStream 0 .a (fun st => { st with wn := some 3, atStep := true, stall := some .walkNext })).fillAll 0)
    let next (l : Launch) : Option (Option Work) := do
      let u := ((t l).drainAll.countJob (f testG)).calve 0 0
      let _ ← u.grp? 0
      let m ← u.launch? 0
      match u.nextWork m (f testG) with
      | .work _ w => some (some w)
      | .nothing => some none
      | .wait => none
    (f testG).a.joined = false ∧ (f testG).c.wn = some 4 ∧ (f testG).a.rd 3 = 0 ∧
    next { testLaunch with levels := two } = some (some { unit := 0, chunk := 0, iter := 1 }) ∧
    next testLaunch = some (some { unit := 0, chunk := 0, iter := 0 }) ∧ next { testLaunch with nextChunk := 1 } = some none ∧
    next { testLaunch with returned := [{ unit := 0, chunk := 0, iter := 0 }] } = none ∧
    (t testLaunch).chunkQuiet 0 [] { unit := 0, chunk := 0, iter := 1 } = true ∧ (t testLaunch).fillsDue 0 = false ∧
    ({ t testLaunch with outReqs := [{ testOutReq with lid := some 0, chunk := some (0, 0) }] } : State).chunkQuiet 0 []
      { unit := 0, chunk := 0, iter := 1 } = false ∧
    (testState .a (holding 0 [.pending false 2 4 0 none []])).fillsDue 0 = true ∧
    ((queued .mat (testCmd 0xC0000180 0 0) (f testG)).queue .mat ≠ []) := by decide +kernel

/-- GroupStopsAndSaves: records of several sources; a semaphore whose waiters were left at 0, and one with a unit there. -/
theorem test_meets_left_waiters :
    let r (k : Nat) : TrapRec := { src := k, cause := 0x11, reason := 0, level := 0, phys := false, skip := false, addr := 0, status := 0,
                                   qsel := 0, slot := 0, cmdidx := 0, cycle := 0 }
    (∀ x ∈ ([r 3, r 0] : List TrapRec), x.src < 8) ∧ (testState .a id).ctx? loaderCtx.num = some loaderCtx ∧
    (let x (v : Nat) : Sem := { value := v, ceil := 2, waiters := [], left := [.queue .mat] }
     let g (v : Nat) : Group := testG.setSem 3 (x v)
     (∀ j ∈ List.range 16, ((g 0).sem j).left ≠ [] → ((g 0).sem j).value = 0) ∧ ((g 1).sem 3).left ≠ [] ∧
     (∀ j ∈ List.range 16, j ≠ 3 → ((g 1).sem j).left = []) ∧
     (((testState .a (fun _ => g 1)).mapGrp 0 (fun k => ({ k with preq := false } : Group).setSem 3
        { x 1 with waiters := [.queue .mat], left := [] })).semTo 0 3 1 |>.grp? 0).map (fun k =>
          (List.range 16).all (fun j => (k.sem j).left.isEmpty)) = some true) := by decide +kernel

/-- DispatchEvents: a packet with a loop table of one level, and one behind which a packet waits in the spill ring; returned work that
another group runs, that an earlier group waits for, and that may be taken; a chunk of the chain set's own unit, a fresh unit and a fresh
chunk, with an earlier group waiting and with none. -/
theorem test_meets_refill :
    let p : ChildPacket := { parent := 0, words := [0x100, 0, 0, 0x100] }
    let cx (o : List Nat) : Context := { loaderCtx with devq := [], spilled := o, desc := { loaderCtx.desc with spill := 0x6000, squota := 2 } }
    let s (o : List Nat) : State :=
      { testState .a id with ctxs := [cx o], launches := [testLaunch], host := (testHost .a).write 0x20100 (leBytes 8 3) }
    (packetOf p.words).valid = true ∧ (packetOf p.words).nlev = 1 ∧
    ((devGot ((s []).devRead (cx []) 0x100 8)).map (fun x => (leNat x.2, levelsOf x.2 1)) = some (3, some [{ kind := 0, rank := 0, bound := 3 }])) ∧
    ((packetOf p.words).launch 1 0 8 (some 0) 0 [{ kind := 0, rank := 0, bound := 3 }]).corImpossible = false ∧
    ((devGot ((s [0]).devRead (cx [0]) 0x6000 128)).bind (fun x => x.1.ctx? 0)) = some (cx [0]) ∧
    (let w : Work := { unit := 0, chunk := 0, iter := 0 }
     let l (ks : List Nat) : Launch := { testLaunch with returned := [w], takers := ks }
     let t (g : Group) : State := { testState .a (fun _ => g) with launches := [l [0]] }
     let gives (s : State) (l : Launch) (who : Option Nat) : Bool := match s.giveWork l 0 who with | .work _ _ => true | _ => false
     let fresh (b : Bool) (ks : List Nat) : Launch :=
       { testLaunch with takers := ks, levels := [{ kind := if b then 2 else 1, rank := 0, bound := 2 }, { kind := 1, rank := 1, bound := 2 }],
                         sets := [{ west := 0, unit := if b then some 0 else none, next := 1, request := false, calved := false }] }
     let full (l : Launch) : Launch := { l with sets := l.sets.map (fun c => { c with next := 2 }) }
     gives (t testG) (fresh true [0]) none = false ∧ gives (t testG) (fresh true []) none = true ∧
     gives (t testG) (full (fresh true [0])) none = false ∧ gives (t testG) (full (fresh true [0])) (some 0) = true ∧
     gives (t testG) (fresh false [0]) none = false ∧ gives (t testG) (fresh false []) none = true ∧
     gives (t testG) { fresh false [] with nextChunk := 4 } none = false ∧
     gives (t testG) (l []) none = false ∧ gives (t { testG with idle := true }) (l []) none = true ∧
     gives (t { testG with idle := true }) (l [0]) none = false ∧ gives (t { testG with idle := true }) (l [0]) (some 0) = true) := by
  decide +kernel

/-- ContextRequests: a PREEMPT whose group has still to leave, one whose group runs on, and one that leaves none. -/
theorem test_meets_preempts :
    let s (f : Group → Group) : State := { testState .a f with preempts := [{ ctx := 0, compl := 0x3000 }] }
    (s id).deviceIdle = true ∧ ({ testG with preq := true } : Group).leaving = true ∧ testG.leaving = false ∧ testG.status = .running ∧
    ({ testG with status := .saved 0 } : Group).leaving = false ∧ ({ testG with status := .saved 0 } : Group).status ≠ .stopping := by
  decide +kernel

end Sys2Proof
end

/-! ## O6: every step answers a next state

No meaning raises a fault, and the one refusal is that of `issue`, where no stream issues (R118). So a step answers if what it runs is
an event, which no `issue` guards, or an instruction whose stream issues. The second is what a fetch has to leave: a stream that may begin
its next instruction (`Ready`) may still begin it when the line has been fetched, whatever requests to peers the fetch made. -/

namespace Sys2Proof.Machine

open Sys2Proof

/-! ### A stream that may begin its next instruction -/

/-- The stream may begin an instruction: it has not joined, and its group runs and is not held (R118, R379, R388). -/
def Group.ready (g : Group) (sl : Slice) : Bool := !(g.stream sl).joined && g.mayBegin

/-- The issuing stream of the state may begin an instruction. -/
def Ready (s : State) (gid : Nat) (sl : Slice) : Prop :=
  s.cur = some (gid, sl) ∧ ∃ g : Group, s.grp? gid = some g ∧ g.ready sl = true

/-- A stream that may begin an instruction issues. -/
theorem Group.mayIssue_of_ready {g : Group} {sl : Slice} (h : g.ready sl = true) : g.mayIssue sl = true := by
  simp only [Group.ready, Group.mayBegin, Bool.and_eq_true, beq_iff_eq] at h
  obtain ⟨joined, running, held⟩ := h
  simp [Group.mayIssue, joined, running, held]

/-- A stream that issues and is not midway may begin an instruction. -/
theorem Group.ready_of_mayIssue {g : Group} {sl : Slice} (h : g.mayIssue sl = true) (m : (g.stream sl).midway = false) :
    g.ready sl = true := by
  simp only [Group.mayIssue, m, Bool.and_eq_true, Bool.or_false] at h
  obtain ⟨joined, running⟩ := h
  split at running
  · simp_all [Group.ready, Group.mayBegin]
  · cases running
  · cases running

theorem Ready.issuing {s : State} {gid : Nat} {sl : Slice} (h : Ready s gid sl) : ∃ g : Group, Issuing s gid sl g := by
  obtain ⟨cur, g, hg, ready⟩ := h
  exact ⟨g, cur, hg, Group.mayIssue_of_ready ready⟩

theorem Issuing.ready {s : State} {gid : Nat} {sl : Slice} {g : Group} (h : Issuing s gid sl g) (m : (g.stream sl).midway = false) :
    Ready s gid sl := by
  obtain ⟨cur, hg, issues⟩ := h
  exact ⟨cur, g, hg, Group.ready_of_mayIssue issues m⟩

/-- A change of the group that leaves alone what `Group.ready` reads. -/
def KeepsReady (sl : Slice) (f : Group → Group) : Prop := ∀ g : Group, (f g).gid = g.gid ∧ (f g).ready sl = g.ready sl

/-- A change of a stream that leaves `joined` alone. -/
theorem keepsReady_setStream (sl x : Slice) {f : Stream → Stream} (hf : ∀ st : Stream, (f st).joined = st.joined) :
    KeepsReady sl (fun g => g.setStream x (f (g.stream x))) := by
  intro g
  cases sl <;> cases x <;> simp [Group.ready, Group.mayBegin, Group.held, Group.loopOpen, Group.setStream, Group.stream, hf]

theorem keepsReady_unkeep (sl : Slice) (hit : Nat → Nat → Bool) : KeepsReady sl (fun g => g.unkeep hit) := by
  intro g
  cases sl <;> exact ⟨rfl, rfl⟩

section
variable {s : State} {gid : Nat} {sl : Slice}

theorem Ready.of_groups {t : State} (h : Ready s gid sl) (cur : t.cur = s.cur) (groups : t.groups = s.groups) : Ready t gid sl := by
  simpa only [Ready, State.grp?, cur, groups] using h

theorem Ready.ite {c : Prop} [Decidable c] {t u : State} (ht : Ready t gid sl) (hu : Ready u gid sl) :
    Ready (if c then t else u) gid sl := by
  split
  · exact ht
  · exact hu

/-- A group found and put back changed. -/
theorem Ready.setGrp (h : Ready s gid sl) {k : Nat} {x y : Group} (hx : s.grp? k = some x) (hgid : y.gid = x.gid)
    (hready : y.ready sl = x.ready sl) : Ready (s.setGrp y) gid sl := by
  obtain ⟨cur, g, hg, ready⟩ := h
  refine ⟨cur, ?_⟩
  rw [State.grp?_setGrp, hgid, State.grp?_gid hx]
  split
  · next hk =>
    subst hk
    obtain rfl : g = x := Option.some.inj (hg.symm.trans hx)
    exact ⟨y, by rw [hg]; rfl, hready.trans ready⟩
  · exact ⟨g, hg, ready⟩

theorem Ready.mapGrp (h : Ready s gid sl) (k : Nat) {f : Group → Group} (hf : KeepsReady sl f) : Ready (s.mapGrp k f) gid sl := by
  unfold State.mapGrp
  split
  · next x hx => exact h.setGrp hx (hf x).1 (hf x).2
  · exact h

theorem Ready.mapStream (h : Ready s gid sl) (k : Nat) (x : Slice) {f : Stream → Stream} (hf : ∀ st : Stream, (f st).joined = st.joined) :
    Ready (s.mapStream k x f) gid sl :=
  h.mapGrp k (keepsReady_setStream sl x hf)

/-- Every group changed in a way that leaves alone what `Group.ready` reads. -/
theorem Ready.mapGroups {t : State} {f : Group → Group} (h : Ready s gid sl) (hf : KeepsReady sl f) (cur : t.cur = s.cur)
    (groups : t.groups = s.groups.map f) : Ready t gid sl := by
  obtain ⟨hcur, g, hg, ready⟩ := h
  refine ⟨cur.trans hcur, f g, ?_, (hf g).2.trans ready⟩
  have same : (fun x : Group => x.gid == gid) ∘ f = fun x => x.gid == gid := by
    funext x
    simp [(hf x).1]
  simp only [State.grp?] at hg ⊢
  rw [groups, List.find?_map, same, hg]
  rfl

/-! ### Requests to peers leave the issuing stream ready -/

theorem Ready.setPort (h : Ready s gid sl) (k : Nat) (p : Port) : Ready (s.setPort k p) gid sl :=
  h.of_groups (by simp) (by simp)

theorem Ready.countStack (h : Ready s gid sl) (k src n : Nat) (c : Option Nat) : Ready (s.countStack k src n c) gid sl := by
  unfold State.countStack
  split
  · exact h
  · exact h.of_groups (by simp) (by simp)

theorem Ready.count (h : Ready s gid sl) (k src n : Nat) : Ready (s.count k src n) gid sl := by
  unfold State.count
  split
  · exact h
  · next g hg =>
    refine Ready.countStack (h.setGrp hg ?_ ?_) _ _ _ _
    · rfl
    · cases sl <;> rfl

theorem Ready.peerFail (h : Ready s gid sl) (k tag : Nat) (x : OutKind) : Ready (s.peerFail k tag x) gid sl := by
  unfold State.peerFail
  split
  · exact h.mapGrp k (fun g => by cases sl <;> exact ⟨rfl, rfl⟩)
  · exact h.of_groups rfl rfl

theorem Ready.postPeer (h : Ready s gid sl) (k a src : Nat) (x : PeerAsk) : Ready (s.postPeer k a src x) gid sl := 
  (h.setPort k _).of_groups rfl rfl

theorem Ready.sendWith (h : Ready s gid sl) (slot : Bool) (k src : Nat) (a : PeerAsk) : Ready (s.sendWith slot k src a).1 gid sl := by
  unfold State.sendWith
  dsimp only
  split
  · exact h
  · split
    · rw [apply_ite Prod.fst]
      exact Ready.ite (h.postPeer _ _ _ _) (h.setPort _ _)
    · refine Ready.peerFail (Ready.count (h.of_groups ?_ ?_) _ _ _) _ _ _ <;> rfl

theorem Ready.sendSome (slot : Bool) (k src : Nat) (asks : List PeerAsk) {s : State} (h : Ready s gid sl) (sent : List Nat) :
    Ready (s.sendSome slot k src sent asks).1 gid sl := by
  induction asks generalizing s sent with
  | nil => exact h
  | cons a rest ih =>
    have one := h.sendWith slot k src a
    unfold State.sendSome
    split
    · simpa [*] using one
    · exact ih (by simpa [*] using one) _

theorem Ready.exchange (h : Ready s gid sl) (k src : Nat) (held : List Nat) (asks : List PeerAsk) :
    Ready (s.exchange k src held asks).1 gid sl := by
  have sent := h.sendSome false k src (asks.drop held.length) held
  unfold State.exchange
  dsimp only
  split
  · exact sent.of_groups rfl rfl
  · exact sent

/-! ### Reading the bytes of a fetch -/

theorem Ready.unkeep (h : Ready s gid sl) (ctl : Nat → Bool) (hit : Nat → Nat → Bool) : Ready (s.unkeep ctl hit) gid sl := by
  refine h.mapGroups (f := fun g => if ctl g.ctl then g.unkeep hit else g) (fun g => ?_) rfl rfl
  dsimp only
  split
  · exact keepsReady_unkeep sl hit g
  · exact ⟨rfl, rfl⟩

theorem Ready.dropOwn (h : Ready s gid sl) (ctl : Nat) (l : MemLoc) (n : Nat) : Ready (s.dropOwn ctl l n) gid sl := by
  unfold State.dropOwn
  split
  · exact (h.unkeep (fun k => k == ctl) (touches _ _ n)).of_groups rfl rfl
  · exact h

/-- What no slice reads performs no pending store: a fetch (R255). -/
theorem Ready.partBytes (h : Ready s gid sl) {v : Viewer} (hv : v.sl = none) (ctl : Nat) (p : Part) (asks : Nat)
    (data : List (List Byte × Bool)) : Ready (s.partBytes v ctl p asks data).1 gid sl := by
  unfold State.partBytes
  split
  · dsimp only
    split
    · exact h
    · split
      · dsimp only
        split
        · exact (h.unkeep (fun k => k == ctl) (touches _ _ p.n)).of_groups rfl rfl
        · exact h.dropOwn _ _ _
      · exact h.dropOwn _ _ _
  · simpa [hv] using h

theorem Ready.partsBytes {v : Viewer} (hv : v.sl = none) (ctl : Nat) (parts : List (Part × Nat)) {s : State} (h : Ready s gid sl)
    (data : List (List Byte × Bool)) : Ready (s.partsBytes v ctl parts data).1 gid sl := by
  induction parts generalizing s data with
  | nil => exact h
  | cons x rest ih => exact ih (h.partBytes hv ctl x.1 x.2 data) _

theorem Ready.readParts (h : Ready s gid sl) (k src ctl : Nat) {v : Viewer} (hv : v.sl = none) (held : List Nat) (parts : List Part) :
    Ready (s.readParts k src ctl v held parts).1 gid sl := by
  have asked := h.exchange k src held (parts.map readAsks).flatten
  unfold State.readParts
  dsimp only
  split
  · exact h
  · split
    · simpa [*] using asked
    · exact Ready.partsBytes hv ctl _ (by simpa [*] using asked) _

/-! ### A fetch leaves the issuing stream ready -/

theorem Ready.holdLine (h : Ready s gid sl) (k : Nat) (x : Slice) (l : MemLoc) (ws : List (BitVec 32)) (both : Bool) :
    Ready (s.holdLine k x l ws both) gid sl :=
  h.mapGrp k (fun g => by cases sl <;> exact ⟨rfl, rfl⟩)

theorem Ready.fetchAt (h : Ready s gid sl) {k : Nat} {x : Slice} {g : Group} {p : Part} {held : List Nat} {both : Bool} {t : State}
    {ws : List (BitVec 32)} (e : s.fetchAt k x g p held both = .ok t ws) : Ready t gid sl := by
  have read := h.readParts k x.src g.ctl (v := { gid := some k, sl := none, upTo := none, bind := g.bind }) rfl held
    [{ p with ord := if p.ord == 2 then 1 else p.ord }]
  unfold State.fetchAt at e
  dsimp only at e
  split at e
  · cases e
  · rename_i u _ b pz hr
    rw [hr] at read
    split at e
    · cases e
      exact read
    · split at e
      · cases e
      · cases e
        refine Ready.holdLine ?_ _ _ _ _ _
        split
        · exact read.mapStream _ _ (fun _ => rfl)
        · exact read

theorem Ready.translate (h : Ready s gid sl) (k : TlbHolder) (v : Viewer) (cx : Context) (va : Nat) (need : Need) :
    Ready (s.translate k v cx va need).1 gid sl := by
  rw [State.translate_frame]
  exact h.of_groups rfl rfl

theorem Ready.fetchMiss (h : Ready s gid sl) {k : Nat} {x : Slice} {g : Group} {cx : Context} {va : Nat} {t : State}
    {ws : List (BitVec 32)} (e : s.fetchMiss k x g cx va = .ok t ws) : Ready t gid sl := by
  have walked := h.translate (.ctl g.ctl) (g.viewer x) cx va needX
  unfold State.fetchMiss at e
  split at e
  · cases e
    exact h
  · exact h.fetchAt e
  · split at e
    · cases e
    · cases e
    · rename_i u l ord hu
      rw [hu] at walked
      dsimp only at e
      split at e
      · cases e
      · split at e
        · split at e
          · cases e
            exact walked.mapStream _ _ (fun _ => rfl)
          · exact walked.fetchAt e
        · exact walked.fetchAt e

theorem Ready.fetchLine (h : Ready s gid sl) {k : Nat} {x : Slice} {va : Nat} {t : State} {ws : List (BitVec 32)}
    (e : s.fetchLine k x va = .ok t ws) : Ready t gid sl := by
  unfold State.fetchLine at e
  split at e
  · cases e
    exact h
  · unfold State.fetchNew at e
    split at e
    · cases e
    · split at e
      · cases e
      · exact h.fetchMiss e

end

/-! ### The turn of a stream -/

/-- A stream that has fetched an instruction to execute issues. -/
theorem State.fetchInstr_issuing {s t : State} {gid : Nat} {sl : Slice} {i : Instr} (e : s.fetchInstr gid sl = .run t i) :
    ∃ g : Group, Issuing t gid sl g := by
  unfold State.fetchInstr at e
  dsimp only at e
  split at e
  · cases e
  rename_i g hg
  split at e
  · cases e
  rename_i cx hcx
  by_cases hi : g.mayIssue sl = true
  swap
  · simp [hi] at e
  have issuing : Issuing (s.beginTurn gid sl) gid sl g := ⟨State.beginTurn_cur s gid sl, hg, hi⟩
  by_cases hm : (g.stream sl).midway = true
  · simp only [hi, hm, Bool.not_true, Bool.false_eq_true, if_false, if_true] at e
    split at e
    · cases e
      exact ⟨g, issuing⟩
    · cases e
  have ready := issuing.ready (by simpa using hm)
  simp only [hi, hm, Bool.not_true, Bool.false_eq_true, if_false] at e
  -- SKIP, a due check of the PC and the two checks of its alignment leave nothing to run
  iterate 4 (split at e; · cases e)
  split at e
  · cases e
  · cases e
  · cases e
  · rename_i u ws hu
    -- so do a malformed line and one written since the `ifence`
    iterate 2 (split at e; · cases e)
    split at e
    · cases e
      refine (((ready.fetchLine hu).mapStream gid sl ?_).mapStream gid sl ?_).issuing <;> exact fun _ => rfl
    · split at e <;> cases e

/-! ### Outcomes that are a next state -/

/-- The outcome is a next state: neither a fault nor a refusal. -/
def Answers (o : Out) : Prop := ∃ t : State, o = .next t

/-- Some stream is issuing: an instruction has a meaning (R118, R119). -/
def CanIssue (s : State) : Prop := ∃ (gid : Nat) (sl : Slice) (g : Group), Issuing s gid sl g

namespace Answers

section
variable {s : State} {gid : Nat} {sl : Slice}

theorem next : Answers (.next s) := ⟨s, rfl⟩

theorem ite {c : Prop} [Decidable c] {x y : Out} (hx : Answers x) (hy : Answers y) : Answers (if c then x else y) := by
  split
  · exact hx
  · exact hy

theorem done : Answers (s.done gid sl) := next

theorem trapNow {t : TrapInfo} : Answers (s.trapNow gid sl t) := next

theorem illegal {i : Instr} : Answers (s.illegal gid sl i) := next

/-- A trap, a loss and a wait of a part are next states. -/
theorem finish {α : Type} {x : Got α} {k : Stall} {f : State → α → Out} (hf : ∀ (s : State) (a : α), Answers (f s a)) :
    Answers (x.finish gid sl k f) := by
  cases x with
  | ok s a => exact hf s a
  | trap | lost | wait => exact next

/-- Where a stream issues, an instruction answers what its meaning for that stream answers. -/
theorem issue (h : CanIssue s) {f : Nat → Slice → Group → Stream → Out}
    (hf : ∀ (gid : Nat) (sl : Slice) (g : Group) (st : Stream), Answers (f gid sl g st)) : Answers (issue s f) := by
  obtain ⟨gid, sl, g, h⟩ := h
  rw [issue_eq h]
  exact hf _ _ _ _

theorem issueReg (h : CanIssue s) {d : Reg} {v : Stream → Word} {p : Stream → Bool} : Answers (issueReg d v p s) :=
  issue h fun _ _ _ _ => done

theorem alu (h : CanIssue s) {d a b : Reg} {f : Word → Word → Word} : Answers (alu d a b f s) := issueReg h

theorem aluk (h : CanIssue s) {d a : Reg} {i : Word} {f : Word → Word → Word} : Answers (aluk d a i f s) := issueReg h

theorem alu1 (h : CanIssue s) {d a : Reg} {f : Word → Word} : Answers (alu1 d a f s) := issueReg h

/-! ### Queues -/

theorem push (h : CanIssue s) {q : BitVec 3} {a : Reg} : Answers (execPush q a s) :=
  issue h fun _ _ _ _ => ite illegal (finish fun _ _ => done)

theorem takeHead (h : CanIssue s) {i : Instr} {q : BitVec 3} {d : Reg} {remove : Bool} : Answers (takeHead i q d remove s) :=
  issue h fun _ _ _ _ => ite illegal (finish fun _ _ => done)

theorem qdrop (h : CanIssue s) {q : BitVec 3} : Answers (execQdrop q s) := issue h fun _ _ _ _ => ite illegal done

theorem slip (h : CanIssue s) : Answers (execSlip s) := issue h fun _ _ _ _ => ite illegal (ite (ite trapNow next) done)

theorem slipCatch (h : CanIssue s) : Answers (execSlipCatch s) := issue h fun _ _ _ _ => ite illegal (ite (ite trapNow next) done)

theorem loadQueue (h : CanIssue s) {i : Instr} {nf : Bool} {q z : BitVec 2} {a : Reg} {off : BitVec 16} :
    Answers (loadQueue i nf q z a off s) :=
  issue h fun _ _ _ _ => ite illegal (finish fun _ _ => ite next done)

/-! ### Loads, stores, atomics -/

theorem load {x : Word} {n : Nat} {signed aligned uo : Bool} {d : Reg} : Answers (s.load gid sl x n signed aligned uo d) :=
  finish fun _ _ => done

theorem plainLoad (h : CanIssue s) {n : Nat} {signed : Bool} {d a : Reg} {i : BitVec 13} : Answers (plainLoad n signed d a i s) :=
  issue h fun _ _ _ _ => ite next load

theorem plainStore (h : CanIssue s) {n : Nat} {r a : Reg} {i : BitVec 13} : Answers (plainStore n r a i s) :=
  issue h fun _ _ _ _ => ite next (finish fun _ _ => done)

theorem ldAcq (h : CanIssue s) {d a : Reg} {z c : BitVec 2} {i : BitVec 12} : Answers (execLdAcq d a z c i s) :=
  issue h fun _ _ _ _ => ite next load

theorem stRel (h : CanIssue s) {r a : Reg} {z c : BitVec 2} {i : BitVec 12} : Answers (execStRel r a z c i s) :=
  issue h fun _ _ _ _ => ite next (finish fun _ _ => done)

theorem spadLoad (h : CanIssue s) {ins : Instr} {n : Nat} {signed : Bool} {d a : Reg} {i : BitVec 13} :
    Answers (spadLoad ins n signed d a i s) :=
  issue h fun _ _ _ _ => ite next (by split <;> exact next)

theorem spadStore (h : CanIssue s) {ins : Instr} {n : Nat} {r a : Reg} {i : BitVec 13} : Answers (spadStore ins n r a i s) :=
  issue h fun _ _ _ _ => ite next (by split <;> exact next)

theorem amo (h : CanIssue s) {op : Nat} {d a b : Reg} {z r c : BitVec 2} : Answers (amo op d a b z r c s) :=
  issue h fun _ _ _ _ => ite next (finish fun _ _ => done)

/-! ### Semaphores and barriers -/

theorem semWait (h : CanIssue s) {k : BitVec 4} : Answers (execSemWait k s) := issue h fun _ _ _ _ => ite done next

theorem semSig (h : CanIssue s) {k : BitVec 4} : Answers (execSemSig k s) := issue h fun _ _ _ _ => ite trapNow (ite next done)

theorem semSet (h : CanIssue s) {k : BitVec 4} {a : Reg} : Answers (execSemSet k a s) :=
  issue h fun _ _ _ _ => ite next (ite trapNow done)

theorem semCeil (h : CanIssue s) {k : BitVec 4} {a : Reg} : Answers (execSemCeil k a s) :=
  issue h fun _ _ _ _ => ite next (ite trapNow done)

theorem tbarOp (h : CanIssue s) {i : Instr} {a b : Reg} {max : Nat} {f : State → Nat → Slice → Nat → Nat → Tbar → Out}
    (hf : ∀ (s : State) (gid : Nat) (sl : Slice) (o c : Nat) (t : Tbar), Answers (f s gid sl o c t)) :
    Answers (tbarOp i a b max f s) :=
  issue h fun _ _ _ _ => ite next <| ite trapNow <| by
    split
    · exact next
    · exact ite next (hf _ _ _ _ _ _)

theorem tbarInit (h : CanIssue s) {a b : Reg} : Answers (execTbarInit a b s) := tbarOp h fun _ _ _ _ _ _ => done

theorem tbarExp (h : CanIssue s) {a b : Reg} : Answers (execTbarExp a b s) := tbarOp h fun _ _ _ _ _ _ => ite trapNow done

theorem tbarWait (h : CanIssue s) {a b : Reg} : Answers (execTbarWait a b s) := tbarOp h fun _ _ _ _ _ _ => ite next done

/-! ### Engine commands -/

theorem replayTurn {q : EQueue} : Answers (s.replayTurn gid sl q) := finish fun _ _ => done

theorem issueCmd (h : CanIssue s) {i : Instr} {e : EWord} : Answers (issueCmd i e s) :=
  issue h fun _ _ _ _ => by
    split
    · exact illegal
    · refine ite illegal (ite replayTurn (ite next ?_))
      split
      · exact trapNow
      · exact ite next (ite done (ite replayTurn done))

theorem nestSet (h : CanIssue s) {dim : BitVec 3} {nx : BitVec 2} {a b c : Reg} : Answers (execNestSet dim nx a b c s) :=
  issue h fun _ _ _ _ => ite next done

theorem erep (h : CanIssue s) {q nx : BitVec 2} {n : BitVec 4} : Answers (execErep q nx n s) :=
  issue h fun _ _ _ _ => ite illegal (ite trapNow done)

theorem qfence (h : CanIssue s) {qm : BitVec 4} : Answers (execQfence qm s) := issue h fun _ _ _ _ => ite next done

/-! ### Group and control registers -/

theorem ifence (h : CanIssue s) : Answers (execIfence s) := issue h fun _ _ _ _ => ite done next

theorem chkErr (h : CanIssue s) {d : Reg} : Answers (execChkErr d s) := issue h fun _ _ _ _ => ite done next

theorem wrcr (h : CanIssue s) {a : Reg} {n : BitVec 5} : Answers (execWrcr a n s) := issue h fun _ _ _ _ => ite next done

theorem slipset (h : CanIssue s) {a : Reg} : Answers (execSlipset a s) := issue h fun _ _ _ _ => ite next done

/-! ### KV pages, windows and rows -/

theorem kvSend : Answers (s.kvSend gid sl) := by
  unfold State.kvSend
  split <;> exact next

theorem kvEnd : Answers (s.kvEnd gid sl) := finish fun _ _ => kvSend

theorem kvOp (h : CanIssue s) {srcs : List Reg} {d : Option Reg} {f : State → Nat → Slice → Group → Stream → Context → Got Word} :
    Answers (kvOp srcs d f s) :=
  issue h fun _ _ _ _ => ite kvEnd <| ite next <| by
    split
    · exact next
    · exact finish fun _ _ => kvEnd

theorem rowRelease (h : CanIssue s) {i : Instr} {a : Reg} {phase : SeqRow → Nat} : Answers (rowRelease i a phase s) := kvOp h

theorem firnSeal (h : CanIssue s) {a b : Reg} : Answers (execFirnSeal a b s) := issue h fun _ _ _ _ => ite illegal (kvOp h)

/-! ### Walks and launches -/

theorem walkNext (h : CanIssue s) {d : Reg} : Answers (execWalkNext d s) :=
  issue h fun _ _ _ _ => ite trapNow <| by
    split
    · exact next
    · exact ite next next

theorem launchPacket {g : Group} {ws : List Word} : Answers (s.launchPacket gid sl g ws) := by
  unfold State.launchPacket
  split
  · exact next
  · refine ite next ?_
    split
    · exact next
    · split <;> exact next

theorem launch (h : CanIssue s) {d : Reg} : Answers (execLaunch d s) :=
  issue h fun _ _ _ _ => by
    split
    · exact launchPacket
    · exact ite next (finish fun _ _ => ite next launchPacket)

/-! ### Control flow -/

theorem jump {target : Word} {jr leaves : Bool} : Answers (s.jump gid sl target jr leaves) := finish fun _ _ => next

theorem branch (h : CanIssue s) {n : Nat} {a b : Reg} {t : BitVec n} {taken : Word → Word → Bool} : Answers (branch a b t taken s) :=
  issue h fun _ _ _ _ => ite next (ite jump done)

theorem call (h : CanIssue s) {t : BitVec 26} : Answers (execCall t s) := issue h fun _ _ _ _ => finish fun _ _ => next

theorem jr (h : CanIssue s) {a : Reg} : Answers (execJr a s) := issue h fun _ _ _ _ => ite next jump

theorem branchQueue (h : CanIssue s) {i : Instr} {q : BitVec 1} {d : Reg} {t : BitVec 16} {taken : Word → Bool} :
    Answers (branchQueue i q d t taken s) :=
  issue h fun _ _ _ _ => ite illegal (finish fun _ _ => ite next (ite (finish fun _ _ => next) done))

theorem startLoop {c : BitVec 2} {n : Word} {poison : Bool} {t : BitVec 16} : Answers (s.startLoop gid sl c n poison t) := by
  unfold State.startLoop
  split
  · exact next
  · exact finish fun _ _ => ite next next

theorem spset (h : CanIssue s) {a : Reg} {i : BitVec 8} : Answers (execSpset a i s) :=
  issue h fun _ _ _ _ => ite illegal (ite next done)

theorem spshift (h : CanIssue s) {i : BitVec 1} : Answers (execSpshift i s) := issue h fun _ _ _ _ => ite illegal done

theorem spget (h : CanIssue s) {d : Reg} : Answers (execSpget d s) := issue h fun _ _ _ _ => ite illegal done

/-! ### Fences, waits, cache control -/

theorem fence (h : CanIssue s) {c : BitVec 2} : Answers (execFence c s) := issue h fun _ _ _ _ => ite next done

theorem prom (h : CanIssue s) {a : Reg} {c : BitVec 2} : Answers (execProm a c s) :=
  issue h fun _ _ _ _ => ite next (finish fun _ _ => done)

theorem endWait {ctl : Nat} {p : Part} {d : Reg} {v : Nat} : Answers (s.endWait gid sl ctl p d v) := done

theorem waitWord (h : CanIssue s) {d a b : Reg} {z : BitVec 1} {eq : Bool} : Answers (waitWord d a b z eq s) :=
  issue h fun _ _ _ _ => ite next <| by
    split
    · exact ite next endWait
    · split
      · exact trapNow
      · exact next
      · exact next
      · refine finish fun _ _ => ?_
        split
        · exact ite next (ite endWait next)
        · exact next

theorem pf (h : CanIssue s) {a : Reg} : Answers (execPf a s) :=
  issue h fun _ _ _ _ => ite done <| by
    split
    · split
      · exact done
      · exact ite (finish fun _ _ => done) done
      · exact done
    · exact done

theorem cacheControl (h : CanIssue s) {a : Reg} {c : BitVec 2} {drop : Bool} : Answers (cacheControl a c drop s) :=
  issue h fun _ _ _ _ => ite next (finish fun _ _ => done)

/-! ### Events of a group's queues and engines -/

theorem lqFill {grp q slot : Nat} : Answers (execLqFill grp q slot s) := by
  unfold execLqFill
  split
  · exact next
  · dsimp only
    split <;> exact next

theorem engineCommandStart {grp : Nat} {q : EQueue} : Answers (execEngineCommandStart grp q s) := by
  unfold execEngineCommandStart
  split
  · exact next
  · split
    · exact next
    · exact ite next (ite (ite next next) (ite (ite next (ite next next)) (ite next next)))

theorem matrixCommandPerform {grp : Nat} : Answers (execMatrixCommandPerform grp s) := by
  unfold execMatrixCommandPerform
  split
  · exact next
  · split
    · exact next
    · split
      · exact next
      · refine ite next ?_
        split <;> exact next
      · exact next

theorem mredRoundComplete {grp : Nat} : Answers (execMredRoundComplete grp s) := by
  unfold execMredRoundComplete
  split
  · exact next
  · split
    · exact next
    · split
      · refine ite next ?_
        split <;> exact next
      · exact next

theorem vectorCommandPerform {grp : Nat} : Answers (execVectorCommandPerform grp s) := by
  unfold execVectorCommandPerform
  split
  · exact next
  · split
    · exact next
    · split
      · exact ite next next
      · exact next

theorem copyBurst {grp : Nat} {q : EQueue} : Answers (execCopyBurst grp q s) := by
  unfold execCopyBurst
  split
  · exact next
  · split
    · exact next
    · refine ite next ?_
      split
      · exact next
      · dsimp only
        split <;> exact next

theorem copyPerform {grp : Nat} {q : EQueue} : Answers (execCopyPerform grp q s) := by
  unfold execCopyPerform
  split
  · exact next
  · split
    · exact next
    · exact ite next next

theorem qfencePerform {grp : Nat} {q : EQueue} : Answers (execQfencePerform grp q s) := by
  unfold execQfencePerform
  split
  · exact next
  · split
    · exact next
    · split
      · exact next
      · exact ite next next

/-- A wait that reads again is the instruction of the stream that it stalls, which issues. -/
theorem waitReread {grp : Nat} {sl : Slice} : Answers (execWaitReread grp sl s) := by
  unfold execWaitReread
  split
  · exact next
  · next g hg =>
    dsimp only
    split
    · next stalled =>
      have issues : CanIssue { s.unwait (grp, sl.src) with cur := some (grp, sl) } :=
        ⟨grp, sl, g, rfl, hg, (Bool.and_eq_true _ _ ▸ stalled).2⟩
      split
      · split
        · exact waitWord issues
        · exact waitWord issues
        · exact next
      · exact next
    · exact next

theorem storeBufferDrain {grp : Nat} {sl : Slice} {k : Nat} : Answers (execStoreBufferDrain grp sl k s) := by
  unfold execStoreBufferDrain
  split
  · exact next
  · dsimp only
    split
    · exact next
    · exact ite next next

/-! ### Stops, saves, records -/

theorem groupStopComplete {grp : Nat} : Answers (execGroupStopComplete grp s) := by
  unfold execGroupStopComplete
  split
  · exact next
  · refine ite next ?_
    dsimp only
    split
    · exact next
    · split
      · exact next
      · refine ite next ?_
        split <;> exact next

theorem trapRecordWrite {ctx : Nat} : Answers (execTrapRecordWrite ctx s) := by
  unfold execTrapRecordWrite
  split
  · exact next
  · split <;> exact next

theorem eventWrite : Answers (execEventWrite s) := by
  unfold execEventWrite
  split
  · exact ite next (ite next next)
  · exact next

theorem groupSave {grp : Nat} : Answers (execGroupSave grp s) := by
  unfold execGroupSave
  split
  · exact next
  · refine ite next ?_
    split
    · exact next
    · exact ite next (ite next next)

theorem groupResume {grp : Nat} : Answers (execGroupResume grp s) := by
  unfold execGroupResume
  split
  · exact next
  · exact ite next next

/-! ### The dispatcher -/

theorem jobEnd {grp : Nat} : Answers (execJobEnd grp s) := by
  unfold execJobEnd
  split
  · exact next
  · refine ite next (ite next ?_)
    split <;> exact next

theorem packetTake {queue : Nat} : Answers (execPacketTake queue s) := by
  unfold execPacketTake
  dsimp only
  split
  · exact next
  · exact ite next next

theorem groupPlacement {lid : Nat} : Answers (execGroupPlacement lid s) := by
  unfold execGroupPlacement
  dsimp only
  split <;> exact next

theorem launchAdmit {lid : Nat} : Answers (execLaunchAdmit lid s) := by
  unfold execLaunchAdmit
  split
  · exact next
  · exact ite next next

theorem preemptionRequest {grp : Nat} : Answers (execPreemptionRequest grp s) := by
  unfold execPreemptionRequest
  split
  · exact next
  · exact ite next next

theorem calvingRequest {lid set : Nat} : Answers (execCalvingRequest lid set s) := by
  unfold execCalvingRequest
  split
  · exact next
  · split
    · exact next
    · exact ite next next

theorem calve {lid set : Nat} : Answers (execCalve lid set s) := by
  unfold execCalve
  split
  · exact next
  · split
    · exact next
    · exact ite next next

theorem chainSetAdd {lid set : Nat} : Answers (execChainSetAdd lid set s) := by
  unfold execChainSetAdd
  split
  · exact next
  · exact ite next next

/-! ### Management, the host, peers, bring-up -/

/-- Whatever comes of a request, the device goes on. -/
theorem manage {mine : MgmtReq → Bool} {f : State → MgmtReq → Dev Unit} : Answers (s.manage mine f) := by
  unfold State.manage
  split
  · exact next
  · refine ite next ?_
    dsimp only
    split
    · exact next
    · split
      · exact next
      · split <;> exact next

theorem manageNow {opc : Nat} {f : State → MgmtReq → State × Nat} : Answers (s.manageNow opc f) := manage

theorem unmapComplete {k : Nat} : Answers (execUnmapComplete k s) := by
  unfold execUnmapComplete
  split
  · exact next
  · exact ite next next

theorem hostRequest {addr n : Nat} {ordered : Bool} {f : State → Nat → State} : Answers (s.hostRequest addr n ordered f) := by
  unfold State.hostRequest
  split
  · exact next
  · exact ite next next

theorem hostPlainAccess {tag addr n : Nat} {write : Option (List Byte)} : Answers (execHostPlainAccess tag addr n write s) := by
  unfold execHostPlainAccess
  split <;> exact hostRequest

theorem hostAtomic {tag addr : Nat} {op : BitVec 4} {size : BitVec 2} {operand comparand : Word} :
    Answers (execHostAtomic tag addr op size operand comparand s) :=
  ite next hostRequest

theorem peerInboundRequest {port src addr : Nat} {op : PeerOp} : Answers (execPeerInboundRequest port src addr op s) := by
  unfold execPeerInboundRequest
  refine ite next ?_
  split
  · exact next
  · split
    · exact next
    · refine ite next ?_
      dsimp only
      split
      · exact next
      · exact next
      · split
        · exact next
        · exact ite next next

theorem peerResponse {tag : Nat} {error poisoned : Bool} {bytes : List Byte} :
    Answers (execPeerResponse tag error poisoned bytes s) := by
  unfold execPeerResponse
  split
  · exact next
  · exact ite next (ite next next)

theorem peerTimeout {tag : Nat} : Answers (execPeerTimeout tag s) := by
  unfold execPeerTimeout
  split
  · exact next
  · exact ite next next

theorem bringupWindowWrite {off : Nat} {value : Word} : Answers (execBringupWindowWrite off value s) := by
  unfold execBringupWindowWrite
  split
  · exact next
  · exact next
  · split <;> exact next
  · exact next

/-! ### Errors, refresh, snapshots -/

theorem cacheWriteback {sector : Nat} {evict : Bool} {found : Option EccResult} : Answers (execCacheWriteback sector evict found s) := by
  unfold execCacheWriteback
  dsimp only
  split
  · exact next
  · split <;> exact next

theorem scrub {sector : Nat} {found : Option EccResult} : Answers (execScrub sector found s) := by
  unfold execScrub
  split <;> exact next

theorem uncorrectableError {holder : EccHolder} {found : EccResult} : Answers (execUncorrectableError holder found s) := by
  have resident (grp : Nat) (f : Group → State) :
      Answers (match s.grp? grp with
        | none => .next s
        | some g => .next (if g.resident then f g else s)) := by
    split <;> exact next
  cases holder with
  | vault | cache => exact next
  | spad | reg | queueEntry | control | acc | latch | adder => exact resident _ _

theorem counterSnapshot {stack : Nat} : Answers (execCounterSnapshot stack s) := by
  unfold execCounterSnapshot
  split
  · exact next
  · exact ite next next

theorem moduleFatalError {stack edge : Nat} : Answers (execModuleFatalError stack edge s) := ite next next

end

end Answers

/-! ### Every instruction and event -/

/-- Every meaning answers a next state: an event in any state, an instruction of a stream where a stream issues. -/
theorem exec_answers (i : Instr) (s : State) (h : isEvent i = false → CanIssue s) : Answers (exec i s) := by
  unfold exec
  cases i with
  -- arithmetic, bit fields, the bit network
  | add | sub | mul | mulh | mulhn | div | divn | rem | remn | and | or | xor | andn | orn | sll | srl | sra | slt | sltn | min
  | max | minn | maxn | bextv | bextsv | fsh | lea =>
    exact .alu (h rfl)
  | addi | andi | ori | xori | slti | sltni | mini | maxi => exact .aluk (h rfl)
  | slli | srli | srai | bext | bexts | clz | ctz | popc | brev | bswap => exact .alu1 (h rfl)
  | sel | li16 | ins16 | bins | binsv | bnet => exact .issueReg (h rfl)
  -- instructions without a check of their own
  | nop | yieldSlice | join | trapSw | brk | illegalInstruction | stepb | grpid | coresid | rdcr | rdcnt | bnld | qcnt | semRd =>
    exact .issue (h rfl) fun _ _ _ _ => .next
  | chkErr => exact .chkErr (h rfl)
  | ifence => exact .ifence (h rfl)
  | wrcr => exact .wrcr (h rfl)
  -- loads, stores, atomics
  | ldB | ldBz | ldH | ldHz | ldW | ldWz | ldD => exact .plainLoad (h rfl)
  | stB | stH | stW | stD => exact .plainStore (h rfl)
  | ldAcq => exact .ldAcq (h rfl)
  | stRel => exact .stRel (h rfl)
  | ldsB | ldsBz | ldsH | ldsHz | ldsW | ldsWz | ldsD => exact .spadLoad (h rfl)
  | stsB | stsH | stsW | stsD => exact .spadStore (h rfl)
  | amoAdd | amoAnd | amoOr | amoXor | amoMin | amoMax | amoMinn | amoMaxn | amoSwp | amoCas | amoFadd => exact .amo (h rfl)
  -- ordering and cache control
  | fence => exact .fence (h rfl)
  | prom => exact .prom (h rfl)
  | waitEq | waitNe => exact .waitWord (h rfl)
  | pf => exact .pf (h rfl)
  | cln | inv => exact .cacheControl (h rfl)
  -- queues
  | push => exact .push (h rfl)
  | pop | peek => exact .takeHead (h rfl)
  | qdrop => exact .qdrop (h rfl)
  | slip => exact .slip (h rfl)
  | slipCatch => exact .slipCatch (h rfl)
  | slipset => exact .slipset (h rfl)
  | lq | lqNf => exact .loadQueue (h rfl)
  -- control flow
  | beq | bne | blt | bge | bltn | bgen | bz | bnz => exact .branch (h rfl)
  | br => exact .issue (h rfl) fun _ _ _ _ => .jump
  | call => exact .call (h rfl)
  | jr => exact .jr (h rfl)
  | bqz | bqnz => exact .branchQueue (h rfl)
  | loop | loopi => exact .issue (h rfl) fun _ _ _ _ => .startLoop
  | spset => exact .spset (h rfl)
  | spshift => exact .spshift (h rfl)
  | spget => exact .spget (h rfl)
  -- engine commands
  | ml | mlT | mm | mzero | mdrain | mred | mcfg | mfmt | mchk | vadd | vsub | vmul | vfma | vmax | vmin | vabs | vneg | vexp | vlog
  | vrcp | vrsq | vsqrt | vsin | vcos | vtanh | vcvt | vcmp | vsel | vredsum | vredmax | vargmax | vtopk | vscan | vswp2 | vgath
  | vscat | vcopy | vfill | vlut | vtern | vdot8 | vquant | vrand | cp | cpRed | cpBc =>
    exact .issueCmd (h rfl)
  | nestSet => exact .nestSet (h rfl)
  | erep => exact .erep (h rfl)
  | qfence => exact .qfence (h rfl)
  -- semaphores and barriers
  | semWait => exact .semWait (h rfl)
  | semSig => exact .semSig (h rfl)
  | semSet => exact .semSet (h rfl)
  | semCeil => exact .semCeil (h rfl)
  | tbarInit => exact .tbarInit (h rfl)
  | tbarExp => exact .tbarExp (h rfl)
  | tbarWait => exact .tbarWait (h rfl)
  -- KV pages, windows and rows
  | kvAlloc | kvFree | firnOpen | firnBind | firnUnbind | firnDrop | rsCkpt | seqClaim => exact .kvOp (h rfl)
  | seqAdv | seqRel => exact .rowRelease (h rfl)
  | firnSeal => exact .firnSeal (h rfl)
  -- walks and launches
  | launch => exact .launch (h rfl)
  | walkNext => exact .walkNext (h rfl)
  -- events
  | lqFill => exact .lqFill
  | engineCommandStart => exact .engineCommandStart
  | matrixCommandPerform => exact .matrixCommandPerform
  | vectorCommandPerform => exact .vectorCommandPerform
  | copyBurst => exact .copyBurst
  | copyPerform => exact .copyPerform
  | qfencePerform => exact .qfencePerform
  | mredRoundComplete => exact .mredRoundComplete
  | waitReread => exact .waitReread
  | storeBufferDrain => exact .storeBufferDrain
  | groupStopComplete => exact .groupStopComplete
  | trapRecordWrite => exact .trapRecordWrite
  | eventWrite => exact .eventWrite
  | groupSave => exact .groupSave
  | groupResume => exact .groupResume
  | jobEnd => exact .jobEnd
  | packetTake => exact .packetTake
  | groupPlacement => exact .groupPlacement
  | launchAdmit => exact .launchAdmit
  | preemptionRequest => exact .preemptionRequest
  | calvingRequest => exact .calvingRequest
  | calve => exact .calve
  | chainSetAdd => exact .chainSetAdd
  | createCtx | preemptCtx | resumeGroup | unmap | mgmtInvalidRequest => exact .manage
  | killCtx | resumeCtx | pwin | frame | pcfg | qrel | route => exact .manageNow
  | unmapComplete => exact .unmapComplete
  | hostPlainAccess => exact .hostPlainAccess
  | hostAcquire | hostRelease => exact .hostRequest
  | hostAtomic => exact .hostAtomic
  | peerInboundRequest => exact .peerInboundRequest
  | peerResponse => exact .peerResponse
  | peerTimeout => exact .peerTimeout
  | bringupWindowWrite => exact .bringupWindowWrite
  | cacheWriteback => exact .cacheWriteback
  | scrub => exact .scrub
  | uncorrectableError => exact .uncorrectableError
  | counterSnapshot => exact .counterSnapshot
  | moduleFatalError => exact .moduleFatalError
  | reductionWatchdog | leaseExpiry | refresh | powerWindow | crossingRetry | moduleReset | bootCmd | quoteCmd | scalarCacheReplacement
  | translationEntryDrop =>
    exact .next

/-- What a turn runs answers a next state: an event that the turn names, or an instruction whose stream issues. -/
theorem exec_answers_of_openTurn {s t : State} {x : Turn} {i : Instr} (e : s.openTurn x = .run t i) : Answers (exec i t) := by
  refine exec_answers i t fun notEvent => ?_
  unfold State.openTurn at e
  split at e
  · next gid sl => exact ⟨gid, sl, State.fetchInstr_issuing e⟩
  · split at e
    · next event =>
      cases e
      simp [notEvent] at event
    · cases e
  · cases e
  · cases e
  · cases e

/-- Settles O6: the turn that a step opens either leaves a state with nothing to run, or runs an event, or an instruction of a
stream that issues. -/
theorem everyStepAnswers : Obligations.EveryStepAnswers := by
  intro s
  unfold step
  split
  · exact ⟨_, rfl⟩
  · next t i e =>
    obtain ⟨u, hu⟩ := exec_answers_of_openTurn e
    rw [hu]
    exact ⟨_, rfl⟩

end Sys2Proof.Machine

/-! ## O8: reset and module reset

Every port and every stack of `State.reset` is the same, so that what holds of one holds at every index. Module reset is `State.reset`
but for the memories and the module's bookkeeping, so that the two share their lemmas. -/

namespace Sys2Proof.Machine

open Sys2Proof

/-- Reading a vector of one value with that value as the default gives it, inside the vector and beyond its end. -/
theorem getD_toList_vector_replicate {α : Type} (n k : Nat) (x : α) : (Vector.replicate n x).toList.getD k x = x := by
  rw [Vector.toList_replicate, List.getD_eq_getElem?_getD, List.getElem?_getD_replicate_default_eq]

/-- A state whose ports are those of reset has every port at its reset value. -/
theorem State.port_eq_reset {s : State} (h : s.ports = State.reset.ports) (k : Nat) : s.port k = Port.reset := by
  rw [State.port, h]
  exact getD_toList_vector_replicate 16 k Port.reset

/-- A state whose stacks are those of reset has every stack at its reset value. -/
theorem State.stack_eq_reset {s : State} (h : s.stk = State.reset.stk) (k : Nat) : s.stack k = Stack.reset := by
  rw [State.stack, h]
  exact getD_toList_vector_replicate 16 k Stack.reset

/-- Every counter of a stack resets to 0; beyond the last there is none. -/
theorem Stack.reset_counters_getD (j : Nat) : Stack.reset.counters.toList.getD j 0 = 0 :=
  getD_toList_vector_replicate 16 j 0

/-- R416: the values of a port whose state has the ports of reset. -/
theorem State.port_reset_values {s : State} (h : s.ports = State.reset.ports) (k : Nat) :
    (s.port k).tmo = 1200000 ∧ (s.port k).qth = 4 ∧ (s.port k).quarantined = [] := by
  rw [State.port_eq_reset h]
  exact ⟨rfl, rfl, rfl⟩

/-- R425: clock and counters of a stack whose state has the stacks of reset. -/
theorem State.stack_reset_values {s : State} (h : s.stk = State.reset.stk) (k : Nat) :
    (s.stack k).clk = 0 ∧ ∀ j : Nat, (s.stack k).counters.toList.getD j 0 = 0 := by
  rw [State.stack_eq_reset h]
  exact ⟨rfl, Stack.reset_counters_getD⟩

/-- R250: reset lists no byte of the vault and none of host memory, and no group has a scratchpad. -/
theorem State.reset_memoriesWf : State.reset.memoriesWf = true :=
  (State.memoriesWf_iff _).2 ⟨rfl, rfl, fun _ h => absurd h List.not_mem_nil⟩

/-- R31: module reset is dispatched from any state; no stream issues it. -/
theorem exec_moduleReset (s : State) : exec .moduleReset s = execModuleReset s := rfl

/-- Settles O8: module reset takes every register from State.reset and the bytes of the memories from the state whose issued
stores are performed. -/
theorem resetState : Obligations.ResetState := by
  refine ⟨State.reset_memoriesWf, ⟨rfl, rfl, rfl, rfl, rfl, fun k => ?port, State.stack_reset_values rfl, fun _ => rfl⟩,
    fun s => ⟨_, exec_moduleReset s, rfl, rfl, rfl, rfl, rfl, rfl, rfl, rfl, rfl, rfl, State.port_reset_values rfl,
      State.stack_reset_values rfl, fun _ => ⟨rfl, rfl⟩⟩⟩
  case port =>
    obtain ⟨tmo, qth, -⟩ := State.port_reset_values rfl k
    exact ⟨tmo, qth⟩

end Sys2Proof.Machine

/-! ## O24: the queues of a group and the slip counter (R106 to R117, R127) -/

namespace Sys2Proof.Machine

open Sys2Proof

/-! ### Queues and streams of a group -/

@[simp] theorem Group.setQ_gid (g : Group) (n : Nat) (x : Queue) : (g.setQ n x).gid = g.gid := by
  unfold Group.setQ; split <;> rfl

@[simp] theorem Group.setQ_stream (g : Group) (n : Nat) (x : Queue) (sl : Slice) : (g.setQ n x).stream sl = g.stream sl := by
  unfold Group.setQ; split <;> cases sl <;> rfl

@[simp] theorem Group.popQueue_stream (g : Group) (n : Nat) (sl : Slice) : (g.popQueue n).stream sl = g.stream sl :=
  g.setQ_stream n _ sl

/-- The queue without its head. -/
theorem Group.popQueue_cons {g : Group} {n : Nat} {e : QEntry} {rest : List QEntry} (h : (g.q n).ents = e :: rest) :
    g.popQueue n = g.setQ n { head := ((g.q n).head + 1) % queueDepth n, ents := rest } := by
  simp [Group.popQueue, h]

/-! ### The head of a queue and the room at its tail -/

section
variable {s : State} {gid : Nat} {sl : Slice} {g : Group} {n : Nat} {rest : List QEntry}

theorem State.headValue_data {v : Word} (h : (g.q n).ents = .data v :: rest) : s.headValue g sl n = .ok s (v, false) := by
  simp [State.headValue, h]

theorem State.headValue_poison {c z : Nat} {w : Word} (h : (g.q n).ents = .poison c z w :: rest) :
    s.headValue g sl n = .ok s (0, true) := by
  simp [State.headValue, h]

theorem State.headValue_fault {c z : Nat} {w : Word} (h : (g.q n).ents = .fault c z w :: rest) :
    s.headValue g sl n =
      .trap s { cause := 0x10, addr := w.toNat, status := BitVec.ofNat 64 (c + 64 * z), qsel := n, slot := (g.q n).head } := by
  simp [State.headValue, h]

theorem State.headValue_pending {nf : Bool} {z seq : Nat} {w : Word} {p : Option Part} {tags : List Nat}
    (h : (g.q n).ents = .pending nf z w seq p tags :: rest) : s.headValue g sl n = .wait s := by
  simp [State.headValue, h]

theorem State.headValue_empty (h : (g.q n).ents = []) :
    s.headValue g sl n = if (g.stream sl.partner).joined then .trap s { cause := 0x11 } else .wait s := by
  simp [State.headValue, h]

theorem State.room_free (h : (g.q n).ents.length < queueDepth n) : s.room g sl n = .ok s () := by
  simp [State.room, Group.qFull, h]

theorem State.room_full (h : queueDepth n ≤ (g.q n).ents.length) :
    s.room g sl n = if (g.stream sl.partner).joined then .trap s { cause := 0x12 } else .wait s := by
  simp [State.room, Group.qFull, h]

end

/-! ### `push`, `pop` and `peek` -/

section
variable {s : State} {gid : Nat} {sl : Slice} {g : Group} {q : BitVec 3}

theorem exec_push_room (hi : Issuing s gid sl g) (hp : sl = producer q.toNat) (h : (g.q q.toNat).ents.length < queueDepth q.toNat)
    (a : Reg) : exec (.push q a) s = .next ((s.setGrp
      (g.pushQ q.toNat (if (g.stream sl).rp a then .poison 0 0 0 else .data ((g.stream sl).rd a)))).advance gid sl) := by
  subst hp
  change execPush q a s = _
  simp [execPush, issue_eq hi, State.room_free h, Got.finish, State.done, State.mapGrp_eq hi.grp]

theorem exec_push_full (hi : Issuing s gid sl g) (hp : sl = producer q.toNat) (h : queueDepth q.toNat ≤ (g.q q.toNat).ents.length)
    (a : Reg) : exec (.push q a) s =
      if (g.stream sl.partner).joined then trapped s gid sl { cause := 0x12 } else .next (s.stallOn gid sl .queueFull) := by
  subst hp
  change execPush q a s = _
  simp only [execPush, issue_eq hi, State.room_full h, bne_self_eq_false, Bool.false_eq_true, if_false]
  split <;> rfl

/-- R113: the event of a read of a back queue. -/
def State.countRead (s : State) (gid n : Nat) : State := if 4 ≤ n then s.count gid 1 1 else s

variable (hi : Issuing s gid sl g) (hc : sl = consumer q.toNat) (i : Instr) (d : Reg) (remove : Bool)
include hi hc

theorem takeHead_trap {t : TrapInfo} (hv : s.headValue g sl q.toNat = .trap s t) : takeHead i q d remove s = trapped s gid sl t := by
  subst hc
  simp [takeHead, issue_eq hi, hv, Got.finish, trapped]

theorem takeHead_wait (hv : s.headValue g sl q.toNat = .wait s) : takeHead i q d remove s = .next (s.stallOn gid sl .queueEmpty) := by
  subst hc
  simp [takeHead, issue_eq hi, hv, Got.finish]

theorem takeHead_value {v : Word} (hv : s.headValue g sl q.toNat = .ok s (v, false)) :
    takeHead i q d remove s = .next (((s.setGrp
      ((if remove then g.popQueue q.toNat else g).setStream sl ((g.stream sl).wr d v false))).countRead gid q.toNat).advance gid sl) := by
  subst hc
  cases remove <;>
    simp [takeHead, issue_eq hi, hv, Got.finish, State.mapGrp_eq hi.grp, State.done, State.countRead]

/-- A poison marker sets DP before the register is written (R116). -/
theorem takeHead_marker (hv : s.headValue g sl q.toNat = .ok s (0, true)) :
    takeHead i q d remove s = .next ((((s.dataPoison gid).mapGrp gid (fun h =>
      (if remove then h.popQueue q.toNat else h).setStream sl ((h.stream sl).wr d 0 true))).countRead gid q.toNat).advance gid sl) := by
  subst hc
  cases remove <;> simp [takeHead, issue_eq hi, hv, Got.finish, State.done, State.countRead]

/-- An empty queue stalls its consumer, or traps once the producer has joined (R117). -/
theorem takeHead_empty (h : (g.q q.toNat).ents = []) :
    takeHead i q d remove s =
      if (g.stream sl.partner).joined then trapped s gid sl { cause := 0x11 } else .next (s.stallOn gid sl .queueEmpty) := by
  have hv := State.headValue_empty (s := s) (sl := sl) h
  split <;> rename_i joined
  · exact takeHead_trap hi hc i d remove (by simpa [joined] using hv)
  · exact takeHead_wait hi hc i d remove (by simpa [joined] using hv)

omit i d remove in
theorem exec_qdrop_eq : exec (.qdrop q) s = .next ((s.setGrp (g.setQ q.toNat
    { head := ((g.q q.toNat).head + (g.q q.toNat).ents.length) % queueDepth q.toNat, ents := [] })).advance gid sl) := by
  subst hc
  change execQdrop q s = _
  simp [execQdrop, issue_eq hi, State.done, State.mapGrp_eq hi.grp]

end

theorem exec_qcnt_eq {s : State} {gid : Nat} {sl : Slice} {g : Group} (hi : Issuing s gid sl g) (q : BitVec 3) (d : Reg) :
    exec (.qcnt q d) s = wrote s gid sl d (BitVec.ofNat 64 (g.q q.toNat).ents.length) false := by
  change execQcnt q d s = _
  simp only [execQcnt, issue_eq hi, wrote, State.done, State.mapStream_eq hi.grp, State.setStream_eq hi.grp]

/-! ### The slip counter (R112) -/

theorem Group.slipLimit_eq (g : Group) : g.slipLimit = if g.slipLim.toNat = 0 then 1 else min g.slipLim.toNat 64 := by
  have zero : g.slipLim = 0 ↔ g.slipLim.toNat = 0 := by rw [BitVec.toNat_eq]; rfl
  simp only [Group.slipLimit, zero]

section
variable {s : State} {gid : Nat} {g : Group}

theorem exec_slip_eq (hi : Issuing s gid .a g) : exec .slip s =
    if g.slip < g.slipLimit then .next ((s.setGrp { g with slip := g.slip + 1 }).advance gid .a)
    else if g.c.joined then trapped s gid .a { cause := 0x12 } else .next (s.stallOn gid .a .slip) := by
  change execSlip s = _
  by_cases h : g.slip < g.slipLimit
  · simp [execSlip, issue_eq hi, h, Nat.not_le.2 h, State.done, State.mapGrp_eq hi.grp]
  · simp [execSlip, issue_eq hi, h, Nat.not_lt.1 h, State.trapNow, trapped]

theorem exec_slipCatch_eq (hi : Issuing s gid .c g) : exec .slipCatch s =
    if 0 < g.slip then .next ((s.setGrp { g with slip := g.slip - 1 }).advance gid .c)
    else if g.a.joined then trapped s gid .c { cause := 0x11 } else .next (s.stallOn gid .c .slip) := by
  change execSlipCatch s = _
  by_cases h : g.slip = 0
  · simp [execSlipCatch, issue_eq hi, h, State.trapNow, trapped]
  · simp [execSlipCatch, issue_eq hi, h, Nat.pos_of_ne_zero h, State.done, State.mapGrp_eq hi.grp]

theorem exec_slipset_eq {sl : Slice} (hi : Issuing s gid sl g) {a : Reg} (clean : (g.stream sl).rp a = false) :
    exec (.slipset a) s = .next ((s.setGrp { g with slip := min ((g.stream sl).rd a).toNat 64 }).advance gid sl) := by
  change execSlipset a s = _
  simp [execSlipset, issue_eq hi, clean, State.done, State.mapGrp_eq hi.grp]

end

/-- Settles O24: each operation by what stands at the head of its queue, or by the room at its tail. -/
theorem queueResults : Obligations.QueueResults := by
  refine ⟨fun s gid sl g q d a v rest hi _ => ⟨fun hp room => ?push, fun hc data => ⟨?pop, ?peek⟩, fun hc => ?qdrop, ?qcnt⟩,
    fun s gid sl g q d a c n w rest hi _ => ⟨fun hc mark => ⟨?popMark, ?peekMark⟩, fun hc fault => ?fault,
      fun nf seq p tags hc pending => ?pending, fun hc empty running => ?empty, fun hc empty joined => ?emptyJoined,
      fun hp full running => ?full, fun hp full joined => ?fullJoined⟩,
    fun s gid sl g a hi => ⟨fun ha below => ?slip, fun ha above running => ?slipStall, fun ha above joined => ?slipTrap,
      fun hc above => ?slipCatch, fun hc zero running => ?catchStall, fun hc zero joined => ?catchTrap, fun clean => ?slipset⟩⟩
  case push => exact exec_push_room hi hp room a
  case pop =>
    refine (takeHead_value hi hc (.pop q d) d true (State.headValue_data data)).trans ?_
    rw [if_pos rfl, Group.popQueue_cons data]
    rfl
  case peek => exact takeHead_value hi hc (.peek q d) d false (State.headValue_data data)
  case qdrop => exact exec_qdrop_eq hi hc
  case qcnt => exact exec_qcnt_eq hi q d
  case popMark => exact takeHead_marker hi hc (.pop q d) d true (State.headValue_poison mark)
  case peekMark => exact takeHead_marker hi hc (.peek q d) d false (State.headValue_poison mark)
  case fault =>
    exact ⟨takeHead_trap hi hc _ d true (State.headValue_fault fault), takeHead_trap hi hc _ d false (State.headValue_fault fault)⟩
  case pending =>
    exact ⟨takeHead_wait hi hc _ d true (State.headValue_pending pending), takeHead_wait hi hc _ d false (State.headValue_pending pending)⟩
  case empty =>
    exact ⟨(takeHead_empty hi hc (.pop q d) d true empty).trans (if_neg (by simp [running])),
      (takeHead_empty hi hc (.peek q d) d false empty).trans (if_neg (by simp [running]))⟩
  case emptyJoined =>
    exact ⟨(takeHead_empty hi hc (.pop q d) d true empty).trans (if_pos joined),
      (takeHead_empty hi hc (.peek q d) d false empty).trans (if_pos joined)⟩
  case full => exact (exec_push_full hi hp full a).trans (if_neg (by simp [running]))
  case fullJoined => exact (exec_push_full hi hp full a).trans (if_pos joined)
  case slip =>
    subst ha
    exact (exec_slip_eq hi).trans (if_pos (g.slipLimit_eq ▸ below))
  case slipStall =>
    subst ha
    rw [exec_slip_eq hi, if_neg (Nat.not_lt.2 (g.slipLimit_eq ▸ above)), if_neg (by simp [running])]
  case slipTrap =>
    subst ha
    rw [exec_slip_eq hi, if_neg (Nat.not_lt.2 (g.slipLimit_eq ▸ above)), if_pos joined]
  case slipCatch =>
    subst hc
    exact (exec_slipCatch_eq hi).trans (if_pos above)
  case catchStall =>
    subst hc
    rw [exec_slipCatch_eq hi, if_neg (by omega), if_neg (by simp [running])]
  case catchTrap =>
    subst hc
    rw [exec_slipCatch_eq hi, if_neg (by omega), if_pos joined]
  case slipset => exact exec_slipset_eq hi clean

end Sys2Proof.Machine

/-! ## O25: the loads of the forward queues (R107, R111, R114, R128)

The oldest pending entry has no load ahead of it, so that a fill of it waits for nothing but SO accesses. -/

namespace Sys2Proof.Machine

open Sys2Proof

/-! ### The pending entries of the forward queues -/

theorem mem_insertByFirst (x y : Nat × Nat × Nat) (l : List (Nat × Nat × Nat)) : y ∈ insertByFirst x l ↔ y = x ∨ y ∈ l := by
  induction l with
  | nil => simp [insertByFirst]
  | cons z l ih =>
    unfold insertByFirst
    split
    · simp
    · simp only [List.mem_cons, ih]
      tauto

theorem mem_foldr_insertByFirst (y : Nat × Nat × Nat) (l : List (Nat × Nat × Nat)) : y ∈ l.foldr insertByFirst [] ↔ y ∈ l := by
  induction l with
  | nil => rfl
  | cons x l ih => simp [mem_insertByFirst, ih]

/-- Every pending entry of a forward queue is listed with its place in the order of issue. -/
theorem Group.mem_pendings {g : Group} {n k z seq : Nat} {nf : Bool} {w : Word} {p : Option Part} {tags : List Nat} (hn : n < 4)
    (h : (g.q n).ents[k]? = some (.pending nf z w seq p tags)) : (seq, n, k) ∈ g.pendings := by
  rw [Group.pendings, mem_foldr_insertByFirst, List.mem_flatMap]
  exact ⟨n, List.mem_range.2 hn, List.mem_filterMap.2 ⟨(_, k), List.mem_zipIdx_iff_getElem?.2 h, rfl⟩⟩

/-- No load of the A-slice's queues is ahead of a place before which none is pending. -/
theorem State.lqsAhead_nil {s : State} {gid seq : Nat} {g : Group} (hg : s.grp? gid = some g)
    (first : ∀ y ∈ g.pendings, seq ≤ y.1) : s.lqsAhead gid (some seq) = [] := by
  unfold State.lqsAhead
  simp only [hg]
  split
  · rfl
  rw [List.flatMap_eq_nil_iff]
  intro q hq
  rw [List.filterMap_eq_nil_iff]
  intro e he
  obtain ⟨n, hn, rfl⟩ := List.mem_take_iff_getElem.1 hq
  obtain ⟨k, hk⟩ := List.mem_iff_getElem?.1 he
  split
  · next nf z w seq' p tags =>
    have at_ : g.q n = g.qs.toList[n] := List.getD_eq_getElem _ _ (lt_of_lt_of_le hn (Nat.min_le_right _ _))
    have := first _ (Group.mem_pendings (by omega) (at_ ▸ hk))
    simp [this]
  · rfl

/-! ### A fill (R114, R128) -/

/-- Peers' writes lie in peer memory alone. -/
theorem State.ownOut_local (s : State) (gid src : Nat) (p : Part) (h : ∀ id a, p.loc ≠ .peer id a) : s.ownOut gid src [p] = false := by
  have apart : ∀ id a n, shareBytes (.peer id a) n p.loc p.n = false := by
    intro id a n
    cases hl : p.loc with
    | peer id' a' => exact absurd hl (h id' a')
    | vault | host | spad => rfl
  simp [State.ownOut, apart]

theorem State.exchange_nil (s : State) (gid src : Nat) : s.exchange gid src [] [] = (s, [], some []) := by
  simp [State.exchange, State.sendSome, State.answers]

theorem State.takeHit_local (s : State) (g : Group) (p : Part) (h : ∀ id a, p.loc ≠ .peer id a) : s.takeHit g p = p := by
  unfold State.takeHit
  split
  · exact absurd ‹_› (h _ _)
  · rfl

/-- A slice reads a part of vault or host memory at once, by an SO page after its own earlier stores there (R255). -/
theorem State.partBytes_local (s : State) {v : Viewer} (hv : v.sl.isSome = true) (ctl : Nat) (p : Part) (asks : Nat)
    (data : List (List Byte × Bool)) (h : ∀ id a, p.loc ≠ .peer id a) :
    let t := if p.ord = 0 then s.drainOverlap v true p.loc p.n else s
    s.partBytes v ctl p asks data = (t, t.viewRead v p.loc p.n) := by
  intro t
  unfold State.partBytes
  split
  · next id a hl => exact absurd hl (h id a)
  · by_cases so : p.ord = 0 <;> simp [so, hv, t]

/-- The oldest pending load of vault or host memory is read at once. -/
theorem State.readParts_fill (s : State) {gid seq : Nat} {g : Group} (hg : s.grp? gid = some g) (first : ∀ y ∈ g.pendings, seq ≤ y.1)
    (bind : Binding) (p : Part) (h : ∀ id a, p.loc ≠ .peer id a) (quiet : p.ord = 0 → s.soQuiet gid 0 (some seq) = true) :
    let v : Viewer := { gid := some gid, sl := some .a, upTo := some seq, bind := bind }
    let t := if p.ord = 0 then s.drainOverlap v true p.loc p.n else s
    s.readParts gid 8 g.ctl v [] [p] = (t, [], some (t.viewRead v p.loc p.n)) := by
  intro v t
  have so : (p.ord == 0 && !s.soQuiet gid 8 (some seq)) = false := by
    by_cases e : p.ord = 0
    · have : s.soQuiet gid 8 (some seq) = true := quiet e
      simp [this]
    · simp [e]
  have ahead : s.lqOverlaps gid (some seq) [p] = false := by simp [State.lqOverlaps, State.lqsAhead_nil hg first]
  have read := s.partBytes_local (v := v) rfl g.ctl p 0 [] h
  simp [State.readParts, readAsks_local p h, State.exchange_nil, State.partsBytes, v, so, ahead, State.ownOut_local s gid 8 p h, read, t]

section
variable {s : State} {gid n k z seq : Nat} {g : Group} {cx : Context} {nf : Bool} {w : Word}

/-- What a fill leaves in its entry. -/
def State.filled (s : State) (gid n k : Nat) (e : QEntry) : State := s.mapGrp gid (fun g => g.setEntry n k e)

variable (hg : s.grp? gid = some g) (hcx : s.ctx? g.ctx = some cx) (he : (g.q n).ents[k]? = some (.pending nf z w seq none []))
include hg hcx he

theorem State.fillEntry_misaligned (h : w.toNat % 2 ^ z ≠ 0) : s.fillEntry gid n k = s.filled gid n k (lqFault nf 0x0B z w) := by
  simp [State.fillEntry, hg, hcx, he, h, State.filled]

variable (aligned : w.toNat % 2 ^ z = 0) {s1 : State}
include aligned

theorem State.fillEntry_fault {f : XFault}
    (hx : s.translate (.ctl g.ctl) { gid := some gid, sl := some .a, upTo := some seq, bind := g.bind } cx w.toNat needR =
      (s1, .fault f)) :
    s.fillEntry gid n k = s1.filled gid n k (lqFault nf f.cause z w) := by
  simp [State.fillEntry, hg, hcx, he, aligned, hx, State.filled]

variable {l : MemLoc} {ord : Nat}
  (hx : s.translate (.ctl g.ctl) { gid := some gid, sl := some .a, upTo := some seq, bind := g.bind } cx w.toNat needR =
    (s1, .ok l ord))
include hx

theorem State.fillEntry_forbidden (h : ord = 3) : s.fillEntry gid n k = s1.filled gid n k (lqFault nf 0x0A z w) := by
  simp [State.fillEntry, hg, hcx, he, aligned, hx, State.filled, h]

theorem State.fillEntry_read (first : ∀ y ∈ g.pendings, seq ≤ y.1) (h : ord ≠ 3) (local_ : ∀ id a, l ≠ .peer id a)
    (quiet : ord = 0 → s1.soQuiet gid 0 (some seq) = true) :
    let v : Viewer := { gid := some gid, sl := some .a, upTo := some seq, bind := g.bind }
    let t := if ord = 0 then s1.drainOverlap v true l (2 ^ z) else s1
    s.fillEntry gid n k = t.filled gid n k
      (if (t.viewRead v l (2 ^ z)).2 then .poison 0 z w else .data (leWord (t.viewRead v l (2 ^ z)).1)) := by
  have frame := s.translate_frame (.ctl g.ctl) { gid := some gid, sl := some .a, upTo := some seq, bind := g.bind } cx w.toNat needR
  rw [hx] at frame
  have hg1 : s1.grp? gid = some g := by
    rw [show s1 = _ from frame]
    exact hg
  have read := s1.readParts_fill hg1 first g.bind { va := w.toNat, n := 2 ^ z, loc := l, ord := ord } local_ quiet
  simp [State.fillEntry, hg, hcx, he, aligned, hx, State.filled, h, State.takeHit_local, local_, read]

end

/-- LQ_FILL of the oldest pending entry makes that one load (R250, R252). -/
theorem exec_lqFill_oldest {s : State} {gid n slot z seq : Nat} {g : Group} {nf : Bool} {w : Word} (hg : s.grp? gid = some g)
    (hn : n < 4) (head : (g.q n).head = slot)
    (he : (g.q n).ents.head? = some (.pending nf z w seq none []))
    (oldest : g.pendings.filter (fun y => y.1 < seq + 1) = [(seq, n, 0)]) :
    exec (.lqFill gid n slot) s = .next ((s.unwait (gid, 8)).fillEntry gid n 0) := by
  have at_ : (slot + queueDepth n - (g.q n).head) % queueDepth n = 0 := by
    rw [head, queueDepth, if_pos hn]
    omega
  rw [List.head?_eq_getElem?] at he
  change execLqFill gid n slot s = _
  simp only [execLqFill, hg, at_, he, hn, if_true, State.fillBefore, oldest, List.foldl_cons, List.foldl_nil]

/-- No pending entry is older than the only one that is not younger than it. -/
theorem le_of_oldest {g : Group} {seq : Nat} {x : Nat × Nat} (oldest : g.pendings.filter (fun y => y.1 < seq + 1) = [(seq, x)]) :
    ∀ y ∈ g.pendings, seq ≤ y.1 := by
  intro y hy
  by_contra younger
  have : y ∈ g.pendings.filter (fun y => y.1 < seq + 1) := List.mem_filter.2 ⟨hy, by simp; omega⟩
  rw [oldest, List.mem_singleton] at this
  subst this
  exact younger (Nat.le_refl _)

/-! ### `lq` and `lq.nf` -/

@[simp] theorem Group.pushQ_a (g : Group) (n : Nat) (e : QEntry) : (g.pushQ n e).a = g.a := g.setQ_stream n _ .a

section
variable {s : State} {gid : Nat} {g : Group} {q : BitVec 2}

theorem loadQueue_room (hi : Issuing s gid .a g) (room : (g.q q.toNat).ents.length < queueDepth q.toNat) {a : Reg}
    (clean : g.a.rp a = false) (i : Instr) (nf : Bool) (z : BitVec 2) (off : BitVec 16) :
    loadQueue i nf q z a off s = .next ((s.setGrp
      { g.pushQ q.toNat (.pending nf z.toNat (g.a.rd a + off.signExtend 64) g.a.sbSeq none []) with
        a := { g.a with sbSeq := g.a.sbSeq + 1 } }).advance gid .a) := by
  simp [loadQueue, issue_eq hi, State.room_free room, Got.finish, clean, State.done, State.mapGrp_eq hi.grp, Group.stream]

theorem loadQueue_full (hi : Issuing s gid .a g) (full : queueDepth q.toNat ≤ (g.q q.toNat).ents.length) (i : Instr) (nf : Bool)
    (z : BitVec 2) (a : Reg) (off : BitVec 16) : loadQueue i nf q z a off s =
      if g.c.joined then trapped s gid .a { cause := 0x12 } else .next (s.stallOn gid .a .queueFull) := by
  simp only [loadQueue, issue_eq hi, State.room_full full]
  change Got.finish (if g.c.joined = true then _ else _) _ _ _ _ = _
  split <;> rfl

end

/-- Settles O25: `lq` by the room at the tail; the fill by the checks of its address and page, in their order. -/
theorem loadQueueResults : Obligations.LoadQueueResults := by
  intro s s1 gid g q z a o
  have depth : queueDepth q.toNat = 32 := if_pos q.isLt
  refine ⟨fun hi room clean => ?room, fun hi full i hlq => ?full,
    fun cx k n nf x seq l ord f hg hcx head _ he oldest => ⟨fun h => ?misaligned, fun h hx => ?fault, fun h hx => ?forbidden,
      fun h hx ne local_ quiet => ?read⟩⟩
  case room =>
    rw [← depth] at room
    exact ⟨loadQueue_room hi room clean (.lq q z a o) false z o, loadQueue_room hi room clean (.lqNf q z a o) true z o⟩
  case full =>
    rw [← depth] at full
    have eq : exec i s = if g.c.joined then trapped s gid .a { cause := 0x12 } else .next (s.stallOn gid .a .queueFull) := by
      rcases hlq with rfl | rfl
      · exact loadQueue_full hi full _ false z a o
      · exact loadQueue_full hi full _ true z a o
    exact ⟨fun running => eq.trans (if_neg (by simp [running])), fun joined => eq.trans (if_pos joined)⟩
  all_goals
    have he' := (List.head?_eq_getElem? (l := (g.q q.toNat).ents)) ▸ he
    have hgu : (s.unwait (gid, 8)).grp? gid = some g := hg
    have hcu : (s.unwait (gid, 8)).ctx? g.ctx = some cx := hcx
    refine (exec_lqFill_oldest hg q.isLt head he oldest).trans (congrArg _ ?_)
  case misaligned => exact State.fillEntry_misaligned hgu hcu he' h
  case fault => exact State.fillEntry_fault hgu hcu he' h hx
  case forbidden => exact State.fillEntry_forbidden hgu hcu he' h hx rfl
  case read => exact State.fillEntry_read hgu hcu he' h hx (le_of_oldest oldest) ne local_ quiet

end Sys2Proof.Machine

/-! ## O23: the stage predicates (R125) -/

namespace Sys2Proof.Machine

open Sys2Proof

/-! ### Fields of a word that decodes -/

theorem toNat_fld (w : BitVec 32) (lo n : Nat) : (fld w lo n).toNat = w.toNat / 2 ^ lo % 2 ^ n := by
  simp [fld, BitVec.extractLsb'_toNat, Nat.shiftRight_eq_div_pow]

/-- A field that lies in a must-be-zero mask is zero. -/
theorem field_eq_zero_of_mask {w m : BitVec 32} {lo n : Nat} (h : w &&& m = 0) (hm : fld m lo n = BitVec.allOnes n) :
    w.toNat / 2 ^ lo % 2 ^ n = 0 := by
  have zero : fld w lo n = 0 := by
    apply BitVec.eq_of_getLsbD_eq
    intro i hi
    have word := congrArg (fun x => x.getLsbD (lo + i)) h
    have mask := congrArg (fun x => x.getLsbD i) hm
    simp only [fld, BitVec.getLsbD_extractLsb', BitVec.getLsbD_allOnes, BitVec.getLsbD_and, hi, decide_true, Bool.true_and] at word mask ⊢
    simpa [mask] using word
  simpa [toNat_fld] using congrArg BitVec.toNat zero

theorem mbz_eq_ok {w m : BitVec 32} {i x : Instr} (h : mbz w m i = .ok x) : w &&& m = 0 ∧ x = i := by
  unfold mbz at h
  split at h
  · next zero => exact ⟨zero, (Except.ok.inj h).symm⟩
  · cases h

theorem candidate_of_decodeWords {w1 w2 : BitVec 32} {x : Instr} (h : decodeWords w1 w2 = .ok x) : candidate w1 w2 = .ok x := by
  unfold decodeWords at h
  split at h
  · next i hi =>
    split at h
    · exact hi.trans h
    · cases h
  · cases h

/-! ### The words of the stage predicates (R125) -/

theorem encode_spset (a : Reg) (i : BitVec 8) : encode (.spset a i) = [BitVec.ofNat 32 (0x64000000 + a.toNat * 2 ^ 14 + i.toNat)] := by
  refine congrArg (fun w => [w]) (BitVec.eq_of_toNat_eq ?_)
  have := a.isLt
  have := i.isLt
  simp only [Laws.toNat_append_eq, BitVec.toNat_ofNat]
  omega

theorem encode_spshift (b : BitVec 1) : encode (.spshift b) = [BitVec.ofNat 32 (0x65000000 + b.toNat)] := by
  refine congrArg (fun w => [w]) (BitVec.eq_of_toNat_eq ?_)
  have := b.isLt
  simp only [Laws.toNat_append_eq, BitVec.toNat_ofNat]
  omega

theorem encode_spget (d : Reg) : encode (.spget d) = [BitVec.ofNat 32 (0x66000000 + d.toNat * 2 ^ 19)] := by
  refine congrArg (fun w => [w]) (BitVec.eq_of_toNat_eq ?_)
  have := d.isLt
  simp only [Laws.toNat_append_eq, BitVec.toNat_ofNat]
  omega

/-- A word of major 0x19 that decodes is the one spelling of a stage-predicate instruction. -/
theorem encode_of_decSp {w : BitVec 32} {x : Instr} (major : w.toNat / 2 ^ 26 = 0x19) (h : decSp w = .ok x) :
    encode x = [w] ∧ ((∃ a i, x = .spset a i) ∨ (∃ b, x = .spshift b) ∨ ∃ d, x = .spget d) := by
  have spelled : ∀ {n : Nat}, n = w.toNat → [BitVec.ofNat 32 n] = [w] := by
    rintro n rfl
    rw [BitVec.ofNat_toNat, BitVec.setWidth_eq]
  unfold decSp at h
  split at h
  · next func =>
    obtain ⟨mask, rfl⟩ := mbz_eq_ok h
    have high := field_eq_zero_of_mask (lo := 19) (n := 5) mask (by decide)
    have low := field_eq_zero_of_mask (lo := 8) (n := 6) mask (by decide)
    rw [toNat_fld] at func
    refine ⟨(encode_spset _ _).trans (spelled ?_), .inl ⟨_, _, rfl⟩⟩
    rw [toNat_fld, toNat_fld]
    omega
  · next func =>
    obtain ⟨mask, rfl⟩ := mbz_eq_ok h
    have zero := field_eq_zero_of_mask (lo := 1) (n := 23) mask (by decide)
    rw [toNat_fld] at func
    refine ⟨(encode_spshift _).trans (spelled ?_), .inr (.inl ⟨_, rfl⟩)⟩
    rw [toNat_fld]
    omega
  · next func =>
    obtain ⟨mask, rfl⟩ := mbz_eq_ok h
    have zero := field_eq_zero_of_mask (lo := 0) (n := 19) mask (by decide)
    rw [toNat_fld] at func
    refine ⟨(encode_spget _).trans (spelled ?_), .inr (.inr ⟨_, rfl⟩)⟩
    rw [toNat_fld]
    omega
  · cases h

theorem candidate_sp {w1 w2 : BitVec 32} (major : w1.toNat / 2 ^ 26 = 0x19) : candidate w1 w2 = decSp w1 := by
  have field : (fld w1 26 6).toNat = 25 := by
    rw [toNat_fld]
    omega
  simp only [candidate, field]

/-! ### What the stage predicates do (R125) -/

theorem spOf_bit_zero (x : Word) : (spOf x).getLsbD 0 = true := by
  simp [spOf]

theorem spOf_bit (x : Word) {k : Nat} (low : 1 ≤ k) (high : k < 8) : (spOf x).getLsbD k = x.getLsbD k := by
  have one : k ≠ 0 := by omega
  simp [spOf, high, one]

/-- R125: bits 6 to 1 move up one place, and bit 1 is the operand. -/
theorem spOf_shifted_bit (p : BitVec 8) (b : BitVec 1) {k : Nat} (low : 1 ≤ k) (high : k < 8) :
    (spOf (((p &&& 0x7e#8) <<< 1).setWidth 64 ||| (b.setWidth 64 <<< 1))).getLsbD k =
      if k = 1 then b.getLsbD 0 else p.getLsbD (k - 1) := by
  rw [spOf_bit _ low high]
  interval_cases k <;> simp

section
variable {s : State} {gid : Nat} {g : Group}

/-- R63: the A-slice may issue none of them. -/
theorem exec_stagePredicates_illegal (hi : Issuing s gid .a g) (d a : Reg) (i : BitVec 8) (b : BitVec 1) :
    exec (.spset a i) s = trapped s gid .a { cause := 0x01, status := encodeStatus (.spset a i) } ∧
    exec (.spshift b) s = trapped s gid .a { cause := 0x01, status := encodeStatus (.spshift b) } ∧
    exec (.spget d) s = trapped s gid .a { cause := 0x01, status := encodeStatus (.spget d) } := by
  change execSpset a i s = _ ∧ execSpshift b s = _ ∧ execSpget d s = _
  simp [execSpset, execSpshift, execSpget, issue_eq hi, State.illegal, State.trapNow, trapped]

theorem exec_spset_eq (hi : Issuing s gid .c g) {a : Reg} (clean : g.c.rp a = false) (i : BitVec 8) : exec (.spset a i) s =
    .next ((s.setGrp { g with sp := spOf (g.c.rd a ||| i.setWidth 64) }).advance gid .c) := by
  change execSpset a i s = _
  simp [execSpset, issue_eq hi, Group.stream, clean, State.done, State.mapGrp_eq hi.grp]

theorem exec_spshift_eq (hi : Issuing s gid .c g) (b : BitVec 1) : exec (.spshift b) s = .next ((s.setGrp
    { g with sp := spOf (((g.sp &&& 0x7e#8) <<< 1).setWidth 64 ||| (b.setWidth 64 <<< 1)) }).advance gid .c) := by
  change execSpshift b s = _
  simp [execSpshift, issue_eq hi, State.done, State.mapGrp_eq hi.grp]

theorem exec_spget_eq (hi : Issuing s gid .c g) (d : Reg) : exec (.spget d) s = wrote s gid .c d (BitVec.ofNat 64 g.sp.toNat) false := by
  change execSpget d s = _
  simp [execSpget, issue_eq hi, wrote, State.done, State.mapStream_eq hi.grp, State.setStream_eq hi.grp, BitVec.ofNat_toNat]

end

/-- Settles O23: the words by their fields, the effects by the bits of the new predicate register. -/
theorem stagePredicates : Obligations.StagePredicates := by
  refine ⟨fun d a i b => ⟨encode_spset a i, encode_spshift b, encode_spget d⟩,
    fun w1 w2 x major h => encode_of_decSp major ((candidate_sp major).symm.trans (candidate_of_decodeWords h)),
    fun s gid sl g d a i b hi => ⟨?illegal, ?effect⟩⟩
  case illegal =>
    rintro rfl
    exact exec_stagePredicates_illegal hi d a i b
  case effect =>
    rintro rfl
    refine ⟨fun clean => ⟨_, exec_spset_eq hi clean i, spOf_bit_zero _, fun k low high => ?_⟩,
      ⟨_, exec_spshift_eq hi b, spOf_bit_zero _, ?_, fun k low high => ?_⟩, exec_spget_eq hi d⟩
    · rw [spOf_bit _ low high, BitVec.getLsbD_or, BitVec.getLsbD_setWidth]
      simp [Nat.lt_of_lt_of_le high (by omega : 8 ≤ 64), Group.stream]
    · rw [spOf_shifted_bit _ _ (by omega) (by omega), if_pos rfl]
    · rw [spOf_shifted_bit _ _ (by omega) high, if_neg (by omega)]

end Sys2Proof.Machine

/-! ## O16: the frame of the scan, refuted (R42, R102, R230, R250)

The scan may read the next code line from a peer. When the answer is there, the controller has accessed the line, and reads of it that
are out on UO pages shall bring no copy of it (`State.dropOwn`, `State.unkeep`): the mark `keep` of such a read is cleared. The pending
entry of a forward queue holds its read's part, so the queue does change. -/

namespace Sys2Proof.Machine

open Sys2Proof

/-- A code line of which lane 1 is a `nop` of the A-slice. -/
def nopLine : List Byte := 0x10 :: List.replicate 31 0

/-- The forward queue 0 with an `lq` of 8 bytes at address 32 of peer 1, on a UO page, whose request has been sent. -/
def lineQueue (keep : Bool) : Queue :=
  { head := 0, ents := [.pending false 3 0x10020 0 (some { va := 0x10020, n := 8, loc := .peer 1 32, ord := 2, keep := keep }) [7]] }

/-- A group whose A-slice stands in the last lane of a line, and has asked peer 1 for the next line; it has an `lq` of that line out. -/
def lineGroup : Group :=
  let g := Group.placed loaderCtx 0 0 0 0 0 1 1 4096 0 0 false 0 { unit := 0, chunk := 0, iter := 0 }
  { g with
    a := { g.a with
      pc := 28
      fetches := [{ part := { va := 32, n := 32, loc := .peer 1 32, ord := 1 }, reqs := [5], words := none, both := true }] }
    qs := g.qs.set 0 (lineQueue true) }

/-- The peer has answered the fetch. -/
def lineState : State :=
  { State.reset with
    cur := some (0, .a)
    ctxs := [loaderCtx]
    groups := [lineGroup]
    nextGid := 1
    replies := [{ tag := 5, poison := false, bytes := nopLine }] }

/-- The scan reaches lane 1 of the line, and the load of it that is out shall bring no copy any more. -/
theorem lineState_advance : ((lineState.advance 0 .a).grp? 0).map (fun h => (h.ctx, h.a.pc, h.qs)) =
    some (lineGroup.ctx, 36, lineGroup.qs.set 0 (lineQueue false)) := by
  decide +kernel

theorem lineQueue_changed : lineGroup.qs.set 0 (lineQueue false) ≠ lineGroup.qs := by decide +kernel

/-- Refutes O16: the scan of `lineState` reads the line from the peer, and the queue's entry changes with it. -/
theorem not_registerFrame : ¬ Obligations.RegisterFrame := by
  rintro ⟨⟨frame, -⟩, -⟩
  obtain ⟨h, hh, e⟩ := Option.map_eq_some_iff.1 lineState_advance
  obtain ⟨ctx, -, qs⟩ : h.ctx = lineGroup.ctx ∧ h.a.pc = 36 ∧ h.qs = lineGroup.qs.set 0 (lineQueue false) := by
    simpa only [Prod.mk.injEq] using e
  obtain ⟨-, -, -, -, -, ⟨same, -, -⟩, -⟩ := frame lineState 0 .a lineGroup h rfl hh ctx
  exact lineQueue_changed (qs.symm.trans same)

end Sys2Proof.Machine

/-! ## What a fetch leaves of the streams (R42 to R44)

A fetch may ask peers, count, note what it has fetched and forget copies. Of every stream it leaves all but the record of the fetches
and the marks of the reads that are out. -/

namespace Sys2Proof.Machine

open Sys2Proof

/-- A stream without what a fetch notes in it. -/
def Stream.core (st : Stream) : Stream := { st with fetches := [], parts := [] }

/-- No group and no stream has changed, but for what a fetch notes in them. -/
def KeepsStreams (s t : State) : Prop :=
  ∀ (gid : Nat) (sl : Slice), (t.grp? gid).map (fun g => (g.stream sl).core) = (s.grp? gid).map (fun g => (g.stream sl).core)

/-- A change of a group that leaves its number and its streams. -/
def KeepsCores (f : Group → Group) : Prop := ∀ g : Group, (f g).gid = g.gid ∧ ∀ sl : Slice, ((f g).stream sl).core = (g.stream sl).core

theorem keepsCores_setStream (x : Slice) {f : Stream → Stream} (hf : ∀ st : Stream, (f st).core = st.core) :
    KeepsCores (fun g => g.setStream x (f (g.stream x))) := by
  intro g
  refine ⟨by simp, fun sl => ?_⟩
  cases sl <;> cases x <;> simp [Group.setStream, Group.stream, hf]

theorem keepsCores_unkeep (hit : Nat → Nat → Bool) : KeepsCores (fun g => g.unkeep hit) :=
  fun _ => ⟨rfl, fun sl => by cases sl <;> rfl⟩

theorem KeepsStreams.refl (s : State) : KeepsStreams s s := fun _ _ => rfl

theorem KeepsStreams.of_groups {s t : State} (h : t.groups = s.groups) : KeepsStreams s t := by
  intro gid sl
  simp only [State.grp?, h]

theorem KeepsStreams.ite {c : Prop} [Decidable c] {s t u : State} (ht : KeepsStreams s t) (hu : KeepsStreams s u) :
    KeepsStreams s (if c then t else u) := by
  split
  · exact ht
  · exact hu

theorem KeepsStreams.trans {s t u : State} (h : KeepsStreams s t) (k : KeepsStreams t u) : KeepsStreams s u :=
  fun gid sl => (k gid sl).trans (h gid sl)

/-- The stream of a group that is there, after the fetch. -/
theorem KeepsStreams.grp? {s t : State} (h : KeepsStreams s t) {gid : Nat} {g : Group} (hg : s.grp? gid = some g) (sl : Slice) :
    ∃ g' : Group, t.grp? gid = some g' ∧ (g'.stream sl).core = (g.stream sl).core := by
  have e := h gid sl
  rw [hg] at e
  exact Option.map_eq_some_iff.1 e

theorem KeepsStreams.setGrp {s : State} {k : Nat} {x y : Group} (hx : s.grp? k = some x) (gid : y.gid = x.gid)
    (core : ∀ sl : Slice, (y.stream sl).core = (x.stream sl).core) : KeepsStreams s (s.setGrp y) := by
  intro j sl
  rw [State.grp?_setGrp, gid, State.grp?_gid hx]
  split
  · next hj =>
    subst hj
    simp [hx, core sl]
  · rfl

theorem KeepsStreams.mapGrp (s : State) (k : Nat) {f : Group → Group} (hf : KeepsCores f) : KeepsStreams s (s.mapGrp k f) := by
  unfold State.mapGrp
  split
  · next x hx => exact KeepsStreams.setGrp hx (hf x).1 (hf x).2
  · exact .refl s

/-- Every group changed in a way that leaves its streams. -/
theorem KeepsStreams.mapGroups {s t : State} {f : Group → Group} (hf : KeepsCores f) (groups : t.groups = s.groups.map f) :
    KeepsStreams s t := by
  intro gid sl
  have same : (fun x : Group => x.gid == gid) ∘ f = fun x => x.gid == gid := by
    funext x
    simp [(hf x).1]
  simp only [State.grp?, groups, List.find?_map, same, Option.map_map]
  congr 1
  funext x
  exact (hf x).2 sl

/-! ### Requests to peers -/

section
variable (s : State)

theorem State.countStack_groups (k src n : Nat) (c : Option Nat) : (s.countStack k src n c).groups = s.groups := by
  unfold State.countStack
  split
  · rfl
  · simp

theorem State.postPeer_groups (k gid src : Nat) (a : PeerAsk) : (s.postPeer k gid src a).groups = s.groups := by
  simp [State.postPeer, State.leavePort]

theorem State.waitPort_groups (k : Nat) (w : Nat × Nat) : (s.waitPort k w).groups = s.groups := by
  simp [State.waitPort]

theorem keepsStreams_count (k src n : Nat) : KeepsStreams s (s.count k src n) := by
  unfold State.count
  split
  · exact .refl s
  · next g hg =>
    refine KeepsStreams.trans (.setGrp hg ?_ (fun sl => ?_)) (.of_groups (State.countStack_groups _ _ _ _ _))
    · rfl
    · cases sl <;> rfl

theorem keepsStreams_peerFail (k tag : Nat) (x : OutKind) : KeepsStreams s (s.peerFail k tag x) := by
  unfold State.peerFail
  split
  · exact .mapGrp s k (fun g => ⟨rfl, fun sl => by cases sl <;> rfl⟩)
  · exact .of_groups rfl

theorem keepsStreams_sendWith (slot : Bool) (k src : Nat) (a : PeerAsk) : KeepsStreams s (s.sendWith slot k src a).1 := by
  unfold State.sendWith
  dsimp only
  split
  · exact .refl s
  · split
    · rw [apply_ite Prod.fst]
      exact .ite (.of_groups (State.postPeer_groups s _ _ _ _)) (.of_groups (State.waitPort_groups s _ _))
    · refine KeepsStreams.trans (.trans (.of_groups ?_) (keepsStreams_count _ k 16 1)) (keepsStreams_peerFail _ k _ _)
      rfl

theorem keepsStreams_sendSome (slot : Bool) (k src : Nat) (asks : List PeerAsk) (sent : List Nat) :
    KeepsStreams s (s.sendSome slot k src sent asks).1 := by
  induction asks generalizing s sent with
  | nil => exact .refl s
  | cons a rest ih =>
    have one := keepsStreams_sendWith s slot k src a
    unfold State.sendSome
    split
    · next eq =>
      rw [eq] at one
      exact one
    · next eq =>
      rw [eq] at one
      exact one.trans (ih _ _)

theorem keepsStreams_exchange (k src : Nat) (held : List Nat) (asks : List PeerAsk) :
    KeepsStreams s (s.exchange k src held asks).1 := by
  have sent := keepsStreams_sendSome s false k src (asks.drop held.length) held
  unfold State.exchange
  dsimp only
  split
  · exact sent.trans (.of_groups rfl)
  · exact sent

/-! ### Reading the bytes of a fetch -/

theorem keepsStreams_unkeep (ctl : Nat → Bool) (hit : Nat → Nat → Bool) : KeepsStreams s (s.unkeep ctl hit) := by
  refine .mapGroups (f := fun g => if ctl g.ctl then g.unkeep hit else g) (fun g => ?_) rfl
  dsimp only
  split
  · exact keepsCores_unkeep hit g
  · exact ⟨rfl, fun _ => rfl⟩

theorem keepsStreams_dropOwn (ctl : Nat) (l : MemLoc) (n : Nat) : KeepsStreams s (s.dropOwn ctl l n) := by
  unfold State.dropOwn
  split
  · exact (keepsStreams_unkeep s (fun k => k == ctl) (touches _ _ n)).trans (.of_groups rfl)
  · exact .refl s

/-- A read that is no slice's performs no pending store (R255). -/
theorem keepsStreams_partBytes {v : Viewer} (hv : v.sl = none) (ctl : Nat) (p : Part) (asks : Nat) (data : List (List Byte × Bool)) :
    KeepsStreams s (s.partBytes v ctl p asks data).1 := by
  unfold State.partBytes
  split
  · dsimp only
    split
    · exact .refl s
    · split
      · dsimp only
        split
        · exact (keepsStreams_unkeep s (fun k => k == ctl) (touches _ _ p.n)).trans (.of_groups rfl)
        · exact keepsStreams_dropOwn s _ _ _
      · exact keepsStreams_dropOwn s _ _ _
  · simpa [hv] using KeepsStreams.refl s

theorem keepsStreams_partsBytes {v : Viewer} (hv : v.sl = none) (ctl : Nat) (parts : List (Part × Nat))
    (data : List (List Byte × Bool)) : KeepsStreams s (s.partsBytes v ctl parts data).1 := by
  induction parts generalizing s data with
  | nil => exact .refl s
  | cons x rest ih => exact (keepsStreams_partBytes s hv ctl x.1 x.2 data).trans (ih _ _)

theorem keepsStreams_readParts (k src ctl : Nat) {v : Viewer} (hv : v.sl = none) (held : List Nat) (parts : List Part) :
    KeepsStreams s (s.readParts k src ctl v held parts).1 := by
  have asked := keepsStreams_exchange s k src held (parts.map readAsks).flatten
  unfold State.readParts
  dsimp only
  split
  · exact .refl s
  · split
    · next eq =>
      rw [eq] at asked
      exact asked
    · next eq =>
      rw [eq] at asked
      exact asked.trans (keepsStreams_partsBytes _ hv ctl _ _)

end

/-! ### A fetch, a check of a target and a scan -/

section
variable {s t : State} {gid : Nat} {sl : Slice}

theorem keepsStreams_noteFetch (s : State) (gid : Nat) (sl : Slice) (f : LineFetch) :
    KeepsStreams s (s.mapStream gid sl (fun st => st.noteFetch f)) :=
  .mapGrp s gid (keepsCores_setStream sl (f := fun st => st.noteFetch f) (fun _ => rfl))

theorem keepsStreams_holdLine (s : State) (gid : Nat) (sl : Slice) (l : MemLoc) (ws : List (BitVec 32)) (both : Bool) :
    KeepsStreams s (s.holdLine gid sl l ws both) :=
  .mapGrp s gid (fun _ => ⟨rfl, fun x => by cases x <;> rfl⟩)

theorem keepsStreams_fetchAt {g : Group} {p : Part} {held : List Nat} {both : Bool} {ws : List (BitVec 32)}
    (e : s.fetchAt gid sl g p held both = .ok t ws) : KeepsStreams s t := by
  have read := keepsStreams_readParts s gid sl.src g.ctl (v := { gid := some gid, sl := none, upTo := none, bind := g.bind }) rfl held
    [{ p with ord := if p.ord == 2 then 1 else p.ord }]
  unfold State.fetchAt at e
  dsimp only at e
  split at e
  · cases e
  · next u _ b pz hr =>
    rw [hr] at read
    split at e
    · cases e
      exact read
    · split at e
      · cases e
      · cases e
        refine KeepsStreams.trans ?_ (keepsStreams_holdLine _ _ _ _ _ _)
        split
        · exact read.trans (keepsStreams_noteFetch _ _ _ _)
        · exact read

theorem keepsStreams_translate (s : State) (k : TlbHolder) (v : Viewer) (cx : Context) (va : Nat) (need : Need) :
    KeepsStreams s (s.translate k v cx va need).1 := by
  rw [State.translate_frame]
  exact .of_groups rfl

theorem keepsStreams_fetchMiss {g : Group} {cx : Context} {va : Nat} {ws : List (BitVec 32)}
    (e : s.fetchMiss gid sl g cx va = .ok t ws) : KeepsStreams s t := by
  have walked := keepsStreams_translate s (.ctl g.ctl) (g.viewer sl) cx va needX
  unfold State.fetchMiss at e
  split at e
  · cases e
    exact .refl s
  · exact keepsStreams_fetchAt e
  · split at e
    · cases e
    · cases e
    · next u l ord hu =>
      rw [hu] at walked
      dsimp only at e
      split at e
      · cases e
      · split at e
        · split at e
          · cases e
            exact walked.trans (keepsStreams_noteFetch _ _ _ _)
          · exact walked.trans (keepsStreams_fetchAt e)
        · exact walked.trans (keepsStreams_fetchAt e)

theorem keepsStreams_fetchNew {va : Nat} {ws : List (BitVec 32)} (e : s.fetchNew gid sl va = .ok t ws) : KeepsStreams s t := by
  unfold State.fetchNew at e
  split at e
  · cases e
  · split at e
    · cases e
    · exact keepsStreams_fetchMiss e

theorem keepsStreams_fetchLine {va : Nat} {ws : List (BitVec 32)} (e : s.fetchLine gid sl va = .ok t ws) : KeepsStreams s t := by
  unfold State.fetchLine at e
  split at e
  · cases e
    exact .refl s
  · exact keepsStreams_fetchNew e

theorem keepsStreams_checkTarget {target : Word} {jr : Bool} {ws : List (BitVec 32)} (e : s.checkTarget gid sl target jr = .ok t ws) :
    KeepsStreams s t := by
  unfold State.checkTarget at e
  dsimp only at e
  split at e
  · cases e
  · unfold Got.bind at e
    split at e
    · next u _ hu =>
      dsimp only at e
      iterate 2 (split at e; · cases e)
      cases e
      exact keepsStreams_fetchNew hu
    · cases e
    · cases e
    · cases e

end

end Sys2Proof.Machine

/-! ## O22: loops and the scan (R42, R122, R123) -/

namespace Sys2Proof.Machine

open Sys2Proof

/-! ### The lane at which a scan stops -/

/-- The lane is tagged for the slice in a code line, at `lane` or behind it. -/
def StopsAt (sl : Slice) (ws : List (BitVec 32)) (lane k : Nat) : Prop :=
  lineKind ws = 0 ∧ lane ≤ k ∧ k < 8 ∧ laneTag ws k = sl.tag

theorem laneFrom_none {sl : Slice} {ws : List (BitVec 32)} {lane : Nat} (h : ∀ k : Nat, ¬ StopsAt sl ws lane k) :
    laneFrom sl ws lane = none := by
  unfold laneFrom
  split
  · next code =>
    rw [List.find?_eq_none]
    intro k hk tagged
    simp only [Bool.and_eq_true, decide_eq_true_eq, beq_iff_eq] at code tagged
    exact h k ⟨code, tagged.1.1, List.mem_range.1 hk, tagged.2⟩
  · rfl

theorem laneFrom_some {sl : Slice} {ws : List (BitVec 32)} {lane k : Nat} (pos : 1 ≤ lane) (h : StopsAt sl ws lane k)
    (least : ∀ j : Nat, j < k → ¬ StopsAt sl ws lane j) : laneFrom sl ws lane = some k := by
  obtain ⟨code, low, high, tag⟩ := h
  rw [laneFrom, if_pos (by simp [code]), List.find?_range_eq_some]
  refine ⟨by simp [low, tag, Nat.le_trans pos low], List.mem_range.2 high, fun j hj => ?_⟩
  have := least j hj
  simp only [StopsAt, code, true_and, not_and] at this
  simp only [Bool.not_eq_true', Bool.and_eq_false_iff, decide_eq_false_iff_not, beq_eq_false_iff_ne]
  by_cases hl : lane ≤ j
  · exact .inr (this hl (by omega))
  · exact .inl (.inl hl)

/-! ### The lines that a scan reads -/

section
variable {s t : State} {gid : Nat} {sl : Slice} {va lane : Nat} {ws : List (BitVec 32)} (hf : s.fetchLine gid sl va = .ok t ws)
include hf

theorem State.scan_found {k : Nat} (fuel : Nat) (ok : lineOk ws = true) (h : laneFrom sl ws lane = some k) :
    s.scan gid sl fuel va lane = .ok t (BitVec.ofNat 64 (va + 4 * k)) := by
  rw [State.scan]
  simp [hf, ok, h]

theorem State.scan_malformed (fuel : Nat) (bad : lineOk ws = false) :
    s.scan gid sl fuel va lane = .trap t { cause := 0x02, addr := va } := by
  rw [State.scan]
  simp [hf, bad]

theorem State.scan_next (fuel : Nat) (ok : lineOk ws = true) (h : laneFrom sl ws lane = none) :
    s.scan gid sl (fuel + 1) va lane = t.scan gid sl fuel ((va + 32) % 2 ^ 64) 1 := by
  rw [State.scan]
  simp [hf, ok, h]

theorem State.scan_exhausted (ok : lineOk ws = true) (h : laneFrom sl ws lane = none) :
    s.scan gid sl 0 va lane = .trap t { cause := 0x03, addr := va } := by
  rw [State.scan]
  simp [hf, ok, h]

end

/-- A scan passes over lines without a lane of its own. -/
theorem State.scan_skip {t : Nat → State} {ws : Nat → List (BitVec 32)} {line : Nat → Nat} {gid : Nat} {sl : Slice}
    (next : ∀ j : Nat, 1 ≤ j → line (j + 1) = (line j + 32) % 2 ^ 64) (n : Nat) (hn : n ≤ 15)
    (read : ∀ j : Nat, 1 ≤ j → j ≤ n → (t j).fetchLine gid sl (line j) = .ok (t (j + 1)) (ws j))
    (pass : ∀ j : Nat, 1 ≤ j → j ≤ n → lineOk (ws j) = true ∧ laneFrom sl (ws j) 1 = none) :
    (t 1).scan gid sl 15 (line 1) 1 = (t (n + 1)).scan gid sl (15 - n) (line (n + 1)) 1 := by
  induction n with
  | zero => rfl
  | succ n ih =>
    obtain ⟨ok, none_⟩ := pass (n + 1) (by omega) (by omega)
    rw [ih (by omega) (fun j low high => read j low (by omega)) (fun j low high => pass j low (by omega)),
      show 15 - n = 15 - (n + 1) + 1 by omega, State.scan_next (read (n + 1) (by omega) (by omega)) _ ok none_,
      next (n + 1) (by omega)]

/-! ### The scan after an instruction -/

section
variable {s t : State} {gid : Nat} {sl : Slice} {g : Group} {pc : Word} {ws : List (BitVec 32)}

/-- The instruction in the last lane: the scan begins in the next line. -/
theorem State.scanAfter_lastLane (h : pc.toNat % 32 / 4 = 7) :
    s.scanAfter gid sl pc = s.scan gid sl 15 ((pc.toNat / 32 * 32 + 32) % 2 ^ 64) 1 := by
  simp [State.scanAfter, h]

/-- The first lane that the scan looks at in the line of the instruction. -/
def Stream.laneAfter (st : Stream) (pc : Word) (ws : List (BitVec 32)) : Nat :=
  if st.wideAt pc (ws.getD (pc.toNat % 32 / 4) 0) then pc.toNat % 32 / 4 + 2 else pc.toNat % 32 / 4 + 1

theorem Stream.wideAt_core {x y : Stream} (h : x.core = y.core) (pc : Word) (w : BitVec 32) : x.wideAt pc w = y.wideAt pc w := by
  have wide : x.wide = y.wide := (congrArg Stream.wide h :)
  have at_ : x.pc = y.pc := (congrArg Stream.pc h :)
  rw [Stream.wideAt, Stream.wideAt, wide, at_]

variable (hg : s.grp? gid = some g) (h : pc.toNat % 32 / 4 < 7) (hf : s.fetchLine gid sl (pc.toNat / 32 * 32) = .ok t ws)
include hg h hf

/-- The length of the instruction does not change as its line is fetched, so the lane is that of the stream as it stood. -/
theorem State.scanAfter_eq : s.scanAfter gid sl pc =
    if lineOk ws = false then .trap t { cause := 0x02, addr := pc.toNat / 32 * 32 }
    else
      (laneFrom sl ws ((g.stream sl).laneAfter pc ws)).elim (t.scan gid sl 15 ((pc.toNat / 32 * 32 + 32) % 2 ^ 64) 1)
        (fun j => .ok t (BitVec.ofNat 64 (pc.toNat / 32 * 32 + 4 * j))) := by
  obtain ⟨g', hg', core⟩ := (keepsStreams_fetchLine hf).grp? hg sl
  have ne : ¬ pc.toNat % 32 / 4 = 7 := by omega
  have lane : (if (g'.stream sl).wideAt pc (ws.getD (pc.toNat % 32 / 4) 0) = true then pc.toNat % 32 / 4 + 2
      else pc.toNat % 32 / 4 + 1) = (g.stream sl).laneAfter pc ws := by
    rw [Stream.wideAt_core core, Stream.laneAfter]
  simp only [State.scanAfter, beq_iff_eq, ne, if_false, hf, Got.bind, hg', lane, Bool.not_eq_true']
  cases laneFrom sl ws ((g.stream sl).laneAfter pc ws) <;> rfl

theorem State.scanAfter_malformed (bad : lineOk ws = false) :
    s.scanAfter gid sl pc = .trap t { cause := 0x02, addr := pc.toNat / 32 * 32 } := by
  rw [State.scanAfter_eq hg h hf, if_pos bad]

theorem State.scanAfter_found (ok : lineOk ws = true) {k : Nat} (lane : laneFrom sl ws ((g.stream sl).laneAfter pc ws) = some k) :
    s.scanAfter gid sl pc = .ok t (BitVec.ofNat 64 (pc.toNat / 32 * 32 + 4 * k)) := by
  simp [State.scanAfter_eq hg h hf, ok, lane]

theorem State.scanAfter_goesOn (ok : lineOk ws = true) (lane : laneFrom sl ws ((g.stream sl).laneAfter pc ws) = none) :
    s.scanAfter gid sl pc = t.scan gid sl 15 ((pc.toNat / 32 * 32 + 32) % 2 ^ 64) 1 := by
  simp [State.scanAfter_eq hg h hf, ok, lane]

end

/-! ### The step after an instruction -/

/-- R123: no loop ends at an instruction that is not the end of the innermost one. -/
theorem loopStep_noEnd {st : Stream} (h : ∀ (outer : List (BitVec 2)) (c : BitVec 2), st.nesting = outer ++ [c] → (st.loopAt c).end_ ≠ st.pc) :
    loopStep st.pc st.nesting.reverse st = (st, none) := by
  cases e : st.nesting.reverse with
  | nil =>
    have nest : st.nesting = [] := List.reverse_eq_nil_iff.1 e
    rw [loopStep, ← nest]
  | cons c rest =>
    have nest : (c :: rest).reverse = st.nesting := by rw [← e, List.reverse_reverse]
    have ne := h rest.reverse c (by rw [← nest, List.reverse_cons])
    rw [loopStep]
    simp only [beq_iff_eq, if_neg ne, nest]

section
variable {s t : State} {gid : Nat} {sl : Slice} {g : Group}

/-- The stream goes on where the scan stops. -/
theorem State.advance_scan (hg : s.grp? gid = some g)
    (noEnd : loopStep (g.stream sl).pc (g.stream sl).nesting.reverse (g.stream sl) = (g.stream sl, none)) {pc : Word}
    (scan : s.scanAfter gid sl (g.stream sl).pc = .ok t pc) : s.advance gid sl = t.mapStream gid sl (fun x =>
      { x with lc := (g.stream sl).lc, nesting := (g.stream sl).nesting }.stepTo pc) := by
  simp [State.advance, hg, noEnd, scan]

theorem State.advance_scan_trap (hg : s.grp? gid = some g)
    (noEnd : loopStep (g.stream sl).pc (g.stream sl).nesting.reverse (g.stream sl) = (g.stream sl, none)) {x : TrapInfo}
    (scan : s.scanAfter gid sl (g.stream sl).pc = .trap t x) : s.advance gid sl = t.trapStream gid sl x true := by
  simp [State.advance, hg, noEnd, scan]

/-- The stream returns to the head of a loop. -/
theorem State.advance_loop (hg : s.grp? gid = some g) {st : Stream} {head : Word}
    (step : loopStep (g.stream sl).pc (g.stream sl).nesting.reverse (g.stream sl) = (st, some head)) {ws : List (BitVec 32)}
    (target : s.checkTarget gid sl head false = .ok t ws) : s.advance gid sl = t.mapStream gid sl (fun x =>
      { x with lc := st.lc, nesting := st.nesting }.goTo head) := by
  simp [State.advance, hg, step, target, Got.bind]

/-- Where a scan has found the next lane, and nothing else of the stream has changed. -/
theorem State.advance_moved (hg : s.grp? gid = some g)
    (noEnd : loopStep (g.stream sl).pc (g.stream sl).nesting.reverse (g.stream sl) = (g.stream sl, none)) {pc : Word}
    (scan : s.scanAfter gid sl (g.stream sl).pc = .ok t pc) (keeps : KeepsStreams s t) :
    ∃ h : Group, (s.advance gid sl).grp? gid = some h ∧ (h.stream sl).pc = pc ∧ (h.stream sl).g = (g.stream sl).g ∧
      (h.stream sl).skip = false := by
  obtain ⟨g', hg', core⟩ := keeps.grp? hg sl
  have regs : (g'.stream sl).g = (g.stream sl).g := (congrArg Stream.g core :)
  refine ⟨_, by rw [State.advance_scan hg noEnd scan, State.grp?_mapStream hg'], ?_⟩
  rw [Group.setStream_same]
  exact ⟨rfl, regs, rfl⟩

end

/-! ### The checks and the start of a loop (R122) -/

theorem endsNoBody_iff (w : BitVec 32) : endsNoBody w = true ↔ (0x12 ≤ w.toNat / 2 ^ 26 ∧ w.toNat / 2 ^ 26 ≤ 0x18) ∨ w = 1 := by
  have major : (fld w 26 6).toNat = w.toNat / 2 ^ 26 := by
    rw [toNat_fld]
    omega
  simp [endsNoBody, major]

/-- A check of R122 fails for the loop whose last instruction is `last`. -/
def Stream.refusesLoop (st : Stream) (c : BitVec 2) (end_ : Word) (last : BitVec 32) : Prop :=
  end_.toNat ≤ st.pc.toNat ∨ endsNoBody last = true ∨ (st.loopAt c).active = true ∨
    ∃ k ∈ st.nesting, (st.loopAt k).end_.toNat < end_.toNat

/-- The stream as it enters a loop: the counter is active and innermost, and the stream goes to the head. -/
def Stream.enterLoop (st : Stream) (c : BitVec 2) (l : LoopCounter) : Stream :=
  ({ st.setLoop c l with nesting := st.nesting ++ [c] }).stepTo l.head

section
variable {s s1 : State} {gid : Nat} {sl : Slice} {g : Group} {c : BitVec 2} {t : BitVec 16} (hg : s.grp? gid = some g)
include hg

theorem State.startLoop_badTarget {x : TrapInfo} (target : s.checkTarget gid sl (branchTarget (g.stream sl).pc 16 t) false = .trap s1 x)
    (n : Word) (poison : Bool) : s.startLoop gid sl c n poison t = trapped s1 gid sl x := by
  simp [State.startLoop, hg, target, Got.bind, Got.finish, trapped]

variable {ws : List (BitVec 32)} (target : s.checkTarget gid sl (branchTarget (g.stream sl).pc 16 t) false = .ok s1 ws)
include target

theorem State.startLoop_refused (n : Word) (poison : Bool) (bad : (g.stream sl).refusesLoop c (branchTarget (g.stream sl).pc 16 t)
      (ws.getD ((branchTarget (g.stream sl).pc 16 t).toNat % 32 / 4) 0)) :
    s.startLoop gid sl c n poison t =
      trapped s1 gid sl { cause := 0x06, addr := (branchTarget (g.stream sl).pc 16 t).toNat } := by
  simp only [State.startLoop, hg, target, Got.bind]
  split
  · rfl
  split
  · rfl
  split
  · rfl
  split
  · rfl
  next before body inactive inside =>
    rcases bad with h | h | h | ⟨k, hk, h⟩
    · exact absurd (BitVec.le_def.2 h) before
    · exact absurd h body
    · exact absurd h inactive
    · exact absurd (List.any_eq_true.2 ⟨k, hk, decide_eq_true (BitVec.lt_def.2 h)⟩) inside

variable (good : ¬ (g.stream sl).refusesLoop c (branchTarget (g.stream sl).pc 16 t)
  (ws.getD ((branchTarget (g.stream sl).pc 16 t).toNat % 32 / 4) 0))
include good

/-- A loop that passes its checks: the count is read, and the scan finds where the stream goes on. -/
theorem State.startLoop_checked (n : Word) (poison : Bool) :
    s.startLoop gid sl c n poison t =
      (if poison then Got.lost (s1.loseControl gid sl)
        else if n = 0 then s1.scanAfter gid sl (branchTarget (g.stream sl).pc 16 t)
        else s1.scanAfter gid sl (g.stream sl).pc).finish gid sl .peer (fun s pc =>
      if n = 0 then .next (s.mapStream gid sl (fun st => st.stepTo pc))
      else .next (s.mapStream gid sl (fun st => st.enterLoop c
        { count := n, head := pc, end_ := branchTarget (g.stream sl).pc 16 t, active := true }))) := by
  unfold Stream.refusesLoop at good
  push Not at good
  obtain ⟨before, body, inactive, inside⟩ := good
  have enclosing : ((g.stream sl).nesting.any
      (fun k => ((g.stream sl).loopAt k).end_ < branchTarget (g.stream sl).pc 16 t)) = false := by
    simpa [BitVec.le_def] using inside
  simp only [State.startLoop, hg, target, Got.bind, BitVec.le_def, Nat.not_le.2 before, body, inactive, enclosing]
  simp [Stream.enterLoop]

theorem State.startLoop_poisoned (n : Word) : s.startLoop gid sl c n true t = .next (s1.loseControl gid sl) := by
  rw [State.startLoop_checked hg target good, if_pos rfl, Got.finish]

variable {s2 : State} {pc n : Word}

theorem State.startLoop_zero (zero : n = 0) (scan : s1.scanAfter gid sl (branchTarget (g.stream sl).pc 16 t) = .ok s2 pc) :
    s.startLoop gid sl c n false t = .next (s2.mapStream gid sl (fun st => st.stepTo pc)) := by
  rw [State.startLoop_checked hg target good, if_neg Bool.false_ne_true, if_pos zero, scan, Got.finish, if_pos zero]

theorem State.startLoop_pos (pos : n ≠ 0) (scan : s1.scanAfter gid sl (g.stream sl).pc = .ok s2 pc) :
    s.startLoop gid sl c n false t = .next (s2.mapStream gid sl (fun st => st.enterLoop c
      { count := n, head := pc, end_ := branchTarget (g.stream sl).pc 16 t, active := true })) := by
  rw [State.startLoop_checked hg target good, if_neg Bool.false_ne_true, if_neg pos, scan, Got.finish, if_neg pos]

end

/-- The words in which O22 and O37 say that no check fails. -/
theorem Stream.not_refusesLoop {st : Stream} {c : BitVec 2} {end_ : Word} {last : BitVec 32} (before : st.pc.toNat < end_.toNat)
    (body : endsNoBody last = false) (inactive : (st.loopAt c).active = false)
    (inside : ∀ k ∈ st.nesting, end_.toNat ≤ (st.loopAt k).end_.toNat) : ¬ st.refusesLoop c end_ last := by
  rintro (h | h | h | ⟨k, hk, h⟩)
  · omega
  · simp [body] at h
  · simp [inactive] at h
  · have := inside k hk
    omega

/-! ### The end of an iteration (R123) -/

@[simp] theorem Stream.loopAt_setLoop (st : Stream) (c : BitVec 2) (l : LoopCounter) : (st.setLoop c l).loopAt c = l := by
  simp [Stream.loopAt, Stream.setLoop]

theorem loopStep_again {st : Stream} {c : BitVec 2} (rest : List (BitVec 2)) (atEnd : (st.loopAt c).end_ = st.pc)
    (more : 1 < (st.loopAt c).count.toNat) : loopStep st.pc (c :: rest) st =
      ({ st.setLoop c { st.loopAt c with count := (st.loopAt c).count - 1 } with nesting := (c :: rest).reverse },
        some (st.loopAt c).head) := by
  have left : (st.loopAt c).count - 1 ≠ 0 := by
    intro h
    have one : (st.loopAt c).count = 1 := by
      rw [← BitVec.sub_add_cancel (st.loopAt c).count 1, h]
      rfl
    rw [one] at more
    exact absurd more (by decide)
  rw [loopStep]
  simp only [beq_iff_eq, atEnd, if_true, bne_iff_ne, ne_eq, left, not_false_eq_true]

theorem loopStep_last {st : Stream} {c : BitVec 2} (rest : List (BitVec 2)) (atEnd : (st.loopAt c).end_ = st.pc)
    (one : (st.loopAt c).count = 1) : loopStep st.pc (c :: rest) st =
      loopStep st.pc rest (st.setLoop c { st.loopAt c with count := 0, active := false }) := by
  rw [loopStep]
  simp [atEnd, one]

/-- The stream at the head of the loop, with one iteration less to make. -/
theorem State.advance_again {s s1 : State} {gid : Nat} {sl : Slice} {g : Group} {c : BitVec 2} {outer : List (BitVec 2)}
    {ws : List (BitVec 32)} (hg : s.grp? gid = some g) (nest : (g.stream sl).nesting = outer ++ [c])
    (atEnd : ((g.stream sl).loopAt c).end_ = (g.stream sl).pc) (more : 1 < ((g.stream sl).loopAt c).count.toNat)
    (target : s.checkTarget gid sl ((g.stream sl).loopAt c).head false = .ok s1 ws) :
    ∃ h : Group, (s.advance gid sl).grp? gid = some h ∧ (h.stream sl).pc = ((g.stream sl).loopAt c).head ∧
      (h.stream sl).loopAt c = { (g.stream sl).loopAt c with count := ((g.stream sl).loopAt c).count - 1 } ∧
      (h.stream sl).nesting = (g.stream sl).nesting ∧ (h.stream sl).g = (g.stream sl).g := by
  obtain ⟨g', hg', core⟩ := (keepsStreams_checkTarget target).grp? hg sl
  have regs : (g'.stream sl).g = (g.stream sl).g := (congrArg Stream.g core :)
  have innermost : (g.stream sl).nesting.reverse = c :: outer.reverse := by rw [nest, List.reverse_append]; rfl
  have step := loopStep_again outer.reverse atEnd more
  rw [← innermost] at step
  refine ⟨_, by rw [State.advance_loop hg step target, State.grp?_mapStream hg'], ?_⟩
  rw [Group.setStream_same]
  exact ⟨rfl, Stream.loopAt_setLoop _ _ _, List.reverse_reverse _, regs⟩

/-! ### The parts of O22 -/

section
variable {s s1 s2 : State} {gid : Nat} {sl : Slice} {g : Group} (hi : Issuing s gid sl g)
include hi

theorem exec_loop_eq (c : BitVec 2) (a : Reg) (t : BitVec 16) :
    exec (.loop c a t) s = s.startLoop gid sl c ((g.stream sl).rd a) ((g.stream sl).rp a) t := by
  change execLoop c a t s = _
  rw [execLoop, issue_eq hi]

theorem exec_loopi_eq (c : BitVec 2) (n : BitVec 7) (t : BitVec 16) :
    exec (.loopi c n t) s = s.startLoop gid sl c (BitVec.ofNat 64 n.toNat) false t := by
  change execLoopi c n t s = _
  rw [execLoopi, issue_eq hi, BitVec.ofNat_toNat]

end

theorem ofNat_ne_zero {n : BitVec 7} (h : n ≠ 0) : BitVec.ofNat 64 n.toNat ≠ 0 := by
  intro zero
  have toNat := congrArg BitVec.toNat zero
  rw [BitVec.toNat_ofNat, Nat.mod_eq_of_lt (by have := n.isLt; omega)] at toNat
  exact h (BitVec.eq_of_toNat_eq toNat)

/-- The lines of the scan after the instruction of `st`, from the line of the instruction on: the states and words of the fetches. -/
structure ScanLines (s : State) (gid : Nat) (sl : Slice) (st : Stream) (t : Nat → State) (ws : Nat → List (BitVec 32))
    (line : Nat → Nat) (m : Nat) : Prop where
  first : line 0 = st.pc.toNat / 32 * 32
  next : ∀ j : Nat, line (j + 1) = (st.pc.toNat / 32 * 32 + 32 * (j + 1)) % 2 ^ 64
  start : t 0 = s
  lastLane : st.pc.toNat % 32 / 4 = 7 → t 1 = s
  read : ∀ j : Nat, j ≤ m → ¬ (j = 0 ∧ st.pc.toNat % 32 / 4 = 7) → (t j).fetchLine gid sl (line j) = .ok (t (j + 1)) (ws j)

/-- The first lane that the scan looks at in line `j`. -/
def Stream.firstLane (st : Stream) (ws : Nat → List (BitVec 32)) (j : Nat) : Nat :=
  if 0 < j then 1 else st.laneAfter st.pc (ws 0)

/-- The scan finds no lane in line `j`. -/
def Stream.passes (st : Stream) (sl : Slice) (ws : Nat → List (BitVec 32)) (j : Nat) : Prop :=
  ∀ k : Nat, ¬ StopsAt sl (ws j) (st.firstLane ws j) k

namespace ScanLines

section
variable {s : State} {gid : Nat} {sl : Slice} {g : Group} {t : Nat → State} {ws : Nat → List (BitVec 32)} {line : Nat → Nat} {m : Nat}
  (lines : ScanLines s gid sl (g.stream sl) t ws line m)
include lines

theorem keeps (j : Nat) (hj : j ≤ m + 1) : KeepsStreams s (t j) := by
  induction j with
  | zero =>
    rw [lines.start]
    exact .refl s
  | succ j ih =>
    by_cases h : j = 0 ∧ (g.stream sl).pc.toNat % 32 / 4 = 7
    · obtain ⟨rfl, last⟩ := h
      rw [lines.lastLane last]
      exact .refl s
    · exact (ih (by omega)).trans (keepsStreams_fetchLine (lines.read j (by omega) h))

variable (hg : s.grp? gid = some g) (pass : ∀ j : Nat, j < m → lineOk (ws j) = true ∧ (g.stream sl).passes sl ws j)
include hg pass

/-- The scan reaches line `m` behind the line of the instruction with `16 - m` lines left. -/
theorem reaches (pos : 0 < m) (hm : m ≤ 16) :
    s.scanAfter gid sl (g.stream sl).pc = (t m).scan gid sl (16 - m) (line m) 1 := by
  have second : line 1 = ((g.stream sl).pc.toNat / 32 * 32 + 32) % 2 ^ 64 := lines.next 0
  have begins : s.scanAfter gid sl (g.stream sl).pc = (t 1).scan gid sl 15 (line 1) 1 := by
    by_cases last : (g.stream sl).pc.toNat % 32 / 4 = 7
    · rw [State.scanAfter_lastLane last, lines.lastLane last, second]
    · have read := lines.read 0 (by omega) (fun h => last h.2)
      rw [lines.start, lines.first] at read
      obtain ⟨ok, none_⟩ := pass 0 pos
      rw [State.scanAfter_goesOn hg (by omega) read ok (laneFrom_none none_), second]
  obtain ⟨n, rfl⟩ : ∃ n, m = n + 1 := ⟨m - 1, by omega⟩
  rw [begins, State.scan_skip (fun j hj => ?_) n (by omega) (fun j low high => lines.read j (by omega) (by omega))
    (fun j low high => ?_), show 15 - n = 16 - (n + 1) by omega]
  · obtain ⟨i, rfl⟩ : ∃ i, j = i + 1 := ⟨j - 1, by omega⟩
    rw [lines.next, lines.next]
    omega
  · obtain ⟨ok, none_⟩ := pass j (by omega)
    exact ⟨ok, laneFrom_none (by simpa [Stream.passes, Stream.firstLane, Nat.lt_of_lt_of_le Nat.zero_lt_one low] using none_)⟩

theorem found {k : Nat} (hm : m ≤ 16) (ok : lineOk (ws m) = true) (stop : StopsAt sl (ws m) ((g.stream sl).firstLane ws m) k)
    (least : ∀ j : Nat, j < k → ¬ StopsAt sl (ws m) ((g.stream sl).firstLane ws m) j)
    (inLine : m = 0 → (g.stream sl).pc.toNat % 32 / 4 < 7) :
    s.scanAfter gid sl (g.stream sl).pc = .ok (t (m + 1)) (BitVec.ofNat 64 (line m + 4 * k)) := by
  have read := lines.read m (Nat.le_refl m) (fun h => by have := inLine h.1; omega)
  rcases Nat.eq_zero_or_pos m with rfl | pos
  · have lane : 1 ≤ (g.stream sl).laneAfter (g.stream sl).pc (ws 0) := by
      unfold Stream.laneAfter
      split <;> omega
    rw [lines.start, lines.first] at read
    rw [State.scanAfter_found hg (inLine rfl) read ok (laneFrom_some lane stop least), lines.first]
  · have lane : (g.stream sl).firstLane ws m = 1 := if_pos pos
    rw [lane] at stop least
    rw [lines.reaches hg pass pos hm, State.scan_found read _ ok (laneFrom_some (Nat.le_refl 1) stop least)]

theorem malformed (hm : m ≤ 16) (bad : lineOk (ws m) = false) (inLine : m = 0 → (g.stream sl).pc.toNat % 32 / 4 < 7) :
    s.scanAfter gid sl (g.stream sl).pc = .trap (t (m + 1)) { cause := 0x02, addr := line m } := by
  have read := lines.read m (Nat.le_refl m) (fun h => by have := inLine h.1; omega)
  rcases Nat.eq_zero_or_pos m with rfl | pos
  · rw [lines.start, lines.first] at read
    rw [State.scanAfter_malformed hg (inLine rfl) read bad, lines.first]
  · rw [lines.reaches hg pass pos hm, State.scan_malformed read _ bad]

theorem exhausted (hm : m = 16) (ok : lineOk (ws m) = true) (none_ : (g.stream sl).passes sl ws m) :
    s.scanAfter gid sl (g.stream sl).pc = .trap (t (m + 1)) { cause := 0x03, addr := line m } := by
  subst hm
  rw [lines.reaches hg pass (by omega) (by omega)]
  exact State.scan_exhausted (lines.read 16 (by omega) (by omega)) ok (laneFrom_none none_)

end

end ScanLines

/-- Settles O22: the checks of a loop in their order, the end of an iteration by `loopStep`, and the scan line by line. -/
theorem loopResults : Obligations.LoopResults := by
  refine ⟨fun s s1 s2 gid sl g c a n t ws pc hi => ?start, fun s s1 gid sl g c a n t ws hi => ⟨fun x target => ?badTarget,
    fun target bad => ?refused⟩, fun s s1 gid sl g c outer ws hg nest => ?iteration,
    fun s gid sl g t ws m k hg noEnd => ?scan⟩
  case start =>
    intro st end_ started target before body inactive inside clean
    have good := Stream.not_refusesLoop before body inactive inside
    rw [exec_loop_eq hi, exec_loopi_eq hi, clean]
    exact ⟨fun scan => ⟨fun zero => State.startLoop_zero hi.grp target good zero scan,
        fun zero => State.startLoop_zero hi.grp target good (by rw [zero]; rfl) scan⟩,
      fun scan => ⟨fun pos => State.startLoop_pos hi.grp target good pos scan,
        fun pos => State.startLoop_pos hi.grp target good (ofNat_ne_zero pos) scan⟩⟩
  case badTarget =>
    rw [exec_loop_eq hi, exec_loopi_eq hi]
    exact ⟨State.startLoop_badTarget hi.grp target _ _, State.startLoop_badTarget hi.grp target _ _⟩
  case refused =>
    rw [exec_loop_eq hi, exec_loopi_eq hi]
    have refuses : (g.stream sl).refusesLoop c (branchTarget (g.stream sl).pc 16 t)
        (ws.getD ((branchTarget (g.stream sl).pc 16 t).toNat % 32 / 4) 0) := by
      rw [Stream.refusesLoop, endsNoBody_iff, or_assoc]
      exact bad
    exact ⟨State.startLoop_refused hi.grp target _ _ refuses, State.startLoop_refused hi.grp target _ _ refuses⟩
  case iteration =>
    intro st l atEnd active
    refine ⟨fun more target => ?_, fun one => loopStep_last _ atEnd one⟩
    obtain ⟨h, hh, at_, counter, nesting, regs⟩ := State.advance_again hg nest atEnd more target
    exact ⟨h, hh, at_, by rw [counter], by rw [counter]; exact active, nesting, regs⟩
  case scan =>
    intro st va lane line first read stops moved start hm reads pass
    have lines : ScanLines s gid sl st t ws line m := by
      refine ⟨rfl, fun j => rfl, start, fun last => ?_, fun j hj inLine => ?_⟩
      · have := reads 0 (Nat.zero_le m)
        simp only [read, lane, last, and_self, if_true] at this
        exact this.1
      · have := reads j hj
        simpa only [read, lane, inLine, if_false] using this
    have noEnd' := loopStep_noEnd noEnd
    refine ⟨fun ok stop least inLine => ?_, fun bad => ?_, fun last ok none_ => ?_⟩
    · exact State.advance_moved hg noEnd' (lines.found hg pass hm ok stop least inLine) (lines.keeps (m + 1) (Nat.le_refl _))
    · refine State.advance_scan_trap hg noEnd' (lines.malformed hg pass hm bad (fun zero => ?_))
      subst zero
      by_contra last
      have full : lane = 7 := by
        change ¬ lane < 7 at last
        omega
      have := reads 0 (Nat.le_refl 0)
      simp only [read, full, and_self, if_true] at this
      simp [this.2] at bad
    · exact State.advance_scan_trap hg noEnd' (lines.exhausted hg pass last ok none_)

end Sys2Proof.Machine

/-! ## O17: slice control, and what draining leaves pending (R44, R119, R129, R251, R360) -/

namespace Sys2Proof.Machine

open Sys2Proof

/-! ### Performing pending stores -/

/-- A performed write is no matter of the groups. -/
theorem State.performWrite_groups (s : State) (l : MemLoc) (bs : List Byte) (p w : Bool) :
    (s.performWrite l bs p w).groups = s.groups := by
  have raw := (State.performRaw_memories s l bs p w).1
  unfold State.performWrite
  split
  · split
    · rfl
    · exact raw
  · exact raw

theorem keepsStreams_performEntry (s : State) (gid : Nat) (e : StoreEntry) : KeepsStreams s (s.performEntry gid e) := by
  unfold State.performEntry
  split
  · split
    · next g hg =>
      refine .setGrp hg ?_ (fun sl => ?_)
      · rw [Group.spadWrite_only]
      · rw [Group.spadWrite_only]
        cases sl <;> rfl
    · exact .refl s
  · exact .of_groups (State.performWrite_groups s _ _ _ _)

/-- The stores that a slice has pending; none where its group is not there. -/
def State.pending (s : State) (gid : Nat) (sl : Slice) : List StoreEntry := ((s.grp? gid).map (fun g => (g.stream sl).sb)).getD []

theorem State.pending_eq {s : State} {gid : Nat} {g : Group} (h : s.grp? gid = some g) (sl : Slice) :
    s.pending gid sl = (g.stream sl).sb := by
  simp [State.pending, h]

theorem KeepsStreams.pending {s t : State} (h : KeepsStreams s t) (gid : Nat) (sl : Slice) : t.pending gid sl = s.pending gid sl := by
  have e := congrArg (Option.map Stream.sb) (h gid sl)
  simp only [Option.map_map] at e
  exact congrArg (fun o => o.getD []) e

/-- A stream without the pending store of a number. -/
def Stream.without (st : Stream) (q : Nat) : Stream := { st with sb := st.sb.filter (fun e => e.seq != q) }

theorem State.dropEntry_eq {s : State} {gid : Nat} {g : Group} (h : s.grp? gid = some g) (sl : Slice) (q : Nat) :
    s.dropEntry gid sl q = s.setGrp (g.setStream sl ((g.stream sl).without q)) := by
  simp [State.dropEntry, h, Stream.without]

theorem State.dropEntry_none {s : State} {gid : Nat} (h : s.grp? gid = none) (sl : Slice) (q : Nat) : s.dropEntry gid sl q = s := by
  simp [State.dropEntry, h]

/-- Taking an entry out adds none, and leaves none of its number in the slice's own buffer. -/
theorem State.mem_dropEntry {s : State} {j q gid : Nat} {x sl : Slice} {e : StoreEntry} (h : e ∈ (s.dropEntry j x q).pending gid sl) :
    e ∈ s.pending gid sl ∧ (gid = j → sl = x → e.seq ≠ q) := by
  cases hg : s.grp? j with
  | none =>
    rw [State.dropEntry_none hg] at h
    refine ⟨h, fun c _ => ?_⟩
    subst c
    simp [State.pending, hg] at h
  | some g =>
    have number := State.grp?_gid hg
    rw [State.dropEntry_eq hg] at h
    by_cases same : gid = j
    · subst same
      have there : (s.setGrp (g.setStream x ((g.stream x).without q))).grp? gid = some (g.setStream x ((g.stream x).without q)) := by
        simp [State.grp?_setGrp, number, hg]
      rw [State.pending_eq there] at h
      rw [State.pending_eq hg]
      by_cases slice : sl = x
      · subst slice
        simpa [Stream.without] using h
      · refine ⟨?_, fun _ c => absurd c slice⟩
        cases sl <;> cases x <;> simp_all [Group.stream, Group.setStream]
    · refine ⟨?_, fun c => absurd c same⟩
      simpa [State.pending, State.grp?_setGrp, number, same] using h

/-- Performing entries adds none, and leaves none of their numbers in the slice's own buffer. -/
theorem State.mem_drainList {j gid : Nat} {x sl : Slice} {e : StoreEntry} (es : List StoreEntry) {s : State}
    (h : e ∈ (s.drainList j x es).pending gid sl) :
    e ∈ s.pending gid sl ∧ (gid = j → sl = x → ∀ d ∈ es, e.seq ≠ d.seq) := by
  induction es generalizing s with
  | nil => exact ⟨h, fun _ _ d hd => absurd hd List.not_mem_nil⟩
  | cons d es ih =>
    obtain ⟨left, rest⟩ := ih h
    obtain ⟨old, first⟩ := State.mem_dropEntry left
    rw [(keepsStreams_performEntry s j d).pending] at old
    refine ⟨old, fun hj hx c hc => ?_⟩
    rcases List.mem_cons.1 hc with rfl | hc
    · exact first hj hx
    · exact rest hj hx c hc

theorem State.drainSlice_pending (s : State) (gid : Nat) (sl : Slice) : (s.drainSlice gid sl).pending gid sl = [] := by
  rw [List.eq_nil_iff_forall_not_mem]
  intro e he
  unfold State.drainSlice at he
  split at he
  · next g hg =>
    obtain ⟨old, gone⟩ := State.mem_drainList _ he
    rw [State.pending_eq hg] at old
    exact gone rfl rfl e old rfl
  · next hg => simp [State.pending, hg] at he

/-- A slice with nothing pending has nothing pending after others have performed theirs. -/
theorem State.drainSlice_empty {s : State} {gid : Nat} {sl : Slice} (h : s.pending gid sl = []) (j : Nat) (x : Slice) :
    (s.drainSlice j x).pending gid sl = [] := by
  rw [List.eq_nil_iff_forall_not_mem] at h ⊢
  intro e he
  unfold State.drainSlice at he
  split at he
  · exact h e (State.mem_drainList _ he).1
  · exact h e he

/-- What one step of a fold establishes and every step keeps holds after the fold. -/
theorem foldl_establishes {α : Type} (P : State → Prop) (f : State → α → State) {l : List α} {a : α} (ha : a ∈ l)
    (once : ∀ s, P (f s a)) (keeps : ∀ s b, P s → P (f s b)) (s : State) : P (l.foldl f s) := by
  obtain ⟨before, after, rfl⟩ := List.append_of_mem ha
  rw [List.foldl_append]
  exact foldl_keeps P f after keeps (once _)

/-- After draining, no slice of a group that was there has a store pending. -/
theorem State.drainAll_pending {s : State} {gid : Nat} {g : Group} (hg : s.grp? gid = some g) (sl : Slice) :
    s.drainAll.pending gid sl = [] := by
  refine foldl_establishes (fun t => t.pending gid sl = []) _ (State.grp?_mem hg) (fun t => ?_) (fun t h e => ?_) s
  · rw [State.grp?_gid hg]
    cases sl with
    | a => exact State.drainSlice_empty (State.drainSlice_pending t gid .a) gid .c
    | c => exact State.drainSlice_pending _ gid .c
  · exact State.drainSlice_empty (State.drainSlice_empty e h.gid .a) h.gid .c

/-! ### The instructions -/

section
variable {s : State} {gid : Nat} {sl : Slice} {g : Group}

theorem Group.word_eq (g : Group) :
    g.word = BitVec.ofNat 64 (g.gnum + 2 ^ 16 * g.stack0 + 2 ^ 20 * g.row0 + 2 ^ 24 * g.n.log2 + 2 ^ 28 * g.w.log2) := by
  simp only [Group.word, Nat.mul_comm]

theorem exec_nop_eq (hi : Issuing s gid sl g) : exec .nop s = .next (s.advance gid sl) := by
  change execNop s = _
  simp [execNop, issue_eq hi, State.done]

theorem exec_yieldSlice_eq (hi : Issuing s gid sl g) : exec .yieldSlice s = .next (s.advance gid sl) := by
  change execYieldSlice s = _
  simp [execYieldSlice, issue_eq hi, State.done]

theorem exec_stepb_eq (hi : Issuing s gid sl g) :
    exec .stepb s = .next ((s.mapStream gid sl (fun st => { st with atStep := true })).advance gid sl) := by
  change execStepb s = _
  simp [execStepb, issue_eq hi, State.done, State.mapStream_eq hi.grp, State.setStream_eq hi.grp]

theorem exec_grpid_eq (hi : Issuing s gid sl g) (d : Reg) : exec (.grpid d) s = wrote s gid sl d g.word false := by
  change execGrpid d s = _
  simp [execGrpid, issue_eq hi, wrote, State.done, State.mapStream_eq hi.grp, State.setStream_eq hi.grp]

theorem exec_coresid_eq (hi : Issuing s gid sl g) (d : Reg) {l : Launch} (hl : s.launch? g.lid = some l) :
    exec (.coresid d) s = wrote s gid sl d (BitVec.ofNat 64 (if g.cor then l.chunks else 0)) false := by
  change execCoresid d s = _
  simp [execCoresid, issue_eq hi, hl, wrote, State.done, State.mapStream_eq hi.grp, State.setStream_eq hi.grp]

theorem exec_join_eq (hi : Issuing s gid sl g) : exec .join s = .next (s.setStream gid sl (g.stream sl).join) := by
  change execJoin s = _
  simp [execJoin, issue_eq hi]

theorem exec_ifence_eq (hi : Issuing s gid sl g) :
    exec .ifence s = if s.drainAll.peerQuiet gid sl.src then
      .next (((s.drainAll.mapGrp gid (fun h => h.forgetCode sl)).mapStream gid sl (fun st =>
        { st with pass := none, fetches := [], fencedAt := s.drainAll.codeSeq })).advance gid sl)
      else .next (s.drainAll.stallOn gid sl .peer) := by
  change execIfence s = _
  simp only [execIfence, issue_eq hi, State.done]

end

/-! ### A stream that has joined -/

@[simp] theorem Stream.join_joined (st : Stream) : st.join.joined = true := rfl
@[simp] theorem Stream.join_pc (st : Stream) : st.join.pc = st.pc := rfl
@[simp] theorem Stream.join_nesting (st : Stream) : st.join.nesting = [] := rfl
@[simp] theorem Stream.join_g (st : Stream) : st.join.g = st.g := rfl

/-- No loop of a joined stream is active. -/
theorem Stream.join_loopAt (st : Stream) (c : BitVec 2) : (st.join.loopAt c).active = false := by
  have inside : c.toNat < 4 := c.isLt
  simp [Stream.loopAt, Stream.join, List.getD_eq_getElem?_getD, inside]

/-- No marking of a joined stream is active. -/
theorem Stream.join_mark (st : Stream) (k : Nat) : (st.join.mark k).active = false := by
  have reset : st.join.mark k = Marking.reset := by
    simp only [Stream.mark, Stream.join, Vector.toList_replicate, List.getD_eq_getElem?_getD, List.getElem?_replicate]
    split <;> rfl
  rw [reset]
  rfl

/-! ### Copies of lines after `ifence` -/

theorem Group.forgetCode_icache (g : Group) (sl : Slice) :
    (g.forgetCode sl).icache =
      g.icache.map (fun m => match sl with | .a => { m with forA := false } | .c => { m with forC := false }) := rfl

theorem Group.codeCopies_forgetCode (g : Group) (sl : Slice) (l : MemLoc) :
    (g.forgetCode sl).codeCopies sl l = [] ∧ (g.forgetCode sl).codeCopies sl.partner l = g.codeCopies sl.partner l := by
  cases sl <;> simp [Group.codeCopies, Group.forgetCode_icache, Slice.partner, List.filter_map, Function.comp_def]

/-- Settles O17: each instruction's equation, the joined stream's fields, and that draining leaves the slice's own buffer empty. -/
theorem sliceControl : Obligations.SliceControl := by
  refine ⟨fun s gid sl g d hi => ?_, fun s gid sl g hi => ?_, fun s gid sl g hi => ⟨fun h hh => ?_, fun quiet => ?_, fun busy => ?_,
    g.codeCopies_forgetCode sl⟩⟩
  · exact ⟨exec_nop_eq hi, exec_yieldSlice_eq hi, exec_stepb_eq hi, g.word_eq ▸ exec_grpid_eq hi d, fun l hl => exec_coresid_eq hi d hl⟩
  · refine ⟨_, g.setStream sl (g.stream sl).join, exec_join_eq hi, ?_, ?_⟩
    · simp [State.setStream_eq hi.grp, State.grp?_setGrp, State.grp?_gid hi.grp, hi.grp]
    · simp [Group.mayIssue, Stream.join_loopAt, Stream.join_mark]
  · rw [← State.pending_eq hh]
    exact State.drainAll_pending hi.grp sl
  · rw [exec_ifence_eq hi, if_pos quiet]
  · rw [exec_ifence_eq hi, if_neg (by simp [busy])]

end Sys2Proof.Machine

/-! ## O37: control use of a poisoned register (R105, R395, R396) -/

namespace Sys2Proof.Machine

open Sys2Proof

/-! ### The loss of a context -/

/-- Neither the context of a number nor a group of it is left. -/
def State.Gone (s : State) (c : Nat) : Prop := (∀ x ∈ s.ctxs, x.num ≠ c) ∧ ∀ g ∈ s.groups, g.ctx ≠ c

section
variable {s t : State} {c : Nat}

theorem State.Gone.of_eq (h : s.Gone c) (ctxs : t.ctxs = s.ctxs) (groups : t.groups = s.groups) : t.Gone c := by
  simpa only [State.Gone, ctxs, groups] using h

theorem State.Gone.setGrp (h : s.Gone c) {k : Nat} {x y : Group} (hx : s.grp? k = some x) (same : y.ctx = x.ctx) :
    (s.setGrp y).Gone c := by
  refine ⟨h.1, fun g hg => ?_⟩
  obtain ⟨z, hz, rfl⟩ := List.mem_map.1 hg
  split
  · rw [same]
    exact h.2 x (State.grp?_mem hx)
  · exact h.2 z hz

theorem State.Gone.ctx? (h : s.Gone c) : s.ctx? c = none := by
  simpa [State.ctx?] using h.1

theorem State.Gone.groups (h : s.Gone c) : s.groups.all (fun g => g.ctx != c) = true := by
  simpa using h.2

/-! #### Performing what is pending (R251) -/

theorem State.cacheSector_ctxs (s : State) (a : Nat) (d : Bool) : (s.cacheSector a d).ctxs = s.ctxs := by
  simp [State.cacheSector]

theorem State.countStack_ctxs (s : State) (k src n : Nat) (o : Option Nat) : (s.countStack k src n o).ctxs = s.ctxs := by
  unfold State.countStack
  split
  · rfl
  · simp

theorem State.poisonVault_ctxs (s : State) (a : Nat) : (s.poisonVault a).ctxs = s.ctxs := by
  unfold State.poisonVault
  split
  · rfl
  · rw [State.countStack_ctxs]

theorem State.performRaw_ctxs (s : State) (l : MemLoc) (bs : List Byte) (p w : Bool) : (s.performRaw l bs p w).ctxs = s.ctxs := by
  have logged (n : Nat) : (s.logWrite l n).ctxs = s.ctxs := by rw [State.logWrite_only]
  have dirtied (as : List Nat) (u : State) : (as.foldl State.dirtySector u).ctxs = u.ctxs :=
    foldl_keeps (fun v => v.ctxs = u.ctxs) _ as (fun v a h => (State.cacheSector_ctxs v a true).trans h) rfl
  have poisoned (as : List Nat) (u : State) : (as.foldl State.poisonVault u).ctxs = u.ctxs :=
    foldl_keeps (fun v => v.ctxs = u.ctxs) _ as (fun v a h => (State.poisonVault_ctxs v a).trans h) rfl
  unfold State.performRaw
  by_cases none : bs.length = 0
  · simp [none]
  · cases l <;> cases p <;> simp [none, logged, dirtied, poisoned]

theorem State.performWrite_ctxs (s : State) (l : MemLoc) (bs : List Byte) (p w : Bool) : (s.performWrite l bs p w).ctxs = s.ctxs := by
  have raw := State.performRaw_ctxs s l bs p w
  unfold State.performWrite
  split
  · split
    · rfl
    · exact raw
  · exact raw

theorem State.Gone.performWrite (h : s.Gone c) (l : MemLoc) (bs : List Byte) (p w : Bool) : (s.performWrite l bs p w).Gone c :=
  h.of_eq (State.performWrite_ctxs s l bs p w) (State.performWrite_groups s l bs p w)

theorem State.Gone.performEntry (h : s.Gone c) (gid : Nat) (e : StoreEntry) : (s.performEntry gid e).Gone c := by
  unfold State.performEntry
  split
  · split
    · next g hg => exact h.setGrp hg (by rw [Group.spadWrite_only])
    · exact h
  · exact h.performWrite _ _ _ _

theorem State.Gone.dropEntry (h : s.Gone c) (gid : Nat) (sl : Slice) (q : Nat) : (s.dropEntry gid sl q).Gone c := by
  cases hg : s.grp? gid with
  | none => rwa [State.dropEntry_none hg]
  | some g =>
    rw [State.dropEntry_eq hg]
    exact h.setGrp hg (by simp)

theorem State.Gone.drainList (gid : Nat) (sl : Slice) (es : List StoreEntry) (h : s.Gone c) : (s.drainList gid sl es).Gone c := by
  induction es generalizing s with
  | nil => exact h
  | cons e es ih => exact ih ((h.performEntry gid e).dropEntry gid sl e.seq)

theorem State.Gone.drainSlice (h : s.Gone c) (gid : Nat) (sl : Slice) : (s.drainSlice gid sl).Gone c := by
  unfold State.drainSlice
  split
  · exact h.drainList gid sl _
  · exact h

theorem State.Gone.drainAll (h : s.Gone c) : s.drainAll.Gone c :=
  foldl_keeps (fun t => t.Gone c) _ _ (fun _ g k => (k.drainSlice g.gid .a).drainSlice g.gid .c) h

/-! #### The steps of a loss (R396, R397) -/

theorem State.Gone.pushEvent (h : s.Gone c) (ws : List Word) : (s.pushEvent ws).Gone c := by
  unfold State.pushEvent
  split
  · split
    · exact h
    · exact h.of_eq rfl rfl
  · exact h

theorem State.Gone.settleLost (h : s.Gone c) : s.settleLost.Gone c := by
  unfold State.settleLost
  split
  · exact h
  · exact foldl_keeps (fun t => t.Gone c) _ _ (fun _ r k => (k.performWrite _ _ _ _).pushEvent r.event) (h.drainAll.of_eq rfl rfl)

theorem State.Gone.retire (h : s.Gone c) (l : Option MemLoc) : (s.retire l).1.Gone c := by
  unfold State.retire
  split
  · exact h.of_eq rfl rfl
  · exact h

theorem State.endContext_gone (s : State) (c : Nat) : (s.endContext c).Gone c :=
  ⟨fun x hx => by simpa using (List.mem_filter.1 hx).2, fun g hg => by simpa using (List.mem_filter.1 hg).2⟩

/-- A lost context and its groups are gone. -/
theorem State.loseContext_gone {cx : Context} (h : s.ctx? c = some cx) (x : Loss) : (s.loseContext c x).Gone c := by
  unfold State.loseContext
  rw [h]
  exact State.Gone.settleLost (((State.endContext_gone s c).retire x.place).of_eq rfl rfl)

theorem State.loseControl_gone {gid : Nat} {g : Group} {cx : Context} (hg : s.grp? gid = some g) (h : s.ctx? g.ctx = some cx)
    (sl : Slice) : (s.loseControl gid sl).Gone g.ctx := by
  unfold State.loseControl
  rw [hg]
  exact State.loseContext_gone h _

end

/-! ### Addresses, conditions and values of control state -/

section
variable {s : State} {gid : Nat} {sl : Slice} {g : Group} (hi : Issuing s gid sl g) {a : Reg} (p : (g.stream sl).rp a = true)
include hi p

theorem plainLoad_poisoned (n : Nat) (sg : Bool) (d : Reg) (o : BitVec 13) : plainLoad n sg d a o s = .next (s.loseControl gid sl) := by
  simp [plainLoad, issue_eq hi, p]

theorem exec_ldAcq_poisoned (d : Reg) (z k : BitVec 2) (o : BitVec 12) :
    exec (.ldAcq d a z k o) s = .next (s.loseControl gid sl) := by
  change execLdAcq d a z k o s = _
  simp [execLdAcq, issue_eq hi, p]

theorem spadLoad_poisoned (i : Instr) (n : Nat) (sg : Bool) (d : Reg) (o : BitVec 13) :
    spadLoad i n sg d a o s = .next (s.loseControl gid sl) := by
  simp [spadLoad, issue_eq hi, p]

theorem plainStore_poisoned (n : Nat) (r : Reg) (o : BitVec 13) : plainStore n r a o s = .next (s.loseControl gid sl) := by
  simp [plainStore, issue_eq hi, p]

theorem spadStore_poisoned (i : Instr) (n : Nat) (r : Reg) (o : BitVec 13) : spadStore i n r a o s = .next (s.loseControl gid sl) := by
  simp [spadStore, issue_eq hi, p]

theorem amo_poisoned (op : Nat) (d b : Reg) (z r k : BitVec 2) : amo op d a b z r k s = .next (s.loseControl gid sl) := by
  simp [amo, issue_eq hi, p]

theorem exec_load_poisoned {i : Instr} {x : Reg × Word × Nat × Bool × Bool × Bool × Reg} (h : loadShape i = some x) (ha : x.1 = a) :
    exec i s = .next (s.loseControl gid sl) := by
  subst ha
  unfold loadShape at h
  split at h <;> cases h
  case h_8 => exact exec_ldAcq_poisoned hi p _ _ _ _
  all_goals exact plainLoad_poisoned hi p _ _ _ _

theorem exec_spadLoad_poisoned {i : Instr} {x : Reg × Word × Nat × Bool × Reg} (h : spadLoadShape i = some x) (ha : x.1 = a) :
    exec i s = .next (s.loseControl gid sl) := by
  subst ha
  unfold spadLoadShape at h
  split at h <;> cases h
  all_goals exact spadLoad_poisoned hi p _ _ _ _ _

theorem exec_store_poisoned {i : Instr} {x : Reg × Reg × Word × Nat} (h : storeShape i = some x) (ha : x.2.1 = a) :
    exec i s = .next (s.loseControl gid sl) := by
  subst ha
  unfold storeShape at h
  split at h <;> cases h
  all_goals exact plainStore_poisoned hi p _ _ _

theorem exec_spadStore_poisoned {i : Instr} {x : Reg × Reg × Word × Nat} (h : spadStoreShape i = some x) (ha : x.2.1 = a) :
    exec i s = .next (s.loseControl gid sl) := by
  subst ha
  unfold spadStoreShape at h
  split at h <;> cases h
  all_goals exact spadStore_poisoned hi p _ _ _ _

theorem exec_amo_poisoned {i : Instr} {x : Nat × Reg × Reg × Reg × BitVec 2 × BitVec 2 × BitVec 2} (h : amoShape i = some x)
    (ha : x.2.2.1 = a) : exec i s = .next (s.loseControl gid sl) := by
  subst ha
  unfold amoShape at h
  split at h <;> cases h
  all_goals exact amo_poisoned hi p _ _ _ _ _ _

theorem exec_stRel_poisoned (b : Reg) (z k : BitVec 2) (o : BitVec 12) : exec (.stRel b a z k o) s = .next (s.loseControl gid sl) := by
  change execStRel b a z k o s = _
  simp [execStRel, issue_eq hi, p]

theorem exec_jr_poisoned : exec (.jr a) s = .next (s.loseControl gid sl) := by
  change execJr a s = _
  simp [execJr, issue_eq hi, p]

theorem exec_wrcr_poisoned (n : BitVec 5) : exec (.wrcr a n) s = .next (s.loseControl gid sl) := by
  change execWrcr a n s = _
  simp [execWrcr, issue_eq hi, p]

theorem exec_slipset_poisoned : exec (.slipset a) s = .next (s.loseControl gid sl) := by
  change execSlipset a s = _
  simp [execSlipset, issue_eq hi, p]

theorem exec_spset_poisoned (isC : sl = .c) (k : BitVec 8) : exec (.spset a k) s = .next (s.loseControl gid sl) := by
  subst isC
  change execSpset a k s = _
  simp [execSpset, issue_eq hi, p]

theorem loadQueue_poisoned (isA : sl = .a) (i : Instr) (nf : Bool) {q : BitVec 2} (free : (g.q q.toNat).ents.length < 32) (z : BitVec 2)
    (o : BitVec 16) : loadQueue i nf q z a o s = .next (s.loseControl gid sl) := by
  subst isA
  have room : s.room g .a q.toNat = .ok s () := State.room_free (by rw [queueDepth, if_pos q.isLt]; exact free)
  simp [loadQueue, issue_eq hi, room, Got.finish, p]

theorem exec_prom_poisoned (k : BitVec 2) : exec (.prom a k) s = .next (s.loseControl gid sl) := by
  change execProm a k s = _
  simp [execProm, issue_eq hi, p]

theorem cacheControl_poisoned (k : BitVec 2) (drop : Bool) : cacheControl a k drop s = .next (s.loseControl gid sl) := by
  simp [cacheControl, issue_eq hi, p]

theorem exec_semSet_poisoned (k : BitVec 4) : exec (.semSet k a) s = .next (s.loseControl gid sl) := by
  change execSemSet k a s = _
  simp [execSemSet, issue_eq hi, p]

theorem exec_semCeil_poisoned (k : BitVec 4) : exec (.semCeil k a) s = .next (s.loseControl gid sl) := by
  change execSemCeil k a s = _
  simp [execSemCeil, issue_eq hi, p]

theorem exec_launch_poisoned (none : (g.stream sl).packet = none) : exec (.launch a) s = .next (s.loseControl gid sl) := by
  change execLaunch a s = _
  simp [execLaunch, issue_eq hi, none, p]

end

/-! ### Two and three operands, of which one is poisoned -/

section
variable {s : State} {gid : Nat} {sl : Slice} {g : Group} (hi : Issuing s gid sl g) {a b c : Reg}
include hi

theorem branch_poisoned (p : (g.stream sl).rp a = true ∨ (g.stream sl).rp b = true) {n : Nat} (t : BitVec n) (taken : Word → Word → Bool) :
    branch a b t taken s = .next (s.loseControl gid sl) := by
  simp [branch, issue_eq hi, p]

theorem exec_branch_poisoned {i : Instr} {x : Reg × Reg × (Word → Word → Bool) × (Word → Word)} (h : branchShape i = some x)
    (p : (g.stream sl).rp x.1 = true ∨ (g.stream sl).rp x.2.1 = true) : exec i s = .next (s.loseControl gid sl) := by
  unfold branchShape at h
  split at h <;> cases h
  case h_4 => exact branch_poisoned hi p _ (fun x y => !x.slt y)
  case h_6 => exact branch_poisoned hi p _ (fun x y => !x.ult y)
  all_goals exact branch_poisoned hi p _ _

theorem waitWord_poisoned (p : (g.stream sl).rp a = true ∨ (g.stream sl).rp b = true) (d : Reg) (z : BitVec 1) (eq : Bool) :
    waitWord d a b z eq s = .next (s.loseControl gid sl) := by
  simp [waitWord, issue_eq hi, p]

theorem tbarOp_poisoned (p : (g.stream sl).rp a = true ∨ (g.stream sl).rp b = true) (i : Instr) (max : Nat)
    (f : State → Nat → Slice → Nat → Nat → Tbar → Out) : tbarOp i a b max f s = .next (s.loseControl gid sl) := by
  simp [tbarOp, issue_eq hi, p]

theorem exec_tbarInit_poisoned (p : (g.stream sl).rp a = true ∨ (g.stream sl).rp b = true) :
    exec (.tbarInit a b) s = .next (s.loseControl gid sl) := by
  change execTbarInit a b s = _
  exact tbarOp_poisoned hi p _ _ _

theorem exec_tbarExp_poisoned (p : (g.stream sl).rp a = true ∨ (g.stream sl).rp b = true) :
    exec (.tbarExp a b) s = .next (s.loseControl gid sl) := by
  change execTbarExp a b s = _
  exact tbarOp_poisoned hi p _ _ _

theorem exec_tbarWait_poisoned (p : (g.stream sl).rp a = true ∨ (g.stream sl).rp b = true) :
    exec (.tbarWait a b) s = .next (s.loseControl gid sl) := by
  change execTbarWait a b s = _
  exact tbarOp_poisoned hi p _ _ _

theorem exec_nestSet_poisoned (p : (g.stream sl).rp a = true ∨ (g.stream sl).rp b = true ∨ (g.stream sl).rp c = true) (dim : BitVec 3)
    (nx : BitVec 2) : exec (.nestSet dim nx a b c) s = .next (s.loseControl gid sl) := by
  change execNestSet dim nx a b c s = _
  simp [execNestSet, issue_eq hi, p, or_assoc]

end

/-! ### Engine commands -/

/-- An E command's first word begins with its major (R49). -/
theorem Instr.major?_of_encE {i : Instr} {m : BitVec 6} {op : BitVec 7} {e : EWord} (h : encode i = encE m op e)
    (major : m = 0x30 ∨ m = 0x31 ∨ m = 0x32) : ∃ mj : Major, Instr.major? i = some mj := by
  have first := (Laws.encE_fields (m := m) (op := op) (e := e) rfl rfl).1
  unfold Instr.major?
  rw [h, encE]
  dsimp only
  rw [first]
  rcases major with rfl | rfl | rfl
  · exact ⟨.mx, rfl⟩
  · exact ⟨.vx, rfl⟩
  · exact ⟨.cx, rfl⟩

theorem Instr.major?_of_command {i : Instr} {e : EWord} (h : commandWord i = some e) : ∃ mj : Major, Instr.major? i = some mj := by
  unfold commandWord at h
  split at h <;> cases h
  all_goals exact Instr.major?_of_encE rfl (by decide)

theorem exec_command {i : Instr} {e : EWord} (h : commandWord i = some e) (s : State) : exec i s = issueCmd i e s := by
  unfold commandWord at h
  split at h <;> cases h
  all_goals rfl

theorem Major.queue_eq {i : Instr} {mj : Major} (h : Instr.major? i = some mj) (sl : Slice) : mj.queue sl = commandQueue i sl := by
  cases mj <;> cases sl <;> simp [Major.queue, commandQueue, h]

/-- Who may issue a command (R63). -/
theorem Major.mayIssue_of {i : Instr} {mj : Major} (h : Instr.major? i = some mj) {sl : Slice} {e : EWord}
    (may : sl = .c ∨ (commandQueue i sl = .cpl ∧ e.pred = 0)) : mj.mayIssue sl e = true := by
  cases sl with
  | c => cases mj <;> rfl
  | a => cases mj <;> simp_all [Major.mayIssue, commandQueue]

theorem exec_command_poisoned {s : State} {gid : Nat} {sl : Slice} {g : Group} (hi : Issuing s gid sl g) {i : Instr} {e : EWord} {a : Reg}
    (h : commandWord i = some e) (p : (g.stream sl).rp a = true) (uses : e.d = a ∨ e.a = a ∨ e.b = a ∨ e.c = a)
    (may : sl = .c ∨ (commandQueue i sl = .cpl ∧ e.pred = 0)) (free : ((g.stream sl).mark (markCode (commandQueue i sl))).full = false) :
    exec i s = .next (s.loseControl gid sl) := by
  obtain ⟨mj, hm⟩ := Instr.major?_of_command h
  have poison : ((g.stream sl).rp e.d || (g.stream sl).rp e.a || (g.stream sl).rp e.b || (g.stream sl).rp e.c) = true := by
    rcases uses with rfl | rfl | rfl | rfl <;> simp [p]
  rw [exec_command h, issueCmd, issue_eq hi, hm]
  simp only [Major.mayIssue_of hm may, Major.queue_eq hm, free, poison, Bool.not_true, Bool.false_eq_true, if_false, if_true]

/-! ### KV instructions -/

section
variable {s : State} {gid : Nat} {sl : Slice} {g : Group} (hi : Issuing s gid sl g) {a : Reg} (p : (g.stream sl).rp a = true)
  (begins : (g.stream sl).midway = false)
include hi p begins

theorem kvOp_poisoned {srcs : List Reg} (used : a ∈ srcs) (d : Option Reg)
    (f : State → Nat → Slice → Group → Stream → Context → Got Word) : kvOp srcs d f s = .next (s.loseControl gid sl) := by
  obtain ⟨⟨⟨-, kv⟩, asks⟩, -⟩ : (((g.stream sl).reqs = [] ∧ (g.stream sl).kv = none) ∧ (g.stream sl).asks = []) ∧
      (g.stream sl).past = false := by
    simpa [Stream.midway] using begins
  have poison : srcs.any (g.stream sl).rp = true := List.any_eq_true.2 ⟨a, used, p⟩
  rw [kvOp, issue_eq hi, if_neg (by simp [kv, asks]), if_pos poison]

theorem exec_firnSeal_poisoned (isC : sl = .c) {x y : Reg} (used : a ∈ [x, y]) :
    exec (.firnSeal x y) s = .next (s.loseControl gid sl) := by
  subst isC
  change execFirnSeal x y s = _
  rw [execFirnSeal, issue_eq hi, if_neg (by decide)]
  exact kvOp_poisoned hi p begins used _ _

/-- A KV instruction with a poisoned operand, where it is not midway (R325). -/
theorem exec_kv_poisoned (b c : Reg) {i : Instr}
    (h : i = .kvAlloc c a b ∨ i = .kvAlloc c b a ∨ i = .kvFree a ∨ i = .firnOpen c a ∨ i = .firnBind a ∨ i = .firnDrop a ∨
      i = .rsCkpt a b ∨ i = .rsCkpt b a ∨ (sl = .c ∧ (i = .firnSeal a b ∨ i = .firnSeal b a)) ∨ (∃ p, i = .seqClaim c a p) ∨
      (∃ p, i = .seqAdv a p) ∨ i = .seqRel a) : exec i s = .next (s.loseControl gid sl) := by
  have one := kvOp_poisoned hi p begins (srcs := [a]) (by simp)
  have first := kvOp_poisoned hi p begins (srcs := [a, b]) (by simp)
  have second := kvOp_poisoned hi p begins (srcs := [b, a]) (by simp)
  rcases h with rfl | rfl | rfl | rfl | rfl | rfl | rfl | rfl | ⟨isC, rfl | rfl⟩ | ⟨p, rfl⟩ | ⟨p, rfl⟩ | rfl
  · change execKvAlloc c a b s = _
    exact first _ _
  · change execKvAlloc c b a s = _
    exact second _ _
  · change execKvFree a s = _
    exact one _ _
  · change execFirnOpen c a s = _
    exact one _ _
  · change execFirnBind a s = _
    exact one _ _
  · change execFirnDrop a s = _
    exact one _ _
  · change execRsCkpt a b s = _
    exact first _ _
  · change execRsCkpt b a s = _
    exact second _ _
  · exact exec_firnSeal_poisoned hi p begins isC (by simp)
  · exact exec_firnSeal_poisoned hi p begins isC (by simp)
  · change execSeqClaim c a p s = _
    exact one _ _
  · change rowRelease (.seqAdv a p) a (fun _ => p.toNat) s = _
    exact one _ _
  · change rowRelease (.seqRel a) a SeqRow.phase s = _
    exact one _ _

end

/-! ### Values that `bqz` and `bqnz` pop -/

theorem branchQueue_poisoned {s : State} {gid : Nat} {g : Group} (hi : Issuing s gid .a g) {q : BitVec 1} {x n : Nat} {w : Word}
    {rest : List QEntry} (head : (g.q (4 + q.toNat)).ents = .poison x n w :: rest) (i : Instr) (d : Reg) (t : BitVec 16)
    (taken : Word → Bool) : branchQueue i q d t taken s = .next (s.loseControl gid .a) := by
  simp [branchQueue, issue_eq hi, State.headValue_poison head, Got.finish]

/-- Settles O37: each use's equation, the popped value and the count of a loop, and that a lost context is gone. -/
theorem controlPoison : Obligations.ControlPoison := by
  intro s gid sl g cx i a b c hi hc st
  refine ⟨fun p use => ?_, fun q t x n w rest isA head use => ?_, fun p k t s1 ws target before body inactive inside => ?_,
    (State.loseControl_gone hi.grp hc sl).ctx?, (State.loseControl_gone hi.grp hc sl).groups⟩
  case refine_1 =>
    rcases use with ⟨x, h, e⟩ | ⟨x, h, e⟩ | ⟨x, h, e⟩ | ⟨x, h, e⟩ | ⟨x, h, e⟩ | ⟨x, h, e⟩ | ⟨z, k, o, rfl⟩ | rfl | ⟨n, rfl⟩ | rfl |
      ⟨isC, k, rfl⟩ | ⟨isA, q, z, o, free, lq⟩ | ⟨k, rfl⟩ | ⟨k, rfl⟩ | ⟨k, rfl⟩ | ⟨k, z, wait⟩ | ⟨k, rfl⟩ | ⟨k, rfl⟩ | rfl | rfl | rfl |
      rfl | rfl | rfl | ⟨dim, nx, nest⟩ | ⟨e, h, uses, may, free⟩ | ⟨none, rfl⟩ | ⟨begins, kv⟩
    · exact exec_load_poisoned hi p h e
    · exact exec_spadLoad_poisoned hi p h e
    · exact exec_store_poisoned hi p h e
    · exact exec_spadStore_poisoned hi p h e
    · exact exec_amo_poisoned hi p h e
    · exact exec_branch_poisoned hi h (e.imp (fun same => by rw [same, p]) (fun same => by rw [same, p]))
    · exact exec_stRel_poisoned hi p b z k o
    · exact exec_jr_poisoned hi p
    · exact exec_wrcr_poisoned hi p n
    · exact exec_slipset_poisoned hi p
    · exact exec_spset_poisoned hi p isC k
    · rcases lq with rfl | rfl
      · exact loadQueue_poisoned hi p isA _ false free z o
      · exact loadQueue_poisoned hi p isA _ true free z o
    · exact exec_prom_poisoned hi p k
    · exact cacheControl_poisoned hi p k false
    · exact cacheControl_poisoned hi p k true
    · rcases wait with rfl | rfl | rfl | rfl
      · exact waitWord_poisoned hi (.inl p) b z true
      · exact waitWord_poisoned hi (.inr p) b z true
      · exact waitWord_poisoned hi (.inl p) b z false
      · exact waitWord_poisoned hi (.inr p) b z false
    · exact exec_semSet_poisoned hi p k
    · exact exec_semCeil_poisoned hi p k
    · exact exec_tbarInit_poisoned hi (.inl p)
    · exact exec_tbarInit_poisoned hi (.inr p)
    · exact exec_tbarExp_poisoned hi (.inl p)
    · exact exec_tbarExp_poisoned hi (.inr p)
    · exact exec_tbarWait_poisoned hi (.inl p)
    · exact exec_tbarWait_poisoned hi (.inr p)
    · rcases nest with rfl | rfl | rfl
      · exact exec_nestSet_poisoned hi (.inl p) dim nx
      · exact exec_nestSet_poisoned hi (.inr (.inl p)) dim nx
      · exact exec_nestSet_poisoned hi (.inr (.inr p)) dim nx
    · exact exec_command_poisoned hi h p uses may free
    · exact exec_launch_poisoned hi p none
    · exact exec_kv_poisoned hi p begins b c kv
  case refine_2 =>
    subst isA
    rcases use with rfl | rfl
    · change execBqz q b t s = _
      exact branchQueue_poisoned hi head _ b t _
    · change execBqnz q b t s = _
      exact branchQueue_poisoned hi head _ b t _
  case refine_3 =>
    have good := Stream.not_refusesLoop before body inactive inside
    rw [exec_loop_eq hi, p]
    exact State.startLoop_poisoned hi.grp target good _

end Sys2Proof.Machine

/-! ## O9 to O11: scalar arithmetic (R134 to R136) -/

namespace Sys2Proof.Machine

open Sys2Proof

/-! ### The words of majors 0x01 and 0x02 (R134, R136) -/

theorem word_eq_ofNat {w : BitVec 32} {n : Nat} (h : w.toNat = n) : [w] = [BitVec.ofNat 32 n] := by
  rw [← h, BitVec.ofNat_toNat, BitVec.setWidth_eq]

theorem word_alu (d a b : Reg) (func : BitVec 11) : [0x1#6 ++ d ++ a ++ b ++ func] =
    [BitVec.ofNat 32 (0x04000000 + d.toNat * 2 ^ 21 + a.toNat * 2 ^ 16 + b.toNat * 2 ^ 11 + func.toNat)] := by
  apply word_eq_ofNat
  simp only [Laws.toNat_append_eq, BitVec.toNat_ofNat]
  omega

theorem word_aluk (d a : Reg) (op : BitVec 4) (i : BitVec 12) : [0x2#6 ++ d ++ a ++ op ++ i] =
    [BitVec.ofNat 32 (0x08000000 + d.toNat * 2 ^ 21 + a.toNat * 2 ^ 16 + op.toNat * 2 ^ 12 + i.toNat)] := by
  apply word_eq_ofNat
  simp only [Laws.toNat_append_eq, BitVec.toNat_ofNat]
  omega

/-- The shifts by an immediate keep bits [11:6] of their word zero. -/
theorem word_aluShift (d a : Reg) (op : BitVec 4) (k : BitVec 6) : [0x2#6 ++ d ++ a ++ op ++ 0x0#6 ++ k] =
    [BitVec.ofNat 32 (0x08000000 + d.toNat * 2 ^ 21 + a.toNat * 2 ^ 16 + op.toNat * 2 ^ 12 + k.toNat)] := by
  apply word_eq_ofNat
  simp only [Laws.toNat_append_eq, BitVec.toNat_ofNat]
  omega

/-! ### Reserved words -/

theorem decodeWords_error {w1 w2 : BitVec 32} {r : Reject} (h : candidate w1 w2 = .error r) : decodeWords w1 w2 = .error r := by
  simp only [decodeWords, h]

theorem toNat_major {w : BitVec 32} {m : Nat} (major : w.toNat / 2 ^ 26 = m) : (fld w 26 6).toNat = m := by
  rw [toNat_fld]
  omega

theorem candidate_alu {w1 w2 : BitVec 32} (major : w1.toNat / 2 ^ 26 = 1) : candidate w1 w2 = decAlu w1 := by
  simp only [candidate, toNat_major major]

theorem candidate_aluk {w1 w2 : BitVec 32} (major : w1.toNat / 2 ^ 26 = 2) : candidate w1 w2 = decAluk w1 := by
  simp only [candidate, toNat_major major]

theorem decAlu_reserved {w : BitVec 32} (h : 24 ≤ (fld w 0 11).toNat) : decAlu w = .error .reservedFunction := by
  obtain ⟨n, hn⟩ := Nat.exists_eq_add_of_le' h
  simp only [decAlu, hn]

theorem decAluk_reserved {w : BitVec 32} (h : 11 ≤ (fld w 12 4).toNat) : decAluk w = .error .reservedFunction := by
  obtain ⟨n, hn⟩ := Nat.exists_eq_add_of_le' h
  simp only [decAluk, hn]

theorem mbz_error_of_field {w m : BitVec 32} {lo n : Nat} (i : Instr) (hm : fld m lo n = BitVec.allOnes n)
    (h : w.toNat / 2 ^ lo % 2 ^ n ≠ 0) : ∃ r : Reject, mbz w m i = .error r := by
  cases e : mbz w m i with
  | error r => exact ⟨r, rfl⟩
  | ok x => exact absurd (field_eq_zero_of_mask (mbz_eq_ok e).1 hm) h

theorem decAluk_shift_reserved {w : BitVec 32} (low : 6 ≤ (fld w 12 4).toNat) (high : (fld w 12 4).toNat ≤ 8)
    (h : w.toNat / 2 ^ 6 % 2 ^ 6 ≠ 0) : ∃ r : Reject, decAluk w = .error r := by
  have mask : fld 0x00000fc0#32 6 6 = BitVec.allOnes 6 := by decide
  obtain op | op | op : (fld w 12 4).toNat = 6 ∨ (fld w 12 4).toNat = 7 ∨ (fld w 12 4).toNat = 8 := by omega
  all_goals
    simp only [decAluk, op]
    exact mbz_error_of_field _ mask h

/-! ### What the instructions do -/

section
variable {s : State} {gid : Nat} {sl : Slice} {g : Group} (hi : Issuing s gid sl g) (d a b : Reg)
include hi

theorem alu_wrote {f : Word → Word → Word} {v : Word} (value : f ((g.stream sl).rd a) ((g.stream sl).rd b) = v) :
    alu d a b f s = wrote s gid sl d v ((g.stream sl).rp a || (g.stream sl).rp b) := by
  rw [alu, issueReg_eq hi, value]

theorem aluk_wrote {i : Word} {f : Word → Word → Word} {v : Word} (value : f ((g.stream sl).rd a) i = v) :
    aluk d a i f s = wrote s gid sl d v ((g.stream sl).rp a) := by
  rw [aluk, issueReg_eq hi, value]

theorem alu1_wrote {f : Word → Word} {v : Word} (value : f ((g.stream sl).rd a) = v) :
    alu1 d a f s = wrote s gid sl d v ((g.stream sl).rp a) := by
  rw [alu1, issueReg_eq hi, value]

end

/-! ### Word operations as arithmetic modulo 2^64 (R134) -/

section
variable (x y : Word) (n : Nat)

theorem add_eq_ofInt : x + y = BitVec.ofInt 64 (x.toInt + y.toInt) := by
  rw [BitVec.ofInt_add, BitVec.ofInt_toInt, BitVec.ofInt_toInt]

theorem sub_eq_ofInt : x - y = BitVec.ofInt 64 (x.toInt - y.toInt) := by
  rw [Int.sub_eq_add_neg, BitVec.ofInt_add, BitVec.ofInt_neg, BitVec.ofInt_toInt, BitVec.ofInt_toInt, BitVec.sub_eq_add_neg]

theorem mul_eq_ofNat : x * y = BitVec.ofNat 64 (x.toNat * y.toNat) := by
  apply BitVec.eq_of_toNat_eq
  rw [BitVec.toNat_mul, BitVec.toNat_ofNat]

theorem shiftLeft_eq_ofNat : x <<< n = BitVec.ofNat 64 (x.toNat * 2 ^ n) := by
  apply BitVec.eq_of_toNat_eq
  rw [BitVec.toNat_shiftLeft, BitVec.toNat_ofNat, Nat.shiftLeft_eq]

theorem ushiftRight_eq_ofNat : x >>> n = BitVec.ofNat 64 (x.toNat / 2 ^ n) := by
  rw [← Nat.shiftRight_eq_div_pow, ← BitVec.toNat_ushiftRight, BitVec.ofNat_toNat, BitVec.setWidth_eq]

theorem sshiftRight_eq_ofInt : x.sshiftRight n = BitVec.ofInt 64 (x.toInt / 2 ^ n) := by
  rw [BitVec.sshiftRight, Int.shiftRight_eq_div_pow, Nat.cast_pow, Nat.cast_ofNat]

theorem boolWord_slt : boolWord (x.slt y) = if x.toInt < y.toInt then 1 else 0 := by
  simp only [boolWord, BitVec.slt_iff_toInt_lt]

theorem boolWord_ult : boolWord (x.ult y) = if x.toNat < y.toNat then 1 else 0 := by
  simp only [boolWord, BitVec.ult_iff_toNat_lt]

theorem ite_sle (u v : Word) : (if x.sle y then u else v) = if x.toInt ≤ y.toInt then u else v := by
  simp only [BitVec.sle_iff_toInt_le]

theorem ite_ule (u v : Word) : (if x.ule y then u else v) = if x.toNat ≤ y.toNat then u else v := by
  simp only [BitVec.ule_iff_toNat_le]

end

theorem execSel_eq {s : State} {gid : Nat} {sl : Slice} {g : Group} (hi : Issuing s gid sl g) (d a b : Reg) : execSel d a b s =
    wrote s gid sl d (if (g.stream sl).rd d ≠ 0 then (g.stream sl).rd a else (g.stream sl).rd b)
      ((g.stream sl).rp a || (g.stream sl).rp b || (g.stream sl).rp d) := by
  rw [execSel, issueReg_eq hi, ite_not]

/-- Settles O9: the words by their fields, the function values above 23, and each result by its law of words. -/
theorem aluResults : Obligations.AluResults := by
  refine ⟨fun d a b => ?words, fun w1 w2 major high => ?reserved, fun s gid sl g d a b hi => ?results⟩
  case words =>
    exact ⟨word_alu d a b 0, word_alu d a b 1, word_alu d a b 2, word_alu d a b 3, word_alu d a b 4, word_alu d a b 5,
      word_alu d a b 6, word_alu d a b 7, word_alu d a b 8, word_alu d a b 9, word_alu d a b 10, word_alu d a b 11,
      word_alu d a b 12, word_alu d a b 13, word_alu d a b 14, word_alu d a b 15, word_alu d a b 16, word_alu d a b 17,
      word_alu d a b 18, word_alu d a b 19, word_alu d a b 20, word_alu d a b 21, word_alu d a b 22, word_alu d a b 23⟩
  case reserved =>
    have func : 24 ≤ (fld w1 0 11).toNat := by
      rw [toNat_fld]
      omega
    exact ⟨_, decodeWords_error ((candidate_alu major).trans (decAlu_reserved func))⟩
  case results =>
    intro x y p
    change execAdd d a b s = _ ∧ execSub d a b s = _ ∧ execMul d a b s = _ ∧ execMulh d a b s = _ ∧ execMulhn d a b s = _ ∧
      execAnd d a b s = _ ∧ execOr d a b s = _ ∧ execXor d a b s = _ ∧ execAndn d a b s = _ ∧ execOrn d a b s = _ ∧
      execSll d a b s = _ ∧ execSrl d a b s = _ ∧ execSra d a b s = _ ∧ execSlt d a b s = _ ∧ execSltn d a b s = _ ∧
      execMin d a b s = _ ∧ execMax d a b s = _ ∧ execMinn d a b s = _ ∧ execMaxn d a b s = _ ∧ execSel d a b s = _
    exact ⟨alu_wrote hi d a b (add_eq_ofInt x y), alu_wrote hi d a b (sub_eq_ofInt x y), alu_wrote hi d a b (mul_eq_ofNat x y),
      alu_wrote hi d a b rfl, alu_wrote hi d a b rfl, alu_wrote hi d a b rfl, alu_wrote hi d a b rfl, alu_wrote hi d a b rfl,
      alu_wrote hi d a b rfl, alu_wrote hi d a b rfl, alu_wrote hi d a b (shiftLeft_eq_ofNat x _),
      alu_wrote hi d a b (ushiftRight_eq_ofNat x _), alu_wrote hi d a b (sshiftRight_eq_ofInt x _),
      alu_wrote hi d a b (boolWord_slt x y), alu_wrote hi d a b (boolWord_ult x y), alu_wrote hi d a b (ite_sle x y x y),
      alu_wrote hi d a b (ite_sle y x x y), alu_wrote hi d a b (ite_ule x y x y), alu_wrote hi d a b (ite_ule y x x y),
      execSel_eq hi d a b⟩

/-! ### Immediates (R57, R136) -/

theorem toInt_immediate (i : BitVec 12) : (i.signExtend 64).toInt = i.toInt := BitVec.toInt_signExtend_of_le (by decide)

theorem add_immediate (x : Word) (i : BitVec 12) : x + i.signExtend 64 = BitVec.ofInt 64 (x.toInt + i.toInt) := by
  rw [add_eq_ofInt, toInt_immediate]

theorem boolWord_slt_immediate (x : Word) (i : BitVec 12) :
    boolWord (x.slt (i.signExtend 64)) = if x.toInt < i.toInt then 1 else 0 := by
  rw [boolWord_slt, toInt_immediate]

theorem ite_sle_immediate (x u v : Word) (i : BitVec 12) :
    (if x.sle (i.signExtend 64) then u else v) = if x.toInt ≤ i.toInt then u else v := by
  rw [ite_sle, toInt_immediate]

theorem ite_immediate_sle (x u v : Word) (i : BitVec 12) :
    (if (i.signExtend 64).sle x then u else v) = if i.toInt ≤ x.toInt then u else v := by
  rw [ite_sle, toInt_immediate]

/-- Settles O11: the words by their fields, the reserved op4 values and shift bits, and each result by its law of words. -/
theorem immediateResults : Obligations.ImmediateResults := by
  refine ⟨fun d a i k => ?words, fun w1 w2 major high => ?reserved, fun w1 w2 major low high bits => ?reservedBits,
    fun s gid sl g d a i k hi => ?results⟩
  case words =>
    exact ⟨word_aluk d a 0 i, word_aluk d a 1 i, word_aluk d a 2 i, word_aluk d a 3 i, word_aluk d a 4 i, word_aluk d a 5 i,
      word_aluShift d a 6 k, word_aluShift d a 7 k, word_aluShift d a 8 k, word_aluk d a 9 i, word_aluk d a 10 i⟩
  case reserved =>
    have op : 11 ≤ (fld w1 12 4).toNat := by rwa [toNat_fld]
    exact ⟨_, decodeWords_error ((candidate_aluk major).trans (decAluk_reserved op))⟩
  case reservedBits =>
    rw [← toNat_fld] at low high
    obtain ⟨r, hr⟩ := decAluk_shift_reserved low high bits
    exact ⟨r, decodeWords_error ((candidate_aluk major).trans hr)⟩
  case results =>
    intro x p
    change execAddi d a i s = _ ∧ execAndi d a i s = _ ∧ execOri d a i s = _ ∧ execXori d a i s = _ ∧ execSlti d a i s = _ ∧
      execSltni d a i s = _ ∧ execSlli d a k s = _ ∧ execSrli d a k s = _ ∧ execSrai d a k s = _ ∧ execMini d a i s = _ ∧
      execMaxi d a i s = _
    exact ⟨aluk_wrote hi d a (add_immediate x i), aluk_wrote hi d a (congrArg (x &&& ·) (BitVec.ofNat_toNat 64 i).symm),
      aluk_wrote hi d a (congrArg (x ||| ·) (BitVec.ofNat_toNat 64 i).symm),
      aluk_wrote hi d a (congrArg (x ^^^ ·) (BitVec.ofNat_toNat 64 i).symm),
      aluk_wrote hi d a (boolWord_slt_immediate x i), aluk_wrote hi d a (boolWord_ult x _), alu1_wrote hi d a (shiftLeft_eq_ofNat x _),
      alu1_wrote hi d a (ushiftRight_eq_ofNat x _), alu1_wrote hi d a (sshiftRight_eq_ofInt x _),
      aluk_wrote hi d a (ite_sle_immediate x x _ i), aluk_wrote hi d a (ite_immediate_sle x x _ i)⟩

/-! ### Division (R135) -/

section
variable (x y : Word)

theorem eq_zero_iff_toInt : y = 0 ↔ y.toInt = 0 := by
  rw [← BitVec.toInt_inj]
  rfl

theorem eq_zero_iff_toNat : y = 0 ↔ y.toNat = 0 := by
  rw [← BitVec.toNat_inj]
  rfl

/-- The quotient -2^63 / -1 is the one that does not fit. -/
theorem overflows_iff : (x = BitVec.intMin 64 && y = BitVec.allOnes 64) = true ↔ x.toInt = -2 ^ 63 ∧ y.toInt = -1 := by
  rw [Bool.and_eq_true, decide_eq_true_iff, decide_eq_true_iff, ← BitVec.toInt_inj, ← BitVec.toInt_inj]
  rfl

theorem sdivQ_eq : sdivQ x y = if y.toInt = 0 then BitVec.ofInt 64 (-1)
    else if x.toInt = -2 ^ 63 ∧ y.toInt = -1 then BitVec.ofInt 64 (-2 ^ 63) else BitVec.ofInt 64 (x.toInt.tdiv y.toInt) := by
  simp only [sdivQ, overflows_iff, eq_zero_iff_toInt]
  rfl

theorem sdivR_eq : sdivR x y = if y.toInt = 0 then x
    else if x.toInt = -2 ^ 63 ∧ y.toInt = -1 then 0 else BitVec.ofInt 64 (x.toInt - y.toInt * x.toInt.tdiv y.toInt) := by
  simp only [sdivR, overflows_iff, eq_zero_iff_toInt, Int.tmod_def]

theorem udivQ_eq : (if y = 0 then BitVec.allOnes 64 else x / y) =
    if y.toNat = 0 then BitVec.ofNat 64 (2 ^ 64 - 1) else BitVec.ofNat 64 (x.toNat / y.toNat) := by
  simp only [eq_zero_iff_toNat]
  rw [← BitVec.toNat_udiv, BitVec.ofNat_toNat, BitVec.setWidth_eq]
  rfl

theorem udivR_eq : (if y = 0 then x else x % y) = if y.toNat = 0 then x else BitVec.ofNat 64 (x.toNat % y.toNat) := by
  simp only [eq_zero_iff_toNat]
  rw [← BitVec.toNat_umod, BitVec.ofNat_toNat, BitVec.setWidth_eq]

variable {y}

theorem sdivQ_mul_add_sdivR (h : y ≠ 0) : sdivQ x y * y + sdivR x y = x := by
  rw [sdivQ, sdivR, if_neg h, if_neg h]
  by_cases overflow : (x = BitVec.intMin 64 && y = BitVec.allOnes 64) = true
  · rw [if_pos overflow, if_pos overflow]
    rw [Bool.and_eq_true, decide_eq_true_iff, decide_eq_true_iff] at overflow
    obtain ⟨rfl, rfl⟩ := overflow
    rfl
  · rw [if_neg overflow, if_neg overflow]
    calc BitVec.ofInt 64 (x.toInt.tdiv y.toInt) * y + BitVec.ofInt 64 (x.toInt.tmod y.toInt)
        = BitVec.ofInt 64 (x.toInt.tdiv y.toInt * y.toInt + x.toInt.tmod y.toInt) := by
          rw [BitVec.ofInt_add, BitVec.ofInt_mul, BitVec.ofInt_toInt]
      _ = x := by rw [Int.tdiv_mul_add_tmod, BitVec.ofInt_toInt]

theorem udiv_mul_add_umod : x / y * y + x % y = x := by
  apply BitVec.eq_of_toNat_eq
  rw [BitVec.toNat_add, BitVec.toNat_mul, BitVec.toNat_udiv, BitVec.toNat_umod, Nat.mod_add_mod, Nat.div_add_mod',
    Nat.mod_eq_of_lt x.isLt]

end

/-- Settles O10: each result by its case of R135, the identities by division of integers and of naturals. -/
theorem divisionResults : Obligations.DivisionResults := by
  intro s gid sl g d a b hi x y p q r qn rn
  have hq : sdivQ x y = q := sdivQ_eq x y
  have hr : sdivR x y = r := sdivR_eq x y
  have hqn : (if y = 0 then BitVec.allOnes 64 else x / y) = qn := udivQ_eq x y
  have hrn : (if y = 0 then x else x % y) = rn := udivR_eq x y
  change execDiv d a b s = _ ∧ execRem d a b s = _ ∧ execDivn d a b s = _ ∧ execRemn d a b s = _ ∧ _
  refine ⟨alu_wrote hi d a b hq, alu_wrote hi d a b hr, alu_wrote hi d a b hqn, alu_wrote hi d a b hrn, fun h => ⟨?_, ?_⟩⟩
  · rw [← hq, ← hr, sdivQ_mul_add_sdivR x h]
  · rw [← hqn, ← hrn, if_neg h, if_neg h, udiv_mul_add_umod]

end Sys2Proof.Machine

/-! ## O12 and O13: constants, bit fields and the funnel shift (R137 to R142) -/

namespace Sys2Proof.Machine

open Sys2Proof

/-! ### The words of majors 0x03 to 0x06 (R137 to R146) -/

theorem encode_li16 (d : Reg) (i : BitVec 16) : encode (.li16 d i) = [BitVec.ofNat 32 (0x0C000000 + d.toNat * 2 ^ 21 + i.toNat)] := by
  change [0x3#6 ++ d ++ 0x0#5 ++ i] = _
  apply word_eq_ofNat
  simp only [Laws.toNat_append_eq, BitVec.toNat_ofNat]
  omega

theorem encode_ins16 (d : Reg) (h : BitVec 2) (i : BitVec 16) :
    encode (.ins16 d h i) = [BitVec.ofNat 32 (0x10000000 + d.toNat * 2 ^ 21 + h.toNat * 2 ^ 19 + i.toNat)] := by
  change [0x4#6 ++ d ++ h ++ 0x0#3 ++ i] = _
  apply word_eq_ofNat
  simp only [Laws.toNat_append_eq, BitVec.toNat_ofNat]
  omega

theorem word_bit (d a : Reg) (o : BitVec 6) (w : BitVec 7) (op : BitVec 3) : [0x5#6 ++ d ++ a ++ o ++ w ++ op] =
    [BitVec.ofNat 32 (0x14000000 + d.toNat * 2 ^ 21 + a.toNat * 2 ^ 16 + o.toNat * 2 ^ 10 + w.toNat * 2 ^ 3 + op.toNat)] := by
  apply word_eq_ofNat
  simp only [Laws.toNat_append_eq, BitVec.toNat_ofNat]
  omega

/-- The words of major 0x06 with three registers and X. -/
theorem word_bitr (d a b : Reg) (x : BitVec 6) (func : BitVec 5) : [0x6#6 ++ d ++ a ++ b ++ x ++ func] =
    [BitVec.ofNat 32 (0x18000000 + d.toNat * 2 ^ 21 + a.toNat * 2 ^ 16 + b.toNat * 2 ^ 11 + x.toNat * 2 ^ 5 + func.toNat)] := by
  apply word_eq_ofNat
  simp only [Laws.toNat_append_eq, BitVec.toNat_ofNat]
  omega

theorem encode_fsh (d a b : Reg) (h : BitVec 6) : encode (.fsh d a b h) =
    [BitVec.ofNat 32 (0x18000003 + d.toNat * 2 ^ 21 + a.toNat * 2 ^ 16 + b.toNat * 2 ^ 11 + h.toNat * 2 ^ 5)] := by
  refine (word_bitr d a b h 3#5).trans (congrArg (fun n => [BitVec.ofNat 32 n]) ?_)
  simp only [BitVec.toNat_ofNat]
  omega

theorem candidate_bit {w1 w2 : BitVec 32} (major : w1.toNat / 2 ^ 26 = 5) : candidate w1 w2 = decBit w1 := by
  simp only [candidate, toNat_major major]

theorem decBit_reserved {w : BitVec 32} (h : 3 ≤ (fld w 0 3).toNat) : decBit w = .error .reservedFunction := by
  obtain ⟨n, hn⟩ := Nat.exists_eq_add_of_le' h
  simp only [decBit, hn]

/-! ### The helpers of R139, bit by bit -/

section
variable (x old : Word) (off wid : Nat) {k : Nat}

theorem fieldExt_inside (inside : off < 64 ∧ 0 < wid) :
    fieldExt x off wid = (x.toNat / 2 ^ off % 2 ^ min wid 64, min wid 64) := by
  rw [fieldExt, if_neg]
  simp only [Bool.or_eq_true, decide_eq_true_eq]
  omega

theorem fieldExt_outside (outside : ¬(off < 64 ∧ 0 < wid)) : fieldExt x off wid = (0, 0) := by
  rw [fieldExt, if_pos]
  simp only [Bool.or_eq_true, decide_eq_true_eq]
  omega

/-- Bit `k` of a field is bit `off + k` of its word. -/
theorem testBit_field (k n : Nat) : (x.toNat / 2 ^ off % 2 ^ n).testBit k = (decide (k < n) && x.getLsbD (off + k)) := by
  rw [Nat.testBit_mod_two_pow, Nat.testBit_div_two_pow, Nat.add_comm k off, BitVec.testBit_toNat]

theorem fieldZero_bit (hk : k < 64) : (fieldZero x off wid).getLsbD k = (decide (off < 64 ∧ k < wid) && x.getLsbD (off + k)) := by
  by_cases inside : off < 64 ∧ 0 < wid
  · rw [fieldZero, fieldExt_inside x off wid inside, BitVec.getLsbD_ofNat, testBit_field]
    simp [hk, inside.1]
  · have outside : ¬(off < 64 ∧ k < wid) := by omega
    rw [fieldZero, fieldExt_outside x off wid inside]
    simp [outside]

/-- `sign_field` of R139 is the sign extension of a number of `w` bits. -/
theorem signField_eq_signExtend {f w : Nat} (pos : 0 < w) (high : w ≤ 64) (hf : f < 2 ^ w) :
    signField f w = (BitVec.ofNat w f).signExtend 64 := by
  have value : (BitVec.ofNat w f).toInt = if 2 * f < 2 ^ w then (f : Int) else (f : Int) - (2 ^ w : Nat) := by
    rw [BitVec.toInt_eq_toNat_cond, BitVec.toNat_ofNat, Nat.mod_eq_of_lt hf]
  have half : 2 ^ w = 2 * 2 ^ (w - 1) := by
    rw [← Nat.pow_add_one', Nat.sub_add_cancel pos]
  rw [signField, if_neg (by omega)]
  by_cases full : 64 ≤ w
  · obtain rfl : w = 64 := by omega
    rw [if_pos full, BitVec.signExtend_eq]
  · rw [if_neg full, BitVec.signExtend, value]
    by_cases low : f < 2 ^ (w - 1)
    · rw [if_pos low, if_pos (by omega), BitVec.ofInt_natCast]
    · rw [if_neg low, if_neg (by omega), Nat.cast_pow, Nat.cast_ofNat]

theorem signField_bit {f w : Nat} (pos : 0 < w) (high : w ≤ 64) (hf : f < 2 ^ w) (hk : k < 64) :
    (signField f w).getLsbD k = f.testBit (min k (w - 1)) := by
  rw [signField_eq_signExtend pos high hf, BitVec.getLsbD_signExtend, BitVec.msb_eq_getLsbD_last,
    BitVec.getLsbD_ofNat, BitVec.getLsbD_ofNat]
  by_cases low : k < w
  · simp [hk, low, Nat.le_sub_one_of_lt low]
  · simp [hk, low, pos, Nat.min_eq_right (Nat.le_trans (Nat.sub_le w 1) (Nat.le_of_not_lt low))]

theorem fieldSign_bit (hk : k < 64) : (fieldSign x off wid).getLsbD k =
    (decide (off < 64 ∧ 0 < wid) && x.getLsbD (off + min k (min wid 64 - 1))) := by
  by_cases inside : off < 64 ∧ 0 < wid
  · have pos : 0 < min wid 64 := by omega
    have last : min k (min wid 64 - 1) < min wid 64 := by omega
    rw [fieldSign, fieldExt_inside x off wid inside, signField_bit pos (Nat.min_le_right _ _) (Nat.mod_lt _ (Nat.two_pow_pos _)) hk,
      testBit_field]
    simp [inside, last]
  · rw [fieldSign, fieldExt_outside x off wid inside]
    simp [inside, signField]

/-- The mask of R139's `field_ins`. -/
theorem fieldMask_bit (n : Nat) (hk : k < 64) :
    (BitVec.ofNat 64 ((2 ^ n - 1) * 2 ^ off)).getLsbD k = decide (off ≤ k ∧ k < off + n) := by
  rw [BitVec.getLsbD_ofNat, Nat.testBit_mul_two_pow, Nat.testBit_two_pow_sub_one]
  by_cases low : off ≤ k
  · have : k - off < n ↔ k < off + n := by omega
    simp [hk, low, this]
  · simp [low]

theorem fieldIns_bit (hk : k < 64) :
    (fieldIns old x off wid).getLsbD k = if off ≤ k ∧ k < off + wid then x.getLsbD (k - off) else old.getLsbD k := by
  unfold fieldIns
  split
  · next outside =>
    simp only [Bool.or_eq_true, decide_eq_true_eq] at outside
    rw [if_neg (by omega)]
  · next inside =>
    simp only [Bool.or_eq_true, decide_eq_true_eq] at inside
    have place : (off ≤ k ∧ k < off + min wid (64 - off)) ↔ off ≤ k ∧ k < off + wid := by omega
    simp only [BitVec.getLsbD_or, BitVec.getLsbD_and, BitVec.getLsbD_not, BitVec.getLsbD_shiftLeft, fieldMask_bit off _ hk, place]
    by_cases h : off ≤ k ∧ k < off + wid
    · simp [h, hk]
    · simp [h, hk]

theorem fieldBits_helpers : fieldBits x old (fieldZero x off wid) (fieldSign x off wid) (fieldIns old x off wid) off wid :=
  fun _ hk => ⟨fieldZero_bit x off wid hk, fieldSign_bit x off wid hk, fieldIns_bit x old off wid hk⟩

end

/-! ### What the instructions do -/

/-- The offset and the width that the register forms take from g[gb] (R141). -/
theorem fieldPlace (y : Word) : wbits y 7 0 = y.toNat % 256 ∧ wbits y 15 8 = y.toNat / 256 % 256 := by
  simp [wbits, natBits]

section
variable {s : State} {gid : Nat} {sl : Slice} {g : Group} (hi : Issuing s gid sl g)
include hi

theorem exec_li16_eq (d : Reg) (i : BitVec 16) : exec (.li16 d i) s = wrote s gid sl d (BitVec.ofInt 64 i.toInt) false := by
  change execLi16 d i s = _
  rw [execLi16, issueReg_eq hi, BitVec.signExtend]

theorem exec_ins16_eq (d : Reg) (h : BitVec 2) (i : BitVec 16) : exec (.ins16 d h i) s =
    wrote s gid sl d (fieldIns ((g.stream sl).rd d) (i.setWidth 64) (16 * h.toNat) 16) ((g.stream sl).rp d) := by
  change execIns16 d h i s = _
  rw [execIns16, issueReg_eq hi]

theorem exec_bext_eq (d a : Reg) (o : BitVec 6) (w : BitVec 7) : exec (.bext d a o w) s =
    wrote s gid sl d (fieldZero ((g.stream sl).rd a) o.toNat w.toNat) ((g.stream sl).rp a) := by
  change execBext d a o w s = _
  exact alu1_wrote hi d a rfl

theorem exec_bexts_eq (d a : Reg) (o : BitVec 6) (w : BitVec 7) : exec (.bexts d a o w) s =
    wrote s gid sl d (fieldSign ((g.stream sl).rd a) o.toNat w.toNat) ((g.stream sl).rp a) := by
  change execBexts d a o w s = _
  exact alu1_wrote hi d a rfl

theorem exec_bins_eq (d a : Reg) (o : BitVec 6) (w : BitVec 7) : exec (.bins d a o w) s =
    wrote s gid sl d (fieldIns ((g.stream sl).rd d) ((g.stream sl).rd a) o.toNat w.toNat)
      ((g.stream sl).rp a || (g.stream sl).rp d) := by
  change execBins d a o w s = _
  rw [execBins, issueReg_eq hi]

theorem exec_bextv_eq (d a b : Reg) : exec (.bextv d a b) s =
    wrote s gid sl d (fieldZero ((g.stream sl).rd a) (((g.stream sl).rd b).toNat % 256) (((g.stream sl).rd b).toNat / 256 % 256))
      ((g.stream sl).rp a || (g.stream sl).rp b) := by
  obtain ⟨off, wid⟩ := fieldPlace ((g.stream sl).rd b)
  change execBextv d a b s = _
  rw [execBextv, alu, issueReg_eq hi, off, wid]

theorem exec_bextsv_eq (d a b : Reg) : exec (.bextsv d a b) s =
    wrote s gid sl d (fieldSign ((g.stream sl).rd a) (((g.stream sl).rd b).toNat % 256) (((g.stream sl).rd b).toNat / 256 % 256))
      ((g.stream sl).rp a || (g.stream sl).rp b) := by
  obtain ⟨off, wid⟩ := fieldPlace ((g.stream sl).rd b)
  change execBextsv d a b s = _
  rw [execBextsv, alu, issueReg_eq hi, off, wid]

theorem exec_binsv_eq (d a b : Reg) : exec (.binsv d a b) s =
    wrote s gid sl d
      (fieldIns ((g.stream sl).rd d) ((g.stream sl).rd a) (((g.stream sl).rd b).toNat % 256) (((g.stream sl).rd b).toNat / 256 % 256))
      ((g.stream sl).rp a || (g.stream sl).rp b || (g.stream sl).rp d) := by
  obtain ⟨off, wid⟩ := fieldPlace ((g.stream sl).rd b)
  change execBinsv d a b s = _
  rw [execBinsv, issueReg_eq hi, off, wid]

end

/-- A halfword replaced by `ins16` (R138). -/
theorem fieldIns_halfword_bit (old : Word) (h : BitVec 2) (i : BitVec 16) {k : Nat} (hk : k < 64) :
    (fieldIns old (i.setWidth 64) (16 * h.toNat) 16).getLsbD k = if k / 16 = h.toNat then i.getLsbD (k % 16) else old.getLsbD k := by
  rw [fieldIns_bit _ _ _ _ hk]
  have place : (16 * h.toNat ≤ k ∧ k < 16 * h.toNat + 16) ↔ k / 16 = h.toNat := by omega
  simp only [place]
  split
  · next same =>
    have bit : k - 16 * h.toNat = k % 16 := by omega
    rw [bit, BitVec.getLsbD_setWidth, decide_eq_true (by omega), Bool.true_and]
  · rfl

/-- Settles O12: each word by its fields, `ins16` as an insertion of 16 bits; `fsh` is defined by R142's quotient. -/
theorem constantsAndFunnelShift : Obligations.ConstantsAndFunnelShift := by
  refine ⟨⟨encode_li16, fun s gid sl g d i hi => exec_li16_eq hi d i⟩,
    ⟨encode_ins16, fun s gid sl g d h i hi => ⟨_, exec_ins16_eq hi d h i, fun k hk => fieldIns_halfword_bit _ h i hk⟩⟩,
    ⟨encode_fsh, fun s gid sl g d a b h hi => ?fsh⟩⟩
  case fsh =>
    intro x y
    change execFsh d a b h s = _
    exact alu_wrote hi d a b rfl

/-- Settles O13: the words by their fields, the op values above 2, and the bits that R139's helpers give. -/
theorem bitFieldResults : Obligations.BitFieldResults := by
  refine ⟨fun d a b o w => ?words, fun w1 w2 major high => ?reserved, fun s gid sl g d a b o w hi => ?results⟩
  case words =>
    exact ⟨word_bit d a o w 0, word_bit d a o w 1, word_bit d a o w 2, word_bitr d a b 0 0,
      word_bitr d a b 0 1, word_bitr d a b 0 2⟩
  case reserved =>
    have op : 3 ≤ (fld w1 0 3).toNat := by rwa [toNat_fld, Nat.pow_zero, Nat.div_one]
    exact ⟨_, decodeWords_error ((candidate_bit major).trans (decBit_reserved op))⟩
  case results =>
    intro st off wid
    exact ⟨⟨_, _, _, fieldBits_helpers _ _ _ _, exec_bext_eq hi d a o w, exec_bexts_eq hi d a o w, exec_bins_eq hi d a o w⟩,
      ⟨_, _, _, fieldBits_helpers _ _ _ _, exec_bextv_eq hi d a b, exec_bextsv_eq hi d a b, exec_binsv_eq hi d a b⟩⟩

end Sys2Proof.Machine

/-! ## O14: counting, reversal and address formation (R143) -/

namespace Sys2Proof.Machine

open Sys2Proof

/-! ### Counts -/

section
variable (x : Word) (n : Nat)

theorem clzIn_le : clzIn x n ≤ n := by
  induction n with
  | zero => rfl
  | succ n ih =>
    rw [clzIn]
    split <;> omega

theorem clzIn_above {j : Nat} (hj : j < clzIn x n) : x.getLsbD (n - 1 - j) = false := by
  induction n generalizing j with
  | zero => exact absurd hj (Nat.not_lt_zero j)
  | succ n ih =>
    rw [clzIn] at hj
    split at hj
    · exact absurd hj (Nat.not_lt_zero j)
    · next top =>
      cases j with
      | zero => exact Bool.eq_false_of_not_eq_true top
      | succ j =>
        have place : n + 1 - 1 - (j + 1) = n - 1 - j := by omega
        rw [place]
        exact ih (by omega)

theorem clzIn_at (h : clzIn x n < n) : x.getLsbD (n - 1 - clzIn x n) = true := by
  induction n with
  | zero => exact absurd h (Nat.not_lt_zero _)
  | succ n ih =>
    rw [clzIn] at h ⊢
    split at h
    · next top => rwa [if_pos top]
    · next top =>
      have place : n + 1 - 1 - (1 + clzIn x n) = n - 1 - clzIn x n := by omega
      rw [if_neg top, place]
      exact ih (by omega)

theorem ctzIn_le (k : Nat) : ctzIn x k n ≤ n := by
  induction n generalizing k with
  | zero => rfl
  | succ n ih =>
    have := ih (k + 1)
    rw [ctzIn]
    split <;> omega

theorem ctzIn_below (k : Nat) {j : Nat} (hj : j < ctzIn x k n) : x.getLsbD (k + j) = false := by
  induction n generalizing k j with
  | zero => exact absurd hj (Nat.not_lt_zero j)
  | succ n ih =>
    rw [ctzIn] at hj
    split at hj
    · exact absurd hj (Nat.not_lt_zero j)
    · next low =>
      cases j with
      | zero => exact Bool.eq_false_of_not_eq_true low
      | succ j =>
        rw [← Nat.succ_add_eq_add_succ]
        exact ih (k + 1) (by omega)

theorem ctzIn_at (k : Nat) (h : ctzIn x k n < n) : x.getLsbD (k + ctzIn x k n) = true := by
  induction n generalizing k with
  | zero => exact absurd h (Nat.not_lt_zero _)
  | succ n ih =>
    rw [ctzIn] at h ⊢
    split at h
    · next low => rwa [if_pos low]
    · next low =>
      rw [if_neg low, ← Nat.add_assoc]
      exact ih (k + 1) (by omega)

theorem popIn_eq_countP : popIn x n = (List.range n).countP (fun k => x.getLsbD k) := by
  induction n with
  | zero => rfl
  | succ n ih => rw [popIn, ih, List.range_succ, List.countP_append, List.countP_singleton, Nat.add_comm]

end

/-! ### Values made of chosen bits and bytes -/

theorem testBit_ofBits (f : Nat → Bool) (l : List Nat) (k : Nat) :
    (l.foldr (fun k v => (if f k then 1 else 0) + 2 * v) 0).testBit k = l[k]?.any f := by
  induction l generalizing k with
  | nil => simp
  | cons a l ih =>
    cases k with
    | zero => cases h : f a <;> simp [h, Nat.testBit_zero, Nat.add_mod]
    | succ k =>
      rw [List.foldr_cons, List.getElem?_cons_succ, ← ih, Nat.testBit_succ]
      congr 1
      split <;> omega

theorem bitsWord_bit (f : Nat → Bool) {k : Nat} (hk : k < 64) : (bitsWord f).getLsbD k = f k := by
  rw [bitsWord, BitVec.getLsbD_ofNat, testBit_ofBits, List.getElem?_range hk, decide_eq_true hk, Bool.true_and, Option.any_some]

theorem leNat_byte (bs : List Byte) (k : Nat) : BitVec.ofNat 8 (leNat bs / 256 ^ k) = bs.getD k 0 := by
  induction bs generalizing k with
  | nil => simp [leNat]
  | cons b bs ih =>
    cases k with
    | zero =>
      apply BitVec.eq_of_toNat_eq
      have := b.isLt
      simp only [leNat, Nat.pow_zero, Nat.div_one, BitVec.toNat_ofNat, List.getD_cons_zero]
      omega
    | succ k =>
      have byte : (b.toNat + 256 * leNat bs) / 256 = leNat bs := by
        have := b.isLt
        omega
      rw [leNat, List.getD_cons_succ, ← ih, Nat.pow_succ', ← Nat.div_div_eq_div_mul, byte]

theorem byte_eq_ofNat (x : Word) (k : Nat) : x.extractLsb' (8 * k) 8 = BitVec.ofNat 8 (x.toNat / 256 ^ k) := by
  rw [BitVec.extractLsb', Nat.shiftRight_eq_div_pow, Nat.pow_mul]

theorem leNat_lt (bs : List Byte) : leNat bs < 256 ^ bs.length := by
  induction bs with
  | nil => exact Nat.one_pos
  | cons b bs ih =>
    have := b.isLt
    rw [leNat, List.length_cons, Nat.pow_succ]
    omega

theorem wordBytes_getD (x : Word) (k : Nat) : (wordBytes x).getD k 0 = x.extractLsb' (8 * k) 8 := by
  have whole : x.toNat % 256 ^ 8 = x.toNat := Nat.mod_eq_of_lt x.isLt
  rw [← leNat_byte, wordBytes, leNat_leBytes, whole, byte_eq_ofNat]

theorem bswapWord_byte (x : Word) {k : Nat} (hk : k < 8) :
    (bswapWord x).extractLsb' (8 * k) 8 = x.extractLsb' (8 * (7 - k)) 8 := by
  have len : (wordBytes x).length = 8 := leBytes_length 8 x.toNat
  have fits : leNat (wordBytes x).reverse < 2 ^ 64 := by
    simpa [len] using leNat_lt (wordBytes x).reverse
  calc (bswapWord x).extractLsb' (8 * k) 8
      = (wordBytes x).reverse.getD k 0 := by
        rw [byte_eq_ofNat, bswapWord, BitVec.toNat_ofNat, Nat.mod_eq_of_lt fits, leNat_byte]
    _ = (wordBytes x).getD (7 - k) 0 := by
        rw [List.getD_reverse k (len ▸ hk), len]
    _ = x.extractLsb' (8 * (7 - k)) 8 := wordBytes_getD x (7 - k)

/-! ### What the instructions do -/

/-- The words of major 0x06 with two registers. -/
theorem word_bitr2 (d a : Reg) (func : BitVec 5) : [0x6#6 ++ d ++ a ++ 0x0#11 ++ func] =
    [BitVec.ofNat 32 (0x18000000 + d.toNat * 2 ^ 21 + a.toNat * 2 ^ 16 + func.toNat)] := by
  apply word_eq_ofNat
  simp only [Laws.toNat_append_eq, BitVec.toNat_ofNat]
  omega

theorem encode_lea (d a b : Reg) (h : BitVec 2) : encode (.lea d a b h) =
    [BitVec.ofNat 32 (0x18000000 + d.toNat * 2 ^ 21 + a.toNat * 2 ^ 16 + (b.toNat * 2 ^ 11 + h.toNat * 2 ^ 5 + 11))] := by
  change [0x6#6 ++ d ++ a ++ b ++ 0x0#4 ++ h ++ 0xb#5] = _
  apply word_eq_ofNat
  simp only [Laws.toNat_append_eq, BitVec.toNat_ofNat]
  omega

theorem add_shiftLeft_eq_ofNat (x y : Word) (n : Nat) : x + y <<< n = BitVec.ofNat 64 (x.toNat + y.toNat * 2 ^ n) := by
  rw [BitVec.ofNat_add, ← shiftLeft_eq_ofNat, BitVec.ofNat_toNat, BitVec.setWidth_eq]

/-- Settles O14: the words by their fields, and of each count, reversal and sum the bits that it is made of. -/
theorem countingResults : Obligations.CountingResults := by
  refine ⟨fun d a b h => ?words, fun s gid sl g d a b h hi => ?results⟩
  case words =>
    exact ⟨word_bitr2 d a 6, word_bitr2 d a 7, word_bitr2 d a 8, word_bitr2 d a 9, word_bitr2 d a 10, encode_lea d a b h⟩
  case results =>
    intro x y p
    have clz : exec (.clz d a) s = wrote s gid sl d (BitVec.ofNat 64 (clzIn x 64)) p := by
      change execClz d a s = _
      exact alu1_wrote hi d a rfl
    have ctz : exec (.ctz d a) s = wrote s gid sl d (BitVec.ofNat 64 (ctzIn x 0 64)) p := by
      change execCtz d a s = _
      exact alu1_wrote hi d a rfl
    have popc : exec (.popc d a) s = wrote s gid sl d (BitVec.ofNat 64 ((List.range 64).countP (fun k => x.getLsbD k))) p := by
      change execPopc d a s = _
      exact alu1_wrote hi d a (congrArg (BitVec.ofNat 64) (popIn_eq_countP x 64))
    have brev : exec (.brev d a) s = wrote s gid sl d (brevWord x) p := by
      change execBrev d a s = _
      exact alu1_wrote hi d a rfl
    have bswap : exec (.bswap d a) s = wrote s gid sl d (bswapWord x) p := by
      change execBswap d a s = _
      exact alu1_wrote hi d a rfl
    have lea : exec (.lea d a b h) s =
        wrote s gid sl d (BitVec.ofNat 64 (x.toNat + y.toNat * 2 ^ h.toNat)) (p || (g.stream sl).rp b) := by
      change execLea d a b h s = _
      exact alu_wrote hi d a b (add_shiftLeft_eq_ofNat x y _)
    exact ⟨⟨_, clzIn_le x 64, clz, fun j => clzIn_above x 64, clzIn_at x 64⟩,
      ⟨_, ctzIn_le x 64 0, ctz, fun j hj => Nat.zero_add j ▸ ctzIn_below x 64 0 hj,
        fun h => Nat.zero_add (ctzIn x 0 64) ▸ ctzIn_at x 64 0 h⟩,
      popc, ⟨_, brev, fun k hk => bitsWord_bit _ hk⟩, ⟨_, bswap, fun k hk => bswapWord_byte x hk⟩, lea⟩

end Sys2Proof.Machine

/-! ## O15: the bit network (R144 to R146) -/

namespace Sys2Proof.Machine

open Sys2Proof

/-! ### The words of `bnet` and `bnld` -/

theorem encode_bnet (d a b : Reg) (slot : BitVec 3) : encode (.bnet d a b slot) =
    [BitVec.ofNat 32 (0x18000004 + d.toNat * 2 ^ 21 + a.toNat * 2 ^ 16 + b.toNat * 2 ^ 11 + slot.toNat * 2 ^ 8)] := by
  change [0x6#6 ++ d ++ a ++ b ++ slot ++ 0x0#3 ++ 0x4#5] = _
  apply word_eq_ofNat
  simp only [Laws.toNat_append_eq, BitVec.toNat_ofNat]
  omega

theorem encode_bnld (a b : Reg) (slot h : BitVec 3) : encode (.bnld a b slot h) =
    [BitVec.ofNat 32 (0x18000005 + a.toNat * 2 ^ 16 + b.toNat * 2 ^ 11 + slot.toNat * 2 ^ 8 + h.toNat * 2 ^ 5)] := by
  change [0x6#6 ++ 0x0#5 ++ a ++ b ++ slot ++ h ++ 0x5#5] = _
  apply word_eq_ofNat
  simp only [Laws.toNat_append_eq, BitVec.toNat_ofNat]
  omega

/-! ### Entries of a pattern (R144) -/

/-- The source index and the poison bit that a byte of a pattern slot holds. -/
def netEntry (e : Byte) : Nat × Bool := (e.toNat % 128, e.getLsbD 7)

theorem patternEntry_eq (st : Stream) (slot : BitVec 3) {k : Nat} (hk : k < 64) :
    patternEntry st slot k = netEntry (st.pattern slot)[k] := by
  simp [patternEntry, netEntry, hk]

theorem netEntry_written {n : Nat} (hn : n < 128) (p : Bool) : netEntry (BitVec.ofNat 8 (n + if p then 128 else 0)) = (n, p) := by
  have low : (n + if p then 128 else 0) % 2 ^ 8 % 128 = n := by split <;> omega
  have high : (n + if p then 128 else 0) / 2 ^ 7 % 2 = if p then 1 else 0 := by split <;> omega
  rw [netEntry, BitVec.toNat_ofNat, BitVec.getLsbD_ofNat, Nat.testBit_eq_decide_div_mod_eq, low, high]
  cases p <;> rfl

theorem wbits_index_lt (x : Word) (j : Nat) : wbits x (8 * j + 6) (8 * j) < 128 := by
  have width : 8 * j + 6 - 8 * j + 1 = 7 := by omega
  rw [wbits, natBits, width]
  exact Nat.mod_lt _ (by decide)

/-- R146: result bit `k` is the bit of the pair that entry `k` names. -/
theorem netWord_bit (st : Stream) (slot : BitVec 3) (x y : Word) {k : Nat} (hk : k < 64) :
    (netWord (st.pattern slot) x y).getLsbD k = (x ++ y : BitVec 128).getLsbD (patternEntry st slot k).1 := by
  rw [netWord, bitsWord_bit _ hk, BitVec.getLsbD_append]
  rfl

theorem netPoison_eq_any (st : Stream) (slot : BitVec 3) :
    netPoison (st.pattern slot) = (List.range 64).any (fun k => (patternEntry st slot k).2) := by
  have entries : (st.pattern slot).toList = (List.range 64).map (fun k => (st.pattern slot).toList.getD k 0) := by
    apply List.ext_getElem
    · simp
    · simp +contextual
  rw [netPoison, entries, List.any_map]
  rfl

/-- R145: a step writes the entries of its mask and no others. -/
theorem netLoad_entry (pat : Vector Byte 64) (x mask : Word) (step : Nat) (p : Bool) {k : Nat} (hk : k < 64) :
    netEntry (netLoad pat x mask step p)[k] =
      if k / 8 = step ∧ mask.getLsbD (k % 8) = true then (wbits x (8 * (k % 8) + 6) (8 * (k % 8)), p) else netEntry pat[k] := by
  unfold netLoad
  rw [Vector.getElem_mapFinIdx]
  by_cases inside : k / 8 = step
  · have place : k - 8 * step = k % 8 := by omega
    have low : 8 * step ≤ k := by omega
    have high : k % 8 < 8 := by omega
    by_cases masked : mask.getLsbD (k % 8) = true
    · simp [inside, place, low, high, masked, netEntry_written (wbits_index_lt x _)]
    · simp [inside, place, low, high, masked]
  · have outside : ¬(8 * step ≤ k ∧ k - 8 * step < 8) := by omega
    simp [inside, outside]

/-- The stream after `bnld` (R145). -/
def Stream.loadPattern (st : Stream) (a b : Reg) (slot h : BitVec 3) : Stream :=
  { st with bp := st.bp.set slot.toNat (netLoad (st.pattern slot) (st.rd a) (st.rd b) h.toNat (st.rp a || st.rp b)) slot.isLt }

theorem Stream.pattern_loadPattern (st : Stream) (a b : Reg) (slot h o : BitVec 3) : (st.loadPattern a b slot h).pattern o =
    if o = slot then netLoad (st.pattern slot) (st.rd a) (st.rd b) h.toNat (st.rp a || st.rp b) else st.pattern o := by
  by_cases same : o = slot
  · subst same
    simp [Stream.pattern, Stream.loadPattern]
  · have apart : slot.toNat ≠ o.toNat := fun h => same (BitVec.eq_of_toNat_eq h.symm)
    simp [Stream.pattern, Stream.loadPattern, same, apart]

theorem patternEntry_loadPattern (st : Stream) (a b : Reg) (slot h o : BitVec 3) {k : Nat} (hk : k < 64) :
    patternEntry (st.loadPattern a b slot h) o k =
      if o = slot ∧ k / 8 = h.toNat ∧ (st.rd b).getLsbD (k % 8) = true
      then (wbits (st.rd a) (8 * (k % 8) + 6) (8 * (k % 8)), st.rp a || st.rp b) else patternEntry st o k := by
  rw [patternEntry_eq _ _ hk, patternEntry_eq _ _ hk, Stream.pattern_loadPattern]
  by_cases same : o = slot
  · subst same
    simp only [if_pos, netLoad_entry, true_and]
  · simp only [same, if_false, false_and]

/-! ### What the instructions do -/

section
variable {s : State} {gid : Nat} {sl : Slice} {g : Group} (hi : Issuing s gid sl g) (d a b : Reg) (slot h : BitVec 3)
include hi

theorem exec_bnet_eq : exec (.bnet d a b slot) s =
    wrote s gid sl d (netWord ((g.stream sl).pattern slot) ((g.stream sl).rd a) ((g.stream sl).rd b))
      ((g.stream sl).rp a || (g.stream sl).rp b || (List.range 64).any (fun k => (patternEntry (g.stream sl) slot k).2)) := by
  change execBnet d a b slot s = _
  rw [execBnet, issueReg_eq hi, netPoison_eq_any]

theorem exec_bnld_eq :
    exec (.bnld a b slot h) s = .next ((s.setStream gid sl ((g.stream sl).loadPattern a b slot h)).advance gid sl) := by
  change execBnld a b slot h s = _
  rw [execBnld, issue_eq hi]
  rfl

end

/-- Settles O15: `bnet` by the bits of its word, `bnld` by the entries of the slots after it. -/
theorem bitNetworks : Obligations.BitNetworks := by
  refine ⟨⟨encode_bnet, fun s gid sl g d a b slot hi => ⟨_, exec_bnet_eq hi d a b slot, fun k hk => ?bits⟩⟩,
    ⟨encode_bnld, fun s gid sl g a b slot h hi => ⟨_, exec_bnld_eq hi a b slot h, rfl, fun o k hk => ?entries⟩⟩⟩
  case bits => exact netWord_bit _ slot _ _ hk
  case entries => exact patternEntry_loadPattern _ a b slot h o hk

end Sys2Proof.Machine

/-! ## O41: the performance of engine commands

One equation for each event says what it answers of a head that has begun; the head leaves its queue, and signals, by one more
(`State.completeHead_eq`), and a `qfence` takes the heads of the queues that it names (`Group.dropHeads`). -/

namespace Sys2Proof.Machine

open Sys2Proof

section
variable {s : State} {gid : Nat} {g : Group} {c : Cmd} {i : Instr} (hg : s.grp? gid = some g)
include hg

/-! ### What each event answers of a head that has begun -/

section
variable (hb : g.begun .mat = some c) (hi : c.instr? = some i) (plain : ∀ e : EWord, i ≠ .mred e)
include hb hi plain

theorem exec_matrixCommandPerform_null (null : c.null = true) :
    exec (.matrixCommandPerform gid) s = .next (s.completeHead gid .mat c) := by
  change execMatrixCommandPerform gid s = _
  simp [execMatrixCommandPerform, hg, hb, hi, null]

theorem exec_matrixCommandPerform_ok (live : c.null = false) {t : State} (ht : (s.settleEngine gid).matrixEffect gid i c = .ok t) :
    exec (.matrixCommandPerform gid) s = .next (t.completeHead gid .mat c) := by
  change execMatrixCommandPerform gid s = _
  simp [execMatrixCommandPerform, hg, hb, hi, live, ht]

theorem exec_matrixCommandPerform_trap (live : c.null = false) {x : TrapInfo}
    (hx : (s.settleEngine gid).matrixEffect gid i c = .error x) :
    exec (.matrixCommandPerform gid) s = .next ((s.settleEngine gid).matrixTrap gid c x) := by
  change execMatrixCommandPerform gid s = _
  simp [execMatrixCommandPerform, hg, hb, hi, live, hx]

end

theorem exec_matrixCommandPerform_mred {e : EWord} (hb : g.begun .mat = some c) (hi : c.instr? = some (.mred e)) :
    exec (.matrixCommandPerform gid) s = .next (s.performMred gid g c) := by
  change execMatrixCommandPerform gid s = _
  simp only [execMatrixCommandPerform, hg, hb, hi]

theorem exec_mredRoundComplete_eq {e : EWord} (hb : g.begun .mat = some c) (hi : c.instr? = some (.mred e)) (ready : c.cursor ≠ 0)
    (round : s.roundReady g c = true) {t : State} (ht : s.finishMred gid c = .ok t) :
    exec (.mredRoundComplete gid) s =
      .next (((t.mapGrp gid (fun h => { h with mredRound := none })).settlePoison gid c).completeHead gid .mat c) := by
  change execMredRoundComplete gid s = _
  simp [execMredRoundComplete, hg, hb, hi, ready, round, ht]

theorem exec_vectorCommandPerform_eq (hb : g.begun .vec = some c) (hi : c.instr? = some i) :
    exec (.vectorCommandPerform gid) s =
      if c.null then .next (s.completeHead gid .vec c)
      else .next (((s.settleEngine gid).performVx gid i c).completeHead gid .vec c) := by
  change execVectorCommandPerform gid s = _
  simp only [execVectorCommandPerform, hg, hb, hi]

theorem exec_copyBurst_eq {q : EQueue} (hq : isCopy q = true) (hb : g.begun q = some c) (eng : c.eng ≠ none) {b : Burst} {h : Group}
    (live : c.null = false) (goes : g.mayBegin = true ∨ c.hold ≠ none) (burst : c.burst = some b)
    (hh : ((s.settleEngine gid).unwait (gid, q.src)).grp? gid = some h) :
    exec (.copyBurst gid q) s = .next (((s.settleEngine gid).unwait (gid, q.src)).copyStep gid q h c c.isRed b) := by
  have idle : (!g.mayBegin && c.hold.isNone) = false := by
    rcases goes with m | m
    · simp [m]
    · cases hold : c.hold
      · exact absurd hold m
      · simp
  change execCopyBurst gid q s = _
  simp [execCopyBurst, hg, hb, hq, eng, live, idle, burst, hh]

theorem exec_copyPerform_eq {q : EQueue} (hq : isCopy q = true) (hb : g.begun q = some c) (eng : c.eng ≠ none) (clean : g.trapped q = false)
    (ended : c.null = true ∨ (c.burst = none ∧ c.reqs = [] ∧ s.peerQuiet gid q.src = true)) :
    exec (.copyPerform gid q) s =
      .next (((s.mapGrp gid (fun h => h.raiseFlags c.fl)).settlePoison gid c).completeHead gid q c) := by
  have done : (c.null || (c.burst.isNone && c.reqs.isEmpty && s.peerQuiet gid q.src)) = true := by
    rcases ended with n | ⟨b, r, p⟩
    · simp [n]
    · simp [b, r, p]
  change execCopyPerform gid q s = _
  simp [execCopyPerform, hg, hb, hq, eng, clean, done]

/-! ### The SEN signal -/

/-- A head that leaves its queue signals as its SEN field says (R296, R297). -/
theorem State.completeHead_eq {q : EQueue} {rest : List Cmd} (hq : g.queue q = c :: rest) :
    s.completeHead gid q c =
      let t := s.mapGrp gid (fun h => h.setQueue q rest)
      let x := g.sem c.ssem.toNat
      if !c.sen then t
      else if x.ceil ≤ x.value then
        t.raise gid q.src { cause := 0x18, addr := c.ssem.toNat, status := BitVec.ofNat 64 (x.value + 1) } false c.idx
      else t.semTo gid c.ssem.toNat (x.value + 1) := by
  have left : s.mapGrp gid (fun h => h.setQueue q ((h.queue q).drop 1)) = s.mapGrp gid (fun h => h.setQueue q rest) := by
    rw [State.mapGrp_eq hg, State.mapGrp_eq hg, hq, List.drop_one, List.tail_cons]
  have found : (s.mapGrp gid (fun h => h.setQueue q rest)).grp? gid = some (g.setQueue q rest) :=
    State.grp?_mapGrp hg _ (Group.setQueue_gid g q rest)
  have same : (g.setQueue q rest).sem c.ssem.toNat = g.sem c.ssem.toNat := by simp only [Group.sem, Group.setQueue_sems]
  simp only [State.completeHead, left, found, same]

/-! ### The watchdog -/

theorem exec_reductionWatchdog_eq (above : g.overBound = true) : exec (.reductionWatchdog gid) s =
    .next ((s.mapGrp gid (fun h => { h with watch := 0 })).raise gid 6
      { cause := 0x22, status := BitVec.ofNat 64 g.rbound } false g.cmdCount) := by
  change execReductionWatchdog gid s = _
  simp [execReductionWatchdog, State.watchdog, hg, above]

end

/-! ### The `mred` at the head -/

/-- What an `mred` that contributes now leaves at the head `d`: not performed at the root, and performed elsewhere. -/
theorem State.performMred_eq {s : State} {gid : Nat} {g : Group} {c : Cmd} (m : g.mayBegin = true) (first : c.cursor = 0)
    {t : State} {ends : Bool} {h : Group} {d : Cmd}
    (hs : (s.settleEngine gid).startMred gid c = (t, ends)) (ht : t.grp? gid = some h) (hd : (h.queue .mat).head? = some d) :
    s.performMred gid g c =
      if ends then ((t.mapGrp gid (fun h => { h with mredRound := none })).settlePoison gid d).completeHead gid .mat d
      else t.mapGrp gid (fun h => h.setHead .mat { d with cursor := 1 }) := by
  simp [State.performMred, m, first, hs, ht, hd]

/-! ### `qfence` -/

/-- The group with the head taken from each of the named queues. -/
def Group.dropHeads (g : Group) (qs : List EQueue) : Group := qs.foldl (fun g r => g.setQueue r ((g.queue r).drop 1)) g

theorem Group.setQueue_only (g : Group) (q : EQueue) (l : List Cmd) : g.setQueue q l = { g with eq := (g.setQueue q l).eq } := by
  cases q <;> rfl

theorem Group.dropHeads_only (qs : List EQueue) (g : Group) : g.dropHeads qs = { g with eq := (g.dropHeads qs).eq } := by
  induction qs generalizing g with
  | nil => rfl
  | cons r qs ih =>
    exact (ih _).trans (congrArg (fun x : Group => { x with eq := (g.dropHeads (r :: qs)).eq }) (Group.setQueue_only g r _))

theorem Group.queue_dropHeads (r : EQueue) {qs : List EQueue} (nodup : qs.Nodup) (g : Group) :
    (g.dropHeads qs).queue r = if r ∈ qs then (g.queue r).drop 1 else g.queue r := by
  induction qs generalizing g with
  | nil => rfl
  | cons p qs ih =>
    obtain ⟨fresh, nodup⟩ := List.nodup_cons.1 nodup
    change ((g.setQueue p _).dropHeads qs).queue r = _
    rw [ih nodup]
    by_cases e : r = p
    · subst e
      simp [fresh]
    · simp [e, Group.setQueue_other g p r _ e]

theorem exec_qfencePerform_eq {s : State} {gid : Nat} {g : Group} {c : Cmd} (hg : s.grp? gid = some g) {q : EQueue} {qm : BitVec 4}
    (head : (g.queue q).head? = some c) (mask : c.qf = some qm) (m : g.mayBegin = true)
    (heads : ∀ r : EQueue, qm.getLsbD r.idx = true → ∃ d : Cmd, (g.queue r).head? = some d ∧ d.qf = c.qf) :
    exec (.qfencePerform gid q) s = .next (s.setGrp (g.dropHeads (allQueues.filter (fun r => qm.getLsbD r.idx)))) := by
  obtain ⟨rest, hq⟩ := List.head?_eq_some_iff.1 head
  change execQfencePerform gid q s = _
  simp only [execQfencePerform, hg, hq, mask, m, Bool.not_true, Bool.false_or, State.mapGrp_eq hg]
  refine if_neg ?_
  rw [Bool.not_eq_true', Bool.not_eq_false, List.all_eq_true]
  intro r hr
  obtain ⟨d, hd, same⟩ := heads r (List.mem_filter.1 hr).2
  obtain ⟨tl, e⟩ := List.head?_eq_some_iff.1 hd
  simp [e, same, mask]

/-- Settles O41: each event's equation, the heads that a `qfence` takes, and the SEN signal of a head that leaves. -/
theorem commandsPerform : Obligations.CommandsPerform := by
  unfold Obligations.CommandsPerform
  intro s gid g c i e hg hi u
  refine ⟨fun hb notRed word => ?matrix, fun hb red => ?mred, fun hb => ?vector, fun q hq hb eng => ?copy, fun q qm head mask m heads => ?qfence,
    fun q rest hq => ?signal, fun status loop bound above fresh => ?watchdog⟩
  case matrix =>
    have plain : ∀ x : EWord, i ≠ .mred x := by
      rintro x rfl
      exact notRed (congrArg Instr.mred (Option.some.inj word))
    refine ⟨exec_matrixCommandPerform_null hg hb hi plain, fun live config => ?_,
      fun live t ht => exec_matrixCommandPerform_ok hg hb hi plain live ht,
      fun live x hx => exec_matrixCommandPerform_trap hg hb hi plain live hx⟩
    subst config
    exact exec_matrixCommandPerform_ok hg hb hi plain live rfl
  case mred =>
    subst red
    refine ⟨fun m first t h d ht hd => ⟨fun hs => ?_, fun hs => ?_⟩,
      fun ready round t ht => exec_mredRoundComplete_eq hg hb hi ready round ht⟩ <;>
    · rw [exec_matrixCommandPerform_mred hg hb hi, State.performMred_eq m first hs ht hd]
      rfl
  case vector =>
    rw [exec_vectorCommandPerform_eq hg hb hi]
    exact ⟨fun null => if_pos null, fun live => by rw [live]; rfl⟩
  case copy =>
    exact ⟨fun b h live goes burst hh => exec_copyBurst_eq hg hq hb eng live goes burst hh,
      fun clean ended => exec_copyPerform_eq hg hq hb eng clean ended⟩
  case qfence =>
    refine ⟨_, exec_qfencePerform_eq hg head mask m heads, Group.dropHeads_only _ g, fun r => ?_⟩
    rw [Group.queue_dropHeads r (List.Nodup.filter _ (by decide)) g]
    cases r <;> simp [allQueues]
  case signal =>
    rw [State.completeHead_eq hg hq]
    refine ⟨fun silent => ⟨g.setQueue q rest, ?_, Group.setQueue_same g q rest, ?_⟩, fun signals full => ?_, fun signals room => ?_⟩
    · simpa [silent] using State.grp?_mapGrp hg _ (Group.setQueue_gid g q rest)
    · simp only [Group.semValues, Group.setQueue_sems]
    · simp [signals, full]
    · simp [signals, Nat.not_le.2 room]
  case watchdog =>
    exact exec_reductionWatchdog_eq hg (by simp [Group.overBound, Group.working, status, loop, bound, above, fresh])

end Sys2Proof.Machine

/-! ## What the matrix engine writes

A command works row by row, so that what stands at one place is written by one step of a fold: `foldl_read_once` finds it, and
`foldl_read_unchanged` says what no step writes. `Group.engineWrites` names all that an engine may change of its group. -/

namespace Sys2Proof.Machine

open Sys2Proof

/-! ### Folds of which one step writes what is read -/

section
variable {σ α γ : Type} {P : σ → Prop} {f : σ → α → σ} {read : σ → γ} (keeps : ∀ s a, P s → P (f s a))
include keeps

theorem foldl_invariant (l : List α) {s : σ} (hs : P s) : P (l.foldl f s) := by
  induction l generalizing s with
  | nil => exact hs
  | cons a l ih => exact ih (keeps s a hs)

theorem foldl_read_unchanged {l : List α} (others : ∀ s a, a ∈ l → P s → read (f s a) = read s) {s : σ} (hs : P s) :
    read (l.foldl f s) = read s := by
  induction l generalizing s with
  | nil => rfl
  | cons a l ih =>
    exact (ih (fun s b hb => others s b (List.mem_cons_of_mem a hb)) (keeps s a hs)).trans (others s a List.mem_cons_self hs)

/-- The fold leaves what the step of `a`, the one that writes what is read, makes of it. -/
theorem foldl_read_once {a : α} (others : ∀ s b, b ≠ a → P s → read (f s b) = read s) {l : List α} (nodup : l.Nodup) (mem : a ∈ l)
    {s : σ} (hs : P s) : ∃ u : σ, P u ∧ read u = read s ∧ read (l.foldl f s) = read (f u a) := by
  induction l generalizing s with
  | nil => exact absurd mem List.not_mem_nil
  | cons b l ih =>
    obtain ⟨fresh, nodup⟩ := List.nodup_cons.1 nodup
    by_cases e : b = a
    · subst e
      exact ⟨s, hs, rfl, foldl_read_unchanged keeps (fun t x hx => others t x fun e => fresh (e ▸ hx)) (keeps s b hs)⟩
    · obtain ⟨u, hu, same, last⟩ := ih nodup ((List.mem_cons.1 mem).resolve_left (Ne.symm e)) (keeps s b hs)
      exact ⟨u, hu, same.trans (others s b e hs), last⟩

end

theorem foldl_same {σ α γ : Type} {f : σ → α → σ} {read : σ → γ} (step : ∀ s a, read (f s a) = read s) (l : List α) (s : σ) :
    read (l.foldl f s) = read s :=
  foldl_read_unchanged (P := fun _ => True) (fun _ _ _ => trivial) (fun s a _ _ => step s a) trivial

theorem mapIdx_map_range {α β : Type} (n : Nat) (F : Nat → α) (G : Nat → α → β) :
    ((List.range n).map F).mapIdx G = (List.range n).map (fun i => G i (F i)) := by
  apply List.ext_getElem <;> simp

/-! ### Memory by blocks -/

namespace Memory

theorem read_eq_map (m : Memory) (a n : Nat) : m.read a n = (List.range n).map (fun k => m.get (a + k)) := by
  induction n generalizing a with
  | zero => rfl
  | succ n ih => simp [Memory.read, ih, List.range_succ_eq_map, Function.comp_def, Nat.add_assoc, Nat.add_comm 1]

theorem read_length (m : Memory) (a n : Nat) : (m.read a n).length = n := by simp [read_eq_map]

theorem read_getD (m : Memory) (a : Nat) {n k : Nat} (hk : k < n) : (m.read a n).getD k 0 = m.get (a + k) := by
  simp [read_eq_map, List.getD_eq_getElem?_getD, hk]

/-- A read of part of a block. -/
theorem read_part (m : Memory) (a : Nat) {k n l : Nat} (h : k + n ≤ l) : m.read (a + k) n = ((m.read a l).drop k).take n := by
  apply List.ext_getElem
  · simp [read_length]
    omega
  · intro j _ _
    simp [read_eq_map, Nat.add_assoc]

theorem read_write_same {m : Memory} (wf : m.wf = true) (a : Nat) (bs : List Byte) : (m.write a bs).read a bs.length = bs := by
  apply List.ext_getElem
  · exact read_length _ _ _
  · intro j _ hj
    simp [read_eq_map, get_write wf, hj]

theorem read_write_disjoint {m : Memory} (wf : m.wf = true) {a b n : Nat} {bs : List Byte} (h : a + n ≤ b ∨ b + bs.length ≤ a) :
    (m.write b bs).read a n = m.read a n := by
  rw [read_eq_map, read_eq_map]
  refine List.map_congr_left fun k hk => ?_
  have := List.mem_range.1 hk
  rw [get_write wf, if_neg (by omega)]

theorem write_append (m : Memory) (a : Nat) (xs ys : List Byte) : m.write a (xs ++ ys) = (m.write a xs).write (a + xs.length) ys := by
  induction xs generalizing m a with
  | nil => rfl
  | cons x xs ih => simp [Memory.write, ih, Nat.add_assoc, Nat.add_comm 1]

end Memory

/-- The block of element `n` in a list of blocks of equal length. -/
theorem flatMap_block {α β : Type} {F : α → List β} {s : Nat} (l : List α) (len : ∀ a ∈ l, (F a).length = s) {n : Nat}
    (hn : n < l.length) : ((l.flatMap F).drop (s * n)).take s = F l[n] := by
  induction l generalizing n with
  | nil => exact absurd hn (Nat.not_lt_zero n)
  | cons a l ih =>
    have la : (F a).length = s := len a List.mem_cons_self
    cases n with
    | zero => simp [List.flatMap_cons, ← la]
    | succ n =>
      have e : s * (n + 1) = (F a).length + s * n := by rw [la, Nat.mul_succ, Nat.add_comm]
      rw [List.flatMap_cons, e, List.drop_length_add_append]
      exact ih (fun b hb => len b (List.mem_cons_of_mem a hb)) (Nat.lt_of_succ_lt_succ hn)

theorem flatMap_length {α β : Type} {F : α → List β} {s : Nat} (l : List α) (len : ∀ a ∈ l, (F a).length = s) :
    (l.flatMap F).length = s * l.length := by
  rw [List.length_flatMap, List.map_congr_left len]
  simp [Nat.mul_comm]

/-- Words that fill a block little-endian are read back from it, as far as they reach. -/
theorem leNat_read_word {m : Memory} {a s : Nat} {ws : List Nat} {l : Nat} (block : m.read a l = ws.flatMap (leBytes s)) {n : Nat}
    (hn : n < ws.length) : leNat (m.read (a + s * n) s) = ws.getD n 0 % 256 ^ s := by
  have len : l = s * ws.length := by
    rw [← Memory.read_length m a l, block, flatMap_length ws fun w _ => leBytes_length s w]
  have part : m.read (a + s * n) s = leBytes s ws[n] := by
    rw [Memory.read_part m a (l := l) (by rw [len, ← Nat.mul_succ]; exact Nat.mul_le_mul_left s hn), block]
    exact flatMap_block ws (fun w _ => leBytes_length s w) hn
  rw [part, leNat_leBytes, List.getD_eq_getElem _ _ hn]

/-! ### A row's region in the scratchpad -/

/-- The sectors that a drain's bytes are cut into, one after the other, are the bytes at their place. -/
theorem Group.foldl_split256_spad (i base : Nat) (bs : List Byte) {fuel a n : Nat} (enough : n < fuel) (low : base ≤ a)
    (rest : a - base + n = bs.length) (g : Group) :
    ((split256 fuel a n).foldl (fun g x => g.spadWrite (rowOff i x.1) ((bs.drop (x.1 - base)).take x.2) false true) g).spad =
      g.spad.write (rowOff i a) (bs.drop (a - base)) := by
  induction fuel generalizing a n g with
  | zero => exact absurd enough (Nat.not_lt_zero n)
  | succ fuel ih =>
    by_cases none : n = 0
    · have empty : bs.drop (a - base) = [] := List.drop_eq_nil_of_le (by omega)
      simp [split256, none, empty, Memory.write]
    · obtain ⟨k, hk⟩ : ∃ k, k = min n (256 - a % 256) := ⟨_, rfl⟩
      have cut : bs.drop (a - base) = (bs.drop (a - base)).take k ++ bs.drop (a + k - base) := by
        rw [show a + k - base = a - base + k by omega, ← List.drop_drop, List.take_append_drop]
      have len : ((bs.drop (a - base)).take k).length = k := by
        rw [List.length_take, List.length_drop]
        omega
      have next : rowOff i (a + k) = rowOff i a + ((bs.drop (a - base)).take k).length := by rw [len, rowOff, rowOff, Nat.add_assoc]
      simp only [split256, beq_iff_eq, none, if_false, ← hk, List.foldl_cons]
      rw [ih (a := a + k) (n := n - k) (by omega) (by omega) (by omega), Group.spadWrite_spad, next, ← Memory.write_append, ← cut]

theorem Group.drainWrite_spad (g : Group) (i base : Nat) (bs : List Byte) :
    (g.drainWrite i base bs).spad = g.spad.write (rowOff i base) bs := by
  simpa [Group.drainWrite] using Group.foldl_split256_spad i base bs (Nat.lt_succ_self bs.length) (Nat.le_refl base) (by simp) g

/-- Regions of one place in two rows, inside their rows, do not meet. -/
theorem rowOff_apart {i j base l : Nat} (fits : base + l ≤ 2 ^ 22) (h : j ≠ i) :
    rowOff i base + l ≤ rowOff j base ∨ rowOff j base + l ≤ rowOff i base := by
  unfold rowOff
  omega

section
variable {f : Group → Nat → Group} {base l : Nat} {bs : Nat → List Byte}
  (writes : ∀ g i, (f g i).spad = g.spad.write (rowOff i base) (bs i)) (len : ∀ i, (bs i).length = l)
include writes len

/-- What rows write, each its own region, is read in each of them. -/
theorem spad_foldl_rows (fits : base + l ≤ 2 ^ 22) {g : Group} (wf : g.spad.wf = true) {n i : Nat} (hi : i < n) :
    ((List.range n).foldl f g).spad.read (rowOff i base) l = bs i := by
  have keeps (g : Group) (j : Nat) (wf : g.spad.wf = true) : (f g j).spad.wf = true := by
    rw [writes]
    exact Memory.write_wf wf _ _
  have others (g : Group) (j : Nat) (ne : j ≠ i) (wf : g.spad.wf = true) :
      (f g j).spad.read (rowOff i base) l = g.spad.read (rowOff i base) l := by
    rw [writes]
    exact Memory.read_write_disjoint wf (by rw [len]; exact rowOff_apart fits ne)
  obtain ⟨u, hu, -, last⟩ := foldl_read_once (P := fun g : Group => g.spad.wf = true)
    (read := fun g : Group => g.spad.read (rowOff i base) l) keeps others List.nodup_range (List.mem_range.2 hi) wf
  rw [last, writes, ← len i, Memory.read_write_same hu]

theorem spad_foldl_rows_beyond {g : Group} (wf : g.spad.wf = true) {n o : Nat}
    (out : ∀ a < n, ¬ (2 ^ 22 * a + base ≤ o ∧ o < 2 ^ 22 * a + base + l)) :
    ((List.range n).foldl f g).spad.get o = g.spad.get o := by
  refine foldl_read_unchanged (P := fun g : Group => g.spad.wf = true) (read := fun g : Group => g.spad.get o)
    (fun g j wf => by rw [writes]; exact Memory.write_wf wf _ _) (fun g a ha wf => ?_) wf
  have apart := out a (List.mem_range.1 ha)
  rw [writes, Memory.get_write wf, len, rowOff, if_neg (by omega)]

end

/-! ### What an engine may change of its group -/

/-- The group `h` is `g` but for what an engine writes: latches, accumulators, scratchpad, and its reports. -/
def Group.engineWrites (g h : Group) : Prop :=
  h = { g with chk := h.chk, fflags := h.fflags, counters := h.counters, mchk := h.mchk, active := h.active, shadow := h.shadow,
               acc := h.acc, loop := h.loop, spad := h.spad, spadPoison := h.spadPoison, newPoison := h.newPoison }

/-- The group `h` is `g` but for the sticky bits, the counters of events and the mark of an open reduction loop. -/
def Group.tallied (g h : Group) : Prop := h = { g with chk := h.chk, counters := h.counters, loop := h.loop }

namespace Group.engineWrites

theorem refl (g : Group) : g.engineWrites g := rfl

theorem trans {g h k : Group} (a : g.engineWrites h) (b : h.engineWrites k) : g.engineWrites k :=
  Eq.trans b (congrArg (fun x : Group => { x with
    chk := k.chk, fflags := k.fflags, counters := k.counters, mchk := k.mchk, active := k.active, shadow := k.shadow,
    acc := k.acc, loop := k.loop, spad := k.spad, spadPoison := k.spadPoison, newPoison := k.newPoison }) a)

theorem foldl {α : Type} {f : Group → α → Group} (step : ∀ (g : Group) (a : α), g.engineWrites (f g a)) (l : List α) (g : Group) :
    g.engineWrites (l.foldl f g) :=
  foldl_invariant (P := g.engineWrites) (fun h a w => w.trans (step h a)) l (refl g)

theorem spadWrite (g : Group) (o : Nat) (bs : List Byte) (p w : Bool) : g.engineWrites (g.spadWrite o bs p w) :=
  (Group.spadWrite_only g o bs p w).trans (by rw [Group.spadWrite_only g o bs p w])

theorem drainWrite (g : Group) (i base : Nat) (bs : List Byte) : g.engineWrites (g.drainWrite i base bs) :=
  foldl (fun h _ => spadWrite h _ _ false true) _ g

end Group.engineWrites

theorem Group.tallied.engineWrites {g h : Group} (a : g.tallied h) : g.engineWrites h :=
  Eq.trans a (by rw [a])

theorem Group.tallied.trans {g h k : Group} (a : g.tallied h) (b : h.tallied k) : g.tallied k :=
  Eq.trans b (congrArg (fun x : Group => { x with chk := k.chk, counters := k.counters, loop := k.loop }) a)

/-- What the arrays hold: the accumulators, and the active and shadow latches. -/
def Group.arrays (g : Group) : List AccEntry × List Latch × List Latch := (g.acc, g.active, g.shadow)

theorem Group.spadWrite_arrays (g : Group) (o : Nat) (bs : List Byte) (p w : Bool) : (g.spadWrite o bs p w).arrays = g.arrays :=
  (congrArg Group.arrays (Group.spadWrite_only g o bs p w)).trans rfl

theorem Group.drainWrite_arrays (g : Group) (i base : Nat) (bs : List Byte) : (g.drainWrite i base bs).arrays = g.arrays :=
  foldl_same (fun h _ => Group.spadWrite_arrays h _ _ false true) _ g

theorem Group.arrays_eq {g h : Group} (e : h.arrays = g.arrays) : h.acc = g.acc ∧ h.active = g.active ∧ h.shadow = g.shadow := by
  simpa [Group.arrays] using e

/-! ### Putting the group back, and counting -/

theorem Group.sameControl.trans {g h k : Group} (a : g.sameControl h) (b : h.sameControl k) : g.sameControl k := by
  unfold Group.sameControl at *
  simp only [b, a, and_self]

theorem Group.sameShared.trans {g h k : Group} (a : g.sameShared h) (b : h.sameShared k) : g.sameShared k := by
  unfold Group.sameShared at *
  simp only [b, a, and_self]

theorem engineOnly.trans {s t u : State} {gid : Nat} {g h k : Group} (a : engineOnly s t gid g h) (b : engineOnly t u gid h k) :
    engineOnly s u gid g k := by
  obtain ⟨_, others, vault, host, vp, hp, sa, sc, qs, eq, sems, control, shared⟩ := a
  obtain ⟨found, others', vault', host', vp', hp', sa', sc', qs', eq', sems', control', shared'⟩ := b
  exact ⟨found, fun j hj => (others' j hj).trans (others j hj), vault'.trans vault, host'.trans host, vp'.trans vp, hp'.trans hp,
    sa'.trans sa, sc'.trans sc, qs'.trans qs, eq'.trans eq, sems'.trans sems, control.trans control', shared.trans shared'⟩

/-- The counters of a stack stand apart from what engines work on. -/
theorem State.countStack_memories (s : State) (k src n : Nat) (c : Option Nat) :
    (s.countStack k src n c).vault = s.vault ∧ (s.countStack k src n c).host = s.host ∧
    (s.countStack k src n c).vaultPoison = s.vaultPoison ∧ (s.countStack k src n c).hostPoison = s.hostPoison := by
  unfold State.countStack
  split
  · exact ⟨rfl, rfl, rfl, rfl⟩
  · simp

section
variable {s : State} {gid : Nat} {g : Group} (hg : s.grp? gid = some g)
include hg

theorem engineOnly_of_groups {h : Group} (w : g.engineWrites h) {t : State} (groups : t.groups = (s.setGrp h).groups)
    (vault : t.vault = s.vault) (host : t.host = s.host) (vp : t.vaultPoison = s.vaultPoison) (hp : t.hostPoison = s.hostPoison) :
    engineOnly s t gid g h := by
  have number : h.gid = gid := (congrArg Group.gid w).trans (show g.gid = gid from State.grp?_gid hg)
  have found (k : Nat) : t.grp? k = if k = gid then (s.grp? k).map (fun _ => h) else s.grp? k := by
    rw [← number, ← State.grp?_setGrp, State.grp?, groups]
    rfl
  refine ⟨by simp [found, hg], fun k hk => by simp [found, hk], vault, host, vp, hp, ?_⟩
  unfold Group.sameControl Group.sameShared Group.semValues
  rw [w]
  simp

theorem engineOnly_refl : engineOnly s s gid g g := by simp [engineOnly, Group.sameControl, Group.sameShared, hg]

theorem engineOnly_setGrp {h : Group} (w : g.engineWrites h) : engineOnly s (s.setGrp h) gid g h :=
  engineOnly_of_groups hg w rfl rfl rfl rfl rfl

/-- An event is counted in the group's counters. -/
theorem engineOnly_count (src n : Nat) : ∃ h : Group, engineOnly s (s.count gid src n) gid g h ∧ g.tallied h := by
  let h : Group := { g with counters := g.counters.mapFinIdx (fun j v _ =>
    if src != 0 && s.gsel j == src then v + BitVec.ofNat 64 n else v) }
  have counted : s.count gid src n = (s.setGrp h).countStack g.stack0 src n (some g.ctx) := by simp only [State.count, hg, h]
  obtain ⟨vault, host, vp, hp⟩ := State.countStack_memories (s.setGrp h) g.stack0 src n (some g.ctx)
  have tally : g.tallied h := rfl
  rw [counted]
  exact ⟨h, engineOnly_of_groups hg tally.engineWrites (State.countStack_groups ..) vault host vp hp, tally⟩

/-- Poison that a command meets is noted in cr.chk and counted. -/
theorem engineOnly_dataPoison : ∃ h : Group, engineOnly s (s.dataPoison gid) gid g h ∧ g.tallied h := by
  have noted : g.tallied (g.setChk chkDP) := rfl
  have put : engineOnly s (s.mapGrp gid (fun g => g.setChk chkDP)) gid g (g.setChk chkDP) := by
    rw [State.mapGrp_eq hg]
    exact engineOnly_setGrp hg noted.engineWrites
  obtain ⟨h, counted, tally⟩ := engineOnly_count put.1 8 1
  exact ⟨h, put.trans counted, noted.trans tally⟩

/-- Counting that happens under a condition. -/
theorem engineOnly_ite {b : Prop} [Decidable b] {t : State} (counted : ∃ h : Group, engineOnly s t gid g h ∧ g.tallied h) :
    ∃ h : Group, engineOnly s (if b then s else t) gid g h ∧ g.tallied h := by
  split
  · exact ⟨g, engineOnly_refl hg, rfl⟩
  · exact counted

end

end Sys2Proof.Machine

/-! ## O43: the rounds of `mred`

The root's group takes its sums row by row (`Group.reduced`), so that each row's region of D holds the words of that row. -/

namespace Sys2Proof.Machine

open Sys2Proof

/-! ### Contributions -/

theorem contributionOf_rows (g : Group) {c : Cmd} (k : Nat) (live : c.null = false) {i j : Nat} (hi : i < g.n)
    (hj : j < (regionOf c.vA).count) {f : Format} (hf : formatOf 2 0 = some f) :
    ((contributionOf g c k).1.rows.getD i []).getD j 0 = BitVec.ofNat 32 (g.elem i (regionOf c.vA) f j).1 := by
  simp only [contributionOf, live, Group.redRows, hf, Bool.false_eq_true, if_false, List.map_map]
  simp [List.getD_eq_getElem?_getD, hi, hj]

section
variable {s : State} {gid : Nat} {g : Group} {c : Cmd} (hg : s.grp? gid = some g)
include hg

/-- The contribution to the round that the `mred` takes enters the module; only a stack that is not the root performs now (R177, R178). -/
theorem State.startMred_eq {t : State} {ends : Bool} (hs : s.startMred gid c = (t, ends)) :
    ends = (redRoot c.vB != g.drain) ∧ (contributionOf g c (s.takeRound g c).2).1 ∈ t.contribs := by
  simp only [State.startMred, hg, Prod.mk.injEq] at hs
  obtain ⟨rfl, rfl⟩ := hs
  simp [State.contribute]

/-! ### The root's round -/

/-- A contributor that is not absent and disagrees with the root about the round (R178). -/
def Contribution.disagrees (x : Contribution) (g : Group) (c : Cmd) : Bool :=
  !x.absent && (x.mask != redMask c.vB || x.root != redRoot c.vB || x.n != g.n ||
    x.rows.any (fun row => row.length != (regionOf c.vA).count))

/-- The words that the root writes in row `i`: the sums of its round, element by element. -/
def redWords (cs : List Contribution) (c : Cmd) (i : Nat) : List Nat :=
  (List.range (regionOf c.vA).count).map (fun k => ((redElem cs (redMask c.vB) i k).1.getD 0).toNat)

/-- The root's group with every row's sums in D. -/
def Group.reduced (g : Group) (cs : List Contribution) (c : Cmd) : Group :=
  (List.range g.n).foldl (fun h i => h.drainWrite i (regionOf c.vD).base ((redWords cs c i).flatMap (leBytes 4))) g

theorem State.finishMred_disagreed (live : c.null = false)
    (bad : (s.roundContribs g.ctx (redCh c.vB) ((g.roundHeld c).getD 0)).any (fun x => x.disagrees g c) = true) :
    s.finishMred gid c = .error { cause := 0x21 } := by
  simp only [State.finishMred, hg]
  exact if_pos (by rw [live]; exact bad)

theorem State.finishMred_null (null : c.null = true) :
    s.finishMred gid c = .ok (s.dropRound g.ctx (redCh c.vB) ((g.roundHeld c).getD 0)) := by
  simp [State.finishMred, hg, null]

/-- A round that completes gives the root's group its sums. -/
theorem State.finishMred_sums (live : c.null = false) {t : State} (ht : s.finishMred gid c = .ok t) :
    ∃ fl : FFlags, t = (s.dropRound g.ctx (redCh c.vB) ((g.roundHeld c).getD 0)).setGrp
      ((g.reduced (s.roundContribs g.ctx (redCh c.vB) ((g.roundHeld c).getD 0)) c).raiseFlags fl) := by
  simp only [State.finishMred, hg, live] at ht
  split at ht
  · cases ht
  · simp only [Bool.false_eq_true, if_false, mapIdx_map_range, List.foldl_map, Except.ok.injEq] at ht
    subst ht
    simp only [Group.reduced, redWords, List.flatMap_map]
    exact ⟨_, rfl⟩

end

theorem Group.engineWrites.reduced (g : Group) (cs : List Contribution) (c : Cmd) : g.engineWrites (g.reduced cs c) :=
  .foldl (fun h i => .drainWrite h i _ _) _ g

theorem Group.reduced_arrays (g : Group) (cs : List Contribution) (c : Cmd) : (g.reduced cs c).arrays = g.arrays :=
  foldl_same (fun h i => Group.drainWrite_arrays h i _ _) _ g

section
variable (g : Group) (cs : List Contribution) (c : Cmd)

theorem redWords_length (i : Nat) : (redWords cs c i).length = (regionOf c.vA).count := by simp [redWords]

theorem redWords_block_length (i : Nat) : ((redWords cs c i).flatMap (leBytes 4)).length = 4 * (regionOf c.vA).count := by
  rw [flatMap_length _ fun w _ => leBytes_length 4 w, redWords_length]

variable (wf : g.spad.wf = true)
include wf

/-- Each element of D in each row is the tree sum of its round. -/
theorem Group.reduced_element (fits : (regionOf c.vD).base + 4 * (regionOf c.vA).count ≤ 2 ^ 22) {i k : Nat} (hi : i < g.n)
    (hk : k < (regionOf c.vA).count) :
    leNat ((g.reduced cs c).spadRead (2 ^ 22 * i + (regionOf c.vD).base + 4 * k) 4) =
      ((redElem cs (redMask c.vB) i k).1.getD 0).toNat := by
  have block := spad_foldl_rows (bs := fun i => (redWords cs c i).flatMap (leBytes 4)) (fun g i => Group.drainWrite_spad g i _ _)
    (redWords_block_length cs c) fits wf hi
  have place : 2 ^ 22 * i + (regionOf c.vD).base = rowOff i (regionOf c.vD).base := by rw [rowOff, Nat.mul_comm]
  have word : (redWords cs c i).getD k 0 = ((redElem cs (redMask c.vB) i k).1.getD 0).toNat := by
    simp [redWords, List.getD_eq_getElem?_getD, hk]
  rw [place, Group.spadRead, Group.reduced, leNat_read_word block (by rwa [redWords_length]), word]
  exact Nat.mod_eq_of_lt (BitVec.isLt _)

theorem Group.reduced_beyond {o : Nat}
    (out : ∀ a < g.n, ¬ (2 ^ 22 * a + (regionOf c.vD).base ≤ o ∧ o < 2 ^ 22 * a + (regionOf c.vD).base + 4 * (regionOf c.vA).count)) :
    (g.reduced cs c).spad.get o = g.spad.get o :=
  spad_foldl_rows_beyond (bs := fun i => (redWords cs c i).flatMap (leBytes 4)) (fun g i => Group.drainWrite_spad g i _ _)
    (redWords_block_length cs c) wf out

end

/-- Settles O43: the contribution by its rows, the root's sums by the words that each row's region holds, and the checks of the round. -/
theorem reductionEffects : Obligations.ReductionEffects := by
  unfold Obligations.ReductionEffects
  intro s t gid g c ends i k o hg r d round
  refine ⟨fun hs => ?start, fun ht live wf fits => ?sums, fun live ⟨x, hx, present, differs⟩ => ?disagrees, fun null => ?null⟩
  case start =>
    obtain ⟨root, mem⟩ := State.startMred_eq hg hs
    refine ⟨by simp [root], _, mem, rfl, rfl, rfl, rfl, rfl, rfl, rfl, fun live hi hk f hf => contributionOf_rows g _ live hi hk hf⟩
  case sums =>
    obtain ⟨fl, rfl⟩ := State.finishMred_sums hg live ht
    have written := Group.engineWrites.reduced g (s.roundContribs g.ctx (redCh c.vB) round) c
    obtain ⟨acc, active, shadow⟩ := Group.arrays_eq (Group.reduced_arrays g (s.roundContribs g.ctx (redCh c.vB) round) c)
    exact ⟨_, engineOnly_of_groups hg (written.trans (k := Group.raiseFlags _ fl) rfl) rfl rfl rfl rfl rfl, acc, active, shadow,
      fun hi hk => Group.reduced_element g _ c wf fits hi hk, Group.reduced_beyond g _ c wf⟩
  case disagrees =>
    refine State.finishMred_disagreed hg live (List.any_eq_true.2 ⟨x, hx, ?_⟩)
    rcases differs with h | h | h | ⟨row, hrow, h⟩
    · simp [Contribution.disagrees, present, h]
    · simp [Contribution.disagrees, present, h]
    · simp [Contribution.disagrees, present, h]
    · simp only [Contribution.disagrees, present, Bool.not_false, Bool.true_and, Bool.or_eq_true, List.any_eq_true]
      exact .inr ⟨row, hrow, by simpa using h⟩
  case null =>
    refine ⟨_, State.finishMred_null hg null, rfl, fun x => ?_⟩
    simp only [State.dropRound, List.mem_filter, Bool.not_eq_true', Bool.and_eq_false_iff, beq_eq_false_iff_ne]
    tauto

end Sys2Proof.Machine

/-! ## O42: accumulator entries, `mzero` and `mm`

Both remake the entries of an accumulator descriptor, each from what it held (`Group.remakeAcc`); what `mm` makes of one is read lane by
lane, down the chain of columns (`passEntry_lane`). -/

namespace Sys2Proof.Machine

open Sys2Proof

/-! ### Accumulator entries -/

/-- The entry `e` stands for row `i` and number `k`. -/
def AccEntry.keyed (i k : Nat) (e : AccEntry) : Bool := e.row == i && e.entry == k

theorem Group.accEntry_eq (g : Group) (i k : Nat) : g.accEntry i k = (g.acc.find? (AccEntry.keyed i k)).getD (AccEntry.clean i k) := rfl

theorem Group.accEntry_keyed (g : Group) (i k : Nat) : (g.accEntry i k).keyed i k = true := by
  rw [Group.accEntry_eq]
  cases found : g.acc.find? (AccEntry.keyed i k) with
  | none => simp [AccEntry.keyed, AccEntry.clean]
  | some e => exact List.find?_some found

section
variable {e : AccEntry} {i k : Nat}

theorem find?_insertAcc_same (l : List AccEntry) (here : e.keyed i k = true) :
    (insertAcc e l).find? (AccEntry.keyed i k) = some e := by
  induction l with
  | nil => exact List.find?_cons_of_pos here
  | cons f l ih =>
    unfold insertAcc
    split_ifs with before same
    · exact List.find?_cons_of_pos here
    · exact List.find?_cons_of_pos here
    · have other : ¬ f.keyed i k = true := by
        simp only [AccEntry.keyed, Bool.and_eq_true, beq_iff_eq] at here same ⊢
        omega
      rw [List.find?_cons_of_neg other, ih]

theorem find?_insertAcc_other (l : List AccEntry) (here : ¬ e.keyed i k = true) :
    (insertAcc e l).find? (AccEntry.keyed i k) = l.find? (AccEntry.keyed i k) := by
  induction l with
  | nil => exact List.find?_cons_of_neg here
  | cons f l ih =>
    unfold insertAcc
    split_ifs with before same
    · exact List.find?_cons_of_neg here
    · have other : ¬ f.keyed i k = true := by
        simp only [AccEntry.keyed, Bool.and_eq_true, beq_iff_eq] at here same ⊢
        omega
      rw [List.find?_cons_of_neg here, List.find?_cons_of_neg other]
    · simp only [List.find?_cons, ih]

end

theorem Group.accEntry_setAcc (g : Group) (e : AccEntry) (i k : Nat) :
    (g.setAcc e).accEntry i k = if e.keyed i k then e else g.accEntry i k := by
  rw [Group.accEntry_eq, Group.accEntry_eq, Group.setAcc]
  split
  · rw [find?_insertAcc_same g.acc ‹_›]
    rfl
  · rw [find?_insertAcc_other g.acc ‹_›]

/-! ### Updates of the entries that an accumulator descriptor names -/

/-- Every entry `e0` to `e0 + v - 1` of the rows below `n`, remade by `f` from its row, its place and what it held. -/
def Group.remakeAcc (g : Group) (n e0 v : Nat) (f : Nat → Nat → AccEntry → AccEntry) : Group :=
  (List.range n).foldl (fun h i => (List.range v).foldl (fun h j => h.setAcc (f i j (h.accEntry i (e0 + j)))) h) g

section
variable {n e0 v : Nat} {f : Nat → Nat → AccEntry → AccEntry}
  (keyed : ∀ i j e, e.keyed i (e0 + j) = true → (f i j e).keyed i (e0 + j) = true)
include keyed

theorem Group.accEntry_remake_other (g : Group) (i j : Nat) {a b : Nat} (ne : a ≠ i ∨ b ≠ e0 + j) :
    (g.setAcc (f i j (g.accEntry i (e0 + j)))).accEntry a b = g.accEntry a b := by
  have key := keyed i j _ (g.accEntry_keyed i (e0 + j))
  rw [Group.accEntry_setAcc, if_neg]
  simp only [AccEntry.keyed, Bool.and_eq_true, beq_iff_eq] at key ⊢
  omega

theorem Group.accEntry_remakeAcc (g : Group) {i k : Nat} (hi : i < n) (low : e0 ≤ k) (high : k < e0 + v) :
    (g.remakeAcc n e0 v f).accEntry i k = f i (k - e0) (g.accEntry i k) := by
  obtain ⟨j, rfl⟩ := Nat.exists_eq_add_of_le low
  have always (h : Group) (a : Nat) (_ : True) : True := trivial
  have otherRow (h : Group) (a : Nat) (ne : a ≠ i) (_ : True) :
      ((List.range v).foldl (fun h j => h.setAcc (f a j (h.accEntry a (e0 + j)))) h).accEntry i (e0 + j) = h.accEntry i (e0 + j) :=
    foldl_same (read := fun h : Group => h.accEntry i (e0 + j)) (fun h j => h.accEntry_remake_other keyed a j (.inl (Ne.symm ne))) _ h
  obtain ⟨u, -, same, row⟩ := foldl_read_once (P := fun _ => True) (read := fun h : Group => h.accEntry i (e0 + j)) always otherRow
    List.nodup_range (List.mem_range.2 hi) (s := g) trivial
  have otherEntry (h : Group) (b : Nat) (ne : b ≠ j) (_ : True) :
      (h.setAcc (f i b (h.accEntry i (e0 + b)))).accEntry i (e0 + j) = h.accEntry i (e0 + j) :=
    h.accEntry_remake_other keyed i b (.inr (by omega))
  obtain ⟨w, -, same', entry⟩ := foldl_read_once (P := fun _ => True) (read := fun h : Group => h.accEntry i (e0 + j)) always otherEntry
    List.nodup_range (List.mem_range.2 (by omega : j < v)) (s := u) trivial
  rw [Group.remakeAcc, row, entry, Group.accEntry_setAcc, if_pos (keyed i j _ (w.accEntry_keyed i (e0 + j))), same', same,
    Nat.add_sub_cancel_left]

theorem Group.accEntry_remakeAcc_other (g : Group) {i k : Nat} (out : ¬ (i < n ∧ e0 ≤ k ∧ k < e0 + v)) :
    (g.remakeAcc n e0 v f).accEntry i k = g.accEntry i k := by
  have always (h : Group) (a : Nat) (_ : True) : True := trivial
  refine foldl_read_unchanged (P := fun _ => True) (read := fun h : Group => h.accEntry i k) always (fun h a ha _ => ?_) trivial
  refine foldl_read_unchanged (P := fun _ => True) (read := fun h : Group => h.accEntry i k) always (fun h b hb _ => ?_) trivial
  have := List.mem_range.1 ha
  have := List.mem_range.1 hb
  exact h.accEntry_remake_other keyed a b (by omega)

end

/-- The group `h` is `g` but for its accumulators. -/
def Group.accOnly (g h : Group) : Prop := h = { g with acc := h.acc }

theorem Group.accOnly_remakeAcc (g : Group) (n e0 v : Nat) (f : Nat → Nat → AccEntry → AccEntry) : g.accOnly (g.remakeAcc n e0 v f) := by
  have trans (h : Group) (e : AccEntry) (w : g.accOnly h) : g.accOnly (h.setAcc e) :=
    Eq.trans rfl (congrArg (fun x : Group => { x with acc := (h.setAcc e).acc }) w)
  exact foldl_invariant (fun h i w => foldl_invariant (fun h j w => trans h _ w) _ w) _ rfl

theorem Group.accOnly.engineWrites {g h : Group} (a : g.accOnly h) : g.engineWrites h := Eq.trans a (by rw [a])

/-! ### `mzero` (R175) -/

/-- The entry that `mzero` leaves. -/
def zeroEntry (i k : Nat) : AccEntry := { AccEntry.clean i k with dirty := true }

def Group.zeroed (g : Group) (c : Cmd) : Group := g.remakeAcc g.n (accE c.vD) (accV c.vD) (fun i j _ => zeroEntry i (accE c.vD + j))

theorem State.performMzero_eq {s : State} {gid : Nat} {g : Group} (hg : s.grp? gid = some g) (c : Cmd) :
    s.performMzero gid c = s.setGrp (g.zeroed c) :=
  State.mapGrp_eq hg _

/-! ### The sums of a pass (R95 to R97) -/

theorem addLanes_length (a b : List F32) : (addLanes a b).1.length = min a.length b.length := by simp [addLanes]

theorem addLanes_lane {a b : List F32} {j : Nat} (ha : j < a.length) (hb : j < b.length) :
    (addLanes a b).1.getD j 0 = (addF32 (a.getD j 0) (b.getD j 0)).1 := by
  simp [addLanes, List.getD_eq_getElem?_getD, ha, hb]

theorem cellSums_length (block : Bool) (tile : List (List (Option (Nat × XVal)))) (nans : List Bool) (ks : List Nat) (a1 a2 : List F32)
    (x : Nat → Option XVal) : (cellSums block tile nans ks a1 a2 x).1.length = tile.length + 2 := by
  simp [cellSums]

theorem cellSums_lane (block : Bool) {tile : List (List (Option (Nat × XVal)))} (nans : List Bool) (ks : List Nat) (a1 a2 : List F32)
    (x : Nat → Option XVal) {j : Nat} (hj : j < tile.length) :
    (cellSums block tile nans ks a1 a2 x).1.getD j 0 = (laneSum block x (nans.getD j false) (tile.getD j [])).1 := by
  simp [cellSums, List.getD_eq_getElem?_getD, List.getElem?_append_left, hj]

theorem chainSum_append {l : List (List F32 × FFlags)} (some : l ≠ []) (c : List F32 × FFlags) :
    (chainSum (l ++ [c])).1 = (addLanes (chainSum l).1 c.1).1 := by
  cases l with
  | nil => exact absurd rfl some
  | cons b l => simp [chainSum, List.foldl_append]

/-- The partial sum over columns that each give 34 lanes, lane by lane. -/
theorem chainSum_lane {S : Nat → List F32 × FFlags} {n j : Nat} (hj : j < 34) (len : ∀ col < n + 1, (S col).1.length = 34) :
    (chainSum ((List.range (n + 1)).map S)).1.length = 34 ∧
    (chainSum ((List.range (n + 1)).map S)).1.getD j 0 =
      (List.range n).foldl (fun a m => (addF32 a ((S (m + 1)).1.getD j 0)).1) ((S 0).1.getD j 0) := by
  induction n with
  | zero => exact ⟨len 0 Nat.one_pos, rfl⟩
  | succ n ih =>
    obtain ⟨west, lane⟩ := ih fun col h => len col (Nat.lt_succ_of_lt h)
    have east := len (n + 1) (Nat.lt_succ_self _)
    have split : (chainSum ((List.range (n + 1 + 1)).map S)).1 = (addLanes (chainSum ((List.range (n + 1)).map S)).1 (S (n + 1)).1).1 := by
      rw [List.range_succ, List.map_append]
      exact chainSum_append (by simp) _
    rw [split]
    refine ⟨by rw [addLanes_length, west, east, Nat.min_self], ?_⟩
    rw [addLanes_lane (by rwa [west]) (by rwa [east]), lane, List.range_succ, List.foldl_append]
    rfl

/-! ### `mm` (R174) -/

/-- The group with its latch sets exchanged where SWAP is set. -/
def Group.swapped (g : Group) (c : Cmd) : Group := if c.mod.getLsbD 0 then { g with active := g.shadow, shadow := g.active } else g

/-- The activations of vector `j`, and whether one is poisoned. -/
def Group.vector (g : Group) (c : Cmd) (f : Format) (j : Nat) : List XVal × Bool :=
  g.activations (regionOf c.vA) f ((regionOf c.vA).base + j * wbits c.vB 25 0)

/-- The group after a pass of every vector through every row. -/
def Group.passed (g : Group) (now : Nat) (c : Cmd) (f : Format) : Group :=
  g.remakeAcc g.n (accE c.vD) (accV c.vD) (fun i j e =>
    passEntry now i (g.columns i (cfgCols c.cfg) (regionOf c.vA).fmt (c.word 1)) (c.mod.getLsbD 1) (g.vector c f j).1 e)

theorem State.performMm_eq {s : State} {gid : Nat} {g : Group} (hg : s.grp? gid = some g) {c : Cmd} {f : Format}
    (hf : formatOf (regionOf c.vA).fmt (c.word 1) = some f) :
    s.performMm gid c =
      if ((List.range (accV c.vD)).map ((g.swapped c).vector c f)).any Prod.snd
      then (s.setGrp ((g.swapped c).passed s.now c f)).dataPoison gid else s.setGrp ((g.swapped c).passed s.now c f) := by
  simp only [State.performMm, hg, hf, mapIdx_map_range, List.foldl_map]
  rfl

theorem Group.swapped_eq (g : Group) (c : Cmd) : g.swapped c = { g with
    active := if c.mod.getLsbD 0 then g.shadow else g.active, shadow := if c.mod.getLsbD 0 then g.active else g.shadow } := by
  unfold Group.swapped
  split <;> rfl

theorem passEntry_keyed (now i : Nat) (cols : List (Option Column)) (acc : Bool) (xs : List XVal) (e : AccEntry) (a k : Nat) :
    (passEntry now i cols acc xs e).keyed a k = e.keyed a k ∧ (passEntry now i cols acc xs e).dirty = true := by
  unfold passEntry
  cases acc <;> exact ⟨rfl, rfl⟩

theorem columnSums_length (now i col : Nat) {C : Column} (tile : C.tile.length = 32) (x : Nat → Option XVal) :
    (columnSums now i col (some C) x).1.length = 34 :=
  (cellSums_length ..).trans (by rw [tile])

/-- A lane of an entry after a pass: the chain's partial sum, added to what stood there where ACC is set. -/
theorem passEntry_lane (now i : Nat) (acc : Bool) (xs : List XVal) {e : AccEntry} (len : e.lanes.length = 34) {j n : Nat} (hj : j < 32)
    {C : Nat → Column} (tile : ∀ col < n + 1, (C col).tile.length = 32) :
    let one (col : Nat) : F32 :=
      (laneSum (C col).block (fun k => xs[k]?) ((C col).nans.getD j false) ((C col).tile.getD j [])).1
    let sum := (List.range n).foldl (fun a m => (addF32 a (one (m + 1))).1) (one 0)
    (passEntry now i ((List.range (n + 1)).map (fun col => some (C col))) acc xs e).lanes.getD j 0 =
      if acc then (addF32 (e.lanes.getD j 0) sum).1 else sum := by
  intro one sum
  let S (col : Nat) : List F32 × FFlags := columnSums now i col (some (C col)) (fun k => xs[k]?)
  have lane (col : Nat) (hc : col < n + 1) : (S col).1.getD j 0 = one col := cellSums_lane _ _ _ _ _ _ (by rwa [tile col hc])
  obtain ⟨chain, total⟩ := chainSum_lane (S := S) (j := j) (by omega) fun col hc => columnSums_length now i col (tile col hc) _
  have same : (chainSum ((List.range (n + 1)).map S)).1.getD j 0 = sum := by
    rw [total, lane 0 (Nat.succ_pos n)]
    exact List.foldl_ext _ _ _ fun a m hm => by rw [lane (m + 1) (Nat.succ_lt_succ (List.mem_range.1 hm))]
  rw [passEntry, mapIdx_map_range]
  cases acc
  · exact same
  · have added := addLanes_lane (a := e.lanes) (b := (chainSum ((List.range (n + 1)).map S)).1) (j := j) (by omega) (by omega)
    rw [same] at added
    exact added

theorem Latch.struck_of_whole {l : Latch} (hits : l.hits = []) : l.struck = l := by
  cases l
  subst hits
  rfl

/-- The column that a latch without struck bytes gives a pass. -/
def Latch.column (l : Latch) (f : Format) (col ai : Nat) (aw : BitVec 32) : Column :=
  { tile := l.tile f col, nans := l.nanLanes f, ks := l.kpos col, a1 := checkVector false (l.tile f col) (l.kpos col),
    a2 := checkVector true (l.tile f col) (l.kpos col), block := (pairing l.fmt l.eword ai aw).any Pairing.block, ic := l.ic f }

/-- The columns of a row whose latches are filled and whole. -/
theorem Group.columns_of_latches (g : Group) {i n ai : Nat} {aw : BitVec 32} {L : Nat → Latch} {F : Nat → Format}
    (latches : ∀ col < n, g.active.find? (fun l => l.row == i && l.col == col) = some (L col) ∧
      formatOf (L col).fmt (L col).eword = some (F col) ∧ (L col).hits = [] ∧ (L col).sums = []) :
    g.columns i n ai aw = (List.range n).map (fun col => some ((L col).column (F col) col ai aw)) := by
  refine List.map_congr_left fun col hcol => ?_
  obtain ⟨found, format, hits, sums⟩ := latches col (List.mem_range.1 hcol)
  have vector (weighted : Bool) (a : List F32) : (L col).struckSums weighted a = a := by simp [Latch.struckSums, sums]
  simp only [found, format, Latch.struck_of_whole hits, vector, Option.bind_some, Option.map_some, Latch.column]
  cases pairing (L col).fmt (L col).eword ai aw <;> rfl

theorem Latch.tile_length (l : Latch) (f : Format) (t : Nat) : (l.tile f t).length = 32 := by simp [Latch.tile]

theorem Latch.tile_lane (l : Latch) (f : Format) (t : Nat) {j : Nat} (hj : j < 32) :
    (l.tile f t).getD j [] = (List.range 32).map (fun p => l.at_ f t j p) := by
  simp [Latch.tile, List.getD_eq_getElem?_getD, hj]

/-- The activation at a K index: that of the vector's element, none beyond its COUNT. -/
theorem Group.vector_get (g : Group) (c : Cmd) (f : Format) (j m : Nat) :
    (g.vector c f j).1[m]? =
      let vec : Region := { regionOf c.vA with base := (regionOf c.vA).base + j * wbits c.vB 25 0 }
      if m < (regionOf c.vA).count then some (g.elemVal 0 vec f m).1 else none := by
  simp only [Group.vector, Group.activations, List.map_map, List.getElem?_map]
  split
  · simp [‹m < _›]
  · simp [Nat.le_of_not_lt ‹_›]

theorem Group.elemVal_swapped (g : Group) (c : Cmd) : (g.swapped c).elemVal = g.elemVal := by
  rw [Group.swapped_eq]
  rfl

/-- A lane of an entry that a pass has reached, from latches that are filled and whole. -/
theorem Group.passed_lane (g : Group) (now : Nat) (c : Cmd) (f : Format) {i k j : Nat} (hi : i < g.n) (low : accE c.vD ≤ k)
    (high : k < accE c.vD + accV c.vD) (hj : j < 32) (len : (g.accEntry i k).lanes.length = 34) (pos : 0 < cfgCols c.cfg)
    {L : Nat → Latch} {F : Nat → Format}
    (latches : ∀ col < cfgCols c.cfg, g.active.find? (fun l => l.row == i && l.col == col) = some (L col) ∧
      formatOf (L col).fmt (L col).eword = some (F col) ∧ (L col).hits = [] ∧ (L col).sums = []) :
    let one (col : Nat) : F32 :=
      (laneSum ((pairing (L col).fmt (L col).eword (regionOf c.vA).fmt (c.word 1)).any Pairing.block)
        (fun m => (g.vector c f (k - accE c.vD)).1[m]?) (((L col).nanLanes (F col)).getD j false)
        ((List.range 32).map (fun p => (L col).at_ (F col) col j p))).1
    let sum := (List.range (cfgCols c.cfg - 1)).foldl (fun a m => (addF32 a (one (m + 1))).1) (one 0)
    ((g.passed now c f).accEntry i k).lanes.getD j 0 =
      (if c.mod.getLsbD 1 then (addF32 ((g.accEntry i k).lanes.getD j 0) sum).1 else sum) ∧
    ((g.passed now c f).accEntry i k).dirty = true := by
  intro one sum
  have keyed (i j : Nat) (e : AccEntry) (h : e.keyed i (accE c.vD + j) = true) :=
    (passEntry_keyed now i (g.columns i (cfgCols c.cfg) (regionOf c.vA).fmt (c.word 1)) (c.mod.getLsbD 1) (g.vector c f j).1 e i
      (accE c.vD + j)).1.trans h
  obtain ⟨n, hn⟩ := Nat.exists_eq_add_one.2 pos
  rw [Group.passed, Group.accEntry_remakeAcc keyed g hi low high]
  refine ⟨?_, (passEntry_keyed _ _ _ _ _ _ i k).2⟩
  rw [hn] at latches
  rw [hn, Group.columns_of_latches g latches, passEntry_lane now i _ _ len hj fun col _ => Latch.tile_length _ _ _]
  simp only [Latch.column, Latch.tile_lane _ _ _ hj, sum, one, hn, Nat.add_sub_cancel]

theorem Group.passed_other (g : Group) (now : Nat) (c : Cmd) (f : Format) {i k : Nat}
    (out : ¬ (i < g.n ∧ accE c.vD ≤ k ∧ k < accE c.vD + accV c.vD)) : (g.passed now c f).accEntry i k = g.accEntry i k :=
  Group.accEntry_remakeAcc_other (fun i _ _ h => (passEntry_keyed _ _ _ _ _ _ i _).1.trans h) g out

theorem Group.zeroed_named (g : Group) (c : Cmd) {i k : Nat} (hi : i < g.n) (low : accE c.vD ≤ k) (high : k < accE c.vD + accV c.vD) :
    (g.zeroed c).accEntry i k = zeroEntry i k := by
  rw [Group.zeroed, Group.accEntry_remakeAcc (fun i j _ _ => by simp [zeroEntry, AccEntry.clean, AccEntry.keyed]) g hi low high,
    Nat.add_sub_cancel' low]

theorem Group.zeroed_other (g : Group) (c : Cmd) {i k : Nat} (out : ¬ (i < g.n ∧ accE c.vD ≤ k ∧ k < accE c.vD + accV c.vD)) :
    (g.zeroed c).accEntry i k = g.accEntry i k :=
  Group.accEntry_remakeAcc_other (fun i j _ _ => by simp [zeroEntry, AccEntry.clean, AccEntry.keyed]) g out

/-- What `mm` leaves: the group after its pass, counted where an activation was poisoned. -/
theorem State.performMm_effect {s : State} {gid : Nat} {g : Group} (hg : s.grp? gid = some g) {c : Cmd} {f : Format}
    (hf : formatOf (regionOf c.vA).fmt (c.word 1) = some f) :
    ∃ h : Group, engineOnly s (s.performMm gid c) gid g h ∧ ((g.swapped c).passed s.now c f).tallied h := by
  have swap : g.engineWrites (g.swapped c) := by
    rw [Group.swapped_eq]
    rfl
  have pass : engineOnly s (s.setGrp ((g.swapped c).passed s.now c f)) gid g ((g.swapped c).passed s.now c f) :=
    engineOnly_setGrp hg (swap.trans (Group.accOnly_remakeAcc _ _ _ _ _).engineWrites)
  rw [State.performMm_eq hg hf]
  split
  · obtain ⟨h, counted, tally⟩ := engineOnly_dataPoison pass.1
    exact ⟨h, pass.trans counted, tally⟩
  · exact ⟨_, pass, rfl⟩

end Sys2Proof.Machine

/-! ## O42: latch loads

A load drops the shadow latches of the chain's columns and lists those of its cells behind the others, so that a latch is found by the
cell that it is for. -/

namespace Sys2Proof.Machine

open Sys2Proof

/-! ### `ml` and `ml.t` (R173) -/

theorem Cmd.mlAttr_eq (c : Cmd) (t : Bool) :
    c.mlAttr t = (c.imm.toNat % 16, if t then 0 else c.imm.toNat / 16 % 4, c.word 0) := by
  simp [Cmd.mlAttr, BitVec.extractLsb'_toNat, Nat.shiftRight_eq_div_pow]

theorem cellPlace_eq (g : Group) (d : Word) (i col : Nat) : cellPlace g d i col = g.slotPlace d i col := rfl

theorem Group.mem_cells (g : Group) (cols i col : Nat) : (i, col) ∈ g.cells cols ↔ i < g.n ∧ col < cols := by
  simp [Group.cells]

/-- The latch that a load fills for cell (i, col), and whether a sector of its slot is poisoned. -/
def State.cellLoad (s : State) (v : Viewer) (g : Group) (c : Cmd) (t : Bool) (f : Format) (x : Nat × Nat) : Latch × Bool :=
  let tile := s.slotImage v (g.slotPlace c.vD x.1 x.2) (tileBytes f (c.mlAttr t).2.1)
  (loadLatch v.bind x.1 x.2 (c.mlAttr t).1 (c.mlAttr t).2.1 t c.vD c.imm (c.mlAttr t).2.2 tile.1, tile.2)

/-- The loads of every cell of the first `cols` columns. -/
def State.cellLoads (s : State) (v : Viewer) (g : Group) (c : Cmd) (t : Bool) (f : Format) (cols : Nat) : List (Latch × Bool) :=
  (g.cells cols).map (s.cellLoad v g c t f)

/-- A load from a poisoned slot counts in its row (R182). -/
def Group.countLoad (g : Group) (x : Latch × Bool) : Group :=
  g.setMchk x.1.row { g.mchkRow x.1.row with pois := satAdd (g.mchkRow x.1.row).pois 1 }

/-- The group with the loads of its cells in the shadow latches, and those from poisoned slots counted. -/
def Group.loaded (g : Group) (cols : Nat) (loads : List (Latch × Bool)) : Group :=
  (loads.filter Prod.snd).foldl Group.countLoad { g with shadow := g.shadow.filter (fun l => cols ≤ l.col) ++ loads.map Prod.fst }

section
variable {s : State} {gid : Nat} {g : Group} (hg : s.grp? gid = some g) {c : Cmd} (t : Bool)
include hg

theorem State.performMl_trap {i col : Nat} (hi : i < g.n) (hcol : col < cfgCols c.cfg) (foreign : s.owns g.ctx (cellPlace g c.vD i col) = false) :
    ∃ i col : Nat, i < g.n ∧ col < cfgCols c.cfg ∧ s.owns g.ctx (cellPlace g c.vD i col) = false ∧
      s.performMl gid c t = .error { cause := 0x09, phys := true, addr := cellPlace g c.vD i col } := by
  cases found : (g.cells (cfgCols c.cfg)).find? (fun x => !s.owns g.ctx (g.slotPlace c.vD x.1 x.2)) with
  | none =>
    have owned := List.find?_eq_none.1 found (i, col) ((g.mem_cells _ i col).2 ⟨hi, hcol⟩)
    exact absurd (by simpa [cellPlace_eq] using foreign) owned
  | some x =>
    obtain ⟨hx, hy⟩ := (g.mem_cells _ x.1 x.2).1 (List.mem_of_find?_eq_some found)
    have unowned := List.find?_some found
    refine ⟨x.1, x.2, hx, hy, by simpa [cellPlace_eq] using unowned, ?_⟩
    simp only [State.performMl, hg, found]
    rfl

theorem State.performMl_eq {f : Format} (hf : formatOf (c.mlAttr t).1 (c.mlAttr t).2.2 = some f)
    (owned : ∀ i col : Nat, i < g.n → col < cfgCols c.cfg → s.owns g.ctx (cellPlace g c.vD i col) = true) :
    let loads := s.cellLoads (engineViewer gid (bindOf g.ctx c.bind)) g c t f (cfgCols c.cfg)
    let u := s.setGrp (g.loaded (cfgCols c.cfg) loads)
    s.performMl gid c t = .ok (if (loads.filter Prod.snd).isEmpty then u else u.dataPoison gid) := by
  have none : (g.cells (cfgCols c.cfg)).find? (fun x => !s.owns g.ctx (g.slotPlace c.vD x.1 x.2)) = none := by
    refine List.find?_eq_none.2 fun x hx => ?_
    obtain ⟨hi, hcol⟩ := (g.mem_cells _ x.1 x.2).1 hx
    simpa [cellPlace_eq] using owned x.1 x.2 hi hcol
  simp only [State.performMl, hg, none, hf]
  rfl

end

section
variable (g : Group) (cols : Nat) (loads : List (Latch × Bool))

theorem Group.engineWrites.loaded : g.engineWrites (g.loaded cols loads) :=
  Group.engineWrites.trans (h := { g with shadow := g.shadow.filter (fun l => cols ≤ l.col) ++ loads.map Prod.fst }) rfl
    (.foldl (f := Group.countLoad) (fun _ _ => rfl) _ _)

theorem Group.loaded_arrays :
    (g.loaded cols loads).arrays = (g.acc, g.active, g.shadow.filter (fun l => cols ≤ l.col) ++ loads.map Prod.fst) :=
  foldl_same (f := Group.countLoad) (read := Group.arrays) (fun _ _ => rfl) _ _

theorem Group.loaded_spad : (g.loaded cols loads).spad = g.spad :=
  foldl_same (f := Group.countLoad) (read := Group.spad) (fun _ _ => rfl) _ _

end

/-- The byte of a latch at each place of its tile: the slot's, or zero where its sector is poisoned (R160). -/
theorem State.slotImage_get (s : State) (v : Viewer) (p : Nat) {n k : Nat} (hk : k < n) :
    (s.slotImage v p n).1.get k =
      if s.viewPoison (s.visible v) (.vault (p + k)) then 0 else s.viewByte v (s.visible v) (.vault (p + k)) := by
  have empty : Memory.wf [] = true := rfl
  simp [State.slotImage, Memory.get_write empty, List.getD_eq_getElem?_getD, hk]

/-- The latch of cell (i, col). -/
def Latch.keyed (i col : Nat) (l : Latch) : Bool := l.row == i && l.col == col

theorem find?_eq_of_unique {α : Type} {p : α → Bool} {l : List α} {a : α} (mem : a ∈ l) (here : p a = true)
    (unique : ∀ b ∈ l, p b = true → b = a) : l.find? p = some a := by
  cases found : l.find? p with
  | none => exact absurd here (List.find?_eq_none.1 found a mem)
  | some b => rw [unique b (List.mem_of_find?_eq_some found) (List.find?_some found)]

section
variable (s : State) (v : Viewer) (g : Group) (c : Cmd) (t : Bool) (f : Format)

/-- The latches that a load fills. -/
def State.cellLatches (cols : Nat) : List Latch := (s.cellLoads v g c t f cols).map Prod.fst

theorem State.mem_cellLatches {cols : Nat} {l : Latch} : l ∈ s.cellLatches v g c t f cols ↔
    ∃ x : Nat × Nat, (x.1 < g.n ∧ x.2 < cols) ∧ (s.cellLoad v g c t f x).1 = l := by
  simp only [State.cellLatches, State.cellLoads, List.mem_map, exists_exists_and_eq_and, ← Group.mem_cells]

variable {cols i col : Nat} (shadow : List Latch)

theorem State.find?_cellLatches (hi : i < g.n) (hcol : col < cols) :
    (shadow.filter (fun l => cols ≤ l.col) ++ s.cellLatches v g c t f cols).find? (Latch.keyed i col) =
      some (s.cellLoad v g c t f (i, col)).1 := by
  refine find?_eq_of_unique (List.mem_append_right _ ((s.mem_cellLatches v g c t f).2 ⟨(i, col), ⟨hi, hcol⟩, rfl⟩)) ?_ fun l hl here => ?_
  · simp [Latch.keyed, State.cellLoad, loadLatch]
  · simp only [Latch.keyed, Bool.and_eq_true, beq_iff_eq] at here
    obtain ⟨row, column⟩ := here
    rcases List.mem_append.1 hl with old | new
    · have := (List.mem_filter.1 old).2
      simp at this
      omega
    · obtain ⟨x, -, rfl⟩ := (s.mem_cellLatches v g c t f).1 new
      rw [← row, ← column]
      rfl

theorem State.find?_cellLatches_other (hcol : cols ≤ col) :
    (shadow.filter (fun l => cols ≤ l.col) ++ s.cellLatches v g c t f cols).find? (Latch.keyed i col) = shadow.find? (Latch.keyed i col) := by
  have fresh : (s.cellLatches v g c t f cols).find? (Latch.keyed i col) = none := by
    refine List.find?_eq_none.2 fun l hl here => ?_
    obtain ⟨x, ⟨-, inside⟩, rfl⟩ := (s.mem_cellLatches v g c t f).1 hl
    simp only [Latch.keyed, State.cellLoad, loadLatch, Bool.and_eq_true, beq_iff_eq] at here
    omega
  have kept : (fun l : Latch => decide (decide (cols ≤ l.col) = true ∧ l.keyed i col = true)) = Latch.keyed i col := by
    funext l
    rw [Bool.eq_iff_iff]
    simp only [Latch.keyed, Bool.and_eq_true, decide_eq_true_eq, beq_iff_eq]
    omega
  rw [List.find?_append, fresh, Option.or_none, List.find?_filter, kept]

end

/-- What a load leaves: the group with the latches of its cells, counted where a slot was poisoned. -/
theorem State.performMl_effect {s : State} {gid : Nat} {g : Group} (hg : s.grp? gid = some g) {c : Cmd} (t : Bool) {f : Format}
    (hf : formatOf (c.mlAttr t).1 (c.mlAttr t).2.2 = some f)
    (owned : ∀ i col : Nat, i < g.n → col < cfgCols c.cfg → s.owns g.ctx (cellPlace g c.vD i col) = true) :
    let loads := s.cellLoads (engineViewer gid (bindOf g.ctx c.bind)) g c t f (cfgCols c.cfg)
    ∃ (u : State) (h : Group), s.performMl gid c t = .ok u ∧ engineOnly s u gid g h ∧ (g.loaded (cfgCols c.cfg) loads).tallied h := by
  intro loads
  have put := engineOnly_setGrp hg (Group.engineWrites.loaded g (cfgCols c.cfg) loads)
  obtain ⟨h, counted, tally⟩ := engineOnly_ite (b := (loads.filter Prod.snd).isEmpty = true) put.1 (engineOnly_dataPoison put.1)
  exact ⟨_, h, State.performMl_eq hg t hf owned, put.trans counted, tally⟩

end Sys2Proof.Machine

/-! ## O42: `mdrain`

Each row's region holds the packed encodings of that row (`Group.drained_block`), in which lane 32k + j is found by its place. -/

namespace Sys2Proof.Machine

open Sys2Proof

/-! ### Formats of a region -/

/-- The widths of the formats (R69, R83). -/
theorem formatOf_width {i : Nat} {w : BitVec 32} {f : Format} (hf : formatOf i w = some f) :
    f.width = 4 ∨ f.width = 8 ∨ f.width = 16 ∨ f.width = 32 := by
  unfold formatOf at hf
  split at hf
  case h_11 =>
    split at hf
    · rename_i valid
      cases hf
      simp only [entryValid, Bool.and_eq_true, Bool.or_eq_true, beq_iff_eq] at valid
      simp only [entryFormat]
      omega
    · cases hf
  all_goals
    cases hf
    decide

/-- A 4-bit element is half a byte of its region, any other fills whole bytes. -/
theorem Format.size_of_wide {f : Format} (h : f.width = 8 ∨ f.width = 16 ∨ f.width = 32) : 8 * f.size = f.width ∧ f.width ≠ 4 := by
  rcases h with h | h | h <;> simp [Format.size, h]

theorem packElems_wide {f : Format} (wide : f.width ≠ 4) (es : List Nat) : packElems f es = es.flatMap (leBytes f.size) := by
  induction es using List.twoStepInduction with
  | nil => rfl
  | singleton a => simp [packElems, wide]
  | cons_cons a b rest ih _ => simp [packElems, wide, ih]

theorem packElems_half_length {f : Format} (half : f.width = 4) (es : List Nat) : (packElems f es).length = (es.length + 1) / 2 := by
  induction es using List.twoStepInduction with
  | nil => rfl
  | singleton a => simp [packElems, half]
  | cons_cons a b rest ih _ =>
    simp only [packElems, half, beq_self_eq_true, if_true, List.length_cons, ih]
    omega

/-- A 4-bit element is read from its half of its byte. -/
theorem packElems_half_get {f : Format} (half : f.width = 4) (es : List Nat) {n : Nat} (hn : n < es.length) :
    ((packElems f es).getD (n / 2) 0).toNat / 16 ^ (n % 2) % 16 = es.getD n 0 % 16 := by
  induction es using List.twoStepInduction generalizing n with
  | nil => exact absurd hn (Nat.not_lt_zero n)
  | singleton a =>
    obtain rfl : n = 0 := by simpa using hn
    simp [packElems, half]
  | cons_cons a b rest ih _ =>
    simp only [packElems, half, beq_self_eq_true, if_true]
    match n with
    | 0 => simp
    | 1 =>
      simp
      omega
    | n + 2 =>
      have e : (n + 2) / 2 = n / 2 + 1 := by omega
      have e' : (n + 2) % 2 = n % 2 := by omega
      rw [e, e', List.getD_cons_succ, List.getD_cons_succ, List.getD_cons_succ]
      exact ih (by simpa using hn)

/-- The bytes of elements without scale bytes fill their region. -/
theorem packElems_length {f : Format} (width : f.width = 4 ∨ f.width = 8 ∨ f.width = 16 ∨ f.width = 32) (plain : f.mx = false) (es : List Nat) :
    (packElems f es).length = f.bytes es.length := by
  rcases width with half | wide
  · rw [packElems_half_length half, Format.bytes, plain, half]
    simp
    omega
  · obtain ⟨size, ne⟩ := Format.size_of_wide wide
    rw [packElems_wide ne, flatMap_length _ fun w _ => leBytes_length _ w, Format.bytes, plain, ← size]
    have bits : es.length * (8 * f.size) = 8 * (f.size * es.length) := by ring
    simp only [Bool.false_eq_true, if_false, bits]
    omega

/-! ### `mdrain` (R176) -/

/-- The encodings that a drain of row `i` writes: of each entry, its 32 verified lanes, converted. -/
def Group.drainedBits (g : Group) (c : Cmd) (f : Format) (i : Nat) : List Nat :=
  (List.range (accV c.vD)).flatMap (fun v =>
    ((verifyEntry (g.accEntry i (accE c.vD + v)).lanes (cfgTol c.cfg)).1.take 32).map
      (fun l => (roundCvt (f32Val l) f.elem c.rnd c.sat).1))

theorem Group.drainRow_bytes (g : Group) (i : Nat) (c : Cmd) (f : Format) : (g.drainRow i c f).1 = packElems f (g.drainedBits c f i) := by
  simp [Group.drainRow, Group.drainedBits, List.map_flatMap, List.flatMap_map, Function.comp_def]

theorem verifyEntry_length (lanes : List F32) (t : Nat) : (verifyEntry lanes t).1.length = lanes.length := by
  unfold verifyEntry
  dsimp only
  split
  · rfl
  split
  · rfl
  split
  · exact List.length_set
  · rfl

section
variable {g : Group} {c : Cmd} {f : Format} {i : Nat} (len : ∀ a b : Nat, (g.accEntry a b).lanes.length = 34)
include len

theorem Group.drained_block_length : ∀ v ∈ List.range (accV c.vD),
    (((verifyEntry (g.accEntry i (accE c.vD + v)).lanes (cfgTol c.cfg)).1.take 32).map
      (fun l => (roundCvt (f32Val l) f.elem c.rnd c.sat).1)).length = 32 := by
  intro v _
  rw [List.length_map, List.length_take, verifyEntry_length, len]
  rfl

theorem Group.drainedBits_length : (g.drainedBits c f i).length = 32 * accV c.vD := by
  rw [Group.drainedBits, flatMap_length _ (Group.drained_block_length len), List.length_range]

/-- Lane `j` of entry `k` is element 32k + j of the row's region. -/
theorem Group.drainedBits_get {k j : Nat} (hk : k < accV c.vD) (hj : j < 32) :
    (g.drainedBits c f i).getD (32 * k + j) 0 =
      (roundCvt (f32Val ((verifyEntry (g.accEntry i (accE c.vD + k)).lanes (cfgTol c.cfg)).1.getD j 0)) f.elem c.rnd c.sat).1 := by
  have block := flatMap_block (List.range (accV c.vD)) (Group.drained_block_length (f := f) (i := i) len) (n := k) (by simpa using hk)
  have lane : j < (verifyEntry (g.accEntry i (accE c.vD + k)).lanes (cfgTol c.cfg)).1.length := by
    rw [verifyEntry_length, len]
    omega
  have inBlock (l : List Nat) : l.getD (32 * k + j) 0 = ((l.drop (32 * k)).take 32).getD j 0 := by
    simp [List.getD_eq_getElem?_getD, hj]
  rw [inBlock, Group.drainedBits, block]
  simp [List.getD_eq_getElem?_getD, hj, lane]

end

/-- One row's part of a drain: its region written, its report made and its entries made zero. -/
def Group.drainOut (h : Group) (c : Cmd) (i : Nat) (x : List Byte × FFlags × MchkRow × Nat × Nat) : Group :=
  (((h.drainWrite i (regionOf c.vA).base x.1).raiseFlags x.2.1).setMchk i x.2.2.1).dropAcc i (accE c.vD) (accV c.vD)

/-- Row `i` drained of what the group `g` holds. -/
def Group.drainStep (g : Group) (c : Cmd) (f : Format) (h : Group) (i : Nat) : Group := h.drainOut c i (g.drainRow i c f)

def Group.drained (g : Group) (c : Cmd) (f : Format) : Group := (List.range g.n).foldl (g.drainStep c f) g

section
variable (h : Group) (i e v : Nat) (fl : FFlags) (m : MchkRow)

theorem Group.report_spad : (((h.raiseFlags fl).setMchk i m).dropAcc i e v).spad = h.spad := rfl

theorem Group.report_latches : (((h.raiseFlags fl).setMchk i m).dropAcc i e v).arrays.2 = h.arrays.2 := rfl

theorem Group.report_accEntry (a k : Nat) : ((h.raiseFlags fl).setMchk i m).accEntry a k = h.accEntry a k := rfl

theorem Group.report_only : h.engineWrites (((h.raiseFlags fl).setMchk i m).dropAcc i e v) := rfl

end

theorem Group.engineWrites.drained (g : Group) (c : Cmd) (f : Format) : g.engineWrites (g.drained c f) := by
  have step (h : Group) (i : Nat) (x : List Byte × FFlags × MchkRow × Nat × Nat) : h.engineWrites (h.drainOut c i x) :=
    (Group.engineWrites.drainWrite h i _ x.1).trans (Group.report_only _ i _ _ _ _)
  exact .foldl (fun h i => step h i _) _ _

/-- The mark of the loop, and the sticky bits of corrected and bad entries, as a drain leaves them. -/
theorem Group.tallied_of_drain (g : Group) (corr bad : Bool) (loop : Group → Bool) :
    let h := if corr then g else g.setChk chkCC
    let k := if bad then h else h.setChk chkCE
    g.tallied { k with loop := loop k } := by
  cases corr <;> cases bad <;> rfl

/-- What `mdrain` leaves: the group with every row drained, its corrected and bad entries reported. -/
theorem State.performMdrain_effect {s : State} {gid : Nat} {g : Group} (hg : s.grp? gid = some g) {c : Cmd} {f : Format}
    (hf : formatOf (regionOf c.vA).fmt (c.word 0) = some f) :
    ∃ h : Group, engineOnly s (s.performMdrain gid c) gid g h ∧ (g.drained c f).tallied h := by
  obtain ⟨corr, bad, h, tally, performed⟩ : ∃ (corr bad : Nat) (h : Group), (g.drained c f).tallied h ∧ s.performMdrain gid c =
      (let u := if corr == 0 then s.setGrp h else (s.setGrp h).count gid 6 corr
       if bad == 0 then u else u.count gid 7 bad) := by
    simp only [State.performMdrain, hg, hf, List.foldl_map]
    exact ⟨_, _, _, Group.tallied_of_drain (g.drained c f) _ _ (fun k => k.loop && k.acc.any AccEntry.dirty), rfl⟩
  have put := engineOnly_setGrp hg ((Group.engineWrites.drained g c f).trans tally.engineWrites)
  obtain ⟨h1, counted1, tally1⟩ := engineOnly_ite (b := (corr == 0) = true) put.1 (engineOnly_count put.1 6 corr)
  obtain ⟨h2, counted2, tally2⟩ := engineOnly_ite (b := (bad == 0) = true) counted1.1 (engineOnly_count counted1.1 7 bad)
  rw [performed]
  exact ⟨h2, (put.trans counted1).trans counted2, (tally.trans tally1).trans tally2⟩

theorem Group.accEntry_dropAcc (g : Group) (row e v i k : Nat) :
    (g.dropAcc row e v).accEntry i k = if i = row ∧ e ≤ k ∧ k < e + v then AccEntry.clean i k else g.accEntry i k := by
  rw [Group.accEntry_eq, Group.accEntry_eq, Group.dropAcc, List.find?_filter]
  split
  case isTrue named =>
    rw [List.find?_eq_none.2]
    · rfl
    · intro a _
      simp only [AccEntry.keyed, Bool.not_eq_true', Bool.and_eq_true, decide_eq_true_eq, beq_iff_eq, Bool.and_eq_false_iff, decide_eq_false_iff_not,
        beq_eq_false_iff_ne]
      omega
  case isFalse other =>
    congr 2
    funext a
    rw [Bool.eq_iff_iff]
    simp only [AccEntry.keyed, Bool.not_eq_true', Bool.and_eq_true, decide_eq_true_eq, beq_iff_eq, Bool.and_eq_false_iff, decide_eq_false_iff_not,
      beq_eq_false_iff_ne]
    omega

section
variable (h : Group) (c : Cmd) (i : Nat) (x : List Byte × FFlags × MchkRow × Nat × Nat)

theorem Group.drainOut_spad : (h.drainOut c i x).spad = h.spad.write (rowOff i (regionOf c.vA).base) x.1 := by
  rw [Group.drainOut, Group.report_spad, Group.drainWrite_spad]

theorem Group.drainOut_latches : (h.drainOut c i x).arrays.2 = h.arrays.2 := by
  rw [Group.drainOut, Group.report_latches, Group.drainWrite_arrays]

theorem Group.accEntry_drainOut (a k : Nat) : (h.drainOut c i x).accEntry a k =
    if a = i ∧ accE c.vD ≤ k ∧ k < accE c.vD + accV c.vD then AccEntry.clean a k else h.accEntry a k := by
  have kept : (h.drainWrite i (regionOf c.vA).base x.1).accEntry a k = h.accEntry a k := by
    rw [Group.accEntry_eq, Group.accEntry_eq, (Group.arrays_eq (Group.drainWrite_arrays h i _ x.1)).1]
  rw [Group.drainOut, Group.accEntry_dropAcc, Group.report_accEntry, kept]

end

/-- A drain makes the named entries of every row zero. -/
theorem Group.accEntry_drained (g : Group) (c : Cmd) (f : Format) (i k : Nat) :
    (g.drained c f).accEntry i k =
      if i < g.n ∧ accE c.vD ≤ k ∧ k < accE c.vD + accV c.vD then AccEntry.clean i k else g.accEntry i k := by
  have always (h : Group) (a : Nat) (_ : True) : True := trivial
  split
  case isTrue named =>
    obtain ⟨u, -, -, last⟩ := foldl_read_once (P := fun _ => True) (f := g.drainStep c f) (read := fun h : Group => h.accEntry i k)
      always (a := i) (fun h b ne _ => by rw [Group.drainStep, Group.accEntry_drainOut, if_neg (by omega)]) List.nodup_range
      (List.mem_range.2 named.1) (s := g) trivial
    rw [Group.drained, last, Group.drainStep, Group.accEntry_drainOut, if_pos ⟨rfl, named.2⟩]
  case isFalse other =>
    refine foldl_read_unchanged (P := fun _ => True) (f := g.drainStep c f) (read := fun h : Group => h.accEntry i k) always
      (fun h a ha _ => ?_) trivial
    have := List.mem_range.1 ha
    rw [Group.drainStep, Group.accEntry_drainOut, if_neg (by omega)]

theorem Group.drained_latches (g : Group) (c : Cmd) (f : Format) :
    (g.drained c f).active = g.active ∧ (g.drained c f).shadow = g.shadow := by
  have same := foldl_same (f := g.drainStep c f) (read := fun h : Group => h.arrays.2)
    (fun h i => Group.drainOut_latches h c i _) (List.range g.n) g
  exact Prod.mk.inj same

section
variable {g : Group} {c : Cmd} {f : Format} (hf : formatOf (regionOf c.vA).fmt (c.word 0) = some f) (plain : f.mx = false)
  (len : ∀ a b : Nat, (g.accEntry a b).lanes.length = 34) (wf : g.spad.wf = true)
include hf plain len

theorem Group.drainRow_length (i : Nat) : (g.drainRow i c f).1.length = f.bytes (32 * accV c.vD) := by
  rw [Group.drainRow_bytes, packElems_length (formatOf_width hf) plain, Group.drainedBits_length len]

include wf

theorem Group.drained_block (fits : (regionOf c.vA).base + f.bytes (32 * accV c.vD) ≤ 2 ^ 22) {i : Nat} (hi : i < g.n) :
    (g.drained c f).spad.read (rowOff i (regionOf c.vA).base) (f.bytes (32 * accV c.vD)) = packElems f (g.drainedBits c f i) := by
  rw [← Group.drainRow_bytes]
  exact spad_foldl_rows (f := g.drainStep c f) (bs := fun i => (g.drainRow i c f).1) (fun h i => Group.drainOut_spad h c i _)
    (Group.drainRow_length hf plain len) fits wf hi

theorem Group.drained_beyond {o : Nat} (out : ∀ a < g.n, ¬ (2 ^ 22 * a + (regionOf c.vA).base ≤ o ∧
    o < 2 ^ 22 * a + (regionOf c.vA).base + f.bytes (32 * accV c.vD))) : (g.drained c f).spad.get o = g.spad.get o :=
  spad_foldl_rows_beyond (f := g.drainStep c f) (bs := fun i => (g.drainRow i c f).1) (fun h i => Group.drainOut_spad h c i _)
    (Group.drainRow_length hf plain len) wf out

/-- Lane `j` of entry `k` of each row stands in the row's region, verified and converted. -/
theorem Group.drained_element (fits : (regionOf c.vA).base + f.bytes (32 * accV c.vD) ≤ 2 ^ 22) {i k j : Nat} (hi : i < g.n)
    (hk : k < accV c.vD) (hj : j < 32) :
    let lane := (verifyEntry (g.accEntry i (accE c.vD + k)).lanes (cfgTol c.cfg)).1.getD j 0
    let bits := (roundCvt (f32Val lane) f.elem c.rnd c.sat).1
    let n := 32 * k + j
    if f.width = 4 then ((g.drained c f).spad.get (2 ^ 22 * i + (regionOf c.vA).base + n / 2)).toNat / 16 ^ (n % 2) % 16 = bits % 16
    else leNat ((g.drained c f).spadRead (2 ^ 22 * i + (regionOf c.vA).base + f.size * n) f.size) = bits % 2 ^ f.width := by
  intro lane bits n
  have block := Group.drained_block hf plain len wf fits hi
  have count := Group.drainedBits_length (g := g) (c := c) (f := f) (i := i) len
  have inside : n < (g.drainedBits c f i).length := by omega
  have element : (g.drainedBits c f i).getD n 0 = bits := Group.drainedBits_get len hk hj
  have place : 2 ^ 22 * i + (regionOf c.vA).base = rowOff i (regionOf c.vA).base := by rw [rowOff, Nat.mul_comm]
  rw [place]
  split
  case isTrue half =>
    have fill : f.bytes (32 * accV c.vD) = 16 * accV c.vD := by
      simp only [Format.bytes, plain, half, Bool.false_eq_true, if_false]
      omega
    rw [← element, ← packElems_half_get half _ inside, ← block, Memory.read_getD _ _ (by omega)]
  case isFalse ne =>
    obtain ⟨size, -⟩ := Format.size_of_wide ((formatOf_width hf).resolve_left ne)
    rw [packElems_wide ne] at block
    rw [Group.spadRead, leNat_read_word block inside, element, ← size, Nat.pow_mul]

end

end Sys2Proof.Machine

/-! ## O42: `mchk` and `mfmt`, and the statement -/

namespace Sys2Proof.Machine

open Sys2Proof

/-! ### `mchk` (R182) -/

/-- The word of the last bad entry: its number under a set top bit, or 0. -/
def MchkRow.lastWord (m : MchkRow) : Nat := m.lastbad.elim 0 (2 ^ 31 + ·)

/-- The sixteen words of a row's record. -/
def MchkRow.words (m : MchkRow) : List Nat :=
  [m.corr, m.uncorr, m.unchk, m.lastWord, m.lastd1.toNat, m.lastd2.toNat,
   m.flags.toNat % 32, m.pois] ++ List.replicate 8 0

theorem MchkRow.words_reserved (m : MchkRow) {k : Nat} (low : 8 ≤ k) : m.words.getD k 0 = 0 := by
  rw [MchkRow.words, List.getD_append_right _ _ _ _ low, List.getD_eq_getElem?_getD,
    List.getElem?_getD_replicate_default_eq]

theorem MchkRow.words_bytes (m : MchkRow) : m.words.flatMap (leBytes 4) = m.bytes ++ List.replicate 32 0 := by
  have zero : leBytes 4 0 = List.replicate 4 0 := by decide
  cases last : m.lastbad <;> simp [MchkRow.words, MchkRow.bytes, MchkRow.lastWord, last, zero, List.replicate_succ]

theorem MchkRow.record_length (m : MchkRow) : (m.words.flatMap (leBytes 4)).length = 64 := flatMap_length _ fun w _ => leBytes_length 4 w

/-- The counts of a row cleared. -/
def MchkRow.cleared (m : MchkRow) : MchkRow := { m with corr := 0, uncorr := 0, unchk := 0, pois := 0, lastbad := none }

theorem Group.mchkRow_setMchk (g : Group) (b : Nat) (m : MchkRow) {i : Nat} (hi : i < g.n) :
    (g.setMchk b m).mchkRow i = if i = b then m else g.mchkRow i := by
  simp [Group.mchkRow, Group.setMchk, List.getD_eq_getElem?_getD, hi]

/-- The group with the record of row `i` written. -/
def Group.recordRow (c : Cmd) (h : Group) (i : Nat) : Group :=
  h.spadWrite (rowOff i (wbits c.vD 21 0)) ((h.mchkRow i).bytes ++ List.replicate 32 0) false true

/-- Row `i`'s part of `mchk`: its record written, and its counts cleared where IMM12 says so. -/
def Group.checkStep (c : Cmd) (h : Group) (i : Nat) : Group :=
  if c.imm.getLsbD 0 then (Group.recordRow c h i).setMchk i (h.mchkRow i).cleared else Group.recordRow c h i

def Group.checked (g : Group) (c : Cmd) : Group := (List.range g.n).foldl (Group.checkStep c) g

theorem State.performMchk_eq {s : State} {gid : Nat} {g : Group} (hg : s.grp? gid = some g) (c : Cmd) :
    s.performMchk gid c = s.setGrp (g.checked c) :=
  State.mapGrp_eq hg _

theorem Group.setMchk_spad (g : Group) (i : Nat) (m : MchkRow) : (g.setMchk i m).spad = g.spad := rfl

theorem Group.setMchk_arrays (g : Group) (i : Nat) (m : MchkRow) : (g.setMchk i m).arrays = g.arrays := rfl

theorem Group.engineWrites.setMchk (g : Group) (i : Nat) (m : MchkRow) : g.engineWrites (g.setMchk i m) := rfl

theorem Group.spadWrite_mchkRow (g : Group) (o : Nat) (bs : List Byte) (p w : Bool) (i : Nat) :
    (g.spadWrite o bs p w).n = g.n ∧ (g.spadWrite o bs p w).mchkRow i = g.mchkRow i := by
  rw [Group.spadWrite_only]
  exact ⟨rfl, rfl⟩

section
variable (c : Cmd) (h : Group) (b : Nat)

theorem Group.checkStep_spad :
    (Group.checkStep c h b).spad = h.spad.write (rowOff b (wbits c.vD 21 0)) ((h.mchkRow b).words.flatMap (leBytes 4)) := by
  have record : (Group.recordRow c h b).spad = h.spad.write (rowOff b (wbits c.vD 21 0)) ((h.mchkRow b).words.flatMap (leBytes 4)) := by
    rw [Group.recordRow, Group.spadWrite_spad, MchkRow.words_bytes]
  unfold Group.checkStep
  split
  · rw [Group.setMchk_spad, record]
  · exact record

theorem Group.checkStep_arrays : (Group.checkStep c h b).arrays = h.arrays := by
  have record : (Group.recordRow c h b).arrays = h.arrays := Group.spadWrite_arrays h _ _ false true
  unfold Group.checkStep
  split
  · rw [Group.setMchk_arrays, record]
  · exact record

theorem Group.checkStep_only : h.engineWrites (Group.checkStep c h b) := by
  have record : h.engineWrites (Group.recordRow c h b) := Group.engineWrites.spadWrite h _ _ false true
  unfold Group.checkStep
  split
  · exact record.trans (Group.engineWrites.setMchk _ b _)
  · exact record

theorem Group.checkStep_mchkRow {i : Nat} (hi : i < h.n) :
    (Group.checkStep c h b).mchkRow i = if i = b ∧ c.imm.getLsbD 0 = true then (h.mchkRow b).cleared else h.mchkRow i := by
  obtain ⟨n, row⟩ : (Group.recordRow c h b).n = h.n ∧ (Group.recordRow c h b).mchkRow i = h.mchkRow i :=
    Group.spadWrite_mchkRow h _ _ false true i
  unfold Group.checkStep
  split
  case isTrue clear =>
    rw [Group.mchkRow_setMchk _ _ _ (hi.trans_eq n.symm), row]
    simp only [clear, and_true]
  case isFalse keep => rw [row, if_neg fun x => keep x.2]

end

section
variable {g : Group} (c : Cmd) (wf : g.spad.wf = true)
include wf

/-- Each row holds its record, and its counts are kept or cleared. -/
theorem Group.checked_row (fits : wbits c.vD 21 0 + 64 ≤ 2 ^ 22) {i : Nat} (hi : i < g.n) :
    (g.checked c).spad.read (rowOff i (wbits c.vD 21 0)) 64 = (g.mchkRow i).words.flatMap (leBytes 4) ∧
    (g.checked c).mchkRow i = if c.imm.getLsbD 0 then (g.mchkRow i).cleared else g.mchkRow i := by
  have keeps (h : Group) (b : Nat) (sound : h.spad.wf = true ∧ h.n = g.n) :
      (Group.checkStep c h b).spad.wf = true ∧ (Group.checkStep c h b).n = g.n := by
    rw [Group.checkStep_spad]
    exact ⟨Memory.write_wf sound.1 _ _, (congrArg Group.n (Group.checkStep_only c h b)).trans sound.2⟩
  have others (h : Group) (b : Nat) (ne : b ≠ i) (sound : h.spad.wf = true ∧ h.n = g.n) :
      ((Group.checkStep c h b).mchkRow i, (Group.checkStep c h b).spad.read (rowOff i (wbits c.vD 21 0)) 64) =
        (h.mchkRow i, h.spad.read (rowOff i (wbits c.vD 21 0)) 64) := by
    rw [Group.checkStep_mchkRow c h b (hi.trans_eq sound.2.symm), if_neg (fun x => ne x.1.symm), Group.checkStep_spad,
      Memory.read_write_disjoint sound.1 (by rw [MchkRow.record_length]; exact rowOff_apart fits ne)]
  obtain ⟨u, sound, same, last⟩ := foldl_read_once
    (read := fun h : Group => (h.mchkRow i, h.spad.read (rowOff i (wbits c.vD 21 0)) 64)) keeps others List.nodup_range
    (List.mem_range.2 hi) (s := g) ⟨wf, rfl⟩
  obtain ⟨row, -⟩ := Prod.mk.inj same
  obtain ⟨report, block⟩ := Prod.mk.inj last
  have here := Memory.read_write_same sound.1 (rowOff i (wbits c.vD 21 0)) ((u.mchkRow i).words.flatMap (leBytes 4))
  rw [MchkRow.record_length, ← Group.checkStep_spad, row] at here
  refine ⟨block.trans here, report.trans ?_⟩
  rw [Group.checkStep_mchkRow c u i (hi.trans_eq sound.2.symm), row]
  simp

theorem Group.checked_beyond {o : Nat}
    (out : ∀ a < g.n, ¬ (2 ^ 22 * a + wbits c.vD 21 0 ≤ o ∧ o < 2 ^ 22 * a + wbits c.vD 21 0 + 64)) :
    (g.checked c).spad.get o = g.spad.get o := by
  refine foldl_read_unchanged (P := fun h : Group => h.spad.wf = true) (f := Group.checkStep c) (read := fun h : Group => h.spad.get o)
    (fun h b sound => ?_) (fun h a ha sound => ?_) wf
  · rw [Group.checkStep_spad]
    exact Memory.write_wf sound _ _
  · have apart := out a (List.mem_range.1 ha)
    rw [Group.checkStep_spad, Memory.get_write sound, MchkRow.record_length, rowOff, if_neg (by omega)]

end

theorem Group.checked_arrays (g : Group) (c : Cmd) : (g.checked c).arrays = g.arrays :=
  foldl_same (f := Group.checkStep c) (fun h i => Group.checkStep_arrays c h i) _ g

theorem Group.engineWrites.checked (g : Group) (c : Cmd) : g.engineWrites (g.checked c) :=
  .foldl (f := Group.checkStep c) (fun h i => Group.checkStep_only c h i) _ g

/-- The words of a row's record. -/
theorem Group.checked_word {g : Group} (c : Cmd) (wf : g.spad.wf = true) (fits : wbits c.vD 21 0 + 64 ≤ 2 ^ 22) {i k : Nat} (hi : i < g.n)
    (hk : k < 16) :
    leNat ((g.checked c).spadRead (2 ^ 22 * i + wbits c.vD 21 0 + 4 * k) 4) = (g.mchkRow i).words.getD k 0 % 2 ^ 32 := by
  have place : 2 ^ 22 * i + wbits c.vD 21 0 = rowOff i (wbits c.vD 21 0) := by rw [rowOff, Nat.mul_comm]
  rw [place]
  exact leNat_read_word (Group.checked_row c wf fits hi).1 hk

/-! ### `mfmt` (R181) -/

/-- The context with the word `w` in entry `n` of its format table, counted from 10. -/
def Context.setFmt (cx : Context) (n : Nat) (w : BitVec 32) : Context :=
  { cx with fmt := cx.fmt.mapFinIdx (fun j v _ => if j == n - 10 then w else v) }

theorem State.performMfmt_eq {s : State} {gid : Nat} {g : Group} (hg : s.grp? gid = some g) {cx : Context} (hcx : s.ctx? g.ctx = some cx)
    (c : Cmd) :
    s.performMfmt gid c = s.setCtx (cx.setFmt (c.imm.toNat % 16) (entryStored (c.vD.setWidth 32))) := by
  have index : (c.imm.extractLsb' 0 4).toNat = c.imm.toNat % 16 := by simp
  simp only [State.performMfmt, hg, hcx, index, Context.setFmt]

theorem Context.setFmt_get (cx : Context) (w : BitVec 32) {n : Nat} (low : 10 ≤ n) (high : n < 16) (b : Nat) :
    (cx.setFmt n w).fmt.toList.getD b 0 = if b + 10 = n then w else cx.fmt.toList.getD b 0 := by
  unfold Context.setFmt
  by_cases inside : b < 6
  · have place : b = n - 10 ↔ b + 10 = n := by omega
    simp [List.getD_eq_getElem?_getD, inside, place]
  · have out : b + 10 ≠ n := by omega
    simp [List.getD_eq_getElem?_getD, inside, out]

/-! ### The statement -/

/-- What no count of events changes. -/
theorem Group.tallied.same {g h : Group} (a : g.tallied h) : h.arrays = g.arrays ∧ h.spad = g.spad ∧ h.accEntry = g.accEntry := by
  rw [a]
  exact ⟨rfl, rfl, rfl⟩

theorem Group.accOnly.same {g h : Group} (a : g.accOnly h) : h.arrays.2 = g.arrays.2 ∧ h.spad = g.spad := by
  rw [a]
  exact ⟨rfl, rfl⟩

theorem Group.swapped_same (g : Group) (c : Cmd) : (g.swapped c).spad = g.spad ∧ (g.swapped c).accEntry = g.accEntry ∧
    (g.swapped c).arrays.2 = (if c.mod.getLsbD 0 then g.shadow else g.active, if c.mod.getLsbD 0 then g.active else g.shadow) := by
  rw [Group.swapped_eq]
  exact ⟨rfl, rfl, rfl⟩

/-- A pass changes the accumulators, after its exchange of the latch sets. -/
theorem Group.passed_same (g : Group) (now : Nat) (c : Cmd) (f : Format) : ((g.swapped c).passed now c f).spad = g.spad ∧
    ((g.swapped c).passed now c f).arrays.2 =
      (if c.mod.getLsbD 0 then g.shadow else g.active, if c.mod.getLsbD 0 then g.active else g.shadow) := by
  have pass : (g.swapped c).accOnly ((g.swapped c).passed now c f) := Group.accOnly_remakeAcc ..
  obtain ⟨latches, spad⟩ := pass.same
  obtain ⟨swapSpad, -, swapLatches⟩ := g.swapped_same c
  exact ⟨spad.trans swapSpad, latches.trans swapLatches⟩

theorem State.cellLoad_latch (s : State) (v : Viewer) (g : Group) (c : Cmd) (t : Bool) (f : Format) (i col : Nat) :
    (s.cellLoad v g c t f (i, col)).1 = loadLatch v.bind i col (c.imm.toNat % 16) (if t then 0 else c.imm.toNat / 16 % 4) t c.vD c.imm
      (c.word 0) (s.slotImage v (cellPlace g c.vD i col) (tileBytes f (if t then 0 else c.imm.toNat / 16 % 4))).1 := by
  simp only [State.cellLoad, Cmd.mlAttr_eq, cellPlace_eq]

theorem matrixEffect_load (s : State) (gid : Nat) (c : Cmd) (e : EWord) (transposed : Bool) :
    s.matrixEffect gid (if transposed then .mlT e else .ml e) c = s.performMl gid c transposed := by
  cases transposed <;> rfl

/-- Settles O42: the loads by the cell that each latch is for, the entries by the one step of `mm`, `mzero` and `mdrain` that remakes
them, and the scratchpad by the block that each row's region holds. -/
theorem matrixEffects : Obligations.MatrixEffects := by
  unfold Obligations.MatrixEffects
  refine ⟨fun s gid g c e transposed hg => ?load, fun s gid g c e i k hg => ⟨?mzero, ?mm⟩,
    fun s gid g c e i j k o hg wf => ⟨?mdrain, ?mchk, ?mfmt⟩⟩
  case load =>
    intro i_ fi sp cols at_ v
    have effect : s.matrixEffect gid i_ c = s.performMl gid c transposed := matrixEffect_load s gid c e transposed
    rw [effect]
    refine ⟨fun f hf owned => ?_, fun ⟨i, col, hi, hcol, foreign⟩ => State.performMl_trap hg transposed hi hcol foreign⟩
    obtain ⟨u, h, performed, only, tally⟩ := State.performMl_effect hg transposed (f := f) (by rwa [Cmd.mlAttr_eq]) owned
    obtain ⟨arrays, spad, -⟩ := tally.same
    rw [Group.loaded_arrays] at arrays
    obtain ⟨acc, arrays⟩ := Prod.mk.inj arrays
    obtain ⟨active, shadow⟩ := Prod.mk.inj arrays
    refine ⟨u, h, performed, only, active, acc, spad.trans (Group.loaded_spad _ _ _), fun i col hi hcol => ?_, fun i col hcol => ?_⟩
    · have found := s.find?_cellLatches v g c transposed f g.shadow hi hcol
      rw [State.cellLoad_latch] at found
      exact ⟨_, (congrArg (List.find? (Latch.keyed i col)) shadow).trans found, rfl, rfl, rfl, rfl, rfl, rfl, rfl,
        fun k hk => s.slotImage_get v _ hk⟩
    · exact (congrArg (List.find? (Latch.keyed i col)) shadow).trans (s.find?_cellLatches_other v g c transposed f g.shadow hcol)
  case mzero =>
    have only : g.accOnly (g.zeroed c) := Group.accOnly_remakeAcc ..
    obtain ⟨latches, spad⟩ := only.same
    obtain ⟨active, shadow⟩ := Prod.mk.inj latches
    exact ⟨_, g.zeroed c, congrArg Except.ok (State.performMzero_eq hg c), engineOnly_setGrp hg only.engineWrites, spad, active, shadow,
      fun ⟨hi, low, high⟩ => Group.zeroed_named g c hi low high, Group.zeroed_other g c⟩
  case mm =>
    intro swap r cols f L F j hf pos hj latches len vec x one sum old
    obtain ⟨h, only, tally⟩ := State.performMm_effect hg hf
    obtain ⟨arrays, spad, entries⟩ := tally.same
    obtain ⟨passSpad, passLatches⟩ := g.passed_same s.now c f
    obtain ⟨-, swapEntries, swapLatches⟩ := g.swapped_same c
    obtain ⟨active, shadow⟩ := Prod.mk.inj ((congrArg Prod.snd arrays).trans passLatches)
    have rows : (g.swapped c).n = g.n := by rw [Group.swapped_eq]
    have swapActive : (g.swapped c).active = if swap then g.shadow else g.active := congrArg Prod.fst swapLatches
    refine ⟨_, h, rfl, only, spad.trans passSpad, active, shadow, fun named => ?_, fun other => ?_⟩
    · obtain ⟨hi, low, high⟩ := named
      have filled := latches ⟨hi, low, high⟩
      rw [← swapActive] at filled
      have length : ((g.swapped c).accEntry i k).lanes.length = 34 := by rw [swapEntries, len ⟨hi, low, high⟩]
      have lane := (g.swapped c).passed_lane s.now c f (hi.trans_eq rows.symm) low high hj length pos filled
      have vector : (fun m => ((g.swapped c).vector c f (k - accE c.vD)).1[m]?) = x := by
        funext m
        rw [Group.vector_get, Group.elemVal_swapped]
      rw [swapEntries, vector] at lane
      rw [entries]
      exact lane
    · rw [entries, Group.passed_other _ _ _ _ (by rwa [rows]), swapEntries]
  case mdrain =>
    intro f hf plain fits len
    obtain ⟨h, only, tally⟩ := State.performMdrain_effect hg hf
    obtain ⟨arrays, spad, entries⟩ := tally.same
    obtain ⟨-, active, shadow⟩ := Group.arrays_eq arrays
    obtain ⟨drainedActive, drainedShadow⟩ := Group.drained_latches g c f
    refine ⟨_, h, rfl, only, active.trans drainedActive, shadow.trans drainedShadow, fun hi hk hj => ?_, fun out => ?_, ?_⟩
    · simp only [Group.spadRead, spad]
      exact Group.drained_element hf plain len wf fits hi hk hj
    · rw [spad, Group.drained_beyond hf plain len wf out]
    · rw [entries, Group.accEntry_drained]
  case mchk =>
    intro p fits
    obtain ⟨acc, active, shadow⟩ := Group.arrays_eq (Group.checked_arrays g c)
    refine ⟨_, g.checked c, congrArg Except.ok (State.performMchk_eq hg c), engineOnly_setGrp hg (Group.engineWrites.checked g c), acc,
      active, shadow, fun hi => ?_, Group.checked_beyond c wf⟩
    intro m field
    have word (k : Nat) (hk : k < 16) : field k = m.words.getD k 0 % 2 ^ 32 := Group.checked_word c wf fits hi hk
    have small (n : Nat) (h : n < 2 ^ 32) : n % 2 ^ 32 = n := Nat.mod_eq_of_lt h
    refine ⟨word 0 (by decide), word 1 (by decide), word 2 (by decide), ?_, (word 4 (by decide)).trans (small _ m.lastd1.isLt),
      (word 5 (by decide)).trans (small _ m.lastd2.isLt), (word 6 (by decide)).trans (small _ ?_), word 7 (by decide), fun k low high => ?_,
      (Group.checked_row c wf fits hi).2⟩
    · refine (word 3 (by decide)).trans (?_ : m.lastWord % 2 ^ 32 = _)
      unfold MchkRow.lastWord
      cases m.lastbad <;> rfl
    · exact (Nat.mod_lt _ (by decide)).trans (by decide : 32 < 2 ^ 32)
    · rw [word k high, m.words_reserved low, Nat.zero_mod]
  case mfmt =>
    intro cx hcx low
    have num : cx.num = g.ctx := by simpa using List.find?_some hcx
    have found (d : Context) (hd : d.num = cx.num) : (s.setCtx d).ctx? g.ctx = some d := by
      rw [State.ctx?_setCtx, hcx, if_pos (num.symm.trans hd.symm)]
      rfl
    exact ⟨_, cx.setFmt (c.imm.toNat % 16) (entryStored (c.vD.setWidth 32)), congrArg Except.ok (State.performMfmt_eq hg hcx c), rfl,
      found _ rfl, rfl, cx.setFmt_get _ low (Nat.mod_lt _ (by decide))⟩

end Sys2Proof.Machine

/-! ## What a vector command writes

The writes of a row are folds over the bytes of the scratchpad alone (`RowOut.written`), so that what a vector command leaves of
its group is said once (`State.performVx_effect`), and what it writes is a fact about memory. -/

namespace Sys2Proof.Machine

open Sys2Proof

/-! ### Elements in memory -/

/-- The group offset of the first byte of element `k` of a region in row `i`. -/
def elemAddr (i : Nat) (r : Region) (f : Format) (k : Nat) : Nat := rowOff i (elemPlace r f k).1.toNat

/-- The bits of element `k` of a region in row `i`, poison aside. -/
def Memory.elemBits (m : Memory) (i : Nat) (r : Region) (f : Format) (k : Nat) : Nat :=
  let raw := leNat (m.read (elemAddr i r f k) f.size)
  if f.width == 4 then (if (elemPlace r f k).2 == 0 then raw % 16 else raw / 16) else raw

/-- The bytes of the scratchpad after `bits` have been written to element `k`. -/
def Memory.putElem (m : Memory) (i : Nat) (r : Region) (f : Format) (k bits : Nat) : Memory :=
  let a := elemAddr i r f k
  if f.width == 4 then
    let old := (m.get a).toNat
    m.write a [BitVec.ofNat 8 (if (elemPlace r f k).2 == 0 then old / 16 * 16 + bits % 16 else old % 16 + 16 * (bits % 16))]
  else m.write a (leBytes f.size bits)

/-- The bytes after a put of a command's row `i`. -/
def Memory.put (i : Nat) (m : Memory) (p : Arg × Nat × Nat) : Memory := m.putElem i p.1.r p.1.f p.2.1 p.2.2

theorem Group.putElem_eq (g : Group) (i : Nat) (r : Region) (f : Format) (k bits : Nat) :
    g.putElem i r f k bits = { g with spad := g.spad.putElem i r f k bits } := by
  by_cases half : f.width = 4
  · simp only [Group.putElem, Memory.putElem, half, beq_self_eq_true, if_true]
    rfl
  · simp only [Group.putElem, Memory.putElem, beq_iff_eq, half, if_false]
    rfl

/-- Poison that a read of element `k` meets. -/
def Group.elemPoisoned (g : Group) (i : Nat) (r : Region) (f : Format) (k : Nat) : Bool :=
  g.spadPoisoned (elemAddr i r f k) f.size || (f.mx && g.spadPoisoned (rowOff i (scalePlace r f k)) 1)

theorem Group.elem_eq (g : Group) (i : Nat) (r : Region) (f : Format) (k : Nat) : g.elem i r f k =
    if g.elemPoisoned i r f k then (0, 0, true)
    else (g.spad.elemBits i r f k, if f.mx then (g.spad.get (rowOff i (scalePlace r f k))).toNat else 0, false) := by
  by_cases mx : f.mx = true
  · simp only [Group.elem, Group.elemPoisoned, mx, Bool.true_and, if_true]
    rfl
  · simp only [Group.elem, Group.elemPoisoned, mx, Bool.false_and, Bool.or_false]
    rfl

/-- An element without poison is read from the bytes of the scratchpad, also after others have been written. -/
theorem Group.elem_of_clean {g h : Group} {i : Nat} {r : Region} {f : Format} {k : Nat} (clean : (g.elem i r f k).2.2 = false)
    (poison : h.spadPoison = g.spadPoison) : h.elem i r f k =
      (h.spad.elemBits i r f k, if f.mx then (h.spad.get (rowOff i (scalePlace r f k))).toNat else 0, false) := by
  have same : h.elemPoisoned i r f k = g.elemPoisoned i r f k := by simp only [Group.elemPoisoned, Group.spadPoisoned, poison]
  rw [Group.elem_eq] at clean ⊢
  rw [same]
  split at clean
  · cases clean
  · rename_i ok
    rw [if_neg ok]

/-! ### The writes of a row -/

/-- The bytes of the scratchpad after the writes of row `i`. -/
def RowOut.written (o : RowOut) (i : Nat) (m : Memory) : Memory :=
  o.raw.foldl (fun m p => m.write (rowOff i p.1) [p.2]) (o.puts.foldl (Memory.put i) m)

theorem Group.foldl_spad {α : Type} {f : Group → α → Group} {F : Memory → α → Memory}
    (step : ∀ (g : Group) (a : α), f g a = { g with spad := F g.spad a }) (l : List α) (g : Group) :
    l.foldl f g = { g with spad := l.foldl F g.spad } := by
  induction l generalizing g with
  | nil => rfl
  | cons a l ih => rw [List.foldl_cons, step, ih, List.foldl_cons]

theorem Group.applyRow_eq (g : Group) (i : Nat) (o : RowOut) : g.applyRow i o = { g with spad := o.written i g.spad } := by
  have puts := Group.foldl_spad (F := Memory.put i)
    (fun g p => Group.putElem_eq g i p.1.r p.1.f p.2.1 p.2.2) o.puts g
  have raw := Group.foldl_spad (F := fun m (p : Nat × Byte) => m.write (rowOff i p.1) [p.2])
    (f := fun g p => g.spadWrite (rowOff i p.1) [p.2] false false) (fun _ _ => rfl) o.raw
  simp only [Group.applyRow, puts, raw, RowOut.written]

/-- The bytes of the scratchpad after a vector command in every row that runs it. -/
def Group.vxSpad (g : Group) (ins : Instr) (c : Cmd) : Memory :=
  (c.rows g.n).foldl (fun m i => (g.vxRow ins c i).written i m) g.spad

theorem Group.foldl_applyRow (outs : Nat → RowOut) (l : List Nat) (g : Group) :
    ∃ fl : FFlags, l.foldl (fun g i => (g.applyRow i (outs i)).raiseFlags (outs i).flags) g =
      { g with spad := l.foldl (fun m i => (outs i).written i m) g.spad, fflags := fl } := by
  induction l generalizing g with
  | nil => exact ⟨_, rfl⟩
  | cons a l ih =>
    obtain ⟨fl, e⟩ := ih ((g.applyRow a (outs a)).raiseFlags (outs a).flags)
    refine ⟨fl, ?_⟩
    rw [List.foldl_cons, e, Group.applyRow_eq]
    rfl

theorem Group.tallied.spadPoison {g h : Group} (a : g.tallied h) : h.spadPoison = g.spadPoison := by rw [a]

/-- What a vector command leaves: its writes to the scratchpad, its flags, and the note of poison that it met (R198). -/
theorem State.performVx_effect {s : State} {gid : Nat} {g : Group} (hg : s.grp? gid = some g) {ins : Instr} {c : Cmd}
    (governs : vxCount ins c ≠ 0) : ∃ h : Group, engineOnly s (s.performVx gid ins c) gid g h ∧ h.arrays = g.arrays ∧
      h.spad = g.vxSpad ins c ∧ h.spadPoison = g.spadPoison := by
  obtain ⟨fl, folded⟩ := g.foldl_applyRow (g.vxRow ins c) (c.rows g.n)
  have only : g.engineWrites { g with spad := g.vxSpad ins c, fflags := fl } := rfl
  have put := engineOnly_setGrp hg only
  obtain ⟨h, counted, tally⟩ : ∃ h : Group, engineOnly (s.setGrp { g with spad := g.vxSpad ins c, fflags := fl })
      (s.performVx gid ins c) gid { g with spad := g.vxSpad ins c, fflags := fl } h ∧
      Group.tallied { g with spad := g.vxSpad ins c, fflags := fl } h := by
    simp only [State.performVx, hg, beq_iff_eq, governs, if_false, List.foldl_map, folded]
    split
    · exact engineOnly_dataPoison put.1
    · exact ⟨_, engineOnly_refl put.1, rfl⟩
  obtain ⟨arrays, spad, -⟩ := tally.same
  exact ⟨h, put.trans counted, arrays, spad, tally.spadPoison⟩

/-! ### Formats and places (R84, R86, R192) -/

/-- What every format satisfies: its widths, and that an MX format has elements of a byte or half a byte (R69, R83). -/
def Format.regular (f : Format) : Prop :=
  (f.width = 4 ∨ f.width = 8 ∨ f.width = 16 ∨ f.width = 32) ∧ (f.mx = true → f.width = 4 ∨ f.width = 8)

theorem formatOf_regular {i : Nat} {w : BitVec 32} {f : Format} (hf : formatOf i w = some f) : f.regular := by
  refine ⟨formatOf_width hf, ?_⟩
  unfold formatOf at hf
  split at hf
  case h_11 =>
    split at hf
    · rename_i valid
      cases hf
      intro mx
      have cls : (w.extractLsb' 30 2).toNat = 2 := by
        simp only [entryFormat, beq_iff_eq] at mx
        rw [mx]
        rfl
      simp only [entryValid, Bool.and_eq_true, Bool.or_eq_true, beq_iff_eq, cls] at valid
      simp only [entryFormat]
      omega
    · cases hf
  all_goals
    cases hf
    decide

theorem mkArg_regular {v : Word} {w : BitVec 32} {a : Arg} (h : mkArg v w = some a) : a.f.regular := by
  obtain ⟨f, hf, rfl⟩ := Option.map_eq_some_iff.1 h
  exact formatOf_regular hf

/-- An operand of an invalid format is read by another's. -/
theorem mkArg_getD_regular (v : Word) (w : BitVec 32) {d : Arg} (hd : d.f.regular) : ((mkArg v w).getD d).f.regular := by
  cases h : mkArg v w with
  | none => exact hd
  | some a => exact mkArg_regular h

theorem Format.half_size {f : Format} (half : f.width = 4) : f.size = 1 := by simp [Format.size, half]

theorem Format.mx_size {f : Format} (reg : f.regular) (mx : f.mx = true) : f.size = 1 := by
  rcases reg.2 mx with h | h <;> simp [Format.size, h]

theorem Format.values_of_wide {f : Format} (reg : f.regular) (wide : f.width ≠ 4) : 256 ^ f.size = 2 ^ f.width := by
  rw [← (Format.size_of_wide (reg.1.resolve_left wide)).1, Nat.pow_mul]

section
variable {r : Region} {f : Format} (k : Nat)

theorem elemPlace_wide (plain : f.mx = false) (wide : f.width ≠ 4) :
    elemPlace r f k = ((r.base : Int) + k * r.stride * (f.size : Nat), 0) := by
  simp [elemPlace, plain, wide]

theorem elemPlace_half (plain : f.mx = false) (half : f.width = 4) :
    elemPlace r f k = ((2 * r.base + k * r.stride : Int) / 2, ((2 * r.base + k * r.stride : Int) % 2).toNat) := by
  simp [elemPlace, plain, half]

theorem elemPlace_mx (reg : f.regular) (mx : f.mx = true) : elemPlace r f k =
    if f.width = 4 then (((r.base + f.block * (k / 32) + k % 32 / 2 : Nat) : Int), k % 32 % 2)
    else (((r.base + f.block * (k / 32) + k % 32 : Nat) : Int), 0) := by
  rcases reg.2 mx with h | h <;> simp [elemPlace, Format.block, mx, h]

/-- The nibble of an element. -/
theorem elemPlace_nibble (reg : f.regular) : (elemPlace r f k).2 = 0 ∨ (elemPlace r f k).2 = 1 := by
  by_cases mx : f.mx = true
  · rw [elemPlace_mx k reg mx]
    split
    · exact Nat.mod_two_eq_zero_or_one _
    · exact .inl rfl
  · have plain := Bool.eq_false_iff.2 mx
    by_cases half : f.width = 4
    · rw [elemPlace_half k plain half]
      simp only
      omega
    · rw [elemPlace_wide k plain half]
      exact .inl rfl

end

/-- A multiple between the first and the last. -/
theorem mul_between (s : Int) {k n : Nat} (h : k ≤ n) :
    (0 ≤ (k : Int) * s ∧ (k : Int) * s ≤ n * s) ∨ ((n : Int) * s ≤ k * s ∧ (k : Int) * s ≤ 0) := by
  have le : (k : Int) ≤ n := by exact_mod_cast h
  rcases le_total 0 s with hs | hs
  · exact .inl ⟨mul_nonneg (by omega) hs, mul_le_mul_of_nonneg_right le hs⟩
  · exact .inr ⟨mul_le_mul_of_nonpos_right le hs, mul_nonpos_of_nonneg_of_nonpos (by omega) hs⟩

/-- Elements lie in the span of their region (R195). -/
theorem elem_in_span (r : Region) {f : Format} (reg : f.regular) {k m : Nat} (hk : k < m) :
    (regionSpan r f m).1 ≤ (elemPlace r f k).1 ∧ (elemPlace r f k).1 + (f.size : Nat) ≤ (regionSpan r f m).2 := by
  by_cases mx : f.mx = true
  · have place := elemPlace_mx (r := r) k reg mx
    have size := Format.mx_size reg mx
    simp only [regionSpan, mx, Format.bytes, if_true, size]
    rcases reg.2 mx with h | h <;> simp only [Format.block, h] at place ⊢ <;> (rw [place]; simp; omega)
  · have plain := Bool.eq_false_iff.2 mx
    simp only [regionSpan, plain, Bool.false_eq_true, if_false]
    by_cases half : f.width = 4
    · have between := mul_between r.stride (Nat.le_sub_one_of_lt hk)
      simp only [elemPlace_half _ plain half]
      omega
    · have between := mul_between (r.stride * (f.size : Nat)) (Nat.le_sub_one_of_lt hk)
      simp only [elemPlace_wide _ plain half, mul_assoc, Nat.cast_zero, zero_mul]
      omega

/-- Elements of a region whose elements are apart do not share a place. -/
theorem elem_apart {r : Region} {f : Format} (plain : f.mx = false) (stride : r.stride ≠ 0) {k j : Nat} (ne : k ≠ j) :
    let p := elemPlace r f k
    let q := elemPlace r f j
    p.1 + (f.size : Nat) ≤ q.1 ∨ q.1 + (f.size : Nat) ≤ p.1 ∨ (f.width = 4 ∧ p.1 = q.1 ∧ p.2 ≠ q.2) := by
  have differ : (k : Int) * r.stride ≠ j * r.stride := fun e => ne (by exact_mod_cast mul_right_cancel₀ stride e)
  by_cases half : f.width = 4
  · simp only [elemPlace_half _ plain half, Format.half_size half]
    omega
  · simp only [elemPlace_wide _ plain half]
    rcases lt_or_gt_of_ne differ with h | h
    · have := mul_le_mul_of_nonneg_right (Int.add_one_le_of_lt h) (Int.natCast_nonneg f.size)
      rw [add_mul, one_mul] at this
      exact .inl (by omega)
    · have := mul_le_mul_of_nonneg_right (Int.add_one_le_of_lt h) (Int.natCast_nonneg f.size)
      rw [add_mul, one_mul] at this
      exact .inr (.inl (by omega))

/-! ### The bytes of elements and of regions -/

/-- The byte at group offset `o` is one of element `k` in row `i`. -/
def Arg.holds (a : Arg) (i k o : Nat) : Prop := elemAddr i a.r a.f k ≤ o ∧ o < elemAddr i a.r a.f k + a.f.size

/-- The byte at group offset `o` is one that elements 0 to m-1 span in row `i`. -/
def Arg.covers (a : Arg) (m i o : Nat) : Prop :=
  (2 ^ 22 * i : Int) + (regionSpan a.r a.f m).1 ≤ o ∧ (o : Int) < 2 ^ 22 * i + (regionSpan a.r a.f m).2

/-- The first `m` elements lie in the row (R195). -/
def Arg.fits (a : Arg) (m : Nat) : Prop :=
  a.f.regular ∧ (m ≠ 0 → 0 ≤ (regionSpan a.r a.f m).1 ∧ (regionSpan a.r a.f m).2 ≤ 2 ^ 22)

theorem Arg.fits_of_regionOk {a : Arg} (reg : a.f.regular) {x m : Nat} (small : x ≤ 2 ^ 22) (ok : regionOk x a.r a.f m = true) :
    a.fits m := by
  refine ⟨reg, fun some_ => ?_⟩
  simp only [regionOk, Bool.and_eq_true, Bool.or_eq_true, beq_iff_eq, some_, false_or, decide_eq_true_eq] at ok
  obtain ⟨-, low, high⟩ := ok
  exact ⟨low, by omega⟩

section
variable {a : Arg} {m i o : Nat} (fits : a.fits m)
include fits

/-- The place of an element in its row, as an offset. -/
theorem Arg.fits.elemAddr_eq {k : Nat} (hk : k < m) : (elemAddr i a.r a.f k : Int) = 2 ^ 22 * i + (elemPlace a.r a.f k).1 := by
  have low := (fits.2 (by omega)).1
  have inside := (elem_in_span a.r fits.1 hk).1
  simp only [elemAddr, rowOff]
  omega

theorem Arg.fits.covers_elem {k : Nat} (hk : k < m) (h : a.holds i k o) : a.covers m i o := by
  have place := fits.elemAddr_eq (i := i) hk
  have inside := elem_in_span a.r fits.1 hk
  obtain ⟨low, high⟩ := h
  unfold Arg.covers
  omega

theorem Arg.fits.row (some_ : m ≠ 0) (h : a.covers m i o) : 2 ^ 22 * i ≤ o ∧ o < 2 ^ 22 * (i + 1) := by
  obtain ⟨low, high⟩ := fits.2 some_
  obtain ⟨above, below⟩ := h
  constructor <;> omega

end

/-- The scale byte of an element lies in the span of its region. -/
theorem Arg.covers_scale (a : Arg) (i : Nat) (mx : a.f.mx = true) {k m : Nat} (hk : k < m) :
    a.covers m i (rowOff i (scalePlace a.r a.f k)) := by
  have last : a.f.block * (k / 32) + a.f.block ≤ (m + 31) / 32 * a.f.block := by
    rw [← Nat.mul_succ, Nat.mul_comm]
    exact Nat.mul_le_mul_right _ (by omega)
  have pos : 0 < a.f.block := by
    unfold Format.block
    split <;> decide
  simp only [Arg.covers, regionSpan, mx, if_true, Format.bytes, rowOff, scalePlace]
  omega

/-! ### Elements read after writes -/

theorem Memory.putElem_wf {m : Memory} (wf : m.wf = true) (i : Nat) (r : Region) (f : Format) (k bits : Nat) :
    (m.putElem i r f k bits).wf = true := by
  unfold Memory.putElem
  split <;> exact Memory.write_wf wf _ _

theorem Memory.put_wf {m : Memory} (i : Nat) (p : Arg × Nat × Nat) (wf : m.wf = true) : (m.put i p).wf = true :=
  Memory.putElem_wf wf ..

theorem Memory.putElem_get {m : Memory} (wf : m.wf = true) {a : Arg} (i k bits : Nat) {o : Nat}
    (out : ¬ a.holds i k o) : (m.putElem i a.r a.f k bits).get o = m.get o := by
  unfold Arg.holds at out
  by_cases half : a.f.width = 4
  · simp only [Memory.putElem, half, beq_self_eq_true, if_true]
    rw [Memory.get_write wf, if_neg (by rwa [Format.half_size half] at out)]
  · simp only [Memory.putElem, half, beq_iff_eq, if_false]
    rw [Memory.get_write wf, leBytes_length, if_neg out]

/-- An element is read from its bytes alone. -/
theorem Memory.elemBits_congr {m n : Memory} {a : Arg} {i k : Nat} (same : ∀ o, a.holds i k o → m.get o = n.get o) :
    m.elemBits i a.r a.f k = n.elemBits i a.r a.f k := by
  have bytes : m.read (elemAddr i a.r a.f k) a.f.size = n.read (elemAddr i a.r a.f k) a.f.size := by
    rw [Memory.read_eq_map, Memory.read_eq_map]
    exact List.map_congr_left fun j hj => same _ ⟨by omega, by have := List.mem_range.1 hj; omega⟩
  simp only [Memory.elemBits, bytes]

/-- Half a byte. -/
theorem Memory.elemBits_half (m : Memory) (i : Nat) (r : Region) {f : Format} (reg : f.regular) (half : f.width = 4) (k : Nat) :
    m.elemBits i r f k = (m.get (elemAddr i r f k)).toNat / 16 ^ (elemPlace r f k).2 % 16 := by
  have byte := (m.get (elemAddr i r f k)).isLt
  simp only [Memory.elemBits, half, Format.half_size half, Memory.read, leNat]
  rcases elemPlace_nibble (r := r) k reg with h | h
  · simp [h]
  · simp [h]
    omega

theorem Memory.elemBits_wide (m : Memory) (i : Nat) (r : Region) {f : Format} (wide : f.width ≠ 4) (k : Nat) :
    m.elemBits i r f k = leNat (m.read (elemAddr i r f k) f.size) := by
  simp [Memory.elemBits, wide]

theorem Memory.elemBits_lt (m : Memory) (i : Nat) (r : Region) {f : Format} (reg : f.regular) (k : Nat) :
    m.elemBits i r f k < 2 ^ f.width := by
  by_cases half : f.width = 4
  · rw [Memory.elemBits_half m i r reg half, half]
    omega
  · rw [Memory.elemBits_wide m i r half, ← Format.values_of_wide reg half]
    exact (leNat_lt _).trans_eq (by rw [Memory.read_length])

/-- The byte that a put of half a byte leaves. -/
theorem Memory.putElem_half {m : Memory} (wf : m.wf = true) (i : Nat) (r : Region) {f : Format} (reg : f.regular) (half : f.width = 4)
    (k bits : Nat) {nib : Nat} (h : nib = 0 ∨ nib = 1) :
    ((m.putElem i r f k bits).get (elemAddr i r f k)).toNat / 16 ^ nib % 16 =
      if nib = (elemPlace r f k).2 then bits % 16 else (m.get (elemAddr i r f k)).toNat / 16 ^ nib % 16 := by
  have byte := (m.get (elemAddr i r f k)).isLt
  simp only [Memory.putElem, half, beq_self_eq_true, if_true, Memory.get_write wf]
  rcases h with rfl | rfl <;> rcases elemPlace_nibble (r := r) k reg with e | e <;> simp [e] <;> omega

/-- The element that is put is read back as far as its format reaches. -/
theorem Memory.elemBits_putElem_same {m : Memory} (wf : m.wf = true) (i : Nat) (r : Region) {f : Format} (reg : f.regular) (k bits : Nat) :
    (m.putElem i r f k bits).elemBits i r f k = bits % 2 ^ f.width := by
  by_cases half : f.width = 4
  · rw [Memory.elemBits_half _ i r reg half, Memory.putElem_half wf i r reg half k bits (elemPlace_nibble k reg), if_pos rfl, half]
    rfl
  · have read := Memory.read_write_same wf (elemAddr i r f k) (leBytes f.size bits)
    rw [leBytes_length] at read
    simp only [Memory.elemBits_wide _ i r half, Memory.putElem, half, beq_iff_eq, if_false]
    rw [read, leNat_leBytes, Format.values_of_wide reg half]

/-- A put leaves the elements that share no byte with it. -/
theorem Memory.elemBits_putElem_far {m : Memory} (wf : m.wf = true) {a b : Arg} {i j k l : Nat} (bits : Nat)
    (far : ∀ o, a.holds i k o → ¬ b.holds j l o) :
    (m.putElem j b.r b.f l bits).elemBits i a.r a.f k = m.elemBits i a.r a.f k :=
  Memory.elemBits_congr fun o ho => Memory.putElem_get wf j l bits (far o ho)

/-- A put leaves the other elements of a region whose elements are apart. -/
theorem Memory.elemBits_putElem_other {m : Memory} (wf : m.wf = true) {a : Arg} {n : Nat} (fits : a.fits n) (plain : a.f.mx = false)
    (stride : a.r.stride ≠ 0) (i bits : Nat) {k j : Nat} (hk : k < n) (hj : j < n) (ne : k ≠ j) :
    (m.putElem i a.r a.f j bits).elemBits i a.r a.f k = m.elemBits i a.r a.f k := by
  have placeK := fits.elemAddr_eq (i := i) hk
  have placeJ := fits.elemAddr_eq (i := i) hj
  by_cases share : a.f.width = 4 ∧ (elemPlace a.r a.f k).1 = (elemPlace a.r a.f j).1 ∧ (elemPlace a.r a.f k).2 ≠ (elemPlace a.r a.f j).2
  · obtain ⟨half, place, nibble⟩ := share
    have addr : elemAddr i a.r a.f k = elemAddr i a.r a.f j := by omega
    rw [Memory.elemBits_half _ i a.r fits.1 half, Memory.elemBits_half _ i a.r fits.1 half, addr,
      Memory.putElem_half wf i a.r fits.1 half j bits (elemPlace_nibble k fits.1), if_neg nibble]
  · have apart := elem_apart plain stride ne
    refine Memory.elemBits_putElem_far wf bits fun o ⟨lowK, highK⟩ ⟨lowJ, highJ⟩ => ?_
    omega

/-! ### What the writes of a row touch -/

/-- The byte at group offset `p` is one that the writes of row `i` name. -/
def RowOut.touches (o : RowOut) (i p : Nat) : Prop :=
  (∃ x ∈ o.puts, x.1.holds i x.2.1 p) ∨ ∃ x ∈ o.raw, p = rowOff i x.1

theorem RowOut.written_wf (o : RowOut) (i : Nat) {m : Memory} (wf : m.wf = true) : (o.written i m).wf = true :=
  foldl_invariant (P := fun m => Memory.wf m = true) (fun _ _ w => Memory.write_wf w _ _) o.raw
    (foldl_invariant (P := fun m => Memory.wf m = true) (fun _ x w => Memory.put_wf i x w) o.puts wf)

theorem RowOut.written_get {o : RowOut} {i p : Nat} (out : ¬ o.touches i p) {m : Memory} (wf : m.wf = true) :
    (o.written i m).get p = m.get p := by
  obtain ⟨puts, raw⟩ := not_or.1 out
  have putsWf := foldl_invariant (P := fun m => Memory.wf m = true) (fun _ x w => Memory.put_wf i x w) o.puts wf
  have rawSame := foldl_read_unchanged (P := fun m => Memory.wf m = true) (read := fun m => Memory.get m p)
    (f := fun m (x : Nat × Byte) => Memory.write m (rowOff i x.1) [x.2]) (fun _ _ w => Memory.write_wf w _ _) (l := o.raw)
    (fun m x hx w => by
      have ne : p ≠ rowOff i x.1 := fun e => raw ⟨x, hx, e⟩
      rw [Memory.get_write w, if_neg (by simp only [List.length_singleton]; omega)]) putsWf
  exact rawSame.trans (foldl_read_unchanged (P := fun m => Memory.wf m = true) (read := fun m => Memory.get m p)
    (fun _ x w => Memory.put_wf i x w) (fun m x hx w => Memory.putElem_get w i _ _ fun e => puts ⟨x, hx, e⟩) wf)

/-! ### Rows apart -/

theorem Cmd.rows_nodup (c : Cmd) (n : Nat) : (c.rows n).Nodup := by
  unfold Cmd.rows
  split
  · exact List.nodup_singleton _
  · exact List.nodup_range

/-- The bytes of row `i`. -/
def Memory.rowBytes (m : Memory) (i : Nat) : Fin (2 ^ 22) → Byte := fun t => m.get (2 ^ 22 * i + t)

section
variable {g : Group} {ins : Instr} {c : Cmd} (wf : g.spad.wf = true)
include wf

theorem Group.vxSpad_get {p : Nat} (out : ∀ i ∈ c.rows g.n, ¬ (g.vxRow ins c i).touches i p) : (g.vxSpad ins c).get p = g.spad.get p :=
  foldl_read_unchanged (P := fun m => Memory.wf m = true) (read := fun m => Memory.get m p)
    (fun _ i w => RowOut.written_wf _ i w) (fun _ i hi w => RowOut.written_get (out i hi) w) wf

/-- Where each row writes in itself alone, a row holds what its own writes leave. -/
theorem Group.vxSpad_row (own : ∀ j p, (g.vxRow ins c j).touches j p → 2 ^ 22 * j ≤ p ∧ p < 2 ^ 22 * (j + 1)) {i : Nat}
    (hi : i ∈ c.rows g.n) : ∃ u : Memory, u.wf = true ∧ ∀ p, 2 ^ 22 * i ≤ p → p < 2 ^ 22 * (i + 1) →
      u.get p = g.spad.get p ∧ (g.vxSpad ins c).get p = ((g.vxRow ins c i).written i u).get p := by
  obtain ⟨u, hu, same, last⟩ := foldl_read_once (P := fun m => Memory.wf m = true) (read := fun m => Memory.rowBytes m i)
    (f := fun m i => (g.vxRow ins c i).written i m) (fun _ i w => RowOut.written_wf _ i w) (a := i)
    (fun m j ne w => funext fun t => RowOut.written_get (fun e => by have := own j _ e; omega) w) (c.rows_nodup g.n) hi wf
  refine ⟨u, hu, fun p low high => ?_⟩
  obtain ⟨t, rfl⟩ := Nat.exists_eq_add_of_le low
  have ht : t < 2 ^ 22 := by omega
  exact ⟨congrFun same ⟨t, ht⟩, congrFun last ⟨t, ht⟩⟩

/-- An element of a region that lies in the row is what the row's own writes leave of it. -/
theorem Group.vxSpad_elem (own : ∀ j p, (g.vxRow ins c j).touches j p → 2 ^ 22 * j ≤ p ∧ p < 2 ^ 22 * (j + 1)) {i : Nat}
    (hi : i ∈ c.rows g.n) {a : Arg} {m k : Nat} (fits : a.fits m) (hk : k < m) : ∃ u : Memory, u.wf = true ∧
      u.elemBits i a.r a.f k = g.spad.elemBits i a.r a.f k ∧
      (g.vxSpad ins c).elemBits i a.r a.f k = ((g.vxRow ins c i).written i u).elemBits i a.r a.f k := by
  obtain ⟨u, hu, bytes⟩ := Group.vxSpad_row wf own hi
  have inRow (o : Nat) (h : a.holds i k o) := fits.row (by omega) (fits.covers_elem hk h)
  exact ⟨u, hu, Memory.elemBits_congr fun o ho => (bytes o (inRow o ho).1 (inRow o ho).2).1,
    Memory.elemBits_congr fun o ho => (bytes o (inRow o ho).1 (inRow o ho).2).2⟩

end

/-! ### Puts in order -/

/-- The put that no later one touches is read back. -/
theorem foldl_put_last {a : Arg} (reg : a.f.regular) {i k : Nat} (w : Nat) (before : List (Arg × Nat × Nat)) {later : List (Arg × Nat × Nat)}
    (leaves : ∀ x ∈ later, ∀ m : Memory, m.wf = true → (m.put i x).elemBits i a.r a.f k = m.elemBits i a.r a.f k) {m : Memory}
    (wf : m.wf = true) : ((before ++ (a, k, w) :: later).foldl (Memory.put i) m).elemBits i a.r a.f k = w % 2 ^ a.f.width := by
  have keeps (m : Memory) (x : Arg × Nat × Nat) (wf : m.wf = true) : (m.put i x).wf = true := Memory.put_wf i x wf
  have first := foldl_invariant keeps before wf
  rw [List.foldl_append, List.foldl_cons]
  exact (foldl_read_unchanged (P := fun m => Memory.wf m = true) (read := fun m => Memory.elemBits m i a.r a.f k) keeps
    (fun m x hx w => leaves x hx m w) (keeps _ _ first)).trans (Memory.elemBits_putElem_same first i a.r reg k w)

theorem mapIdx_split {α β : Type} (F : Nat → α → β) {l : List α} {k : Nat} {a : α} (h : l[k]? = some a) :
    ∃ s t : List β, l.mapIdx F = s ++ F k a :: t ∧ ∀ y ∈ t, ∃ j b, k < j ∧ j < l.length ∧ y = F j b := by
  obtain ⟨hk, rfl⟩ := List.getElem?_eq_some_iff.1 h
  refine ⟨(l.mapIdx F).take k, (l.mapIdx F).drop (k + 1), ?_, fun y hy => ?_⟩
  · have cut := List.drop_eq_getElem_cons (l := l.mapIdx F) (i := k) (by simpa using hk)
    rw [List.getElem_mapIdx] at cut
    rw [← cut, List.take_append_drop]
  · obtain ⟨j, hj, rfl⟩ := List.mem_iff_getElem.1 hy
    simp only [List.length_drop, List.length_mapIdx] at hj
    exact ⟨k + 1 + j, l[k + 1 + j], by omega, by omega, by simp⟩

/-! #### Words in order -/

/-- The row puts the words `ws` in the first elements of `d`, in order, and writes nothing else. -/
def RowOut.fills (o : RowOut) (d : Arg) (ws : List Nat) : Prop := o.raw = [] ∧ o.puts = ws.mapIdx (fun k w => (d, k, w))

theorem putAll_fills (d : Arg) (rnd : Nat) (sat : Bool) (vs : List (XVal × FFlags)) (poison : Bool) :
    (putAll d rnd sat vs poison).fills d (vs.map (fun v => (roundCvt v.1 d.f.elem rnd sat).1)) := by
  refine ⟨rfl, ?_⟩
  simp only [putAll]
  apply List.ext_getElem <;> simp

/-- Of a region the elements are apart, or the last remains (R194). -/
def Arg.remains (a : Arg) (m k : Nat) : Prop := a.r.stride ≠ 0 ∨ k + 1 = m

section
variable {d : Arg} {m k i : Nat} (fits : d.fits m) (plain : d.f.mx = false) (hk : k < m) (keeps : d.remains m k)
include fits plain hk keeps

/-- A put of a later element leaves the element. -/
theorem Arg.leaves_earlier {j : Nat} (later : k < j) (hj : j < m) (w : Nat) (u : Memory) (wf : u.wf = true) :
    (u.put i (d, j, w)).elemBits i d.r d.f k = u.elemBits i d.r d.f k :=
  Memory.elemBits_putElem_other wf fits plain (keeps.resolve_right (by omega)) i w hk hj (Nat.ne_of_lt later)

theorem RowOut.fills.elem {o : RowOut} {ws : List Nat} (filled : o.fills d ws) (len : ws.length = m) {w : Nat} (hw : ws[k]? = some w)
    {u : Memory} (wf : u.wf = true) : (o.written i u).elemBits i d.r d.f k = w % 2 ^ d.f.width := by
  obtain ⟨raw, puts⟩ := filled
  obtain ⟨s, t, split, later⟩ := mapIdx_split (fun k w => (d, k, w)) hw
  rw [RowOut.written, raw, puts, split, List.foldl_nil]
  refine foldl_put_last fits.1 w s (fun x hx u wf => ?_) wf
  obtain ⟨j, b, lt, hj, rfl⟩ := later x hx
  exact d.leaves_earlier fits plain hk keeps lt (len ▸ hj) b u wf

end

/-- The row puts elements below `m` of regions in `as`, and writes nothing else. -/
def RowOut.within (o : RowOut) (as : List Arg) (m : Nat) : Prop := o.raw = [] ∧ ∀ x ∈ o.puts, x.1 ∈ as ∧ x.2.1 < m

theorem RowOut.fills.within {o : RowOut} {d : Arg} {ws : List Nat} (filled : o.fills d ws) : o.within [d] ws.length := by
  refine ⟨filled.1, fun x hx => ?_⟩
  rw [filled.2] at hx
  obtain ⟨j, hj, rfl⟩ := List.mem_mapIdx.1 hx
  exact ⟨List.mem_singleton.2 rfl, hj⟩

theorem RowOut.within.covers {o : RowOut} {as : List Arg} {m i p : Nat} (stays : o.within as m) (fits : ∀ a ∈ as, a.fits m)
    (touch : o.touches i p) : ∃ a ∈ as, a.covers m i p := by
  obtain ⟨raw, puts⟩ := stays
  rcases touch with ⟨x, hx, h⟩ | ⟨x, hx, -⟩
  · exact ⟨x.1, (puts x hx).1, (fits _ (puts x hx).1).covers_elem (puts x hx).2 h⟩
  · rw [raw] at hx
    exact absurd hx List.not_mem_nil

/-! #### Ranks: values with their indices (R215) -/

/-- The row puts pairs, the one part in `d` and the other in `b`, in order, and writes nothing else. -/
def RowOut.ranks (o : RowOut) (d b : Arg) (ws : List (Nat × Nat)) : Prop :=
  o.raw = [] ∧ o.puts = (ws.mapIdx (fun r w => [(d, r, w.1), (b, r, w.2)])).flatten

/-- The spans of the first `m` elements do not meet. -/
def Arg.apart (a b : Arg) (m : Nat) : Prop :=
  (regionSpan a.r a.f m).2 ≤ (regionSpan b.r b.f m).1 ∨ (regionSpan b.r b.f m).2 ≤ (regionSpan a.r a.f m).1

theorem Arg.apart.symm {a b : Arg} {m : Nat} (h : a.apart b m) : b.apart a m := Or.symm h

theorem RowOut.ranks.within {o : RowOut} {d b : Arg} {ws : List (Nat × Nat)} (ranked : o.ranks d b ws) : o.within [d, b] ws.length := by
  refine ⟨ranked.1, fun x hx => ?_⟩
  rw [ranked.2] at hx
  obtain ⟨pair, hpair, hx⟩ := List.mem_flatten.1 hx
  obtain ⟨j, hj, rfl⟩ := List.mem_mapIdx.1 hpair
  rcases List.mem_pair.1 hx with rfl | rfl
  · exact ⟨by simp, hj⟩
  · exact ⟨by simp, hj⟩

section
variable {a b : Arg} {m k i : Nat} (fitsA : a.fits m) (fitsB : b.fits m) (hk : k < m)
include fitsA fitsB hk

theorem Arg.apart.leaves (apart : a.apart b m) {j : Nat} (hj : j < m) (w : Nat) (u : Memory) (wf : u.wf = true) :
    (u.put i (b, j, w)).elemBits i a.r a.f k = u.elemBits i a.r a.f k := by
  refine Memory.elemBits_putElem_far wf w fun o ha hb => ?_
  have inA := fitsA.covers_elem hk ha
  have inB := fitsB.covers_elem hj hb
  unfold Arg.apart at apart
  unfold Arg.covers at inA inB
  omega

variable {o : RowOut} {ws : List (Nat × Nat)} (len : ws.length = m) {w : Nat × Nat} (hw : ws[k]? = some w) (apart : a.apart b m)
  {u : Memory} (wf : u.wf = true)
include len hw apart wf

/-- The values of the ranks, where the indices lie elsewhere. -/
theorem RowOut.ranks.value (ranked : o.ranks a b ws) (plain : a.f.mx = false) (keeps : a.remains m k) :
    (o.written i u).elemBits i a.r a.f k = w.1 % 2 ^ a.f.width := by
  obtain ⟨raw, puts⟩ := ranked
  obtain ⟨s, t, split, later⟩ := mapIdx_split (fun r w => [(a, r, w.1), (b, r, w.2)]) hw
  rw [RowOut.written, raw, puts, split, List.foldl_nil, List.flatten_append, List.flatten_cons]
  refine foldl_put_last fitsA.1 w.1 s.flatten (later := (b, k, w.2) :: t.flatten) (fun x hx u wf => ?_) wf
  rcases List.mem_cons.1 hx with rfl | hx
  · exact apart.leaves fitsA fitsB hk hk w.2 u wf
  · obtain ⟨pair, hpair, hx⟩ := List.mem_flatten.1 hx
    obtain ⟨j, y, lt, hj, rfl⟩ := later pair hpair
    rcases List.mem_pair.1 hx with rfl | rfl
    · exact a.leaves_earlier fitsA plain hk keeps lt (len ▸ hj) y.1 u wf
    · exact apart.leaves fitsA fitsB hk (len ▸ hj) y.2 u wf

/-- The indices of the ranks, where the values lie elsewhere. -/
theorem RowOut.ranks.index (ranked : o.ranks b a ws) (plain : a.f.mx = false) (keeps : a.remains m k) :
    (o.written i u).elemBits i a.r a.f k = w.2 % 2 ^ a.f.width := by
  obtain ⟨raw, puts⟩ := ranked
  obtain ⟨s, t, split, later⟩ := mapIdx_split (fun r w => [(b, r, w.1), (a, r, w.2)]) hw
  have cut : (s ++ [(b, k, w.1), (a, k, w.2)] :: t).flatten = (s.flatten ++ [(b, k, w.1)]) ++ (a, k, w.2) :: t.flatten := by simp
  rw [RowOut.written, raw, puts, split, List.foldl_nil, cut]
  refine foldl_put_last fitsA.1 w.2 (s.flatten ++ [(b, k, w.1)]) (fun x hx u wf => ?_) wf
  obtain ⟨pair, hpair, hx⟩ := List.mem_flatten.1 hx
  obtain ⟨j, y, lt, hj, rfl⟩ := later pair hpair
  rcases List.mem_pair.1 hx with rfl | rfl
  · exact apart.leaves fitsA fitsB hk (len ▸ hj) y.1 u wf
  · exact a.leaves_earlier fitsA plain hk keeps lt (len ▸ hj) y.2 u wf

end

/-! #### Words at places that an index names (R218) -/

/-- The row puts, for the indices below `n` that name a place, the word of the index there, in order, and writes nothing else. -/
def RowOut.scatters (o : RowOut) (d : Arg) (n : Nat) (place : Nat → Option Nat) (w : Nat → Nat) : Prop :=
  o.raw = [] ∧ o.puts = (List.range n).filterMap (fun j => (place j).map (fun t => (d, t, w j)))

/-- Puts at other places of a region whose elements are apart leave the element. -/
theorem Arg.leaves_scattered {d : Arg} {m i k : Nat} {place : Nat → Option Nat} (inside : ∀ j t, place j = some t → t < m) (fits : d.fits m)
    (plain : d.f.mx = false) (stride : d.r.stride ≠ 0) (hk : k < m) (w : Nat → Nat) (l : List Nat) (others : ∀ y ∈ l, place y ≠ some k) :
    ∀ x ∈ l.filterMap (fun j => (place j).map (fun t => (d, t, w j))), ∀ u : Memory, u.wf = true →
      (u.put i x).elemBits i d.r d.f k = u.elemBits i d.r d.f k := by
  intro x hx u wf
  obtain ⟨y, hy, hx⟩ := List.mem_filterMap.1 hx
  obtain ⟨t, ht, rfl⟩ := Option.map_eq_some_iff.1 hx
  exact Memory.elemBits_putElem_other wf fits plain stride i (w y) hk (inside y t ht) fun e => others y hy (e ▸ ht)

section
variable {o : RowOut} {d : Arg} {n m : Nat} {place : Nat → Option Nat} {w : Nat → Nat} (scattered : o.scatters d n place w)
  (inside : ∀ j t, place j = some t → t < m)
include scattered inside

theorem RowOut.scatters.within : o.within [d] m := by
  refine ⟨scattered.1, fun x hx => ?_⟩
  rw [scattered.2] at hx
  obtain ⟨j, -, hx⟩ := List.mem_filterMap.1 hx
  obtain ⟨t, ht, rfl⟩ := Option.map_eq_some_iff.1 hx
  exact ⟨List.mem_singleton.2 rfl, inside j t ht⟩

variable {i k : Nat} (fits : d.fits m) (plain : d.f.mx = false) (stride : d.r.stride ≠ 0) (hk : k < m) {u : Memory} (wf : u.wf = true)
include fits plain stride hk wf

/-- The element with the highest index that names the place remains. -/
theorem RowOut.scatters.last {j : Nat} (hj : j < n) (named : place j = some k) (final : ∀ y, j < y → y < n → place y ≠ some k) :
    (o.written i u).elemBits i d.r d.f k = w j % 2 ^ d.f.width := by
  obtain ⟨s, t, split⟩ := List.append_of_mem (List.mem_range.2 hj)
  have later (y : Nat) (hy : y ∈ t) : j < y ∧ y < n := by
    have order : (s ++ j :: t).Pairwise (· < ·) := split ▸ List.pairwise_lt_range
    refine ⟨(List.pairwise_cons.1 (List.pairwise_append.1 order).2.1).1 y hy, List.mem_range.1 (split ▸ ?_)⟩
    exact List.mem_append_right s (List.mem_cons_of_mem j hy)
  rw [RowOut.written, scattered.1, scattered.2, split, List.foldl_nil, List.filterMap_append,
    List.filterMap_cons_some (b := (d, k, w j)) (by simp [named])]
  exact foldl_put_last fits.1 (w j) _ (d.leaves_scattered inside fits plain stride hk w t fun y hy => final y (later y hy).1 (later y hy).2) wf

/-- An element that no index names stays. -/
theorem RowOut.scatters.unnamed (others : ∀ y, y < n → place y ≠ some k) :
    (o.written i u).elemBits i d.r d.f k = u.elemBits i d.r d.f k := by
  rw [RowOut.written, scattered.1, scattered.2, List.foldl_nil]
  exact foldl_read_unchanged (P := fun m => Memory.wf m = true) (read := fun m => Memory.elemBits m i d.r d.f k)
    (fun m x wf => Memory.put_wf i x wf) (fun m x hx wf => d.leaves_scattered inside fits plain stride hk w _
      (fun y hy => others y (List.mem_range.1 hy)) x hx m wf) wf

end

/-! #### Blocks of an MX region (R86) -/

/-- The row writes the blocks of `n` elements of the MX region `d`, of which block `b` has the encodings `es b` and the scale byte
`x b`, and nothing else. -/
def RowOut.blocks (o : RowOut) (d : Arg) (n : Nat) (es : Nat → List Nat) (x : Nat → Nat) : Prop :=
  o.puts = [] ∧ o.raw = (List.range ((n + 31) / 32)).flatMap (fun b => rawAt (d.r.base + d.f.block * b) (blockBytes d.f (es b) (x b)))

/-- The byte that is written at each place, where no two are written at one. -/
theorem Memory.foldl_write_get {i p : Nat} {v : Byte} {l : List (Nat × Byte)} (mem : (p, v) ∈ l) (once : ∀ b, (p, b) ∈ l → b = v)
    {m : Memory} (wf : m.wf = true) : (l.foldl (fun m (x : Nat × Byte) => m.write (rowOff i x.1) [x.2]) m).get (rowOff i p) = v := by
  induction l using List.reverseRecOn with
  | nil => exact absurd mem List.not_mem_nil
  | append_singleton l x ih =>
    rw [List.foldl_concat, Memory.get_write (foldl_invariant (P := fun m => Memory.wf m = true) (fun _ _ w => Memory.write_wf w _ _) l wf)]
    by_cases here : x.1 = p
    · subst here
      simpa using once x.2 (by simp)
    · have other : (p, v) ∈ l := (List.mem_append.1 mem).resolve_right fun h => here (by rw [← List.mem_singleton.1 h])
      rw [if_neg (by simp only [rowOff, List.length_singleton]; omega)]
      exact ih other fun b hb => once b (List.mem_append_left _ hb)

theorem mem_rawAt {o p : Nat} {v : Byte} {bs : List Byte} : (p, v) ∈ rawAt o bs ↔ ∃ t, bs[t]? = some v ∧ p = o + t := by
  simp only [rawAt, List.mem_mapIdx, Prod.mk.injEq, List.getElem?_eq_some_iff]
  constructor
  · rintro ⟨t, ht, rfl, rfl⟩
    exact ⟨t, ⟨ht, rfl⟩, rfl⟩
  · rintro ⟨t, ⟨ht, rfl⟩, rfl⟩
    exact ⟨t, ht, rfl, rfl⟩

section
variable {f : Format} (reg : f.regular) (mx : f.mx = true)
include reg mx

theorem blockBytes_length (es : List Nat) (x : Nat) : (blockBytes f es x).length = f.block := by
  rcases reg.2 mx with h | h <;> simp [blockBytes, Format.block, h]

/-- The scale byte stands last. -/
theorem blockBytes_scale (es : List Nat) (x : Nat) : (blockBytes f es x)[f.block - 1]? = some (BitVec.ofNat 8 x) := by
  rcases reg.2 mx with h | h <;> simp [blockBytes, Format.block, h]

/-- An encoding of the block, at its byte and nibble. -/
theorem blockBytes_element (es : List Nat) (x : Nat) {j : Nat} (hj : j < 32) :
    if f.width = 4 then ∃ v, (blockBytes f es x)[j / 2]? = some v ∧ v.toNat / 16 ^ (j % 2) % 16 = es.getD j 0 % 16
    else ∃ v, (blockBytes f es x)[j]? = some v ∧ v.toNat = es.getD j 0 % 256 := by
  rcases reg.2 mx with h | h
  · rw [if_pos h]
    refine ⟨BitVec.ofNat 8 (es.getD (2 * (j / 2)) 0 % 16 + 16 * (es.getD (2 * (j / 2) + 1) 0 % 16)), ?_, ?_⟩
    · have inside : j / 2 < 16 := by omega
      simp [blockBytes, h, List.getElem?_append, inside]
    · rcases Nat.mod_two_eq_zero_or_one j with e | e
      · have at_ : 2 * (j / 2) = j := by omega
        rw [at_, e]
        simp
      · have at_ : 2 * (j / 2) + 1 = j := by omega
        rw [at_, e]
        simp
        omega
  · have wide : f.width ≠ 4 := by omega
    rw [if_neg wide]
    refine ⟨BitVec.ofNat 8 (es.getD j 0), ?_, by simp⟩
    simp [blockBytes, h, List.getElem?_append, hj]

end

section
variable {o : RowOut} {d : Arg} {n : Nat} {es : Nat → List Nat} {x : Nat → Nat} (blocks : o.blocks d n es x) (reg : d.f.regular)
  (mx : d.f.mx = true)
include blocks reg mx

/-- The bytes that the blocks name lie in the region's span. -/
theorem RowOut.blocks.covers {i p : Nat} (touch : o.touches i p) : d.covers n i p := by
  obtain ⟨puts, raw⟩ := blocks
  rcases touch with ⟨y, hy, -⟩ | ⟨y, hy, rfl⟩
  · rw [puts] at hy
    exact absurd hy List.not_mem_nil
  · rw [raw] at hy
    obtain ⟨b, hb, hy⟩ := List.mem_flatMap.1 hy
    obtain ⟨t, ht, place⟩ := mem_rawAt.1 hy
    have inBlock : t < d.f.block := blockBytes_length reg mx (es b) (x b) ▸ (List.getElem?_eq_some_iff.1 ht).1
    have next : d.f.block * b + d.f.block ≤ (n + 31) / 32 * d.f.block := by
      rw [← Nat.mul_succ, Nat.mul_comm]
      exact Nat.mul_le_mul_right _ (List.mem_range.1 hb)
    simp only [Arg.covers, regionSpan, mx, if_true, Format.bytes, rowOff, place]
    omega

/-- A byte of a block after the row's writes. -/
theorem RowOut.blocks.get {b t : Nat} (hb : b < (n + 31) / 32) {v : Byte} (hv : (blockBytes d.f (es b) (x b))[t]? = some v) (i : Nat)
    {u : Memory} (wf : u.wf = true) : (o.written i u).get (rowOff i (d.r.base + d.f.block * b + t)) = v := by
  obtain ⟨puts, raw⟩ := blocks
  rw [RowOut.written, puts, raw, List.foldl_nil]
  have inBlock {b t : Nat} {v : Byte} (h : (blockBytes d.f (es b) (x b))[t]? = some v) : t < d.f.block :=
    blockBytes_length reg mx (es b) (x b) ▸ (List.getElem?_eq_some_iff.1 h).1
  refine Memory.foldl_write_get (List.mem_flatMap.2 ⟨b, List.mem_range.2 hb, mem_rawAt.2 ⟨t, hv, rfl⟩⟩) (fun v' hv' => ?_) wf
  obtain ⟨b', -, hv'⟩ := List.mem_flatMap.1 hv'
  obtain ⟨t', ht', place⟩ := mem_rawAt.1 hv'
  have sum : t + d.f.block * b = t' + d.f.block * b' := by omega
  have block : b = b' := by
    have := congrArg (· / d.f.block) sum
    simpa [Nat.add_mul_div_left _ _ (Nat.zero_lt_of_lt (inBlock hv)), Nat.div_eq_of_lt (inBlock hv), Nat.div_eq_of_lt (inBlock ht')] using this
  subst block
  obtain rfl : t = t' := by omega
  exact Option.some.inj (ht'.symm.trans hv)

/-- An element and its scale byte after the row's writes. -/
theorem RowOut.blocks.elem {k : Nat} (hk : k < n) (i : Nat) {u : Memory} (wf : u.wf = true) :
    (o.written i u).elemBits i d.r d.f k = (es (k / 32)).getD (k % 32) 0 % 2 ^ d.f.width ∧
    ((o.written i u).get (rowOff i (scalePlace d.r d.f k))).toNat = x (k / 32) % 256 := by
  have hb : k / 32 < (n + 31) / 32 := by omega
  refine ⟨?_, ?_⟩
  · have element := blockBytes_element reg mx (es (k / 32)) (x (k / 32)) (Nat.mod_lt k (by decide : 0 < 32))
    have place := elemPlace_mx (r := d.r) k reg mx
    rcases reg.2 mx with h | h
    · rw [if_pos h] at element place
      obtain ⟨v, hv, value⟩ := element
      have byte := RowOut.blocks.get blocks reg mx hb hv i wf
      rw [Memory.elemBits_half _ i d.r reg h, elemAddr, place, h]
      simp only [Int.toNat_natCast]
      rw [byte]
      exact value
    · rw [if_neg (by omega)] at element place
      obtain ⟨v, hv, value⟩ := element
      have byte := RowOut.blocks.get blocks reg mx hb hv i wf
      rw [Memory.elemBits_wide _ i d.r (by omega), elemAddr, place, Format.mx_size reg mx, h]
      simp only [Int.toNat_natCast, Memory.read, leNat]
      rw [byte, value]
      rfl
  · have byte := RowOut.blocks.get blocks reg mx hb (blockBytes_scale reg mx _ _) i wf
    rw [scalePlace, byte]
    simp

end

end Sys2Proof.Machine

/-! ## What each vector command writes in a row

An equation per command: the words that it puts (`RowOut.fills`), the pairs of its ranks, the places that its indices name, or the
blocks of an MX region. `VxFits` gathers what the statements ask of the regions, and says what stands in them afterwards. -/

namespace Sys2Proof.Machine

open Sys2Proof

/-! ### The fields of IMM12 (R205) -/

section
variable (c : Cmd)

theorem Cmd.kTop_eq : c.kTop = c.imm.toNat / 16 := by
  simp only [Cmd.kTop, BitVec.extractLsb'_toNat, Nat.shiftRight_eq_div_pow]
  have := c.imm.isLt
  omega

theorem Cmd.kSwap_eq : c.kSwap = c.imm.toNat / 16 % 8 := by
  simp [Cmd.kSwap, BitVec.extractLsb'_toNat, Nat.shiftRight_eq_div_pow]

theorem Cmd.neg_eq : c.neg = c.imm.toNat / 128 % 4 := by
  simp [Cmd.neg, BitVec.extractLsb'_toNat, Nat.shiftRight_eq_div_pow]

theorem Cmd.kind_eq : c.kind = c.imm.toNat / 16 % 4 := by
  simp [Cmd.kind, BitVec.extractLsb'_toNat, Nat.shiftRight_eq_div_pow]

theorem Cmd.lg_eq : c.lg = c.imm.toNat / 16 % 16 := by
  simp [Cmd.lg, BitVec.extractLsb'_toNat, Nat.shiftRight_eq_div_pow]

theorem Cmd.cond_eq : c.cond = c.imm.toNat / 16 % 8 := by
  simp [Cmd.cond, BitVec.extractLsb'_toNat, Nat.shiftRight_eq_div_pow]

end

/-! ### Operands and their values -/

/-- An operand of a command; one of an invalid format is read by that of D (log 49). -/
def Cmd.argOr (c : Cmd) (d : Arg) (j : Nat) (v : Word) : Arg := (mkArg v (c.word j)).getD d

/-- The value of an element of an operand in row `i`. -/
def Group.val (g : Group) (i : Nat) (a : Arg) (k : Nat) : XVal := (g.elemVal i a.r a.f k).1

/-- The encoding of an element of an operand in row `i`. -/
def Group.bits (g : Group) (i : Nat) (a : Arg) (k : Nat) : Nat := (g.elem i a.r a.f k).1

/-- The encoding that put gives a value (R75). -/
def Cmd.putBits (c : Cmd) (d : Arg) (v : XVal) : Nat := (roundCvt v d.f.elem c.rnd c.sat).1

theorem Group.src_fst (g : Group) (i : Nat) (a : Arg) (n : Nat) : (g.src i a n).1 = (List.range n).map (g.val i a) := by
  simp [Group.src, Group.val, Function.comp_def]

theorem Group.srcBits_fst (g : Group) (i : Nat) (a : Arg) (n : Nat) : (g.srcBits i a n).1 = (List.range n).map (g.bits i a) := by
  simp [Group.srcBits, Group.bits, Function.comp_def]

theorem getD_map_range {α : Type} {n k : Nat} (hk : k < n) (F : Nat → α) (x : α) : ((List.range n).map F).getD k x = F k := by
  simp [List.getD_eq_getElem?_getD, hk]

/-! ### What a command writes in a row -/

theorem putAll_map {α : Type} (c : Cmd) (d : Arg) (l : List α) (v : α → XVal × FFlags) (p : Bool) :
    (putAll d c.rnd c.sat (l.map v) p).fills d (l.map (fun x => c.putBits d (v x).1)) := by
  have filled := putAll_fills d c.rnd c.sat (l.map v) p
  rwa [List.map_map] at filled

/-- Values put in order, each as `x` says. -/
theorem putAll_values {c : Cmd} {d : Arg} {n : Nat} {v : Nat → XVal × FFlags} {p : Bool} {x : Nat → XVal} (same : ∀ k < n, (v k).1 = x k) :
    (putAll d c.rnd c.sat ((List.range n).map v) p).fills d ((List.range n).map (fun k => c.putBits d (x k))) := by
  have filled := putAll_map c d (List.range n) v p
  rwa [List.map_congr_left fun k hk => congrArg (c.putBits d) (same k (List.mem_range.1 hk))] at filled

theorem fills_bits (d : Arg) (n : Nat) (w : Nat → Nat) (fl : FFlags) (p : Bool) :
    RowOut.fills { puts := (List.range n).map (fun k => (d, k, w k)), flags := fl, poison := p } d ((List.range n).map w) :=
  ⟨rfl, (mapIdx_map_range n w (fun k x => (d, k, x))).symm⟩

section
variable {g : Group} {c : Cmd} {d : Arg} (hd : mkArg c.vD (c.word 0) = some d) (i : Nat) (e : EWord)
include hd

/-- R207 to R211: an elementwise command puts, of each element, its value. -/
theorem Group.vxRow_elementwise {ins : Instr} {k : Nat} {v : XVal} (hk : k < vxCount ins c)
    (hv : elementValue ins (c.rnd == 2) (g.val i (c.argOr d 1 c.vA) k) (g.val i (c.argOr d 2 c.vB) k) (g.val i (c.argOr d 3 c.vC) k) = some v) :
    ∃ ws : List Nat, (g.vxRow ins c i).fills d ws ∧ ws.length = touched ins c d.r (vxCount ins c) ∧ ws[k]? = some (c.putBits d v) := by
  unfold elementValue at hv
  split at hv
  case h_19 => cases hv
  all_goals
    cases hv
    simp only [Group.vxRow, hd, Group.src_fst, mapIdx_map_range]
    refine ⟨_, putAll_map .., ?_, ?_⟩
    · simp [touched]
    · simp only [List.getElem?_map, List.getElem?_range hk, Option.map_some, getD_map_range hk, List.getD_nil]
      rfl

end

theorem scanX_length (kind : Nat) (exact rdn : Bool) (s : Option XVal) (vs : List XVal) : (scanX kind exact rdn s vs).length = vs.length := by
  induction vs generalizing s with
  | nil => simp [scanX]
  | cons a rest ih => simp [scanX, ih]

theorem compareX_eq {cond : Nat} (small : cond < 8) (x y : XVal) : (compareX cond x y).1 =
    if x.isNan || y.isNan then cond == 1 || cond == 6
    else [x.numEq y, !x.numEq y, x.lt y, x.lt y || x.numEq y, y.lt x, y.lt x || x.numEq y, false, true].getD cond false := by
  unfold compareX
  split
  · interval_cases cond <;> rfl
  · interval_cases cond <;> rfl

theorem tritOf_eq (b k : Nat) :
    (tritOf b k).1 = if 243 ≤ b then 0 else if b / 3 ^ (k % 5) % 3 = 2 then -1 else ((b / 3 ^ (k % 5) % 3 : Nat) : Int) := by
  unfold tritOf
  split
  · rfl
  · simp only [beq_iff_eq]

/-- R217: the element at distance 2^k, negated on the named side. -/
def Cmd.swapped (c : Cmd) (v : Nat → XVal) (n k : Nat) : XVal :=
  let x := if k ^^^ 2 ^ c.kSwap < n then v (k ^^^ 2 ^ c.kSwap) else XVal.zero
  if (c.neg == 1 && !k.testBit c.kSwap) || (c.neg == 2 && k.testBit c.kSwap) then x.negate else x

/-- R218: the element that an index names, +0 for an index outside the region. -/
def gathered (v : Nat → XVal) (n : Nat) (j : Int) : XVal := if 0 ≤ j ∧ j < (n : Int) then v j.toNat else XVal.zero

/-- The element of D that an index names (R218). -/
def scatterPlace (n : Nat) (j : Int) : Option Nat := if 0 ≤ j ∧ j < (n : Int) then some j.toNat else none

theorem scatterPlace_lt {n t : Nat} {j : Int} (named : scatterPlace n j = some t) : t < n := by
  unfold scatterPlace at named
  split at named
  · cases named
    omega
  · cases named

/-- The products of group `q` of `size` elements (R222). -/
def dotTerms (a b : Nat → XVal) (n count size q : Nat) : List XVal :=
  (List.range (min size (n - q * size))).map (fun j => (mulX (a (q * size + j)) (b ((q * size + j) % count))).1)

theorem mapIdx_dotTerms (a b : Nat → XVal) (n : Nat) {count : Nat} (some_ : count ≠ 0) (size q : Nat) :
    ((((List.range n).map a).drop (q * size)).take size).mapIdx (fun j x =>
      (mulX x (((List.range (min n count)).map b).getD ((q * size + j) % count) XVal.zero)).1) = dotTerms a b n count size q := by
  apply List.ext_getElem
  · simp [dotTerms]
  · intro j hj _
    have place := Nat.mod_lt (q * size + j) (Nat.pos_of_ne_zero some_)
    have low := Nat.mod_le (q * size + j) count
    simp only [List.length_mapIdx, List.length_take, List.length_drop, List.length_map, List.length_range] at hj
    simp only [List.getElem_mapIdx, List.getElem_take, List.getElem_drop, List.getElem_map, List.getElem_range, dotTerms]
    rw [getD_map_range (by omega)]

/-- The values of A in the order of their ranks, each with its place (R215). -/
def Group.ranking (g : Group) (c : Cmd) (d : Arg) (i : Nat) : List (Nat × XVal) :=
  ranked ((List.range (countOf c.vA)).map (g.val i (c.argOr d 1 c.vA)))

section
variable {g : Group} {c : Cmd} {d : Arg} (hd : mkArg c.vD (c.word 0) = some d) (i : Nat) (e : EWord)
include hd

theorem Group.vxRow_vcmp : (g.vxRow (.vcmp e) c i).fills d ((List.range (countOf c.vD)).map fun k =>
    c.putBits d (XVal.ofInt (if (compareX c.cond (g.val i (c.argOr d 1 c.vA) k) (g.val i (c.argOr d 2 c.vB) k)).1 then 1 else 0))) := by
  simp only [Group.vxRow, hd, Group.src_fst, List.zip_map', List.map_map]
  exact putAll_map c d _ _ _

theorem Group.vxRow_vfill : (g.vxRow (.vfill e) c i).fills d ((List.range (countOf c.vD)).map fun _ => c.vA.toNat % 2 ^ d.f.width) := by
  simp only [Group.vxRow, hd]
  exact fills_bits ..

theorem Group.vxRow_vcopy (plain : d.f.mx = false) :
    (g.vxRow (.vcopy e) c i).fills d ((List.range (countOf c.vD)).map fun k => g.bits i (c.argOr d 1 c.vA) k) := by
  simp only [Group.vxRow, hd, plain, Group.srcBits_fst, mapIdx_map_range]
  exact fills_bits ..

theorem Group.vxRow_vswp2 : (g.vxRow (.vswp2 e) c i).fills d ((List.range (countOf c.vD)).map fun k =>
    c.putBits d (c.swapped (g.val i (c.argOr d 1 c.vA)) (countOf c.vD) k)) := by
  have read (j : Nat) : ((List.range (countOf c.vD)).map (g.val i (c.argOr d 1 c.vA))).getD j XVal.zero =
      if j < countOf c.vD then g.val i (c.argOr d 1 c.vA) j else XVal.zero := by
    split
    · rename_i hj
      exact getD_map_range hj _ _
    · rename_i hj
      exact List.getD_eq_default _ _ (by simpa using hj)
  simp only [Group.vxRow, hd, Group.src_fst]
  simp only [Cmd.swapped, ← read]
  exact putAll_map c d _ _ _

theorem Group.vxRow_vrand : (g.vxRow (.vrand e) c i).fills d ((List.range (countOf c.vD)).map fun k =>
    if c.kind = 0 then (randWord c.vA c.vB i k).toNat % 2 ^ d.f.width
    else c.putBits d (.fin false ((randWord c.vA c.vB i k).toNat / 256) (-24))) := by
  by_cases raw : c.kind = 0
  · simp only [Group.vxRow, hd, raw, beq_self_eq_true, if_true]
    exact fills_bits ..
  · simp only [Group.vxRow, hd, raw, beq_iff_eq, if_false]
    exact putAll_map c d _ _ _

theorem Group.vxRow_vlut : (g.vxRow (.vlut e) c i).fills d ((List.range (countOf c.vD)).map fun k =>
    c.putBits d (g.val i (c.argOr d 2 c.vB) (g.bits i (c.argOr d 1 c.vA) k))) := by
  simp only [Group.vxRow, hd, Group.srcBits_fst, List.map_map]
  exact putAll_map c d _ _ _

theorem Group.vxRow_vtern : (g.vxRow (.vtern e) c i).fills d ((List.range (countOf c.vD)).map fun k =>
    c.putBits d (XVal.ofInt (tritOf (g.bits i (c.argOr d 1 c.vA) (k / 5)) k).1)) := by
  simp only [Group.vxRow, hd, Group.srcBits_fst]
  exact putAll_values fun k hk => by rw [getD_map_range (by simp only [vxCount] at hk ⊢; omega)]; rfl

theorem Group.vxRow_vgath : (g.vxRow (.vgath e) c i).fills d ((List.range (countOf c.vD)).map fun k =>
    c.putBits d (gathered (g.val i (c.argOr d 1 c.vA)) (c.argOr d 1 c.vA).r.count (g.val i (c.argOr d 2 c.vB) k).toInt)) := by
  have read (n : Nat) (j : Int) : (match (if 0 ≤ j && j < (n : Int) then ((List.range n).map (g.val i (c.argOr d 1 c.vA)))[j.toNat]? else none) with
      | some v => (v, 0)
      | none => (XVal.zero, flagIC) : XVal × FFlags).1 = gathered (g.val i (c.argOr d 1 c.vA)) n j := by
    unfold gathered
    by_cases inside : 0 ≤ j ∧ j < (n : Int)
    · have low : j.toNat < n := by omega
      simp [inside, low]
    · have out : (decide (0 ≤ j) && decide (j < (n : Int))) = false := by simpa using inside
      simp only [out, inside, if_false, Bool.false_eq_true]
  simp only [Group.vxRow, hd, Group.src_fst, List.map_map]
  exact putAll_values fun k _ => read _ _

theorem Group.vxRow_vdot8 (some_ : (c.argOr d 2 c.vB).r.count ≠ 0) :
    (g.vxRow (.vdot8 e) c i).fills d ((List.range ((countOf c.vA + 2 ^ c.lg - 1) / 2 ^ c.lg)).map fun q =>
      c.putBits d (sumX (c.rnd == 2) (dotTerms (g.val i (c.argOr d 1 c.vA)) (g.val i (c.argOr d 2 c.vB)) (countOf c.vA)
        (c.argOr d 2 c.vB).r.count (2 ^ c.lg) q ++ (if c.eword.c = 0 then [] else [g.val i (c.argOr d 3 c.vC) q]))).1) := by
  have products := mapIdx_dotTerms (g.val i (c.argOr d 1 c.vA)) (g.val i (c.argOr d 2 c.vB)) (countOf c.vA) some_ (2 ^ c.lg)
  by_cases alone : c.eword.c = 0
  · simp only [Group.vxRow, hd, Group.src_fst, alone, beq_self_eq_true, if_true]
    exact putAll_values fun q _ => congrArg (fun l => (sumX (c.rnd == 2) (l ++ [])).1) (products q)
  · simp only [Group.vxRow, hd, Group.src_fst, alone, beq_iff_eq, if_false]
    refine putAll_values fun q hq => ?_
    rw [List.getElem?_map, List.getElem?_range hq]
    exact congrArg (fun l => (sumX (c.rnd == 2) (l ++ [g.val i (c.argOr d 3 c.vC) q])).1) (products q)

theorem Group.vxRow_vscan : (g.vxRow (.vscan e) c i).fills d ((scanX c.kind ((c.argOr d 1 c.vA).f.isInt && d.f.isInt) (c.rnd == 2) none
    ((List.range (countOf c.vA)).map (g.val i (c.argOr d 1 c.vA)))).map fun v => c.putBits d v.1) := by
  simp only [Group.vxRow, hd, Group.src_fst]
  exact putAll_fills ..

theorem Group.vxRow_vredsum : (g.vxRow (.vredsum e) c i).fills d [c.putBits d (
    if (c.argOr d 1 c.vA).f.isInt && d.f.isInt
    then XVal.ofInt (((List.range (countOf c.vA)).map (fun j => (g.val i (c.argOr d 1 c.vA) j).toInt)).foldl (· + ·) 0)
    else (treeX 17 ((List.range (countOf c.vA)).map (g.val i (c.argOr d 1 c.vA)))).1)] := by
  by_cases ints : ((c.argOr d 1 c.vA).f.isInt && d.f.isInt) = true
  · rw [if_pos ints]
    unfold Cmd.argOr at ints
    simp only [Group.vxRow, hd, Group.src_fst, ints, if_true, List.map_map]
    exact putAll_fills ..
  · rw [if_neg ints]
    unfold Cmd.argOr at ints
    simp only [Group.vxRow, hd, Group.src_fst, ints]
    exact putAll_fills ..

theorem Group.vxRow_vredmax :
    (g.vxRow (.vredmax e) c i).fills d (((g.ranking c d i).take 1).map fun x => c.putBits d x.2) := by
  simp only [Group.vxRow, hd, Group.src_fst]
  exact putAll_map c d _ _ _

theorem Group.vxRow_vargmax :
    (g.vxRow (.vargmax e) c i).fills d (((g.ranking c d i).take 1).map fun x => c.putBits d (XVal.ofInt x.1)) := by
  simp only [Group.vxRow, hd, Group.src_fst]
  exact putAll_map c d _ _ _

theorem Group.vxRow_vtopk : (g.vxRow (.vtopk e) c i).ranks d (c.argOr d 2 c.vB)
    (((g.ranking c d i).take c.kTop).map fun x => (c.putBits d x.2, x.1 % 2 ^ 32)) := by
  simp only [Group.vxRow, hd, Group.src_fst]
  refine ⟨rfl, congrArg List.flatten ?_⟩
  apply List.ext_getElem
  · simp [putAll, Group.ranking, Cmd.argOr, vxCount]
  · intro j _ _
    simp [putAll, Group.ranking, Cmd.argOr, vxCount, Cmd.putBits]

theorem Group.vxRow_vscat : (g.vxRow (.vscat e) c i).scatters d (countOf c.vA)
    (fun j => scatterPlace d.r.count (g.val i (c.argOr d 2 c.vB) j).toInt) (fun j => c.putBits d (g.val i (c.argOr d 1 c.vA) j)) := by
  simp only [Group.vxRow, hd, Group.src_fst, List.zip_map', List.map_map]
  refine ⟨rfl, ?_⟩
  rw [List.filterMap_map]
  refine List.filterMap_congr fun j _ => ?_
  unfold scatterPlace Cmd.argOr
  by_cases inside : 0 ≤ (g.val i ((mkArg c.vB (c.word 2)).getD d) j).toInt ∧ (g.val i ((mkArg c.vB (c.word 2)).getD d) j).toInt < (d.r.count : Int)
  · simp only [Function.comp_apply, inside, and_self, decide_true, Bool.and_self, if_true, Option.map_some]
    rfl
  · have out : (decide (0 ≤ (g.val i ((mkArg c.vB (c.word 2)).getD d) j).toInt) &&
        decide ((g.val i ((mkArg c.vB (c.word 2)).getD d) j).toInt < (d.r.count : Int))) = false := by simpa using inside
    simp only [Function.comp_apply, out, inside, Bool.false_eq_true, if_false, Option.map_none]

end

/-! ### Copies of MX regions (R87, R219) -/

/-- A byte of the scratchpad in row `i`, 0 where it is poisoned, and whether it is (R190). -/
def Group.copyByte (g : Group) (i o : Nat) : Nat × Bool :=
  if g.spadPoisoned (rowOff i o) 1 then (0, true) else ((g.spad.get (rowOff i o)).toNat, false)

theorem Group.copyByte_eq (g : Group) (i : Nat) : g.copyByte i = fun o =>
    if g.spadPoisoned (rowOff i o) 1 then (0, true) else ((g.spad.get (rowOff i o)).toNat, false) := rfl

/-- The encoding of an element of an MX region, from the bytes of its row. -/
def copiedBits (a : Arg) (byte : Nat → Nat × Bool) (k : Nat) : Nat :=
  let v := (byte (elemPlace a.r a.f k).1.toNat).1
  let nib := (elemPlace a.r a.f k).2
  if a.f.width = 4 then natBits v (4 * nib + 3) (4 * nib) else v

theorem Group.mxCopy_blocks (g : Group) (i : Nat) (d a : Arg) (n : Nat) : (g.mxCopy i d a n).blocks d n
    (fun b => (List.range 32).map fun j => if 32 * b + j < n then copiedBits a (g.copyByte i) (32 * b + j) else 0)
    (fun b => (g.copyByte i (scalePlace a.r a.f (32 * b))).1) := by
  refine ⟨rfl, ?_⟩
  rw [Group.mxCopy, ← Group.copyByte_eq]
  -- the bytes are kept closed: the kernel would compute the sectors of a place to see whether it is poisoned
  obtain ⟨byte, closed⟩ : ∃ byte, byte = g.copyByte i := ⟨_, rfl⟩
  rw [← closed]
  simp only [List.flatMap_map, List.map_map, Function.comp_def, apply_ite Prod.fst, copiedBits, beq_iff_eq]

/-- A copy takes an element without poison as it is, and its scale byte. -/
theorem Group.copy_of_clean {g : Group} {i : Nat} {a : Arg} {k : Nat} (reg : a.f.regular) (mx : a.f.mx = true)
    (clean : (g.elem i a.r a.f k).2.2 = false) :
    g.elem i a.r a.f k = (copiedBits a (g.copyByte i) k, (g.copyByte i (scalePlace a.r a.f k)).1, false) := by
  have ok : g.elemPoisoned i a.r a.f k = false := by
    by_contra bad
    rw [Group.elem_eq, if_pos (Bool.eq_true_of_not_eq_false bad)] at clean
    cases clean
  simp only [Group.elemPoisoned, mx, Bool.true_and, Bool.or_eq_false_iff, Format.mx_size reg mx] at ok
  have byte (o : Nat) (ok : g.spadPoisoned (rowOff i o) 1 = false) : (g.copyByte i o).1 = (g.spad.get (rowOff i o)).toNat := by
    simp [Group.copyByte, ok]
  rw [Group.elem_of_clean clean rfl, if_pos mx, byte _ ok.2]
  refine Prod.ext ?_ rfl
  simp only [copiedBits, byte _ ok.1]
  by_cases half : a.f.width = 4
  · rw [Memory.elemBits_half _ i a.r reg half, if_pos half, elemAddr]
    rcases elemPlace_nibble (r := a.r) k reg with h | h <;> simp [h, natBits]
  · simp [Memory.elemBits_wide _ i a.r half, half, Format.mx_size reg mx, Memory.read, leNat, elemAddr]

theorem Group.vxRow_vcopy_mx (g : Group) {c : Cmd} {d : Arg} (hd : mkArg c.vD (c.word 0) = some d) (mx : d.f.mx = true) (i : Nat) (e : EWord) :
    (g.vxRow (.vcopy e) c i).blocks d (countOf c.vD) (fun b => (List.range 32).map fun j =>
        if 32 * b + j < countOf c.vD then copiedBits (c.argOr d 1 c.vA) (g.copyByte i) (32 * b + j) else 0)
      (fun b => (g.copyByte i (scalePlace (c.argOr d 1 c.vA).r (c.argOr d 1 c.vA).f (32 * b))).1) := by
  have copied : g.vxRow (.vcopy e) c i = g.mxCopy i d (c.argOr d 1 c.vA) (countOf c.vD) := by
    simp only [Group.vxRow, hd, mx, if_true]
    rfl
  rw [copied]
  exact g.mxCopy_blocks i d _ _

/-! ### Quantisation (R223) -/

/-- The values of block `b`. -/
def blockOf (vs : List XVal) (b : Nat) : List XVal := (vs.drop (32 * b)).take 32

/-- The encodings of a block under its scale byte. -/
def quantized (f : Format) (rnd : Nat) (vs : List XVal) : List Nat :=
  vs.map (fun v => if quantScale f.elem vs = 255 then 0 else (mxElem f v (quantScale f.elem vs) rnd).1)

theorem quantBlocks_cons (d : Arg) (rnd b fuel : Nat) {vs : List XVal} (some_ : vs ≠ []) :
    (quantBlocks d rnd b (fuel + 1) vs).puts = [] ∧ (quantBlocks d rnd b (fuel + 1) vs).raw =
      rawAt (d.r.base + d.f.block * b) (blockBytes d.f (quantized d.f rnd (vs.take 32)) (quantScale d.f.elem (vs.take 32))) ++
        (quantBlocks d rnd (b + 1) fuel (vs.drop 32)).raw := by
  cases vs with
  | nil => exact absurd rfl some_
  | cons v rest => simp only [quantBlocks, quantized, List.map_map, Function.comp_def, apply_ite Prod.fst, beq_iff_eq, and_self]

theorem quantBlocks_raw (d : Arg) (rnd : Nat) {fuel b : Nat} {vs : List XVal} (enough : vs.length < fuel) :
    (quantBlocks d rnd b fuel vs).puts = [] ∧ (quantBlocks d rnd b fuel vs).raw = (List.range ((vs.length + 31) / 32)).flatMap (fun j =>
      rawAt (d.r.base + d.f.block * (b + j)) (blockBytes d.f (quantized d.f rnd (blockOf vs j)) (quantScale d.f.elem (blockOf vs j)))) := by
  induction fuel generalizing b vs with
  | zero => exact absurd enough (Nat.not_lt_zero _)
  | succ fuel ih =>
    by_cases some_ : vs = []
    · subst some_
      exact ⟨rfl, rfl⟩
    · have pos := List.length_pos_of_ne_nil some_
      obtain ⟨puts, raw⟩ := quantBlocks_cons d rnd b fuel some_
      have rest := (ih (b := b + 1) (vs := vs.drop 32) (by rw [List.length_drop]; omega)).2
      have count : (vs.length + 31) / 32 = ((vs.drop 32).length + 31) / 32 + 1 := by
        rw [List.length_drop]
        omega
      have next (j : Nat) : blockOf (vs.drop 32) j = blockOf vs (j + 1) := by
        rw [blockOf, blockOf, List.drop_drop, Nat.mul_succ, Nat.add_comm]
      refine ⟨puts, ?_⟩
      rw [raw, rest, count, List.range_succ_eq_map, List.flatMap_cons, List.flatMap_map]
      simp only [next, Nat.succ_eq_add_one, Nat.add_assoc, Nat.add_comm 1]
      rfl

theorem Group.vxRow_vquant (g : Group) {c : Cmd} {d : Arg} (hd : mkArg c.vD (c.word 0) = some d) (i : Nat) (e : EWord) :
    (g.vxRow (.vquant e) c i).blocks d (countOf c.vD)
      (fun b => quantized d.f c.rnd (blockOf ((List.range (countOf c.vD)).map (g.val i (c.argOr d 1 c.vA))) b))
      (fun b => quantScale d.f.elem (blockOf ((List.range (countOf c.vD)).map (g.val i (c.argOr d 1 c.vA))) b)) := by
  have blocks := quantBlocks_raw d c.rnd (b := 0) (vs := (List.range (countOf c.vD)).map (g.val i (c.argOr d 1 c.vA)))
    (fuel := countOf c.vD + 1) (by simp)
  simp only [Nat.zero_add, List.length_map, List.length_range] at blocks
  simp only [Group.vxRow, hd, Group.src_fst]
  exact blocks

/-- The values of block `b` among `n`. -/
theorem blockOf_map_range (v : Nat → XVal) (n b : Nat) :
    blockOf ((List.range n).map v) b = (List.range (min 32 (n - 32 * b))).map (fun j => v (32 * b + j)) := by
  apply List.ext_getElem <;> simp [blockOf]

/-- The values of the block of element `k` are those of the elements of its block. -/
theorem mem_blockOf {v : Nat → XVal} {n k : Nat} {x : XVal} :
    x ∈ blockOf ((List.range n).map v) (k / 32) ↔ ∃ j, (j < n ∧ j / 32 = k / 32) ∧ v j = x := by
  simp only [blockOf_map_range, List.mem_map, List.mem_range]
  constructor
  · rintro ⟨j, hj, rfl⟩
    exact ⟨_, by omega, rfl⟩
  · rintro ⟨j, hj, rfl⟩
    exact ⟨j - 32 * (k / 32), by omega, by congr 1; omega⟩

theorem quantized_getD (f : Format) (rnd : Nat) (v : Nat → XVal) {n k : Nat} (hk : k < n) :
    (quantized f rnd (blockOf ((List.range n).map v) (k / 32))).getD (k % 32) 0 =
      if quantScale f.elem (blockOf ((List.range n).map v) (k / 32)) = 255 then 0
      else (mxElem f (v k) (quantScale f.elem (blockOf ((List.range n).map v) (k / 32))) rnd).1 := by
  have inside : k % 32 < min 32 (n - 32 * (k / 32)) := by omega
  rw [quantized]
  generalize quantScale f.elem (blockOf ((List.range n).map v) (k / 32)) = x
  rw [blockOf_map_range, List.map_map, getD_map_range inside, Function.comp_apply, Nat.div_add_mod]

/-! ### Where a command writes -/

theorem rankInsert_length (x : Nat × XVal) (l : List (Nat × XVal)) : (rankInsert x l).length = l.length + 1 := by
  induction l with
  | nil => rfl
  | cons y l ih =>
    rw [rankInsert]
    split
    · rfl
    · rw [List.length_cons, ih, List.length_cons]

theorem ranked_length (vs : List XVal) : (ranked vs).length = vs.length := by
  have fold (l r : List (Nat × XVal)) : (l.foldl (fun r x => rankInsert x r) r).length = r.length + l.length := by
    induction l generalizing r with
    | nil => rfl
    | cons x l ih =>
      rw [List.foldl_cons, ih, rankInsert_length, List.length_cons]
      omega
  rw [ranked, fold]
  simp

theorem putAll_within {d : Arg} {rnd : Nat} {sat : Bool} {vs : List (XVal × FFlags)} {p : Bool} {m : Nat} (len : vs.length = m) :
    (putAll d rnd sat vs p).within [d] m := by
  have filled := (putAll_fills d rnd sat vs p).within
  rwa [List.length_map, len] at filled

theorem bits_within (d : Arg) (n : Nat) (w : Nat → Nat) (fl : FFlags) (p : Bool) :
    RowOut.within { puts := (List.range n).map (fun k => (d, k, w k)), flags := fl, poison := p } [d] n := by
  have filled := (fills_bits d n w fl p).within
  rwa [List.length_map, List.length_range] at filled

/-- The regions that a command writes (R204). -/
def vxTargets (ins : Instr) (d b : Arg) : List Arg :=
  match ins with
  | .vtopk _ => [d, b]
  | _ => [d]

theorem mem_vxTargets {ins : Instr} {d b a : Arg} (h : a ∈ vxTargets ins d b) : a = d ∨ (∃ e, ins = .vtopk e) ∧ a = b := by
  unfold vxTargets at h
  split at h
  · exact (List.mem_pair.1 h).imp_right fun e => ⟨⟨_, rfl⟩, e⟩
  · exact .inl (List.mem_singleton.1 h)

section
variable {g : Group} {ins : Instr} {c : Cmd} {d : Arg} (hd : mkArg c.vD (c.word 0) = some d)
include hd

/-- What a command without blocks writes are elements of its targets. -/
theorem Group.vxRow_within (some_ : vxCount ins c ≠ 0) (copies : ∀ e, ins = .vcopy e → d.f.mx = false) (quants : ∀ e, ins ≠ .vquant e) (i : Nat) :
    (g.vxRow ins c i).within (vxTargets ins d (c.argOr d 2 c.vB)) (touched ins c d.r (vxCount ins c)) := by
  by_cases top : ∃ e, ins = .vtopk e
  · obtain ⟨e, rfl⟩ := top
    have ranks := (Group.vxRow_vtopk (g := g) hd i e).within
    simpa [Group.ranking, ranked_length, Cmd.kTop_eq, touched, vxCount, min_comm, vxTargets] using ranks
  by_cases scat : ∃ e, ins = .vscat e
  · obtain ⟨e, rfl⟩ := scat
    exact (Group.vxRow_vscat (g := g) hd i e).within fun _ _ => scatterPlace_lt
  unfold Group.vxRow
  simp only [hd, Group.src_fst]
  split
  case h_1 => -- `vcmp`
    exact putAll_within (by simp [touched])
  case h_2 => -- `vredsum`
    split
    · exact putAll_within rfl
    · exact putAll_within rfl
  case h_3 => -- `vredmax`
    exact putAll_within (by simp [touched, ranked_length]; exact Nat.one_le_iff_ne_zero.2 some_)
  case h_4 => -- `vargmax`
    exact putAll_within (by simp [touched, ranked_length]; exact Nat.one_le_iff_ne_zero.2 some_)
  case h_5 => -- `vtopk`
    exact absurd ⟨_, rfl⟩ top
  case h_6 => -- `vscan`
    exact putAll_within (by simp [touched, scanX_length])
  case h_7 => -- `vswp2`
    exact putAll_within (by simp [touched])
  case h_8 => -- `vgath`
    exact putAll_within (by simp [touched])
  case h_9 => -- `vscat`
    exact absurd ⟨_, rfl⟩ scat
  case h_10 => -- `vcopy`
    rw [copies _ rfl]
    simp only [Bool.false_eq_true, if_false, Group.srcBits_fst, mapIdx_map_range]
    exact bits_within ..
  case h_11 => -- `vfill`
    exact bits_within ..
  case h_12 => -- `vlut`
    exact putAll_within (by simp [Group.srcBits_fst, touched])
  case h_13 => -- `vtern`
    exact putAll_within (by simp [touched])
  case h_14 => -- `vdot8`
    exact putAll_within (by simp [touched, Cmd.lg_eq])
  case h_15 => -- `vquant`
    exact absurd rfl (quants _)
  case h_16 => -- `vrand`
    split
    · exact bits_within ..
    · exact putAll_within (by simp [touched])
  case h_17 => -- the elementwise commands
    have one : vxTargets ins d (c.argOr d 2 c.vB) = [d] := by
      unfold vxTargets
      split
      · exact absurd ⟨_, rfl⟩ top
      · rfl
    have all : touched ins c d.r (vxCount ins c) = vxCount ins c := by
      unfold touched
      split <;> simp_all
    rw [one, all]
    exact putAll_within (by simp)

end

/-- The regions that a command writes lie in their rows, and what it writes by blocks is an MX region. -/
structure VxFits (ins : Instr) (c : Cmd) (d : Arg) : Prop where
  named : mkArg c.vD (c.word 0) = some d
  governs : vxCount ins c ≠ 0
  dest : d.fits (touched ins c d.r (vxCount ins c))
  ranks : ∀ e, ins = .vtopk e → (c.argOr d 2 c.vB).fits (touched ins c d.r (vxCount ins c))
  quants : ∀ e, ins = .vquant e → d.f.mx = true

namespace VxFits

variable {g : Group} {ins : Instr} {c : Cmd} {d : Arg} (fit : VxFits ins c d)
include fit

theorem targets {a : Arg} (ha : a ∈ vxTargets ins d (c.argOr d 2 c.vB)) : a.fits (touched ins c d.r (vxCount ins c)) := by
  rcases mem_vxTargets ha with rfl | ⟨⟨e, top⟩, rfl⟩
  · exact fit.dest
  · exact fit.ranks e top

/-- A command writes in the spans of its targets. -/
theorem covers {i p : Nat} (touch : (g.vxRow ins c i).touches i p) :
    ∃ a ∈ vxTargets ins d (c.argOr d 2 c.vB), a.covers (touched ins c d.r (vxCount ins c)) i p := by
  by_cases copy : ∃ e, ins = .vcopy e ∧ d.f.mx = true
  · obtain ⟨e, rfl, mx⟩ := copy
    exact ⟨d, List.mem_singleton.2 rfl, (g.vxRow_vcopy_mx fit.named mx i e).covers fit.dest.1 mx touch⟩
  by_cases quant : ∃ e, ins = .vquant e
  · obtain ⟨e, rfl⟩ := quant
    exact ⟨d, List.mem_singleton.2 rfl, (g.vxRow_vquant fit.named i e).covers fit.dest.1 (fit.quants e rfl) touch⟩
  refine (Group.vxRow_within fit.named fit.governs (fun e h => ?_) (fun e h => quant ⟨e, h⟩) i).covers (fun a ha => fit.targets ha) touch
  exact Bool.eq_false_iff.2 fun mx => copy ⟨e, h, mx⟩

/-- A byte beyond the spans of the targets stays. -/
theorem beyond (wf : g.spad.wf = true) {o : Nat} (out : ∀ i ∈ c.rows g.n, ∀ a ∈ vxTargets ins d (c.argOr d 2 c.vB),
    ¬ a.covers (touched ins c d.r (vxCount ins c)) i o) : (g.vxSpad ins c).get o = g.spad.get o :=
  Group.vxSpad_get wf fun i hi touch =>
    have ⟨a, ha, inside⟩ := fit.covers touch
    out i hi a ha inside

variable {m : Nat} (all : touched ins c d.r (vxCount ins c) = m)
include all

/-- Each row writes in itself alone. -/
theorem own {j k p : Nat} (hk : k < m) (touch : (g.vxRow ins c j).touches j p) : 2 ^ 22 * j ≤ p ∧ p < 2 ^ 22 * (j + 1) := by
  obtain ⟨a, ha, inside⟩ := fit.covers touch
  exact (fit.targets ha).row (by omega) inside

variable (wf : g.spad.wf = true) {i k : Nat} (hi : i ∈ c.rows g.n) (hk : k < m)
include wf hi hk

/-- An element of a region that lies in its row is what the row's own writes leave of it. -/
theorem elem {a : Arg} (fits : a.fits m) : ∃ u : Memory, u.wf = true ∧ u.elemBits i a.r a.f k = g.spad.elemBits i a.r a.f k ∧
    (g.vxSpad ins c).elemBits i a.r a.f k = ((g.vxRow ins c i).written i u).elemBits i a.r a.f k :=
  Group.vxSpad_elem wf (fun _ _ touch => fit.own all hk touch) hi fits hk

/-- An element of D holds the word that its row puts there. -/
theorem filled (plain : d.f.mx = false) (keeps : d.remains m k) {ws : List Nat} (fills : (g.vxRow ins c i).fills d ws)
    (len : ws.length = m) {w : Nat} (hw : ws[k]? = some w) : (g.vxSpad ins c).elemBits i d.r d.f k = w % 2 ^ d.f.width := by
  have dest := all ▸ fit.dest
  obtain ⟨u, hu, -, last⟩ := fit.elem all wf hi hk dest
  rw [last]
  exact fills.elem dest plain hk keeps len hw hu

/-- An element of an MX region, and the scale byte of its block, hold what its row writes there. -/
theorem block (mx : d.f.mx = true) {es : Nat → List Nat} {x : Nat → Nat} (blocks : (g.vxRow ins c i).blocks d m es x) :
    (g.vxSpad ins c).elemBits i d.r d.f k = (es (k / 32)).getD (k % 32) 0 % 2 ^ d.f.width ∧
    ((g.vxSpad ins c).get (rowOff i (scalePlace d.r d.f k))).toNat = x (k / 32) % 256 := by
  have dest := all ▸ fit.dest
  obtain ⟨u, hu, bytes⟩ := Group.vxSpad_row wf (fun _ _ touch => fit.own all hk touch) hi
  have inRow (o : Nat) (h : d.covers m i o) := dest.row (by omega) h
  have scale := d.covers_scale i mx hk
  obtain ⟨element, byte⟩ := blocks.elem dest.1 mx hk i hu
  rw [← element, ← byte, (bytes _ (inRow _ scale).1 (inRow _ scale).2).2]
  refine ⟨Memory.elemBits_congr fun o ho => ?_, rfl⟩
  have here := inRow o (dest.covers_elem hk ho)
  exact (bytes o here.1 here.2).2

end VxFits

end Sys2Proof.Machine

/-! ## Values in order

The order of R206 is that of `XVal.ordKey`, so that the ranking of R215 is a sorted permutation, in which an element stands behind
those that come before it; magnitudes are compared as rationals, which gives the scale byte of R223. -/

namespace Sys2Proof.Machine

open Sys2Proof

/-! ### Values compared (R206) -/

/-- The rational that sign, magnitude and exponent stand for. -/
def finVal (neg : Bool) (m : Nat) (e : Int) : ℚ := (if neg then -1 else 1) * (m * 2 ^ e)

theorem signedAt_cast (neg : Bool) (m : Nat) {e base : Int} (h : base ≤ e) : (signedAt neg m e base : ℚ) = finVal neg m e * 2 ^ (-base) := by
  have two : (2 : ℚ) ≠ 0 := two_ne_zero
  have scale : (2 : ℚ) ^ e * 2 ^ (-base) = 2 ^ (e - base).toNat := by
    rw [← zpow_add₀ two, ← zpow_natCast, Int.toNat_of_nonneg (by omega), sub_eq_add_neg]
  rw [finVal, mul_assoc, mul_assoc, scale]
  cases neg <;> simp [signedAt]

/-- Comparison of finite values is that of rationals. -/
theorem cmpFin_neg (s : Bool) (m : Nat) (e : Int) (t : Bool) (n : Nat) (f : Int) : cmpFin s m e t n f < 0 ↔ finVal s m e < finVal t n f := by
  have pos : (0 : ℚ) < 2 ^ (-(min e f)) := by positivity
  rw [cmpFin, Int.sign_neg_iff, sub_neg, ← Int.cast_lt (R := ℚ), signedAt_cast s m (min_le_left e f), signedAt_cast t n (min_le_right e f)]
  exact mul_lt_mul_iff_left₀ pos

theorem finVal_eq_zero {neg : Bool} {m : Nat} {e : Int} : finVal neg m e = 0 ↔ m = 0 := by
  have two : (2 : ℚ) ^ e ≠ 0 := by positivity
  cases neg <;> simp [finVal, two]

theorem XVal.isZero_fin (s : Bool) (m : Nat) (e : Int) : (XVal.fin s m e).isZero = decide (m = 0) := by
  cases m <;> rfl

theorem XVal.isZero_iff {v : XVal} : v.isZero = true ↔ ∃ s e, v = .fin s 0 e := by
  cases v with
  | nan => simp [XVal.isZero]
  | inf s => simp [XVal.isZero]
  | fin s m e => simp [XVal.isZero_fin]

/-- The place of a value in the order of R206: infinities and NaN apart, then by value, then -0 before +0. -/
def XVal.ordKey : XVal → ℤ ×ₗ (ℚ ×ₗ ℤ)
  | .nan => toLex (2, toLex (0, 0))
  | .inf neg => toLex (if neg then -1 else 1, toLex (0, 0))
  | .fin neg m e => toLex (0, toLex (finVal neg m e, if neg ∧ m = 0 then -1 else 0))

theorem XVal.ordLt_fin (s : Bool) (m : Nat) (e : Int) (t : Bool) (n : Nat) (f : Int) :
    (XVal.fin s m e).ordLt (.fin t n f) = true ↔ (XVal.fin s m e).ordKey < (XVal.fin t n f).ordKey := by
  simp only [XVal.ordLt, XVal.isZero_fin, XVal.ordKey, XVal.neg?, XVal.lt, Prod.Lex.toLex_lt_toLex, lt_self_iff_false, false_or, true_and]
  by_cases zeros : m = 0 ∧ n = 0
  · obtain ⟨rfl, rfl⟩ := zeros
    simp only [finVal_eq_zero.2 rfl]
    cases s <;> cases t <;> simp
  · have nonzero : (decide (m = 0) && decide (n = 0)) = false := by simpa using zeros
    simp only [nonzero, Bool.false_eq_true, if_false, decide_eq_true_eq, cmpFin_neg]
    refine ⟨.inl, fun h => h.resolve_right fun ⟨same, tie⟩ => ?_⟩
    have both : m = 0 ↔ n = 0 := by rw [← finVal_eq_zero (neg := s) (e := e), same, finVal_eq_zero]
    have hm : m ≠ 0 := fun h => zeros ⟨h, both.1 h⟩
    have hn : n ≠ 0 := fun h => zeros ⟨both.2 h, h⟩
    simp [hm, hn] at tie

theorem XVal.ordLt_iff (a b : XVal) : a.ordLt b = true ↔ a.ordKey < b.ordKey := by
  match a, b with
  | .fin s m e, .fin t n f => exact XVal.ordLt_fin s m e t n f
  | .nan, .nan => simp [XVal.ordLt]
  | .nan, .inf t => cases t <;> simp [XVal.ordLt, XVal.ordKey, Prod.Lex.toLex_lt_toLex]
  | .nan, .fin .. => simp [XVal.ordLt, XVal.ordKey, Prod.Lex.toLex_lt_toLex]
  | .inf s, .nan => cases s <;> simp [XVal.ordLt, XVal.ordKey, Prod.Lex.toLex_lt_toLex]
  | .inf s, .inf t =>
    cases s <;> cases t <;> simp [XVal.ordLt, XVal.ordKey, XVal.isZero, XVal.lt, Prod.Lex.toLex_lt_toLex]
  | .inf s, .fin .. => cases s <;> simp [XVal.ordLt, XVal.ordKey, XVal.isZero, XVal.lt, Prod.Lex.toLex_lt_toLex]
  | .fin .., .nan => simp [XVal.ordLt, XVal.ordKey, Prod.Lex.toLex_lt_toLex]
  | .fin s m e, .inf t => cases t <;> simp [XVal.ordLt, XVal.ordKey, XVal.isZero, XVal.lt, Prod.Lex.toLex_lt_toLex]

/-! ### Ranks (R215) -/

/-- The indexed value `x` ranks before `y`: it is greater, or not less and of a lower index. -/
def rankedBefore (x y : Nat × XVal) : Bool := y.2.ordLt x.2 || (!x.2.ordLt y.2 && decide (x.1 < y.1))

theorem rankedBefore_iff (x y : Nat × XVal) :
    rankedBefore x y = true ↔ y.2.ordKey < x.2.ordKey ∨ (y.2.ordKey ≤ x.2.ordKey ∧ x.1 < y.1) := by
  simp only [rankedBefore, Bool.or_eq_true, Bool.and_eq_true, Bool.not_eq_true', ← Bool.not_eq_true, XVal.ordLt_iff, decide_eq_true_eq, not_lt]

theorem rankedBefore_asymm {x y : Nat × XVal} (h : rankedBefore x y = true) : rankedBefore y x = false := by
  rw [← Bool.not_eq_true, rankedBefore_iff]
  rcases (rankedBefore_iff x y).1 h with lt | ⟨le, first⟩
  · rintro (gt | ⟨ge, -⟩)
    · exact lt_asymm lt gt
    · exact not_lt_of_ge ge lt
  · rintro (gt | ⟨-, last⟩)
    · exact not_lt_of_ge le gt
    · omega

theorem rankInsert_perm (x : Nat × XVal) (l : List (Nat × XVal)) : (rankInsert x l).Perm (x :: l) := by
  induction l with
  | nil => exact .refl _
  | cons y l ih =>
    rw [rankInsert]
    split
    · exact .refl _
    · exact (ih.cons y).trans (.swap x y l)

/-- A value of a higher index is inserted behind all that are not less. -/
theorem rankInsert_sorted {x : Nat × XVal} {l : List (Nat × XVal)} (fresh : ∀ y ∈ l, y.1 < x.1)
    (sorted : l.Pairwise (fun y z => rankedBefore y z = true)) : (rankInsert x l).Pairwise (fun y z => rankedBefore y z = true) := by
  induction l with
  | nil => exact List.pairwise_singleton _ x
  | cons y l ih =>
    obtain ⟨first, rest⟩ := List.pairwise_cons.1 sorted
    rw [rankInsert]
    split
    case isTrue less =>
      have lt := (XVal.ordLt_iff y.2 x.2).1 less
      refine List.pairwise_cons.2 ⟨fun z hz => (rankedBefore_iff x z).2 (.inl ?_), sorted⟩
      rcases List.mem_cons.1 hz with rfl | hz
      · exact lt
      · rcases (rankedBefore_iff y z).1 (first z hz) with h | ⟨h, -⟩
        · exact h.trans lt
        · exact h.trans_lt lt
    case isFalse notLess =>
      refine List.pairwise_cons.2 ⟨fun z hz => ?_, ih (fun z hz => fresh z (List.mem_cons_of_mem y hz)) rest⟩
      rcases List.mem_cons.1 ((rankInsert_perm x l).subset hz) with rfl | hz
      · rw [XVal.ordLt_iff, not_lt] at notLess
        exact (rankedBefore_iff y z).2 (.inr ⟨notLess, fresh y List.mem_cons_self⟩)
      · exact first z hz

theorem foldl_rankInsert {l r : List (Nat × XVal)} (order : l.Pairwise (fun y z => y.1 < z.1)) (fresh : ∀ y ∈ r, ∀ x ∈ l, y.1 < x.1)
    (sorted : r.Pairwise (fun y z => rankedBefore y z = true)) :
    (l.foldl (fun r x => rankInsert x r) r).Pairwise (fun y z => rankedBefore y z = true) ∧
      (l.foldl (fun r x => rankInsert x r) r).Perm (r ++ l) := by
  induction l generalizing r with
  | nil => exact ⟨sorted, by simp⟩
  | cons x l ih =>
    obtain ⟨first, rest⟩ := List.pairwise_cons.1 order
    have fresh' (y : Nat × XVal) (hy : y ∈ rankInsert x r) (z : Nat × XVal) (hz : z ∈ l) : y.1 < z.1 := by
      rcases List.mem_cons.1 ((rankInsert_perm x r).subset hy) with rfl | hy
      · exact first z hz
      · exact fresh y hy z (List.mem_cons_of_mem x hz)
    obtain ⟨done, perm⟩ := ih rest fresh' (rankInsert_sorted (fun y hy => fresh y hy x List.mem_cons_self) sorted)
    exact ⟨done, (perm.trans ((rankInsert_perm x r).append_right l)).trans List.perm_middle.symm⟩

theorem ranked_sorted (v : Nat → XVal) (n : Nat) : (ranked ((List.range n).map v)).Pairwise (fun y z => rankedBefore y z = true) ∧
    (ranked ((List.range n).map v)).Perm ((List.range n).map (fun k => (k, v k))) := by
  rw [ranked, mapIdx_map_range]
  exact foldl_rankInsert (List.pairwise_map.2 List.pairwise_lt_range) (by simp) List.Pairwise.nil

/-- In an ordered list each entry stands behind those that come before it. -/
theorem getElem?_count_before {α : Type} {R : α → α → Bool} (asymm : ∀ x y, R x y = true → R y x = false) {l : List α}
    (sorted : l.Pairwise (fun x y => R x y = true)) {x : α} (hx : x ∈ l) : l[(l.filter (fun y => R y x)).length]? = some x := by
  obtain ⟨s, t, rfl⟩ := List.append_of_mem hx
  obtain ⟨-, tail, before⟩ := List.pairwise_append.1 sorted
  have self : R x x = false := by
    by_contra h
    exact h (asymm x x (Bool.eq_true_of_not_eq_false h))
  have first : s.filter (fun y => R y x) = s := List.filter_eq_self.2 fun y hy => before y hy x List.mem_cons_self
  have last : t.filter (fun y => R y x) = [] := List.filter_eq_nil_iff.2 fun y hy => by
    rw [asymm x y ((List.pairwise_cons.1 tail).1 y hy)]
    exact Bool.false_ne_true
  simp [List.filter_append, self, first, last]

/-- The rank of an element is the number of those that rank before it. -/
theorem ranked_get (v : Nat → XVal) {n j : Nat} (hj : j < n) :
    (ranked ((List.range n).map v))[((List.range n).filter (fun y =>
      (v j).ordLt (v y) || (!(v y).ordLt (v j) && decide (y < j)))).length]? = some (j, v j) := by
  obtain ⟨sorted, perm⟩ := ranked_sorted v n
  have mem : (j, v j) ∈ ranked ((List.range n).map v) := perm.symm.subset (List.mem_map.2 ⟨j, List.mem_range.2 hj, rfl⟩)
  have count := (perm.filter (fun y => rankedBefore y (j, v j))).length_eq
  rw [List.filter_map, List.length_map] at count
  have place := getElem?_count_before (fun x y => rankedBefore_asymm) sorted mem
  rwa [count] at place

/-- The least index of a greatest value ranks first (R214). -/
theorem ranked_first (v : Nat → XVal) {n j : Nat} (hj : j < n)
    (greatest : ∀ y < n, (v j).ordLt (v y) = false ∧ (y < j → (v y).ordLt (v j) = true)) :
    (ranked ((List.range n).map v))[0]? = some (j, v j) := by
  have none_ : (List.range n).filter (fun y => (v j).ordLt (v y) || (!(v y).ordLt (v j) && decide (y < j))) = [] := by
    refine List.filter_eq_nil_iff.2 fun y hy => ?_
    obtain ⟨notLess, below⟩ := greatest y (List.mem_range.1 hy)
    by_cases first : y < j
    · simp [notLess, below first]
    · simp [notLess, first]
  have place := ranked_get v hj
  rwa [none_] at place

/-! ### The scale byte of a block (R223) -/

/-- The magnitude of a value, where it is not NaN. -/
def XVal.mag : XVal → WithTop ℚ
  | .fin _ m e => ((m * 2 ^ e : ℚ) : WithTop ℚ)
  | _ => ⊤

theorem absLt_iff {a b : XVal} (ha : a.isNan = false) (hb : b.isNan = false) : absLt a b = true ↔ a.mag < b.mag := by
  match a, b with
  | .inf _, .inf _ => simp [absLt, XVal.abs, XVal.lt, XVal.mag]
  | .inf _, .fin .. => simp [absLt, XVal.abs, XVal.lt, XVal.mag]
  | .fin .., .inf _ => exact iff_of_true rfl (WithTop.coe_lt_top _)
  | .fin s m e, .fin t n f =>
    rw [XVal.mag, XVal.mag, WithTop.coe_lt_coe]
    simp only [absLt, XVal.abs, XVal.lt, decide_eq_true_eq, cmpFin_neg, finVal, Bool.false_eq_true, if_false, one_mul]
  | .nan, _ => cases ha
  | .inf _, .nan => cases hb
  | .fin .., .nan => cases hb

/-- The greatest magnitude of a block, as R223 finds it. -/
def greatestMag (vs : List XVal) (m : XVal) : XVal := vs.foldl (fun m v => if absLt m v then v else m) m

theorem greatestMag_spec {vs : List XVal} (numbers : ∀ v ∈ vs, v.isNan = false) {m : XVal} (hm : m.isNan = false) :
    (greatestMag vs m).isNan = false ∧ (greatestMag vs m = m ∨ greatestMag vs m ∈ vs) ∧ m.mag ≤ (greatestMag vs m).mag ∧
      ∀ v ∈ vs, v.mag ≤ (greatestMag vs m).mag := by
  induction vs generalizing m with
  | nil => exact ⟨hm, .inl rfl, le_refl _, fun v hv => absurd hv List.not_mem_nil⟩
  | cons v vs ih =>
    have hv := numbers v List.mem_cons_self
    have rest := fun w hw => numbers w (List.mem_cons_of_mem v hw)
    have less := absLt_iff hm hv
    by_cases up : absLt m v = true
    · obtain ⟨number, found, above, all⟩ := ih rest hv
      have step : greatestMag (v :: vs) m = greatestMag vs v := by simp [greatestMag, up]
      rw [step]
      refine ⟨number, .inr ?_, (less.1 up).le.trans above, fun w hw => ?_⟩
      · rcases found with e | mem
        · rw [e]
          exact List.mem_cons_self
        · exact List.mem_cons_of_mem v mem
      · rcases List.mem_cons.1 hw with rfl | hw
        · exact above
        · exact all w hw
    · obtain ⟨number, found, above, all⟩ := ih rest hm
      have step : greatestMag (v :: vs) m = greatestMag vs m := by simp [greatestMag, up]
      rw [step]
      refine ⟨number, found.imp id (List.mem_cons_of_mem v), above, fun w hw => ?_⟩
      rcases List.mem_cons.1 hw with rfl | hw
      · exact (not_lt.1 (mt less.2 up)).trans above
      · exact all w hw

/-- The binary logarithm of a magnitude. -/
theorem mag_between {m : Nat} (pos : m ≠ 0) (e : Int) :
    (2 : ℚ) ^ ((m.log2 : Int) + e) ≤ m * 2 ^ e ∧ (m * 2 ^ e : ℚ) < 2 ^ ((m.log2 : Int) + e + 1) := by
  have two : (2 : ℚ) ≠ 0 := two_ne_zero
  have scale : (0 : ℚ) < 2 ^ e := by positivity
  have low : (2 : ℚ) ^ m.log2 ≤ m := by exact_mod_cast Nat.log2_self_le pos
  have high : (m : ℚ) < 2 ^ (m.log2 + 1) := by exact_mod_cast Nat.lt_log2_self
  rw [zpow_add₀ two, add_right_comm, zpow_add₀ two]
  exact ⟨by simpa using mul_le_mul_of_nonneg_right low scale.le, by exact_mod_cast mul_lt_mul_of_pos_right high scale⟩

/-- Equal magnitudes have one binary logarithm. -/
theorem log2_of_mag {m n : Nat} {e f : Int} (hm : m ≠ 0) (hn : n ≠ 0) (same : (m * 2 ^ e : ℚ) = n * 2 ^ f) :
    (m.log2 : Int) + e = n.log2 + f := by
  obtain ⟨lowM, highM⟩ := mag_between hm e
  obtain ⟨lowN, highN⟩ := mag_between hn f
  have up := (zpow_lt_zpow_iff_right₀ one_lt_two).1 (lowM.trans_lt (same ▸ highN))
  have down := (zpow_lt_zpow_iff_right₀ one_lt_two).1 (lowN.trans_lt (same ▸ highM))
  omega

theorem quantScale_nan {vs : List XVal} (f : Fmt) (nan : ∃ v ∈ vs, v.isNan = true) : quantScale f vs = 255 := by
  rw [quantScale, if_pos (List.any_eq_true.2 nan)]

section
variable {vs : List XVal} (f : Fmt) (numbers : ∀ v ∈ vs, v.isNan = false)
include numbers

theorem quantScale_numbers : quantScale f vs = match greatestMag vs XVal.zero with
    | .fin _ 0 _ => 127
    | .fin _ m e => (min 254 (max 0 ((m.log2 : Int) + e - emaxOf f + 127))).toNat
    | _ => 254 := by
  have none_ : vs.any XVal.isNan = false := List.any_eq_false.2 fun v hv => by rw [numbers v hv]; exact Bool.false_ne_true
  rw [quantScale, none_]
  rfl

theorem quantScale_lt : quantScale f vs < 255 := by
  rw [quantScale_numbers f numbers]
  split
  · decide
  · exact (Int.toNat_le_toNat (min_le_left _ _)).trans_lt (by decide)
  · decide

theorem quantScale_zeros (zeros : ∀ v ∈ vs, v.isZero = true) : quantScale f vs = 127 := by
  obtain ⟨-, found, -, -⟩ := greatestMag_spec numbers (m := XVal.zero) rfl
  have zero : (greatestMag vs XVal.zero).isZero = true := by
    rcases found with e | mem
    · rw [e]
      rfl
    · exact zeros _ mem
  obtain ⟨s, e, h⟩ := XVal.isZero_iff.1 zero
  rw [quantScale_numbers f numbers, h]
  rfl

theorem quantScale_inf {neg : Bool} (inf : .inf neg ∈ vs) : quantScale f vs = 254 := by
  obtain ⟨number, -, -, all⟩ := greatestMag_spec numbers (m := XVal.zero) rfl
  have top := all _ inf
  rw [quantScale_numbers f numbers]
  generalize greatestMag vs XVal.zero = M at number top
  match M with
  | .inf _ => rfl
  | .nan => cases number
  | .fin _ m e => exact absurd (top_le_iff.1 top) (WithTop.coe_ne_top)

theorem quantScale_greatest {neg : Bool} {a : Nat} {z : Int} (mem : .fin neg a z ∈ vs) (pos : a ≠ 0)
    (greatest : ∀ y ∈ vs, absLt (.fin neg a z) y = false) :
    (quantScale f vs : Int) = min 254 (max 0 ((a.log2 : Int) + z - emaxOf f + 127)) := by
  obtain ⟨-, found, -, all⟩ := greatestMag_spec numbers (m := XVal.zero) rfl
  have above := all _ mem
  have nonzero : (a * 2 ^ z : ℚ) ≠ 0 := mul_ne_zero (by exact_mod_cast pos) (by positivity)
  have below : (greatestMag vs XVal.zero).mag ≤ (XVal.fin neg a z).mag := by
    rcases found with e | inside
    · rw [e]
      simp only [XVal.mag, XVal.zero]
      exact WithTop.coe_le_coe.2 (by simp; positivity)
    · exact not_lt.1 fun lt => by
        rw [← absLt_iff rfl (numbers _ inside), greatest _ inside] at lt
        cases lt
  rw [quantScale_numbers f numbers]
  have same := le_antisymm below above
  generalize greatestMag vs XVal.zero = M at same
  match M with
  | .nan => exact absurd same.symm WithTop.coe_ne_top
  | .inf _ => exact absurd same.symm WithTop.coe_ne_top
  | .fin _ 0 e => exact absurd (WithTop.coe_inj.1 same).symm (by simpa using nonzero)
  | .fin _ (m + 1) e =>
    have log := log2_of_mag (Nat.succ_ne_zero m) pos (WithTop.coe_inj.1 same)
    rw [← log]
    exact Int.toNat_of_nonneg (le_min (by decide) (le_max_left _ _))

end

end Sys2Proof.Machine

/-! ## O44: elementwise commands, and what vector commands leave -/

namespace Sys2Proof.Machine

open Sys2Proof

/-! ### Elements of the regions of a command that has performed -/

theorem touched_of_elementValue {ins : Instr} {down : Bool} {x y z v : XVal} (hv : elementValue ins down x y z = some v) {c : Cmd} {r : Region}
    {n : Nat} : touched ins c r n = n := by
  unfold touched
  split
  case h_7 => rfl
  all_goals cases hv

theorem VxFits.of_dest {ins : Instr} {c : Cmd} {d : Arg} (hd : mkArg c.vD (c.word 0) = some d) (some_ : vxCount ins c ≠ 0)
    (dest : d.fits (touched ins c d.r (vxCount ins c))) (top : ∀ x, ins ≠ .vtopk x) (quant : ∀ x, ins ≠ .vquant x) : VxFits ins c d :=
  ⟨hd, some_, dest, fun x hx => absurd hx (top x), fun x hx => absurd hx (quant x)⟩

section
variable {g : Group} {ins : Instr} {c : Cmd} {d : Arg} {m i k : Nat} (fit : VxFits ins c d)
  (all : touched ins c d.r (vxCount ins c) = m) (wf : g.spad.wf = true) (hi : i ∈ c.rows g.n) (hk : k < m)
include fit all wf hi hk

theorem VxFits.filled_range (plain : d.f.mx = false) (keeps : d.remains m k) {w : Nat → Nat}
    (fills : (g.vxRow ins c i).fills d ((List.range m).map w)) : (g.vxSpad ins c).elemBits i d.r d.f k = w k % 2 ^ d.f.width :=
  fit.filled all wf hi hk plain keeps fills (by simp) (by simp [hk])

variable {h : Group} (spad : h.spad = g.vxSpad ins c) (poison : h.spadPoison = g.spadPoison) (clean : (g.elem i d.r d.f k).2.2 = false)
  (mx : d.f.mx = true)
include spad poison clean mx

/-- An element of an MX region and its scale byte, read after the command. -/
theorem VxFits.elem_block {es : Nat → List Nat} {x : Nat → Nat} (blocks : (g.vxRow ins c i).blocks d m es x) :
    h.elem i d.r d.f k = ((es (k / 32)).getD (k % 32) 0 % 2 ^ d.f.width, x (k / 32) % 256, false) := by
  obtain ⟨element, byte⟩ := fit.block all wf hi hk mx blocks
  rw [Group.elem_of_clean clean poison, spad, if_pos mx, element, byte]

end

theorem Cmd.swapped_inside (c : Cmd) (v : Nat → XVal) {n k : Nat} (inside : k ^^^ 2 ^ c.kSwap < n) : c.swapped v n k =
    if (c.neg = 1 ∧ k.testBit c.kSwap = false) ∨ (c.neg = 2 ∧ k.testBit c.kSwap = true) then (v (k ^^^ 2 ^ c.kSwap)).negate
    else v (k ^^^ 2 ^ c.kSwap) := by
  simp only [Cmd.swapped, inside, if_true, Bool.or_eq_true, Bool.and_eq_true, beq_iff_eq, Bool.not_eq_true']

section
variable {g h : Group} {c : Cmd} {d : Arg} {e : EWord} {i k : Nat} (hi : i ∈ c.rows g.n) (hk : k < countOf c.vD) (wf : g.spad.wf = true)
  (poison : h.spadPoison = g.spadPoison) (clean : (g.elem i d.r d.f k).2.2 = false) (mx : d.f.mx = true)
include hi hk wf poison clean mx

/-- R219: a copy of an MX region takes the elements with their scale bytes. -/
theorem vcopy_mx_elem (fit : VxFits (.vcopy e) c d) (spad : h.spad = g.vxSpad (.vcopy e) c) (same : (c.argOr d 1 c.vA).f = d.f)
    (cleanA : (g.elem i (c.argOr d 1 c.vA).r (c.argOr d 1 c.vA).f k).2.2 = false) :
    h.elem i d.r d.f k = g.elem i (c.argOr d 1 c.vA).r (c.argOr d 1 c.vA).f k := by
  have copied := fit.elem_block rfl wf hi hk spad poison clean mx (g.vxRow_vcopy_mx fit.named mx i e)
  have taken := Group.copy_of_clean (same ▸ fit.dest.1) (same ▸ mx) cleanA
  have read := Group.elem_of_clean cleanA rfl
  -- the bytes are kept closed, as in `mxCopy_blocks`
  obtain ⟨byte, closed⟩ : ∃ byte, byte = g.copyByte i := ⟨_, rfl⟩
  rw [← closed] at copied taken
  have bits := g.spad.elemBits_lt i (c.argOr d 1 c.vA).r (same ▸ fit.dest.1) k
  rw [if_pos (same ▸ mx), taken] at read
  obtain ⟨element, rest⟩ := Prod.mk.inj read
  obtain ⟨scale, -⟩ := Prod.mk.inj rest
  have block : scalePlace (c.argOr d 1 c.vA).r (c.argOr d 1 c.vA).f (32 * (k / 32)) = scalePlace (c.argOr d 1 c.vA).r (c.argOr d 1 c.vA).f k := by
    simp [scalePlace]
  rw [copied, taken, getD_map_range (Nat.mod_lt k (by decide)), Nat.div_add_mod, if_pos hk, block, element, scale, ← same, Nat.mod_eq_of_lt bits,
    Nat.mod_eq_of_lt (BitVec.isLt _)]

/-- R223: an element of D under the scale byte of its block. -/
theorem vquant_elem (fit : VxFits (.vquant e) c d) (spad : h.spad = g.vxSpad (.vquant e) c) {x : Nat}
    (hx : x = quantScale d.f.elem (blockOf ((List.range (countOf c.vD)).map (g.val i (c.argOr d 1 c.vA))) (k / 32))) :
    h.elem i d.r d.f k =
      ((if x = 255 then 0 else (mxElem d.f (g.val i (c.argOr d 1 c.vA) k) x c.rnd).1) % 2 ^ d.f.width, x % 256, false) := by
  rw [fit.elem_block rfl wf hi hk spad poison clean mx (g.vxRow_vquant fit.named i e), quantized_getD d.f c.rnd _ hk, ← hx]

end

/-- Settles O44: the frame by the spans of the targets, an element of D by the word that its row puts there, and an MX region by its
blocks. -/
theorem vectorEffects : Obligations.VectorEffects := by
  unfold Obligations.VectorEffects
  intro s gid g ins e c i k o d hg hw hd wf small n m rows arg A B C val bits beyond some_ ok
  obtain ⟨h, only, arrays, spad, poison⟩ := State.performVx_effect hg some_
  obtain ⟨acc, active, shadow⟩ := Group.arrays_eq arrays
  have dest : d.fits m := Arg.fits_of_regionOk (mkArg_regular hd) small ok
  refine ⟨h, only, acc, active, shadow, fun outD top quant => ?frame, fun hi hk mx clean => ?mx, fun hi hk plain keeps clean => ?plain⟩
  case frame =>
    have operand (f : EWord → Instr) (same : ∀ x, commandWord (f x) = some x) (x : EWord) (hx : ins = f x) : ins = f e := by
      rw [hx, same] at hw
      rw [hx, Option.some.inj hw]
    have fit : VxFits ins c d := ⟨hd, some_, dest,
      fun x hx => Arg.fits_of_regionOk (mkArg_getD_regular _ _ (mkArg_regular hd)) small (top (operand .vtopk (fun _ => rfl) x hx)).1,
      fun x hx => quant (operand .vquant (fun _ => rfl) x hx)⟩
    rw [spad]
    refine fit.beyond wf fun a ha t ht inside => ?_
    rcases mem_vxTargets ht with rfl | ⟨⟨x, hx⟩, rfl⟩
    · exact outD a ha inside
    · exact (top (operand .vtopk (fun _ => rfl) x hx)).2 a ha inside
  case mx =>
    refine ⟨?vcopy, ?vquant⟩
    case vcopy =>
      rintro rfl same cleanA
      exact vcopy_mx_elem hi hk wf poison clean mx (.of_dest hd some_ dest nofun nofun) spad same cleanA
    case vquant =>
      rintro rfl mate x
      obtain ⟨y, hy⟩ : ∃ y, y = quantScale d.f.elem (blockOf ((List.range n).map (val A)) (k / 32)) := ⟨_, rfl⟩
      have elem := vquant_elem hi hk wf poison clean mx ⟨hd, some_, dest, nofun, fun _ _ => mx⟩ spad hy
      refine ⟨fun ⟨j, hj, nan⟩ => ?nan, fun numbers => ?numbers⟩
      case nan =>
        rw [quantScale_nan d.f.elem ⟨_, mem_blockOf.2 ⟨j, hj, rfl⟩, nan⟩] at hy
        subst hy
        exact ⟨congrArg (fun z => z.2.1) elem, (congrArg Prod.fst elem).trans (Nat.zero_mod _)⟩
      case numbers =>
        have all (v : XVal) (hv : v ∈ blockOf ((List.range n).map (val A)) (k / 32)) : v.isNan = false := by
          obtain ⟨j, hj, rfl⟩ := mem_blockOf.1 hv
          exact numbers j hj
        have low : y < 255 := hy ▸ quantScale_lt d.f.elem all
        have scale : x = y := (congrArg (fun z => z.2.1) elem).trans (Nat.mod_eq_of_lt (by omega))
        rw [if_neg low.ne, ← scale] at elem
        refine ⟨congrArg Prod.fst elem, fun zeros => ?_, fun ⟨j, neg, hj, inf⟩ => ?_, fun j neg a z hj fin pos greatest => ?_⟩
        · rw [scale, hy]
          exact quantScale_zeros d.f.elem all fun v hv => by
            obtain ⟨j, hj, rfl⟩ := mem_blockOf.1 hv
            exact zeros j hj
        · rw [scale, hy]
          exact quantScale_inf d.f.elem all (neg := neg) (mem_blockOf.2 ⟨j, hj, inf⟩)
        · rw [scale, hy]
          refine quantScale_greatest d.f.elem all (neg := neg) (mem_blockOf.2 ⟨j, hj, fin⟩) pos fun v hv => ?_
          obtain ⟨t, ht, rfl⟩ := mem_blockOf.1 hv
          exact fin ▸ greatest t ht
  case plain =>
    intro put raw ok
    have element : (h.elem i d.r d.f k).1 = (g.vxSpad ins c).elemBits i d.r d.f k := by rw [Group.elem_of_clean clean poison, spad]
    have result {w : Nat → Nat} (top : ∀ x, ins ≠ .vtopk x) (quant : ∀ x, ins ≠ .vquant x)
        (fills : (g.vxRow ins c i).fills d ((List.range m).map w)) : (h.elem i d.r d.f k).1 = w k % 2 ^ d.f.width :=
      element.trans ((VxFits.of_dest hd some_ dest top quant).filled_range rfl wf hi hk plain keeps fills)
    refine ⟨fun v hv => ?value, ?vcmp, ?vfill, ?vcopy, ?vswp2⟩
    case value =>
      obtain ⟨ws, fills, len, word⟩ := Group.vxRow_elementwise hd i (hk.trans_eq (touched_of_elementValue hv)) hv
      have fit : VxFits ins c d := .of_dest hd some_ dest (fun x hx => by rw [hx] at hv; cases hv) (fun x hx => by rw [hx] at hv; cases hv)
      exact element.trans (fit.filled rfl wf hi hk plain keeps fills len word)
    case vcmp =>
      rintro rfl
      have compared := result nofun nofun (Group.vxRow_vcmp hd i e)
      rw [compareX_eq (by rw [Cmd.cond_eq]; omega), Cmd.cond_eq] at compared
      exact compared
    case vfill =>
      rintro rfl
      exact (result nofun nofun (Group.vxRow_vfill hd i e)).trans (Nat.mod_mod _ _)
    case vcopy =>
      rintro rfl
      exact result nofun nofun (Group.vxRow_vcopy hd i e plain)
    case vswp2 =>
      rintro rfl q neg inside v
      have moved := result nofun nofun (Group.vxRow_vswp2 hd i e)
      rw [Cmd.swapped_inside c _ (by rw [Cmd.kSwap_eq]; exact inside), Cmd.neg_eq, Cmd.kSwap_eq] at moved
      exact moved

end Sys2Proof.Machine

/-! ## O45: gathers, tables, random numbers, reductions, scans and ranking -/

namespace Sys2Proof.Machine

open Sys2Proof

theorem scatterPlace_eq_some {n t : Nat} (ht : t < n) (j : Int) : scatterPlace n j = some t ↔ j = t := by
  unfold scatterPlace
  split
  · rw [Option.some.injEq]
    omega
  · exact ⟨nofun, by omega⟩

/-- What stands in the ranking at the rank of element `j`. -/
theorem Group.ranking_taken {g : Group} {c : Cmd} {d : Arg} {i j k top : Nat} {v : XVal} {α : Type} (F : Nat × XVal → α)
    (rank : (g.ranking c d i)[k]? = some (j, v)) (low : k < top) : (((g.ranking c d i).take top).map F)[k]? = some (F (j, v)) := by
  rw [List.getElem?_map, List.getElem?_take_of_lt low, rank, Option.map_some]

theorem Group.ranking_first_length {g : Group} {c : Cmd} {d : Arg} {i : Nat} {α : Type} (F : Nat × XVal → α) (governs : countOf c.vA ≠ 0) :
    (((g.ranking c d i).take 1).map F).length = 1 := by
  rw [List.length_map, List.length_take, Group.ranking, ranked_length, List.length_map, List.length_range]
  exact min_eq_left (Nat.one_le_iff_ne_zero.2 governs)

theorem Group.ranking_length (g : Group) (c : Cmd) (d : Arg) (i : Nat) : (g.ranking c d i).length = countOf c.vA := by
  simp [Group.ranking, ranked_length]

section
variable {g h : Group} {c : Cmd} {d : Arg} {e : EWord} {i k : Nat} (hi : i ∈ c.rows g.n) (wf : g.spad.wf = true)
include hi wf

/-- R218: of the elements that an index names the last remains, and the others stay. -/
theorem vscat_elem (fit : VxFits (.vscat e) c d) (hk : k < d.r.count) (plain : d.f.mx = false) (stride : d.r.stride ≠ 0) :
    (∀ j < countOf c.vA, (g.val i (c.argOr d 2 c.vB) j).toInt = k →
      (∀ y, j < y → y < countOf c.vA → (g.val i (c.argOr d 2 c.vB) y).toInt ≠ k) →
      (g.vxSpad (.vscat e) c).elemBits i d.r d.f k = c.putBits d (g.val i (c.argOr d 1 c.vA) j) % 2 ^ d.f.width) ∧
    ((∀ y < countOf c.vA, (g.val i (c.argOr d 2 c.vB) y).toInt ≠ k) →
      (g.vxSpad (.vscat e) c).elemBits i d.r d.f k = g.spad.elemBits i d.r d.f k) := by
  obtain ⟨u, hu, before, last⟩ := fit.elem rfl wf hi hk fit.dest
  have scattered := Group.vxRow_vscat (g := g) fit.named i e
  have named (y : Nat) := scatterPlace_eq_some hk (g.val i (c.argOr d 2 c.vB) y).toInt
  refine ⟨fun j hj into final => ?_, fun others => ?_⟩
  · rw [last]
    exact scattered.last (fun _ _ => scatterPlace_lt) fit.dest plain stride hk hu hj ((named j).2 into) fun y lt hy => mt (named y).1 (final y lt hy)
  · rw [last, ← before]
    exact scattered.unnamed (fun _ _ => scatterPlace_lt) fit.dest plain stride hk hu fun y hy => mt (named y).1 (others y hy)

/-- R215: the value of a rank, and its index, where the two regions lie apart. -/
theorem vtopk_elem (fit : VxFits (.vtopk e) c d) (hk : k < min (countOf c.vA) (c.imm.toNat / 16)) {j : Nat} {v : XVal}
    (rank : (g.ranking c d i)[k]? = some (j, v)) (apart : d.apart (c.argOr d 2 c.vB) (min (countOf c.vA) (c.imm.toNat / 16))) :
    (d.f.mx = false → d.remains (min (countOf c.vA) (c.imm.toNat / 16)) k →
      (g.vxSpad (.vtopk e) c).elemBits i d.r d.f k = c.putBits d v % 2 ^ d.f.width) ∧
    ((c.argOr d 2 c.vB).f.mx = false → (c.argOr d 2 c.vB).remains (min (countOf c.vA) (c.imm.toNat / 16)) k →
      (g.vxSpad (.vtopk e) c).elemBits i (c.argOr d 2 c.vB).r (c.argOr d 2 c.vB).f k = j % 2 ^ 32 % 2 ^ (c.argOr d 2 c.vB).f.width) := by
  have fitB := fit.ranks e rfl
  have ranks := Group.vxRow_vtopk (g := g) fit.named i e
  have len : (((g.ranking c d i).take c.kTop).map fun x => (c.putBits d x.2, x.1 % 2 ^ 32)).length = min (countOf c.vA) (c.imm.toNat / 16) := by
    simp [Group.ranking_length, Cmd.kTop_eq, min_comm]
  have word := Group.ranking_taken (fun x => (c.putBits d x.2, x.1 % 2 ^ 32)) rank (top := c.kTop) (by rw [Cmd.kTop_eq]; omega)
  refine ⟨fun plain keeps => ?_, fun plain keeps => ?_⟩
  · obtain ⟨u, hu, -, last⟩ := fit.elem rfl wf hi hk fit.dest
    rw [last]
    exact ranks.value fit.dest fitB hk len word apart hu plain keeps
  · obtain ⟨u, hu, -, last⟩ := fit.elem rfl wf hi hk fitB
    rw [last]
    exact ranks.index fitB fit.dest hk len word apart.symm hu plain keeps

end

/-- Settles O45: an element of D by the word that its row puts there last; a rank by the number of elements that rank before it. -/
theorem vectorIndexEffects : Obligations.VectorIndexEffects := by
  unfold Obligations.VectorIndexEffects
  intro s gid g ins e c i k d hg hw hd wf small n m rows arg A B C val bits some_ ok
  obtain ⟨h, only, -, spad, poison⟩ := State.performVx_effect hg some_
  have dest : d.fits m := Arg.fits_of_regionOk (mkArg_regular hd) small ok
  refine ⟨h, only.1, fun hi hk plain keeps clean => ?_⟩
  intro put raw first
  have element : (h.elem i d.r d.f k).1 = (g.vxSpad ins c).elemBits i d.r d.f k := by rw [Group.elem_of_clean clean poison, spad]
  have listed {ws : List Nat} {w : Nat} (top : ∀ x, ins ≠ .vtopk x) (quant : ∀ x, ins ≠ .vquant x) (fills : (g.vxRow ins c i).fills d ws)
      (len : ws.length = m) (hw : ws[k]? = some w) : (h.elem i d.r d.f k).1 = w % 2 ^ d.f.width :=
    element.trans ((VxFits.of_dest hd some_ dest top quant).filled rfl wf hi hk plain keeps fills len hw)
  have result {w : Nat → Nat} (top : ∀ x, ins ≠ .vtopk x) (quant : ∀ x, ins ≠ .vquant x)
      (fills : (g.vxRow ins c i).fills d ((List.range m).map w)) : (h.elem i d.r d.f k).1 = w k % 2 ^ d.f.width :=
    listed top quant fills (by simp) (by simp [hk])
  refine ⟨?vrand, ?vlut, ?vtern, ?vgath, ?vdot8, ?vscan, ?vredsum, ?vscat, ?vtopk, ?vredmax, ?vargmax⟩
  case vrand =>
    rintro rfl
    have drawn := result nofun nofun (Group.vxRow_vrand hd i e)
    rw [Cmd.kind_eq] at drawn
    refine ⟨fun kind => ?_, fun kind => ?_⟩
    · rw [if_pos kind, Nat.mod_mod] at drawn
      exact drawn
    · rw [if_neg kind] at drawn
      exact drawn
  case vlut =>
    rintro rfl
    exact result nofun nofun (Group.vxRow_vlut hd i e)
  case vtern =>
    rintro rfl b
    have digit := result nofun nofun (Group.vxRow_vtern hd i e)
    rw [tritOf_eq] at digit
    exact digit
  case vgath =>
    rintro rfl j
    exact result nofun nofun (Group.vxRow_vgath hd i e)
  case vdot8 =>
    rintro rfl q count
    have sums := Group.vxRow_vdot8 (g := g) hd i e count
    rw [Cmd.lg_eq] at sums
    exact result nofun nofun sums
  case vscan =>
    rintro rfl v hv
    have scanned := Group.vxRow_vscan (g := g) hd i e
    rw [Cmd.kind_eq] at scanned
    exact listed nofun nofun scanned (by simp [scanX_length]; rfl) (by rw [List.getElem?_map]; exact congrArg _ hv)
  case vredsum =>
    rintro rfl
    obtain rfl : k = 0 := Nat.lt_one_iff.1 hk
    exact listed nofun nofun (Group.vxRow_vredsum hd i e) rfl rfl
  case vscat =>
    rintro rfl stride into
    obtain ⟨last, unnamed⟩ := vscat_elem hi wf (.of_dest hd some_ dest nofun nofun) hk plain stride
    refine ⟨fun j ⟨hj, here⟩ final => element.trans (last j hj here fun y lt hy same => final y lt ⟨hy, same⟩), fun others => ?_⟩
    have stays := unnamed fun y hy same => others y ⟨hy, same⟩
    have old : bits d k = g.spad.elemBits i d.r d.f k := congrArg Prod.fst (Group.elem_of_clean clean rfl)
    have small := g.spad.elemBits_lt i d.r dest.1 k
    rw [← old] at stays small
    exact element.trans (stays.trans (Nat.mod_eq_of_lt small).symm)
  case vtopk =>
    rintro rfl okB j hj rank p w apart
    have place : (g.ranking c d i)[k]? = some (j, val A j) := by
      rw [← rank]
      exact ranked_get (val A) hj
    have fitB := Arg.fits_of_regionOk (mkArg_getD_regular c.vB (c.word 2) (mkArg_regular hd)) small okB
    obtain ⟨value, index⟩ := vtopk_elem hi wf ⟨hd, some_, dest, fun _ _ => fitB, nofun⟩ hk place apart
    refine ⟨element.trans (value plain keeps), fun width plainB keepsB cleanB => ?_⟩
    have placed := index plainB keepsB
    have width' : (c.argOr d 2 c.vB).f.width = 32 := width
    rw [width', Nat.mod_mod] at placed
    rw [Group.elem_of_clean cleanB poison, spad]
    exact placed
  case vredmax =>
    rintro rfl j ⟨hj, greatest⟩
    obtain rfl : k = 0 := Nat.lt_one_iff.1 hk
    have place := ranked_first (val A) hj fun y hy => greatest y hy
    exact listed nofun nofun (Group.vxRow_vredmax hd i e) (Group.ranking_first_length _ some_) (Group.ranking_taken _ place Nat.one_pos)
  case vargmax =>
    rintro rfl j ⟨hj, greatest⟩
    obtain rfl : k = 0 := Nat.lt_one_iff.1 hk
    have place := ranked_first (val A) hj fun y hy => greatest y hy
    exact listed nofun nofun (Group.vxRow_vargmax hd i e) (Group.ranking_first_length _ some_) (Group.ranking_taken _ place Nat.one_pos)

end Sys2Proof.Machine
/-! ## O26 and O28, refuted: a misaligned access past its checks (R236, R388)

`State.access` makes its checks neither where the stream holds requests nor where it is past the checks of its instruction. The clauses on
misaligned accesses of these two statements exclude the first alone. -/

namespace Sys2Proof.Machine

open Sys2Proof

/-- What `f` reads of group 0 after an instruction is read in the state that the instruction answers. -/
theorem of_after {α : Type} {i : Instr} {s : State} {f : Group → α} {x : α} (h : after i s f = some x) :
    ∃ (t : State) (g : Group), exec i s = .next t ∧ t.grp? 0 = some g ∧ f g = x := by
  unfold after at h
  split at h
  · next t e =>
    obtain ⟨g, hg, rfl⟩ := Option.map_eq_some_iff.1 h
    exact ⟨t, g, e, hg, rfl⟩
  · cases h

/-- A group whose A-slice is past the checks of its instruction, and holds no request and no part of it. -/
def pastGroup : Group := { testG with a := { testG.a with past := true } }

/-- That slice issues. -/
def pastState : State := testState .a fun _ => pastGroup

theorem pastState_issuing : Issuing pastState 0 .a pastGroup := ⟨rfl, by decide +kernel, by decide +kernel⟩

theorem pastState_ctx : pastState.ctx? pastGroup.ctx = some loaderCtx := by decide +kernel

/-- An acquiring load of two bytes at address 1 completes. -/
theorem pastState_ldAcq : after (.ldAcq 0 0 1 0 1) pastState Group.status = some .running := by decide +kernel

/-- So does a releasing store. -/
theorem pastState_stRel : after (.stRel 0 0 1 0 1) pastState Group.status = some .running := by decide +kernel

/-- A trap would stop the group. -/
theorem pastState_trapped (y : TrapInfo) : ((pastState.trapStream 0 .a y false).grp? 0).map Group.status = some .stopping := rfl

/-- An instruction after which the group of `pastState` runs has not trapped. -/
theorem pastState_not_trapped {i : Instr} (h : after i pastState Group.status = some .running) (y : TrapInfo) :
    exec i pastState ≠ trapped pastState 0 .a y := by
  intro traps
  obtain ⟨t, g, e, hg, running⟩ := of_after h
  rw [traps] at e
  injection e with same
  have stopping := pastState_trapped y
  rw [same, hg, Option.map_some, running] at stopping
  cases stopping

/-- Refutes O26: an acquiring load of a stream past its checks is misaligned, and completes. -/
theorem not_loadResults : ¬ Obligations.LoadResults := by
  intro h
  obtain ⟨-, -, misaligned⟩ :=
    h pastState pastState 0 .a pastGroup (.ldAcq 0 0 1 0 1) 0 0 1 2 false true false [] pastState_issuing rfl rfl
  exact pastState_not_trapped pastState_ldAcq _ (misaligned loaderCtx pastState_ctx rfl rfl (by decide +kernel))

/-- Refutes O28: a releasing store of a stream past its checks is misaligned, and completes. -/
theorem not_storeResults : ¬ Obligations.StoreResults := by
  rintro ⟨h, -⟩
  obtain ⟨-, release⟩ := h pastState pastState pastState 0 .a pastGroup [] pastState_issuing
  obtain ⟨-, misaligned⟩ := release 0 0 1 0 1 rfl
  exact pastState_not_trapped pastState_stRel _ (misaligned loaderCtx pastState_ctx rfl (by decide +kernel))

end Sys2Proof.Machine

/-! ## O30 and O31, refuted: the queues after the scan (R42, R230, R250)

As in the refutation of O16: the scan after an access of the scratchpad may read its line from a peer, and clears the mark `keep` of a
pending entry's read of that line. -/

namespace Sys2Proof.Machine

open Sys2Proof

theorem lineState_issuing : Issuing lineState 0 .a lineGroup := ⟨rfl, by decide +kernel, by decide +kernel⟩

theorem lineState_memoriesWf : lineState.memoriesWf = true := by decide +kernel

/-- A load of the scratchpad's first dword, and the scan after it. -/
theorem lineState_ldsD : after (.ldsD 0 0 0) lineState (fun h => (h.ctx, h.qs)) =
    some (lineGroup.ctx, lineGroup.qs.set 0 (lineQueue false)) := by
  decide +kernel

/-- A store to it, and the scan after it. -/
theorem lineState_stsD : after (.stsD 0 0 0) lineState (fun h => (h.ctx, h.qs)) =
    some (lineGroup.ctx, lineGroup.qs.set 0 (lineQueue false)) := by
  decide +kernel

/-- An instruction with such an end leaves the group in its context, and its queues not as they were. -/
theorem lineState_queues_changed {i : Instr}
    (h : after i lineState (fun h => (h.ctx, h.qs)) = some (lineGroup.ctx, lineGroup.qs.set 0 (lineQueue false))) :
    ∃ (t : State) (h : Group), exec i lineState = .next t ∧ t.grp? 0 = some h ∧ h.ctx = lineGroup.ctx ∧ h.qs ≠ lineGroup.qs := by
  obtain ⟨t, h, e, hh, ends⟩ := of_after h
  obtain ⟨ctx, qs⟩ := Prod.mk.injEq .. ▸ ends
  exact ⟨t, h, e, hh, ctx, fun same => lineQueue_changed (qs.symm.trans same)⟩

/-- Refutes O30: a load of the scratchpad whose scan reads the line that a pending entry reads. -/
theorem not_loadFrame : ¬ Obligations.LoadFrame := by
  intro frame
  obtain ⟨t, h, e, hh, ctx, changed⟩ := lineState_queues_changed lineState_ldsD
  obtain ⟨-, -, -, -, -, -, -, -, -, -, queues, -⟩ := frame lineState t 0 .a lineGroup h (.ldsD 0 0 0) 0 lineState_memoriesWf
    lineState_issuing (.inr ⟨_, rfl, rfl⟩) e hh ctx
  exact changed (queues (.inr ⟨_, rfl⟩))

/-- Refutes O31: a store to the scratchpad whose scan reads the line that a pending entry reads. -/
theorem not_storeFrame : ¬ Obligations.StoreFrame := by
  rintro ⟨-, frame⟩
  obtain ⟨t, h, e, hh, ctx, changed⟩ := lineState_queues_changed lineState_stsD
  obtain ⟨-, -, -, -, -, -, -, same, -, -⟩ := frame lineState t 0 .a lineGroup h (.stsD 0 0 0) 0 0 0 8 lineState_memoriesWf
    lineState_issuing rfl e hh ctx
  exact changed same

end Sys2Proof.Machine

/-! ## O29: loads from and stores to the scratchpad (R240) -/

namespace Sys2Proof.Machine

open Sys2Proof

/-- Sign extension of `n` bytes, by their value. -/
theorem extend_signed {n : Nat} {bs : List Byte} (pos : 0 < n) (length : bs.length = n) :
    extend n true bs = (BitVec.ofNat (8 * n) (leNat bs)).signExtend 64 := by
  have bound : leNat bs < 2 ^ (8 * n) := by
    rw [Nat.pow_mul, ← length]
    exact leNat_lt bs
  have half : 2 ^ (8 * n) = 2 * 2 ^ (8 * n - 1) := by
    rw [← Nat.pow_succ', Nat.succ_eq_add_one, Nat.sub_add_cancel (by omega)]
  rw [BitVec.signExtend, BitVec.toInt, BitVec.toNat_ofNat, Nat.mod_eq_of_lt bound]
  unfold extend
  by_cases h : 2 ^ (8 * n - 1) ≤ leNat bs
  · rw [if_pos (by simpa using h), if_neg (by omega)]
    norm_cast
  · rw [if_neg (by simpa using h), if_pos (by omega), BitVec.ofInt_natCast]

/-- What a load makes of the bytes that it read. -/
theorem extend_eq {n : Nat} {bs : List Byte} (sg : Bool) (pos : 0 < n) (length : bs.length = n) :
    extend n sg bs = if sg then (BitVec.ofNat (8 * n) (leNat bs)).signExtend 64 else BitVec.ofNat 64 (leNat bs) := by
  cases sg
  · rfl
  · exact extend_signed pos length

/-- A load of the scratchpad, by its fields. -/
theorem exec_of_spadLoadShape {i : Instr} {a d : Reg} {off : Word} {n : Nat} {sg : Bool} (h : spadLoadShape i = some (a, off, n, sg, d))
    (s : State) : 0 < n ∧ ∃ j : BitVec 13, j.signExtend 64 = off ∧ exec i s = spadLoad i n sg d a j s := by
  unfold spadLoadShape at h
  split at h <;> cases h
  all_goals exact ⟨by decide, _, rfl, rfl⟩

/-- A store to the scratchpad, by its fields. -/
theorem exec_of_spadStoreShape {i : Instr} {r a : Reg} {off : Word} {n : Nat} (h : spadStoreShape i = some (r, a, off, n)) (s : State) :
    ∃ j : BitVec 13, j.signExtend 64 = off ∧ exec i s = spadStore i n r a j s := by
  unfold spadStoreShape at h
  split at h <;> cases h
  all_goals exact ⟨_, rfl, rfl⟩

section
variable {g : Group} {o n : Nat} {i : Instr}

theorem spadCheck_good (good : o < 2 ^ 26 ∧ o % n = 0 ∧ o / 2 ^ 22 < g.n ∧ o % 2 ^ 22 < g.x) : spadCheck g o n i = none := by
  obtain ⟨small, aligned, row, extent⟩ := good
  rw [spadCheck, if_neg (by omega), if_neg (by simpa using aligned), if_neg (by simpa using ⟨row, extent⟩)]

theorem spadCheck_outside (outside : 2 ^ 26 ≤ o ∨ (o % n = 0 ∧ (g.n ≤ o / 2 ^ 22 ∨ g.x ≤ o % 2 ^ 22))) :
    spadCheck g o n i = some { cause := 0x21, status := encodeStatus i } := by
  obtain large | ⟨aligned, beyond⟩ := outside
  · rw [spadCheck, if_pos large]
  · unfold spadCheck
    split
    · rfl
    · rw [if_neg (by simpa using aligned), if_pos (by simpa using beyond)]

theorem spadCheck_misaligned (small : o < 2 ^ 26) (misaligned : o % n ≠ 0) : spadCheck g o n i = some { cause := 0x0B, addr := o } := by
  rw [spadCheck, if_neg (by omega), if_pos (by simpa using misaligned)]

end

section
variable {s : State} {gid : Nat} {sl : Slice} {g : Group} (hi : Issuing s gid sl g) {a : Reg} (p : (g.stream sl).rp a = false)
include hi p

theorem spadLoad_good {i : Instr} {n : Nat} {sg : Bool} {d : Reg} {j : BitVec 13}
    (good : spadCheck g ((g.stream sl).rd a + j.signExtend 64).toNat n i = none) :
    spadLoad i n sg d a j s =
      (let r := s.viewSpad (g.viewer sl) g ((g.stream sl).rd a + j.signExtend 64).toNat n
       (s.loaded gid sl d (extend n sg r.1) r.2).done gid sl) := by
  simp only [spadLoad, issue_eq hi, p, good, Bool.false_eq_true, if_false]

theorem spadLoad_bad {i : Instr} {n : Nat} {sg : Bool} {d : Reg} {j : BitVec 13} {t : TrapInfo}
    (bad : spadCheck g ((g.stream sl).rd a + j.signExtend 64).toNat n i = some t) : spadLoad i n sg d a j s = trapped s gid sl t := by
  simp only [spadLoad, issue_eq hi, p, bad, Bool.false_eq_true, if_false, State.trapNow, trapped]

theorem spadStore_good {i : Instr} {n : Nat} {r : Reg} {j : BitVec 13}
    (good : spadCheck g ((g.stream sl).rd a + j.signExtend 64).toNat n i = none) :
    spadStore i n r a j s = (s.storePart gid sl (g.viewer sl)
      { va := ((g.stream sl).rd a + j.signExtend 64).toNat, n := n,
        loc := .spad ((g.stream sl).rd a + j.signExtend 64).toNat, ord := 1 }
      (leBytes n ((g.stream sl).rd r).toNat) ((g.stream sl).rp r) none).done gid sl := by
  simp only [spadStore, issue_eq hi, p, good, Bool.false_eq_true, if_false]

theorem spadStore_bad {i : Instr} {n : Nat} {r : Reg} {j : BitVec 13} {t : TrapInfo}
    (bad : spadCheck g ((g.stream sl).rd a + j.signExtend 64).toNat n i = some t) : spadStore i n r a j s = trapped s gid sl t := by
  simp only [spadStore, issue_eq hi, p, bad, Bool.false_eq_true, if_false, State.trapNow, trapped]

end

/-- Settles O29. -/
theorem scratchpadResults : Obligations.ScratchpadResults := by
  intro s gid sl g i r a d off n sg hi p o good outside seen
  refine ⟨fun h => ?_, fun h hgood => ?_, fun h => ?_⟩
  · obtain ⟨pos, j, rfl, e⟩ := exec_of_spadLoadShape h s
    refine ⟨fun hgood clean length => ?_, fun hgood poisoned => ?_⟩
    · rw [e, spadLoad_good hi p (spadCheck_good hgood), ← extend_eq sg pos length]
      simp only [State.loaded, wrote, State.done]
      rw [show (s.viewSpad (g.viewer sl) g _ n).2 = false from clean]
      rfl
    · rw [e, spadLoad_good hi p (spadCheck_good hgood)]
      simp only [State.loaded, State.done]
      rw [show (s.viewSpad (g.viewer sl) g _ n).2 = true from poisoned]
      rfl
  · obtain ⟨j, rfl, e⟩ := exec_of_spadStoreShape h s
    exact e.trans (spadStore_good hi p (spadCheck_good hgood))
  · have bad {t : TrapInfo} (bad : spadCheck g o n i = some t) : exec i s = trapped s gid sl t := by
      obtain h | h := h
      · obtain ⟨-, j, rfl, e⟩ := exec_of_spadLoadShape h s
        exact e.trans (spadLoad_bad hi p bad)
      · obtain ⟨j, rfl, e⟩ := exec_of_spadStoreShape h s
        exact e.trans (spadStore_bad hi p bad)
    exact ⟨fun h => bad (spadCheck_outside h), fun small misaligned => bad (spadCheck_misaligned small misaligned)⟩

end Sys2Proof.Machine

/-! ## O34: `prom`, `pf`, `cln` and `inv` (R244, R246) -/

namespace Sys2Proof.Machine

open Sys2Proof

section
variable {s s1 s2 : State} {gid : Nat} {sl : Slice} {g : Group} (hi : Issuing s gid sl g) {a : Reg}
include hi

theorem exec_prom_read {parts : List Part} {r : List Byte × Bool} (c : BitVec 2) (clean : (g.stream sl).rp a = false)
    (access : s.access gid sl ((g.stream sl).rd a).toNat 1 needR false false = .ok s1 parts)
    (read : (s1.settleLoads gid sl).drainAll.readSlice gid sl (parts.map Part.word) = .ok s2 r) :
    exec (.prom a c) s = .next (s2.advance gid sl) := by
  change execProm a c s = _
  rw [execProm, issue_eq hi, clean, access]
  simp only [Got.bind, read, Got.finish, Bool.false_eq_true, if_false, State.done]

/-- `pf` of a poisoned address is dropped. -/
theorem exec_pf_poisoned_next (poisoned : (g.stream sl).rp a = true) : exec (.pf a) s = .next (s.advance gid sl) := by
  change execPf a s = _
  rw [execPf, issue_eq hi, if_pos poisoned, State.done]

theorem exec_pf_trap {y : TrapInfo} (clean : (g.stream sl).rp a = false)
    (access : s.access gid sl ((g.stream sl).rd a).toNat 1 needR false true = .trap s1 y) :
    exec (.pf a) s = .next (s.advance gid sl) := by
  change execPf a s = _
  simp only [execPf, issue_eq hi, clean, access, Bool.false_eq_true, if_false, State.done]

section
variable {p : Part} (clean : (g.stream sl).rp a = false)
  (access : s.access gid sl ((g.stream sl).rd a).toNat 1 needR false true = .ok s1 [p])
include clean access

theorem exec_pf_vault {q : Nat} (loc : p.loc = .vault q) :
    exec (.pf a) s = .next ((s1.bringSector (q / 256 * 256)).advance gid sl) := by
  change execPf a s = _
  simp only [execPf, issue_eq hi, clean, access, loc, Bool.false_eq_true, if_false, State.done]

theorem exec_pf_peer {id q : Nat} {r : List Byte × Bool} (loc : p.loc = .peer id q) (ord : p.ord = 2)
    (read : s1.readSlice gid sl [if (g.stream sl).reqs = [] then
      { va := p.va / 256 * 256, n := 256, loc := .peer id (q / 256 * 256), ord := 2 } else p] = .ok s2 r) :
    exec (.pf a) s = .next (s2.advance gid sl) := by
  change execPf a s = _
  simp only [execPf, issue_eq hi, clean, access, loc, ord, List.isEmpty_iff, read, Bool.false_eq_true, if_false, beq_self_eq_true,
    if_true, Got.finish, State.done]

theorem cacheControl_vault {q : Nat} (loc : p.loc = .vault q) (c : BitVec 2) (drop : Bool) : cacheControl a c drop s =
    .next (State.advance (if 2 ≤ c.toNat then s1.cleanSector (q / 256 * 256) drop else s1) gid sl) := by
  simp only [cacheControl, issue_eq hi, clean, access, loc, Bool.false_eq_true, if_false, Got.finish, List.foldl_cons,
    List.foldl_nil, State.done]

theorem exec_inv_peer {id q : Nat} (loc : p.loc = .peer id q) (c : BitVec 2) : exec (.inv a c) s = .next (State.advance
    (s1.dropLines (ctlWithin g c.toNat) (fun i line => i == id && line / 256 == q / 256)) gid sl) := by
  change cacheControl a c true s = _
  simp only [cacheControl, issue_eq hi, clean, access, loc, Bool.false_eq_true, if_false, if_true, Got.finish, List.foldl_cons,
    List.foldl_nil, State.done]

end
end

/-- Settles O34. -/
theorem cacheControlResults : Obligations.CacheControlResults := by
  intro s s1 s2 gid sl g a c p parts r hi st x
  refine ⟨exec_prom_read hi c, exec_pf_poisoned_next hi, fun clean y => exec_pf_trap hi clean, fun clean q access loc => ?_,
    fun clean id q access loc => ⟨⟨exec_inv_peer hi clean access loc c, rfl⟩, exec_pf_peer hi clean access loc⟩⟩
  exact ⟨exec_pf_vault hi clean access loc, cacheControl_vault hi clean access loc c false, cacheControl_vault hi clean access loc c true⟩

end Sys2Proof.Machine

/-! ## O35: `wait.eq` and `wait.ne` (R245) -/

namespace Sys2Proof.Machine

open Sys2Proof

/-- Which wait is passed over does not depend on its condition, nor on who waits for a port. -/
theorem State.passedOver_congr {s t : State} (same : t.groups = s.groups) (o n : Nat) (v w : WaitFor) (ahead : List Nat) (p : Part) :
    t.passedOver { order := o, what := v, caught := none, ahead := ahead, since := n } p =
      s.passedOver { order := o, what := w, caught := none, ahead := ahead, since := n } p := by
  unfold State.passedOver
  rw [same]

/-- A read of a word outside peers' memory serves no other wait. -/
theorem State.shareRead_of_not_peer (s : State) (b : Binding) {p : Part} (h : ∀ id x : Nat, p.loc ≠ .peer id x) (v o sent : Nat) :
    s.shareRead b p v o sent = s := by
  unfold State.shareRead
  split
  · next id x e => exact absurd e (h id x)
  · rfl

/-- The wait of a stream ends with the value `v` of the word at `p`. -/
def State.waitEnded (s : State) (gid : Nat) (sl : Slice) (g : Group) (p : Part) (d : Reg) (v : Nat) : Out :=
  .next (State.advance ((s.dropOwn g.ctl p.loc p.n).mapStream gid sl
    (fun st => { st.wr d (BitVec.ofNat 64 v) false with reqs := [], parts := [] })) gid sl)

/-- The bytes of the word that a wait of size `z` reads (R245). -/
def waitSize (z : BitVec 1) : Nat := if z = 0 then 4 else 8

section
variable {s s1 s2 : State} {gid : Nat} {sl : Slice} {g : Group} (hi : Issuing s gid sl g) {d a b : Reg} {z : BitVec 1}
  (clean : (g.stream sl).rp a = false) (comparand : (g.stream sl).rp b = false)
include hi clean comparand

/-- A value caught since the wait stalled ends it, whatever its condition. -/
theorem waitWord_caught {p : Part} {o u x t : Nat} {e : Bool} {ahead : List Nat} (eq : Bool)
    (caught : (g.stream sl).waiting = some { order := o, what := .word p u e, caught := some x, ahead := ahead, since := t })
    (next : s.passedOver { order := o, what := .word p ((g.stream sl).rd b).toNat true, caught := none, ahead := ahead, since := t } p =
      false) : waitWord d a b z eq s = s.waitEnded gid sl g p d x := by
  rw [State.passedOver_congr (s := s) rfl o t _ (.word p ((g.stream sl).rd b).toNat eq)] at next
  simp only [waitWord, issue_eq hi, clean, comparand, caught, next, Bool.or_self, Bool.false_eq_true, if_false]
  rfl

section
variable {p : Part} {ps : List Part} {bytes : List Byte} (fresh : (g.stream sl).waiting = none)
  (access : s.access gid sl ((g.stream sl).rd a).toNat (waitSize z) needR true false = .ok s1 (p :: ps))
  (read : (s1.settleLoads gid sl).readSlice gid sl (p :: ps) = .ok s2 (bytes, false))
include fresh access read

/-- The word meets the condition of a wait that begins. -/
theorem waitWord_met {eq : Bool} (met : satisfies (leNat bytes) ((g.stream sl).rd b).toNat (waitSize z) eq = true) :
    let sent := (g.stream sl).reqs.headD s2.nextTag
    let u := s2.shareRead g.bind p (leNat bytes) s2.nextWait sent
    u.passedOver { order := s2.nextWait, what := .word p ((g.stream sl).rd b).toNat true, caught := none,
                   ahead := u.mustRead g.bind p s2.nextWait sent, since := u.nextTag } p = false →
    waitWord d a b z eq s = u.waitEnded gid sl g p d (leNat bytes) := by
  intro sent u next
  rw [State.passedOver_congr (s := u) rfl _ _ _ (.word p ((g.stream sl).rd b).toNat eq)] at next
  unfold waitSize at access met
  simp only [waitWord, issue_eq hi, clean, comparand, fresh, access, read, Got.finish, Bool.or_self, Bool.false_eq_true, if_false,
    Option.map_none, Option.getD_none, met, if_true, Bool.true_and]
  exact if_pos (by rw [next]; rfl)

/-- The word does not meet it. -/
theorem waitWord_unmet {eq : Bool} (unmet : satisfies (leNat bytes) ((g.stream sl).rd b).toNat (waitSize z) eq = false) :
    let sent := (g.stream sl).reqs.headD s2.nextTag
    let u := s2.shareRead g.bind p (leNat bytes) s2.nextWait sent
    waitWord d a b z eq s = .next (((u.beginWait gid sl .wait (.word p ((g.stream sl).rd b).toNat eq)).mapStream gid sl
      (fun st => st.awaits [])).shareRead g.bind p (leNat bytes) s2.nextWait sent) := by
  unfold waitSize at access unmet
  simp only [waitWord, issue_eq hi, clean, comparand, fresh, access, read, Got.finish, Bool.or_self, Bool.false_eq_true, if_false,
    Option.map_none, Option.getD_none, unmet, Bool.false_and]

end
end

section
variable {s : State} {gid : Nat} {sl : Slice} {g : Group} (hg : s.grp? gid = some g)
include hg

/-- A stream that is stalled for no word reads nothing again. -/
theorem exec_waitReread_other (other : (g.stream sl).stall ≠ some .wait) : exec (.waitReread gid sl) s = .next s := by
  change execWaitReread gid sl s = _
  simp only [execWaitReread, hg]
  exact if_neg (by simp [other])

variable (may : g.mayIssue sl = true) (stalled : (g.stream sl).stall = some .wait) {m : FetchedLine}
  (pass : (g.stream sl).pass = some m)
include may stalled pass

/-- A stalled wait has one more turn. -/
theorem exec_waitReread_wait {d a b : Reg} {c : BitVec 2} {z : BitVec 1} :
    (lineInstr m.words ((g.stream sl).pc.toNat % 32 / 4) = .waitEq d a b c z → exec (.waitReread gid sl) s =
      waitWord d a b z true { s.unwait (gid, sl.src) with cur := some (gid, sl) }) ∧
    (lineInstr m.words ((g.stream sl).pc.toNat % 32 / 4) = .waitNe d a b c z → exec (.waitReread gid sl) s =
      waitWord d a b z false { s.unwait (gid, sl.src) with cur := some (gid, sl) }) := by
  refine ⟨fun e => ?_, fun e => ?_⟩ <;>
  · change execWaitReread gid sl s = _
    simp only [execWaitReread, hg, may, stalled, pass, e, beq_self_eq_true, Bool.and_self, if_true]

end

/-- Settles O35. -/
theorem waitResults : Obligations.WaitResults := by
  intro s s1 s2 gid sl g d a b c z p ps bytes n want v same here issued ends
  have equal (eq : Bool) : satisfies v want n eq = (decide same == eq) := rfl
  refine ⟨fun clean comparand => ⟨fun hi fresh access read => ?_, fun o u x t e ahead caught next => ⟨fun hi => ?_, ?_⟩⟩,
    fun m hg may stalled pass => exec_waitReread_wait hg may stalled pass, exec_waitReread_other⟩
  · intro mine sent u stays next
    refine ⟨fun h => s2.shareRead_of_not_peer g.bind h _ _ _, fun met => ⟨?_, ?_⟩, fun unmet => ⟨?_, ?_⟩⟩
    · exact waitWord_met hi clean comparand fresh access read ((equal true).trans (by simp [met])) next
    · exact waitWord_unmet hi clean comparand fresh access read ((equal false).trans (by simp [met]))
    · exact waitWord_met hi clean comparand fresh access read ((equal false).trans (by simp [unmet])) next
    · exact waitWord_unmet hi clean comparand fresh access read ((equal true).trans (by simp [unmet]))
  · exact ⟨waitWord_caught hi clean comparand true caught next, waitWord_caught hi clean comparand false caught next⟩
  · intro m hg may stalled pass wait
    have hi : Issuing issued gid sl g := ⟨rfl, hg, may⟩
    obtain wait | wait := wait
    · exact ((exec_waitReread_wait hg may stalled pass).1 wait).trans (waitWord_caught hi clean comparand true caught next)
    · exact ((exec_waitReread_wait hg may stalled pass).2 wait).trans (waitWord_caught hi clean comparand false caught next)

end Sys2Proof.Machine

/-! ## O36: a write to memory is read back (R225, R233, R250, R308) -/

namespace Sys2Proof.Machine

open Sys2Proof

theorem NatSet.mem_insert {m : NatSet} {a x : Nat} : x ∈ NatSet.insert m a ↔ x = a ∨ x ∈ m := by
  induction m with
  | nil => simp [NatSet.insert]
  | cons k rest ih =>
    unfold NatSet.insert
    split_ifs with before same
    · simp
    · simp [same]
    · simp only [List.mem_cons, ih]
      tauto

theorem NatSet.mem_foldl_insert {as : List Nat} {m : NatSet} {x : Nat} : x ∈ as.foldl NatSet.insert m ↔ x ∈ as ∨ x ∈ m := by
  induction as generalizing m with
  | nil => simp
  | cons a as ih =>
    rw [List.foldl_cons, ih, NatSet.mem_insert, List.mem_cons]
    tauto

/-- The sector of a byte is among those that the bytes of an access touch. -/
theorem sector_mem_sectorsOf {a n x : Nat} (above : a ≤ x) (below : x < a + n) : x / 256 * 256 ∈ sectorsOf a n := by
  unfold sectorsOf
  rw [if_neg (by omega), List.mem_map]
  refine ⟨x / 256 - a / 256, ?_, ?_⟩
  · rw [List.mem_range]
    omega
  · omega

theorem State.countStack_vaultPoison (s : State) (k src n : Nat) (c : Option Nat) :
    (s.countStack k src n c).vaultPoison = s.vaultPoison := by
  unfold State.countStack
  split
  · rfl
  · exact State.setStack_vaultPoison ..

theorem State.mem_poisonVault {s : State} {a x : Nat} : x ∈ (s.poisonVault a).vaultPoison ↔ x = a ∨ x ∈ s.vaultPoison := by
  unfold State.poisonVault
  split
  · next h =>
    rw [List.contains_iff_mem] at h
    exact ⟨.inr, fun e => e.elim (· ▸ h) id⟩
  · simp only [State.countStack_vaultPoison, NatSet.mem_insert]

theorem State.mem_foldl_poisonVault {as : List Nat} {s : State} {x : Nat} :
    x ∈ (as.foldl State.poisonVault s).vaultPoison ↔ x ∈ as ∨ x ∈ s.vaultPoison := by
  induction as generalizing s with
  | nil => simp
  | cons a as ih =>
    rw [List.foldl_cons, ih, State.mem_poisonVault, List.mem_cons]
    tauto

/-- The bytes of host memory after a performed write there. -/
theorem State.performRaw_host (s : State) (a : Nat) (bs : List Byte) (p w : Bool) :
    (s.performRaw (.host a) bs p w).host = s.host.write a bs := by
  by_cases empty : bs.length = 0
  · rw [List.length_eq_zero_iff.1 empty]
    rfl
  · rw [State.performRaw, if_neg empty, State.logWrite_only]

/-- The bytes of the vault after a performed write there. -/
theorem State.performRaw_vault (s : State) (a : Nat) (bs : List Byte) (p w : Bool) :
    (s.performRaw (.vault a) bs p w).vault = s.vault.write a bs := by
  by_cases empty : bs.length = 0
  · rw [List.length_eq_zero_iff.1 empty]
    rfl
  · rw [State.performRaw, if_neg empty, State.logWrite_only]
    have dirtied (u : State) := (foldl_memories _ State.dirtySector_memories (sectorsOf a bs.length) u).1
    have poisoned (u : State) := (foldl_memories _ State.poisonVault_memories (sectorsOf a bs.length) u).1
    simp only []
    split
    · rw [poisoned, dirtied]
    · rw [dirtied]

/-- A poisoned write to host memory poisons the sectors that it touches. -/
theorem State.performRaw_hostPoison {s : State} {a x : Nat} {bs : List Byte} (w : Bool) (above : a ≤ x) (below : x < a + bs.length) :
    x / 256 * 256 ∈ (s.performRaw (.host a) bs true w).hostPoison := by
  rw [State.performRaw, if_neg (by omega), State.logWrite_only]
  exact NatSet.mem_foldl_insert.2 (.inl (sector_mem_sectorsOf above below))

/-- So does one to the vault. -/
theorem State.performRaw_vaultPoison {s : State} {a x : Nat} {bs : List Byte} (w : Bool) (above : a ≤ x) (below : x < a + bs.length) :
    x / 256 * 256 ∈ (s.performRaw (.vault a) bs true w).vaultPoison := by
  rw [State.performRaw, if_neg (by omega), State.logWrite_only]
  exact State.mem_foldl_poisonVault.2 (.inl (sector_mem_sectorsOf above below))

/-- A write to a page that is not free is performed. -/
theorem State.performWrite_of_not_free {s : State} {a : Nat} (h : s.freePage a = false) (bs : List Byte) (p w : Bool) :
    s.performWrite (.vault a) bs p w = s.performRaw (.vault a) bs p w := by
  simp only [State.performWrite, h, Bool.false_eq_true, if_false]

/-- A write to a free page is discarded (R308). -/
theorem State.performWrite_of_free {s : State} {a : Nat} (h : s.freePage a = true) (bs : List Byte) (p w : Bool) :
    s.performWrite (.vault a) bs p w = s := by
  simp only [State.performWrite, h, if_true]

/-- Settles O36. -/
theorem memoryReadAfterWrite : Obligations.MemoryReadAfterWrite := by
  refine ⟨fun m a bs wf => ⟨Memory.write_wf wf a bs, fun k below => ?_, fun x outside => ?_⟩,
    fun s a bs p w => ⟨fun wf x => ⟨?_, ?_⟩, fun wf kept x => ⟨?_, ?_⟩, fun free => State.performWrite_of_free free bs p w⟩⟩
  · rw [Memory.get_write wf, if_pos (by omega), Nat.add_sub_cancel_left]
  · rw [Memory.get_write wf, if_neg (by omega)]
  · exact (congrArg (Memory.get · x) (State.performRaw_host s a bs p w)).trans (Memory.get_write wf a bs x)
  · rintro rfl above below
    exact List.contains_iff_mem.2 (State.performRaw_hostPoison w above below)
  · rw [State.performWrite_of_not_free kept]
    exact (congrArg (Memory.get · x) (State.performRaw_vault s a bs p w)).trans (Memory.get_write wf a bs x)
  · rintro rfl above below
    rw [State.performWrite_of_not_free kept]
    exact List.contains_iff_mem.2 (State.performRaw_vaultPoison w above below)

end Sys2Proof.Machine

/-! ## O33: `fence` and releases (R243, R254, R257, R259, R415) -/

namespace Sys2Proof.Machine

open Sys2Proof

/-! ### What performing pending stores leaves -/

/-- The groups are as many and of the same numbers, with the same queues, and the same requests are out. -/
structure KeepsQueues (s t : State) : Prop where
  gids : t.groups.map Group.gid = s.groups.map Group.gid
  queues : ∀ j : Nat, (t.grp? j).map Group.qs = (s.grp? j).map Group.qs
  outReqs : t.outReqs = s.outReqs

namespace KeepsQueues

variable {s t u : State}

theorem refl (s : State) : KeepsQueues s s := ⟨rfl, fun _ => rfl, rfl⟩

theorem trans (h : KeepsQueues s t) (k : KeepsQueues t u) : KeepsQueues s u :=
  ⟨k.gids.trans h.gids, fun j => (k.queues j).trans (h.queues j), k.outReqs.trans h.outReqs⟩

theorem of_groups (groups : t.groups = s.groups) (outReqs : t.outReqs = s.outReqs) : KeepsQueues s t :=
  ⟨by rw [groups], fun j => by simp only [State.grp?, groups], outReqs⟩

/-- A group put back with its queues. -/
theorem setGrp {j : Nat} {g g' : Group} (hg : s.grp? j = some g) (number : g'.gid = g.gid) (queues : g'.qs = g.qs) :
    KeepsQueues s (s.setGrp g') := by
  refine ⟨?_, fun i => ?_, rfl⟩
  · simp only [State.setGrp, List.map_map]
    refine List.map_congr_left fun h _ => ?_
    rw [Function.comp_apply]
    split
    · next same => exact (beq_iff_eq.1 same).symm
    · rfl
  · rw [State.grp?_setGrp, number, State.grp?_gid hg]
    split
    · next same => simp [same, hg, queues]
    · rfl

theorem foldl {α : Type} {f : State → α → State} (step : ∀ s a, KeepsQueues s (f s a)) (l : List α) (s : State) :
    KeepsQueues s (l.foldl f s) :=
  foldl_keeps (KeepsQueues s) f l (fun t a h => h.trans (step t a)) (refl s)

theorem performWrite (s : State) (l : MemLoc) (bs : List Byte) (p w : Bool) : KeepsQueues s (s.performWrite l bs p w) := by
  refine of_groups (State.performWrite_groups s l bs p w) ?_
  have raw : (s.performRaw l bs p w).outReqs = s.outReqs := by
    have dirtied (as : List Nat) (u : State) : (as.foldl State.dirtySector u).outReqs = u.outReqs :=
      foldl_keeps (fun v => v.outReqs = u.outReqs) _ as (fun v a h => (State.setStack_outReqs v _ _).trans h) rfl
    have poisoned (as : List Nat) (u : State) : (as.foldl State.poisonVault u).outReqs = u.outReqs := by
      refine foldl_keeps (fun v => v.outReqs = u.outReqs) _ as (fun v a h => ?_) rfl
      unfold State.poisonVault State.countStack
      split
      · exact h
      · simp only []
        split
        · exact h
        · exact (State.setStack_outReqs _ _ _).trans h
    unfold State.performRaw
    simp only []
    split
    · rfl
    · split
      · split
        · rw [poisoned, dirtied, State.logWrite_outReqs]
        · rw [dirtied, State.logWrite_outReqs]
      · exact State.logWrite_outReqs ..
      · exact State.logWrite_outReqs ..
  unfold State.performWrite
  split
  · split
    · rfl
    · exact raw
  · exact raw

theorem performEntry (s : State) (gid : Nat) (e : StoreEntry) : KeepsQueues s (s.performEntry gid e) := by
  unfold State.performEntry
  split
  · split
    · next g hg => exact setGrp hg (by rw [Group.spadWrite_only]) (by rw [Group.spadWrite_only])
    · exact refl s
  · exact performWrite ..

theorem dropEntry (s : State) (gid : Nat) (sl : Slice) (q : Nat) : KeepsQueues s (s.dropEntry gid sl q) := by
  cases hg : s.grp? gid with
  | none =>
    rw [State.dropEntry_none hg]
    exact refl s
  | some g =>
    rw [State.dropEntry_eq hg]
    exact setGrp hg (Group.setStream_gid ..) (Group.setStream_qs ..)

theorem drainList (gid : Nat) (sl : Slice) (es : List StoreEntry) (s : State) : KeepsQueues s (s.drainList gid sl es) := by
  induction es generalizing s with
  | nil => exact refl s
  | cons e es ih => exact ((performEntry s gid e).trans (dropEntry ..)).trans (ih _)

theorem drainSlice (s : State) (gid : Nat) (sl : Slice) : KeepsQueues s (s.drainSlice gid sl) := by
  unfold State.drainSlice
  split
  · exact drainList ..
  · exact refl s

theorem drainAll (s : State) : KeepsQueues s s.drainAll := by
  unfold State.drainAll
  exact foldl (fun t h => (drainSlice t ..).trans (drainSlice ..)) _ s

theorem drainWhere (s : State) (gid : Nat) (sl : Slice) (pick : StoreEntry → Bool) : KeepsQueues s (s.drainWhere gid sl pick) := by
  unfold State.drainWhere
  split
  · split
    · exact drainList ..
    · exact refl s
  · exact refl s

theorem drainContended (s : State) (gid : Nat) (sl : Slice) (v : Viewer) : KeepsQueues s (s.drainContended gid sl v) := by
  unfold State.drainContended
  exact foldl (fun t h => foldl (fun u x => drainWhere ..) _ t) _ s

end KeepsQueues

/-! ### A release at a scope -/

/-- A group with its pending stores raised to a scope. -/
def Group.raised (s : State) (gid : Nat) (sl : Slice) (v : Viewer) (scope : Nat) (h : Group) : Group :=
  { h with a := raiseVis scope (released s gid sl v h .a) h.a, c := raiseVis scope (released s gid sl v h .c) h.c }

/-- The groups of `s` with their pending stores raised to a scope. -/
def State.raised (s : State) (gid : Nat) (sl : Slice) (v : Viewer) (k : Nat) : State :=
  { s with groups := s.groups.map (Group.raised s gid sl v k) }

theorem Group.raised_stream (s : State) (gid : Nat) (sl : Slice) (v : Viewer) (scope : Nat) (h : Group) (x : Slice) :
    (h.raised s gid sl v scope).stream x = raiseVis scope (released s gid sl v h x) (h.stream x) := by
  cases x <;> rfl

/-- A release at less than system scope. -/
theorem State.release_narrow {s : State} {gid : Nat} {g : Group} (hg : s.grp? gid = some g) (sl : Slice) {k : Nat} (narrow : k < 3) :
    s.release gid sl k =
      (s.drainContended gid sl (g.viewer sl)).raised gid sl (g.viewer sl) k := by
  simp only [State.release, hg, State.performAt, if_neg (Nat.not_le.2 narrow)]
  rfl

theorem State.release_system {s : State} {gid : Nat} {g : Group} (hg : s.grp? gid = some g) (sl : Slice) :
    s.release gid sl 3 = s.drainAll := by
  simp only [State.release, hg, State.performAt, if_pos (Nat.le_refl 3)]

/-- Groups mapped by what keeps their numbers are found by them. -/
theorem State.grp?_mapped {s t : State} {f : Group → Group} (groups : t.groups = s.groups.map f) (number : ∀ h : Group, (f h).gid = h.gid)
    (j : Nat) : t.grp? j = (s.grp? j).map f := by
  simp only [State.grp?, groups, List.find?_map]
  congr 2
  funext h
  exact congrArg (· == j) (number h)

theorem KeepsQueues.raised (s : State) (gid : Nat) (sl : Slice) (v : Viewer) (k : Nat) :
    KeepsQueues s (s.raised gid sl v k) := by
  refine ⟨?_, fun j => ?_, rfl⟩
  · rw [State.raised, List.map_map]
    rfl
  · rw [State.grp?_mapped (s := s) (f := Group.raised s gid sl v k) rfl fun _ => rfl, Option.map_map]
    rfl

theorem KeepsQueues.release (s : State) (gid : Nat) (sl : Slice) (k : Nat) : KeepsQueues s (s.release gid sl k) := by
  unfold State.release
  split
  · unfold State.performAt
    split
    · exact .drainAll s
    · exact (KeepsQueues.drainContended ..).trans (.raised ..)
  · exact .refl s

/-- A group is found by a number that no other has. -/
theorem State.grp?_of_nodup {s : State} (distinct : (s.groups.map Group.gid).Nodup) {h : Group} (hh : h ∈ s.groups) :
    s.grp? h.gid = some h := by
  unfold State.grp?
  generalize s.groups = gs at distinct hh
  induction gs with
  | nil => cases hh
  | cons g gs ih =>
    obtain ⟨fresh, distinct⟩ := List.nodup_cons.1 distinct
    obtain rfl | later := List.mem_cons.1 hh
    · simp
    · rw [List.find?_cons_of_neg, ih distinct later]
      intro same
      exact fresh (List.mem_map.2 ⟨h, later, (beq_iff_eq.1 same).symm⟩)

/-- After a release of system scope no store of the module is pending. -/
theorem State.drainAll_sb_nil {s : State} (distinct : (s.groups.map Group.gid).Nodup) {h : Group} (hh : h ∈ s.drainAll.groups)
    (x : Slice) : (h.stream x).sb = [] := by
  have gids := (KeepsQueues.drainAll s).gids
  have found : s.drainAll.grp? h.gid = some h := State.grp?_of_nodup (gids ▸ distinct) hh
  obtain ⟨g, hg⟩ : ∃ g : Group, s.grp? h.gid = some g := by
    have queues := (KeepsQueues.drainAll s).queues h.gid
    rw [found] at queues
    obtain ⟨g, hg, -⟩ := Option.map_eq_some_iff.1 queues.symm
    exact ⟨g, hg⟩
  rw [← State.pending_eq found, State.drainAll_pending hg]

/-- Which stores are seen depends on the numbers and stacks of groups alone. -/
theorem visCovers_raised (s : State) (gid : Nat) (sl : Slice) (v w : Viewer) (k : Nat) (h : Group) (vis : Option Nat) :
    visCovers (s.raised gid sl v k) (h.raised s gid sl v k) vis w = visCovers s h vis w := by
  have found (j : Nat) : (s.raised gid sl v k).grp? j = (s.grp? j).map (Group.raised s gid sl v k) :=
    State.grp?_mapped (f := Group.raised s gid sl v k) rfl (fun _ => rfl) j
  unfold visCovers
  split
  · rfl
  · rfl
  · rw [funext found]
    cases w.gid with
    | none => rfl
    | some j =>
      cases hj : s.grp? j with
      | none => simp [hj]
      | some g => simp [hj, Group.raised]
  · rfl

/-- A pending store after a release of `k`, of a slice, which the release performs: it is performed at that scope. -/
theorem mem_raiseVis {k : Nat} {pick : StoreEntry → Bool} {st : Stream} {e : StoreEntry} (mem : e ∈ (raiseVis k pick st).sb)
    (ordered : e.uo = false) : (∃ n : Nat, e.vis = some n ∧ k ≤ n) ∨ (e ∈ st.sb ∧ pick e = false) := by
  obtain ⟨d, old, rfl⟩ := List.mem_map.1 mem
  split at ordered
  · next left =>
    rw [if_pos left]
    refine .inr ⟨old, ?_⟩
    simpa [ordered] using left
  · next taken =>
    rw [if_neg taken]
    refine .inl ?_
    cases d.vis with
    | none => exact ⟨k, rfl, Nat.le_refl k⟩
    | some n => exact ⟨max n k, rfl, Nat.le_max_right n k⟩

/-- After a release of a slice at less than system scope, what it performs is performed at that scope. -/
theorem State.release_performs {s : State} {gid : Nat} {g : Group} (hg : s.grp? gid = some g) {sl : Slice} {k : Nat} (narrow : k < 3)
    {h : Group} (hh : h ∈ (s.release gid sl k).groups) {x : Slice} {e : StoreEntry} (he : e ∈ (h.stream x).sb) (ordered : e.uo = false)
    (follows : (h.gid = gid ∧ x = sl) ∨
      (visCovers (s.release gid sl k) h e.vis (g.viewer sl) = true ∧ (h.gid = gid ∨ ∀ o : Nat, e.loc ≠ .spad o))) :
    ∃ n : Nat, e.vis = some n ∧ k ≤ n := by
  rw [State.release_narrow hg sl narrow] at hh follows
  obtain ⟨h, -, rfl⟩ := List.mem_map.1 hh
  rw [Group.raised_stream] at he
  obtain done | ⟨-, left⟩ := mem_raiseVis he ordered
  · exact done
  · exfalso
    obtain ⟨number, rfl⟩ | ⟨seen, place⟩ := follows
    · simp [Machine.released, show h.gid = gid from number] at left
    · rw [visCovers_raised] at seen
      unfold Machine.released at left
      split at left
      · cases left
      · rw [seen, Bool.true_and] at left
        split at left
        · next o loc =>
          obtain own | outside := place
          · exact absurd left (by simp [show h.gid = gid from own])
          · exact outside o loc
        · cases left

/-- Nothing is performed where nothing is picked. -/
theorem State.drainWhere_none {s : State} {gid : Nat} {sl : Slice} {pick : StoreEntry → Bool}
    (none : ∀ g : Group, s.grp? gid = some g → ∀ e ∈ (g.stream sl).sb, pick e = false) : s.drainWhere gid sl pick = s := by
  unfold State.drainWhere
  split
  · next g hg =>
    rw [List.filter_eq_nil_iff.2 fun e he => by simp [none g hg e he]]
    rfl
  · rfl

/-- A release performs nothing at every scope where no two pending stores overlap. -/
theorem State.drainContended_none {s : State} (apart : ∀ h ∈ s.groups, ∀ (x : Slice), ∀ e ∈ (h.stream x).sb, s.contended h.gid x e = false)
    (gid : Nat) (sl : Slice) (v : Viewer) : s.drainContended gid sl v = s := by
  unfold State.drainContended
  refine foldl_keeps (fun t => t = s) _ _ (fun t h same => ?_) rfl
  refine foldl_keeps (fun t => t = s) _ _ (fun t x same => ?_) same
  subst same
  refine State.drainWhere_none fun g hg e he => ?_
  have left := apart g (State.grp?_mem hg) x e he
  rw [State.grp?_gid hg] at left
  rw [left, Bool.and_false]

/-- Raising the scope of pending stores changes nothing else of them. -/
theorem raiseVis_rest (k : Nat) (pick : StoreEntry → Bool) (st : Stream) :
    (raiseVis k pick st).sb.map (fun e => { e with vis := none }) = st.sb.map (fun e => { e with vis := none }) := by
  unfold raiseVis
  rw [List.map_map]
  refine List.map_congr_left fun e _ => ?_
  rw [Function.comp_apply]
  split <;> rfl

/-! ### `fence` -/

/-- No queue holds a pending entry. -/
theorem Group.not_pending_of {g : Group} (h : g.pendingFill = false) (q : Nat) {e : QEntry} (he : e ∈ (g.q q).ents) :
    ∀ nf z a seq p tags, e ≠ .pending nf z a seq p tags := by
  rintro nf z a seq p tags rfl
  have held : g.q q ∈ g.qs.toList := by
    unfold Group.q at he ⊢
    rw [List.getD_eq_getElem?_getD] at he ⊢
    cases hq : g.qs.toList[q]? with
    | none =>
      rw [hq] at he
      cases he
    | some x => exact List.mem_of_getElem? hq
  have some : g.pendingFill = true := List.any_eq_true.2 ⟨_, held, List.any_eq_true.2 ⟨_, he, rfl⟩⟩
  rw [h] at some
  cases some

theorem Group.pendings_nil {g : Group} (h : g.pendingFill = false) : g.pendings = [] := by
  unfold Group.pendings
  have none : (List.range 4).flatMap (fun q => (g.q q).ents.zipIdx.filterMap (fun x =>
      match x.1 with
      | .pending _ _ _ seq _ _ => some (seq, q, x.2)
      | _ => none)) = [] := by
    refine List.flatMap_eq_nil_iff.2 fun q _ => List.filterMap_eq_nil_iff.2 fun x hx => ?_
    have absent := Group.not_pending_of h q (List.fst_mem_of_mem_zipIdx hx)
    split
    · next e => exact absurd e (absent _ _ _ _ _ _)
    · rfl
  exact congrArg (List.foldr insertByFirst []) none

/-- Where no load of the queues is pending none is settled. -/
theorem State.settleLoads_none {s : State} {gid : Nat} {sl : Slice} {g : Group} (hg : s.grp? gid = some g)
    (none : sl = .a → g.pendingFill = false) : s.settleLoads gid sl = if sl = .a then s.unwait (gid, 8) else s := by
  cases sl with
  | a => simp only [State.settleLoads, State.fillAll, State.fillBefore, hg, Group.pendings_nil (none rfl), List.filter_nil,
      List.foldl_nil, if_true]
  | c => rfl

/-- A load of the A-slice's queues is pending. -/
def State.fillPending (u : State) (gid : Nat) (sl : Slice) : Bool :=
  sl == .a && (match u.grp? gid with | some g => g.pendingFill | none => false)

theorem State.fillPending_iff {u : State} {gid : Nat} {sl : Slice} :
    u.fillPending gid sl = true ↔ sl = .a ∧ ∃ h : Group, u.grp? gid = some h ∧ h.pendingFill = true := by
  unfold State.fillPending
  cases u.grp? gid <;> simp

/-- A `fence` waits: for a pending load of the queues, or for a peer's answer. -/
def State.fenceWaits (u : State) (gid : Nat) (sl : Slice) (c : BitVec 2) : Bool :=
  u.fillPending gid sl || (c.toNat == 3 && !u.peerQuiet gid sl.src)

theorem State.fenceWaits_iff {u : State} {gid : Nat} {sl : Slice} {c : BitVec 2} : u.fenceWaits gid sl c = true ↔
    (sl = .a ∧ ∃ h : Group, u.grp? gid = some h ∧ h.pendingFill = true) ∨ (c = 3 ∧ u.peerQuiet gid sl.src = false) := by
  have system : c.toNat = 3 ↔ c = 3 := BitVec.toNat_inj (y := 3)
  rw [State.fenceWaits, Bool.or_eq_true, State.fillPending_iff]
  simp [system]

/-- What a `fence` drops: the controller's lines of peers' memory. -/
def State.dropCtl (u : State) (g : Group) : State := u.dropLines (fun k => k == g.ctl) (fun _ _ => true)

section
variable {s : State} {gid : Nat} {sl : Slice} {g : Group} (hi : Issuing s gid sl g) (c : BitVec 2)
include hi

/-- A `fence`, by the state after the loads of the queues and its release. -/
theorem exec_fence_eq : exec (.fence c) s =
    (let u := (s.settleLoads gid sl).release gid sl c.toNat
     if u.fenceWaits gid sl c then .next (u.stallOn gid sl .peer)
     else .next (State.advance (if c = 3 then u.dropCtl g else u) gid sl)) := by
  have system : (c.toNat == 3) = decide (c = 3) := by
    rw [Bool.eq_iff_iff]
    simp [← BitVec.toNat_inj]
  change execFence c s = _
  simp only [execFence, issue_eq hi, State.fenceWaits, State.fillPending, State.done, system, decide_eq_true_eq]
  rfl

theorem exec_fence_completes {u : State} (hu : (s.settleLoads gid sl).release gid sl c.toNat = u)
    (quiet : u.fenceWaits gid sl c = false) :
    exec (.fence c) s = .next (State.advance (if c = 3 then u.dropCtl g else u) gid sl) := by
  simp only [exec_fence_eq hi, hu, quiet, Bool.false_eq_true, if_false]

theorem exec_fence_stalls {u : State} (hu : (s.settleLoads gid sl).release gid sl c.toNat = u)
    (waits : u.fenceWaits gid sl c = true) : exec (.fence c) s = .next (u.stallOn gid sl .peer) := by
  simp only [exec_fence_eq hi, hu, waits, if_true]

/-- A `fence` with no load of the queues pending, and at system scope no request to a peer, waits for nothing. -/
theorem fenceWaits_of_quiet (none : sl = .a → g.pendingFill = false) (quiet : c = 3 → s.peerQuiet gid sl.src = true)
    {t : State} (kept : KeepsQueues s t) : t.fenceWaits gid sl c = false := by
  rw [Bool.eq_false_iff, Ne, State.fenceWaits_iff]
  rintro (⟨slice, h, hh, pending⟩ | ⟨system, noisy⟩)
  · have queues := kept.queues gid
    rw [hh, hi.grp] at queues
    have same : h.qs = g.qs := Option.some.inj queues
    have absent := none slice
    unfold Group.pendingFill at pending absent
    rw [same, absent] at pending
    cases pending
  · rw [State.peerQuiet, kept.outReqs] at noisy
    exact absurd (quiet system) (by rw [State.peerQuiet, noisy]; decide)

end

/-- Settles O33. -/
theorem fenceResults : Obligations.FenceResults := by
  refine ⟨?_, ?_, ?_⟩
  · intro s gid sl g c hi u pending noisy dropped
    refine ⟨fun still quiet => ?_, fun waits => ?_, fun none => ?_, ?_⟩
    · refine exec_fence_completes hi c rfl (Bool.eq_false_iff.2 fun waits => ?_)
      exact (State.fenceWaits_iff.1 waits).elim still quiet
    · exact exec_fence_stalls hi c rfl (State.fenceWaits_iff.2 waits)
    · intro s0
      have settled : s.settleLoads gid sl = s0 := State.settleLoads_none hi.grp none
      have start : KeepsQueues s s0 := by
        change KeepsQueues s (if sl = .a then s.unwait (gid, 8) else s)
        split
        · exact .of_groups rfl rfl
        · exact .refl s
      have found : ∃ h : Group, s0.grp? gid = some h := by
        have queues := start.queues gid
        rw [hi.grp] at queues
        obtain ⟨h, hh, -⟩ := Option.map_eq_some_iff.1 queues
        exact ⟨h, hh⟩
      have kept (k : Nat) : KeepsQueues s (s0.release gid sl k) := start.trans (.release ..)
      refine ⟨fun narrow => ?_, fun system quiet => ?_⟩
      · rw [exec_fence_completes hi c (by rw [settled]) (fenceWaits_of_quiet hi c none (absurd · narrow) (kept _)), if_neg narrow]
      · subst system
        obtain ⟨h, hh⟩ := found
        rw [exec_fence_completes hi 3 (by rw [settled]; exact State.release_system hh sl)
          (fenceWaits_of_quiet hi 3 none (fun _ => quiet) (start.trans (.drainAll s0))), if_pos rfl]
        rfl
    · change u.peerLines.filter (fun l => !(l.ctl == g.ctl && true)) = _
      simp only [Bool.and_true, bne]
  · intro s gid sl g distinct hg h hh
    rw [State.release_system hg] at hh
    exact ⟨State.drainAll_sb_nil distinct hh .a, State.drainAll_sb_nil distinct hh .c⟩
  · intro s gid sl g k hg narrow u
    refine ⟨fun h hh x e he ordered follows => State.release_performs hg narrow hh he ordered follows, fun apart => ?_⟩
    have raised : u = s.raised gid sl (g.viewer sl) k := by
      change s.release gid sl k = _
      rw [State.release_narrow hg sl narrow, State.drainContended_none apart]
    rw [raised]
    refine ⟨rfl, rfl, fun j h hj => ⟨h.raised s gid sl (g.viewer sl) k, ?_, fun x => ?_⟩⟩
    · rw [State.grp?_mapped (f := Group.raised s gid sl (g.viewer sl) k) rfl (fun _ => rfl), hj]
      rfl
    · rw [Group.raised_stream]
      exact raiseVis_rest ..

end Sys2Proof.Machine

/-! ## O32: the FP32 sum of `amo.fadd` (R76, R79, R241) -/

namespace Sys2Proof.Machine

open Sys2Proof

/-! ### The values of FP32 words -/

/-- A word's magnitude in units of 2^-149, where it is finite. -/
def floatSize (a : BitVec 32) : Nat :=
  if a.toNat % 2 ^ 31 < 2 ^ 23 then a.toNat % 2 ^ 31 else (2 ^ 23 + a.toNat % 2 ^ 31 % 2 ^ 23) * 2 ^ (a.toNat % 2 ^ 31 / 2 ^ 23 - 1)

theorem floatUnits_eq (a : BitVec 32) : floatUnits a = if a.getLsbD 31 then -(floatSize a : Int) else floatSize a := rfl

theorem f32_sign (a : BitVec 32) : (a.toNat / 2 ^ (8 + 23) % 2 == 1) = a.getLsbD 31 := by
  rw [BitVec.getLsbD, Nat.testBit_eq_decide_div_mod_eq]
  rfl

/-- The value of a word, by its fields. -/
theorem f32Val_eq (a : BitVec 32) : f32Val a =
    if a.toNat / 2 ^ 23 % 2 ^ 8 = 255 then (if a.toNat % 2 ^ 23 = 0 then .inf (a.getLsbD 31) else .nan)
    else if a.toNat / 2 ^ 23 % 2 ^ 8 = 0 then .fin (a.getLsbD 31) (a.toNat % 2 ^ 23) ((0 : Nat) - 149)
    else .fin (a.getLsbD 31) (2 ^ 23 + a.toNat % 2 ^ 23) ((a.toNat / 2 ^ 23 % 2 ^ 8 - 1 : Nat) - 149) := by
  have exponent (e : Nat) (h : e ≠ 0) : (e : Int) - 127 - (23 : Nat) = (e - 1 : Nat) - 149 := by omega
  rw [← f32_sign]
  unfold f32Val decodeElem fmtFP32
  simp only [beq_self_eq_true, Bool.true_and, show (Spec.ieee == Spec.nanOnly) = false from rfl, Bool.false_and, Bool.false_eq_true,
    if_false, beq_iff_eq, Bool.or_eq_true, Nat.reduceEqDiff, or_false, false_or, Nat.reducePow, Nat.reduceSub, Nat.reduceAdd]
  split
  · rfl
  · split
    · rfl
    · next normal => rw [exponent _ normal]

theorem f32Val_nan {a : BitVec 32} (h : 255 * 2 ^ 23 < a.toNat % 2 ^ 31) : f32Val a = .nan := by
  rw [f32Val_eq, if_pos (by omega), if_neg (by omega)]

theorem f32Val_inf {a : BitVec 32} (h : a.toNat % 2 ^ 31 = 255 * 2 ^ 23) : f32Val a = .inf (a.getLsbD 31) := by
  rw [f32Val_eq, if_pos (by omega), if_pos (by omega)]

/-- A finite word is its magnitude at an exponent not below the least. -/
theorem f32Val_finite {a : BitVec 32} (h : a.toNat % 2 ^ 31 < 255 * 2 ^ 23) :
    ∃ m j : Nat, f32Val a = .fin (a.getLsbD 31) m (j - 149) ∧ m * 2 ^ j = floatSize a := by
  rw [f32Val_eq, if_neg (by omega)]
  split
  · refine ⟨_, 0, rfl, ?_⟩
    rw [floatSize, if_pos (by omega)]
    omega
  · refine ⟨_, _, rfl, ?_⟩
    rw [floatSize, if_neg (by omega), show a.toNat % 2 ^ 31 % 2 ^ 23 = a.toNat % 2 ^ 23 by omega,
      show a.toNat % 2 ^ 31 / 2 ^ 23 = a.toNat / 2 ^ 23 % 2 ^ 8 by omega]

/-- A magnitude at an exponent, in units of a lower one. -/
theorem signedAt_units (neg : Bool) (m j i : Nat) (h : i ≤ j) :
    signedAt neg m (j - 149) (i - 149) * 2 ^ i = if neg then -((m * 2 ^ j : Nat) : Int) else (m * 2 ^ j : Nat) := by
  have e : ((j : Int) - 149 - (i - 149)).toNat = j - i := by omega
  have p : 2 ^ j = 2 ^ (j - i) * 2 ^ i := by rw [← Nat.pow_add, Nat.sub_add_cancel h]
  unfold signedAt
  rw [e, p]
  cases neg <;> simp <;> ring

/-! ### The exact sum -/

/-- The sum of two finite values, in units of 2^-149. -/
def unitSum (p q : Bool) (m n : Nat) : Int := (if p then -(m : Int) else m) + (if q then -(n : Int) else n)

/-- The sign of a zero sum. -/
theorem zeroSign_finite {p q : Bool} {m n j i : Nat} {e f : Int} (zero : unitSum p q (m * 2 ^ j) (n * 2 ^ i) = 0) :
    zeroSign false [.fin p m e, .fin q n f] = (p && q) := by
  by_cases same : p = q
  · subst same
    have none : m * 2 ^ j = 0 ∧ n * 2 ^ i = 0 := by
      unfold unitSum at zero
      split at zero <;> omega
    have zeros : m = 0 ∧ n = 0 := by simpa using none
    obtain ⟨rfl, rfl⟩ := zeros
    simp [zeroSign, XVal.isZero, XVal.neg?]
  · cases p <;> cases q <;> simp_all [zeroSign, XVal.neg?]

theorem sumX_finite (p q : Bool) (m n j i : Nat) : ∃ v : XVal, sumX false [.fin p m (j - 149), .fin q n (i - 149)] = (v, 0) ∧
    (if unitSum p q (m * 2 ^ j) (n * 2 ^ i) = 0 then v = .fin (p && q) 0 0
     else ∃ M b : Nat, v = .fin (unitSum p q (m * 2 ^ j) (n * 2 ^ i) < 0) M (b - 149) ∧
       M * 2 ^ b = (unitSum p q (m * 2 ^ j) (n * 2 ^ i)).natAbs) := by
  have base : min ((j : Int) - 149) (i - 149) = (min j i : Nat) - 149 := by omega
  have units : sumAt ((min j i : Nat) - 149) [.fin p m (j - 149), .fin q n (i - 149)] * 2 ^ min j i =
      unitSum p q (m * 2 ^ j) (n * 2 ^ i) := by
    have left := signedAt_units p m j (min j i) (Nat.min_le_left ..)
    have right := signedAt_units q n i (min j i) (Nat.min_le_right ..)
    simp only [sumAt, unitSum, Int.add_zero]
    rw [Int.add_mul, left, right]
  have exact_ : sumX false [.fin p m (j - 149), .fin q n (i - 149)] =
      (let S := sumAt ((min j i : Nat) - 149) [.fin p m (j - 149), .fin q n (i - 149)]
       if S = 0 then (.fin (zeroSign false [.fin p m (j - 149), .fin q n (i - 149)]) 0 0, 0)
       else (.fin (S < 0) S.natAbs ((min j i : Nat) - 149), 0)) := by
    simp [sumX, minExp, base, XVal.isNan]
  rw [exact_]
  generalize sumAt ((min j i : Nat) - 149) [.fin p m (j - 149), .fin q n (i - 149)] = S at units
  have positive : (0 : Int) < 2 ^ min j i := by positivity
  dsimp only
  split
  · next zero =>
    refine ⟨_, rfl, ?_⟩
    rw [zero, Int.zero_mul] at units
    rw [if_pos units.symm, zeroSign_finite units.symm]
  · next nonzero =>
    refine ⟨_, rfl, ?_⟩
    have sign : (S < 0) = (unitSum p q (m * 2 ^ j) (n * 2 ^ i) < 0) := by
      rw [← units, eq_iff_iff]
      exact ⟨fun h => Int.mul_neg_of_neg_of_pos h positive, fun h => by by_contra c; nlinarith⟩
    rw [if_neg (by rw [← units]; positivity)]
    refine ⟨S.natAbs, min j i, by simp only [sign], ?_⟩
    rw [← units, Int.natAbs_mul, Int.natAbs_pow]
    rfl

/-! ### Rounding -/

/-- A magnitude of `n` units of 2^-149 in units of 2^(k-149), to the nearest, ties to even. -/
def nearestAt (n k : Nat) : Nat :=
  if 2 ^ k < 2 * (n % 2 ^ k) ∨ (2 * (n % 2 ^ k) = 2 ^ k ∧ n / 2 ^ k % 2 = 1) then n / 2 ^ k + 1 else n / 2 ^ k

/-- Rounding depends on the value alone, not on its exponent. -/
theorem roundAt_units (neg : Bool) (M b k : Nat) :
    roundAt 0 neg M (b - 149) (k - 149) = (nearestAt (M * 2 ^ b) k, decide (M * 2 ^ b % 2 ^ k ≠ 0)) := by
  unfold roundAt nearestAt
  by_cases fine : k ≤ b
  · have e : ((b : Int) - 149 - (k - 149)).toNat = b - k := by omega
    have p : M * 2 ^ b = M * 2 ^ (b - k) * 2 ^ k := by rw [Nat.mul_assoc, ← Nat.pow_add, Nat.sub_add_cancel fine]
    rw [if_pos (by omega), e, p]
    simp [(Nat.two_pow_pos k).ne]
  · have e : ((k : Int) - 149 - (b - 149)).toNat = k - b := by omega
    have p : 2 ^ k = 2 ^ (k - b) * 2 ^ b := by rw [← Nat.pow_add, Nat.sub_add_cancel (by omega)]
    have positive : 0 < 2 ^ b := by positivity
    have unit : 0 < 2 ^ (k - b) := by positivity
    rw [if_neg (by omega), e, p, Nat.mul_div_mul_right _ _ positive, Nat.mul_mod_mul_right]
    dsimp only
    generalize 2 ^ (k - b) = u at unit
    generalize 2 ^ b = w at positive
    generalize M % u = r
    generalize M / u = q
    have above : u * w < 2 * (r * w) ↔ u < 2 * r := by
      rw [← Nat.mul_assoc]
      exact Nat.mul_lt_mul_right positive
    have tie : 2 * (r * w) = u * w ↔ 2 * r = u := by
      rw [← Nat.mul_assoc]
      exact Nat.mul_left_inj positive.ne'
    have exact_ : r * w = 0 ↔ r = 0 := by simp [positive.ne']
    simp only [above, tie, exact_, Ne]
    by_cases zero : r = 0
    · simp [zero, unit.ne]
    · simp [zero]

/-- The unit that `nearestFloat` and the conversion to FP32 round to. -/
def floatShift (n : Nat) : Nat := n.log2 + 1 - 24

theorem nearestAt_zero (n : Nat) : nearestAt n 0 = n := by
  simp [nearestAt, Nat.mod_one]

/-- What is rounded has 24 bits, or is a whole number of least units. -/
theorem nearestAt_bounds {n : Nat} (pos : n ≠ 0) : nearestAt n (floatShift n) ≤ 2 ^ 24 ∧
    (floatShift n ≠ 0 → 2 ^ 23 ≤ nearestAt n (floatShift n)) ∧ nearestAt n (floatShift n) ≠ 0 := by
  have low : 2 ^ n.log2 ≤ n := Nat.log2_self_le pos
  have high : n < 2 ^ (n.log2 + 1) := Nat.lt_log2_self
  by_cases fine : floatShift n = 0
  · rw [fine, nearestAt_zero]
    refine ⟨?_, fun h => absurd rfl h, pos⟩
    have : n < 2 ^ 24 := Nat.lt_of_lt_of_le high (Nat.pow_le_pow_right (by decide) (by unfold floatShift at fine; omega))
    omega
  · have unit : n.log2 + 1 = floatShift n + 24 := by unfold floatShift at fine ⊢; omega
    have unit' : n.log2 = floatShift n + 23 := by omega
    rw [unit, Nat.pow_add, Nat.mul_comm] at high
    rw [unit', Nat.pow_add, Nat.mul_comm] at low
    have upper : n / 2 ^ floatShift n < 2 ^ 24 := (Nat.div_lt_iff_lt_mul (by positivity)).2 high
    have lower : 2 ^ 23 ≤ n / 2 ^ floatShift n := (Nat.le_div_iff_mul_le (by positivity)).2 low
    unfold nearestAt
    generalize n / 2 ^ floatShift n = q at upper lower
    split <;> omega

/-- The encoding of a rounded magnitude. -/
theorem fltEncode_units (neg : Bool) {Q k : Nat} (upper : Q ≤ 2 ^ 24) (lower : k ≠ 0 → 2 ^ 23 ≤ Q) (pos : Q ≠ 0) :
    fltEncode 8 23 127 neg Q (k - 149) = k * 2 ^ 23 + Q + if neg then 2 ^ 31 else 0 := by
  have bit : (if neg = true then 2 ^ (8 + 23) else 0) = if neg = true then 2 ^ 31 else 0 := rfl
  unfold fltEncode fltBits
  rw [if_neg (by simpa using pos), bit]
  generalize (if neg = true then 2 ^ 31 else 0) = sign
  by_cases subnormal : Q < 2 ^ 23
  · have none : k = 0 := by by_contra h; exact absurd (lower h) (by omega)
    have short : Q.log2 < 23 := (Nat.log2_lt pos).2 subnormal
    subst none
    rw [if_pos (by simp; omega)]
    simp [roundAt]
    omega
  · have low : 23 ≤ Q.log2 := (Nat.le_log2 pos).2 (by omega)
    rw [if_neg (by simp; omega)]
    have exponent : ((k : Int) - 149 + Q.log2 + 127).toNat = k + Q.log2 - 22 := by omega
    rw [exponent]
    by_cases top : Q = 2 ^ 24
    · subst top
      have l : Nat.log2 (2 ^ 24) = 24 := Nat.log2_two_pow
      rw [l]
      simp
      omega
    · have l : Q.log2 = 23 := by
        have : Q.log2 < 24 := (Nat.log2_lt pos).2 (by omega)
        omega
      rw [l]
      simp
      omega

/-- A rounded magnitude exceeds the greatest finite one just where its encoding would be past the finite ones. -/
theorem overflow_iff {Q k : Nat} (upper : Q ≤ 2 ^ 24) (lower : k ≠ 0 → 2 ^ 23 ≤ Q) :
    cmpFin false Q (k - 149) false (2 ^ 24 - 1) 104 > 0 ↔ 255 * 2 ^ 23 ≤ k * 2 ^ 23 + Q := by
  have base : min ((k : Int) - 149) 104 = (min k 253 : Nat) - 149 := by omega
  have left := signedAt_units false Q k (min k 253) (Nat.min_le_left ..)
  have right := signedAt_units false (2 ^ 24 - 1) 253 (min k 253) (Nat.min_le_right ..)
  have positive : (0 : Int) < 2 ^ min k 253 := by positivity
  have units : cmpFin false Q (k - 149) false (2 ^ 24 - 1) 104 > 0 ↔ (2 ^ 24 - 1) * 2 ^ 253 < Q * 2 ^ k := by
    unfold cmpFin
    rw [base]
    simp only [gt_iff_lt, Int.sign_pos_iff, Int.sub_pos]
    rw [← Int.mul_lt_mul_right positive, left, show (104 : Int) = (253 : Nat) - 149 from rfl, right]
    exact Int.ofNat_lt
  rw [units]
  obtain small | rfl | large := Nat.lt_trichotomy k 253
  · have bound : Q * 2 ^ k ≤ 2 ^ 24 * 2 ^ 252 := Nat.mul_le_mul upper (Nat.pow_le_pow_right (by decide) (by omega))
    omega
  · rw [Nat.mul_lt_mul_right (by positivity)]
    omega
  · have bound : 2 ^ 23 * 2 ^ 254 ≤ Q * 2 ^ k := Nat.mul_le_mul (lower (by omega)) (Nat.pow_le_pow_right (by decide) (by omega))
    omega

/-- The conversion of a magnitude in units of 2^-149 to FP32. -/
theorem cvtFlt_units (neg : Bool) {M b : Nat} (pos : M ≠ 0) :
    toF32 (.fin neg M (b - 149)) =
      (let n := M * 2 ^ b
       let bits := floatShift n * 2 ^ 23 + nearestAt n (floatShift n)
       let word (m : Nat) : BitVec 32 := BitVec.ofNat 32 (m + if neg then 2 ^ 31 else 0)
       if 255 * 2 ^ 23 ≤ bits then (word (255 * 2 ^ 23), flagOF ||| flagNX)
       else (word bits, if n % 2 ^ floatShift n = 0 then 0 else flagNX)) := by
  have nonzero : M * 2 ^ b ≠ 0 := Nat.mul_ne_zero pos (by positivity)
  obtain ⟨upper, lower, some⟩ := nearestAt_bounds nonzero
  have size : (M * 2 ^ b).log2 = M.log2 + b := by
    rw [Nat.log2_eq_iff nonzero, Nat.add_right_comm, Nat.pow_add, Nat.pow_add]
    exact ⟨Nat.mul_le_mul_right _ (Nat.log2_self_le pos), Nat.mul_lt_mul_of_pos_right Nat.lt_log2_self (by positivity)⟩
  have grid : max ((b : Int) - 149 + M.log2 - (23 : Nat)) (1 - 127 - (23 : Nat)) = floatShift (M * 2 ^ b) - 149 := by
    unfold floatShift
    omega
  have exact_ : (decide (M * 2 ^ b % 2 ^ floatShift (M * 2 ^ b) ≠ 0) && decide ((b : Int) - 149 + M.log2 < 1 - 127)) = false := by
    by_cases tiny : (b : Int) - 149 + M.log2 < 1 - 127
    · have unit : floatShift (M * 2 ^ b) = 0 := by unfold floatShift; omega
      simp [unit, Nat.mod_one]
    · rw [decide_eq_false tiny, Bool.and_false]
  have greatest : fltMax 8 23 127 .ieee = (2 ^ 24 - 1, 104) := rfl
  have beyond : fltOverflow 8 23 .ieee neg 0 false = 255 * 2 ^ 23 + if neg then 2 ^ 31 else 0 := by cases neg <;> rfl
  have inexact (x : Nat) : flagIf (decide (x ≠ 0)) flagNX = if x = 0 then 0 else flagNX := by
    by_cases zero : x = 0 <;> simp [flagIf, zero]
  have always (x : Nat) : (if x = 0 then 0 else flagNX) ||| flagIf false flagUF ||| flagOF ||| flagNX = flagOF ||| flagNX := by
    split <;> rfl
  simp only [toF32, roundCvt, fmtFP32, cvtFlt, beq_iff_eq, pos, if_false]
  rw [grid, roundAt_units, exact_, greatest]
  simp only [overflow_iff upper lower, fltEncode_units neg upper lower some, beyond, inexact, always]
  split
  · rfl
  · simp [flagIf]

/-! ### The sum of two words -/

/-- The nearest word to an exact sum that is not zero. -/
theorem nearestFloat_eq {x : Int} (h : x ≠ 0) {neg : Bool} {M b : Nat} (size : M * 2 ^ b = x.natAbs) :
    toF32 (.fin (x < 0) M (b - 149)) = nearestFloat x neg := by
  have pos : M ≠ 0 := by
    rintro rfl
    omega
  rw [cvtFlt_units _ pos, size]
  unfold nearestFloat
  rw [if_neg h]
  rfl

theorem nearestFloat_zero (neg : Bool) : toF32 (.fin neg 0 0) = nearestFloat 0 neg := by
  cases neg <;> decide

/-- A sum that raises no flag is rounded. -/
theorem addF32_of_sumX {m b : BitVec 32} {v : XVal} (h : sumX false [f32Val m, f32Val b] = (v, 0)) : addF32 m b = toF32 v := by
  unfold addF32
  rw [h]
  exact Prod.ext rfl (BitVec.zero_or ..)

theorem addF32_finite {m b : BitVec 32} (hm : m.toNat % 2 ^ 31 < 255 * 2 ^ 23) (hb : b.toNat % 2 ^ 31 < 255 * 2 ^ 23) :
    addF32 m b = nearestFloat (floatUnits m + floatUnits b) (m.getLsbD 31 && b.getLsbD 31) := by
  obtain ⟨M, j, left, sizeM⟩ := f32Val_finite hm
  obtain ⟨B, i, right, sizeB⟩ := f32Val_finite hb
  obtain ⟨v, sum, value⟩ := sumX_finite (m.getLsbD 31) (b.getLsbD 31) M B j i
  have units : unitSum (m.getLsbD 31) (b.getLsbD 31) (M * 2 ^ j) (B * 2 ^ i) = floatUnits m + floatUnits b := by
    rw [sizeM, sizeB, floatUnits_eq, floatUnits_eq]
    rfl
  rw [units] at value
  rw [← left, ← right] at sum
  rw [addF32_of_sumX sum]
  split at value
  · next zero => rw [value, zero, nearestFloat_zero]
  · next nonzero =>
    obtain ⟨N, e, rfl, size⟩ := value
    exact nearestFloat_eq nonzero size

/-- A sum with a NaN. -/
theorem addF32_nan {m b : BitVec 32} (h : 255 * 2 ^ 23 < m.toNat % 2 ^ 31 ∨ 255 * 2 ^ 23 < b.toNat % 2 ^ 31) :
    addF32 m b = (0x7FC00000, 0) := by
  have result : sumX false [f32Val m, f32Val b] = (.nan, 0) := by
    obtain h | h := h
    · rw [f32Val_nan h]
      cases f32Val b <;> simp [sumX, XVal.isNan]
    · rw [f32Val_nan h]
      cases f32Val m <;> simp [sumX, XVal.isNan]
  rw [addF32_of_sumX result]
  rfl

/-- The word of an infinity. -/
theorem toF32_inf {m : BitVec 32} (h : m.toNat % 2 ^ 31 = 255 * 2 ^ 23) : toF32 (.inf (m.getLsbD 31)) = (m, 0) := by
  have sign : m.toNat = 255 * 2 ^ 23 + if m.getLsbD 31 then 2 ^ 31 else 0 := by
    rw [BitVec.getLsbD, Nat.testBit_eq_decide_div_mod_eq]
    have := m.isLt
    split
    · next one => have := of_decide_eq_true one; omega
    · next zero => have := of_decide_eq_false (Bool.eq_false_iff.2 zero); omega
  have word : BitVec.ofNat 32 (255 * 2 ^ 23 + if m.getLsbD 31 then 2 ^ 31 else 0) = m := by rw [← sign, BitVec.ofNat_toNat, BitVec.setWidth_eq]
  refine Prod.ext (Eq.trans ?_ word) rfl
  cases m.getLsbD 31 <;> rfl

/-- Opposite infinities have no sum. -/
theorem addF32_opposite {m b : BitVec 32} (hm : m.toNat % 2 ^ 31 = 255 * 2 ^ 23) (hb : b.toNat % 2 ^ 31 = 255 * 2 ^ 23) (other : m ≠ b) :
    addF32 m b = (0x7FC00000, flagNV) := by
  have signs : m.getLsbD 31 ≠ b.getLsbD 31 := by
    intro same
    have left := toF32_inf hm
    rw [same, toF32_inf hb] at left
    exact other (congrArg Prod.fst left).symm
  unfold addF32
  rw [f32Val_inf hm, f32Val_inf hb]
  revert signs
  cases m.getLsbD 31 <;> cases b.getLsbD 31 <;> decide

/-- An infinity, or the same one twice, is the sum. -/
theorem addF32_inf_left {m b : BitVec 32} (hm : m.toNat % 2 ^ 31 = 255 * 2 ^ 23) (hb : b.toNat % 2 ^ 31 < 255 * 2 ^ 23 ∨ m = b) :
    addF32 m b = (m, 0) := by
  have result : sumX false [f32Val m, f32Val b] = (.inf (m.getLsbD 31), 0) := by
    obtain hb | rfl := hb
    · obtain ⟨B, i, right, -⟩ := f32Val_finite hb
      rw [f32Val_inf hm, right]
      cases m.getLsbD 31 <;> simp [sumX, XVal.isNan]
    · rw [f32Val_inf hm]
      cases m.getLsbD 31 <;> simp [sumX, XVal.isNan]
  rw [addF32_of_sumX result, toF32_inf hm]

theorem addF32_inf_right {m b : BitVec 32} (hm : m.toNat % 2 ^ 31 < 255 * 2 ^ 23) (hb : b.toNat % 2 ^ 31 = 255 * 2 ^ 23) :
    addF32 m b = (b, 0) := by
  obtain ⟨M, j, left, -⟩ := f32Val_finite hm
  have result : sumX false [f32Val m, f32Val b] = (.inf (b.getLsbD 31), 0) := by
    rw [f32Val_inf hb, left]
    cases b.getLsbD 31 <;> simp [sumX, XVal.isNan]
  rw [addF32_of_sumX result, toF32_inf hb]

end Sys2Proof.Machine

/-! ## O32: the atomics of a slice (R241, R250, R415) -/

namespace Sys2Proof.Machine

open Sys2Proof

/-! ### The new value -/

/-- The low bytes of a value, for the two sizes of an AMO. -/
theorem lowBytes_toNat {n : Nat} (size : n = 4 ∨ n = 8) (v : Word) : (lowBytes n v).toNat = v.toNat % 2 ^ (8 * n) := by
  obtain rfl | rfl := size
  · simp [lowBytes]
    omega
  · simp [lowBytes]
    omega

theorem signAt_toInt {n : Nat} (size : n = 4 ∨ n = 8) (x : Word) :
    (signAt n x).toInt = if n = 4 then (x.setWidth 32).toInt else x.toInt := by
  obtain rfl | rfl := size
  · exact BitVec.toInt_signExtend_of_le (by decide)
  · rfl

/-- An AMO without flags makes the low bytes of its result, by their value. -/
theorem amoValue_low {op n : Nat} {m b c : Word} (size : n = 4 ∨ n = 8) {v : Word} (h : amoValue op n m b c = (lowBytes n v, 0)) {x : Nat}
    (value : v.toNat % 2 ^ (8 * n) = x) : (amoValue op n m b c).1 = BitVec.ofNat 64 x ∧ (amoValue op n m b c).2 = 0 := by
  refine ⟨?_, by rw [h]⟩
  rw [h, ← value, ← lowBytes_toNat size, BitVec.ofNat_toNat, BitVec.setWidth_eq]

/-- The operations of R241 on integers. -/
theorem amoValue_ops (n : Nat) (m b c : Word) :
    amoValue 0 n m b c = (lowBytes n (m + b), 0) ∧ amoValue 1 n m b c = (lowBytes n (m &&& b), 0) ∧
    amoValue 2 n m b c = (lowBytes n (m ||| b), 0) ∧ amoValue 3 n m b c = (lowBytes n (m ^^^ b), 0) ∧
    amoValue 4 n m b c = (lowBytes n (if (signAt n m).sle (signAt n b) then m else b), 0) ∧
    amoValue 5 n m b c = (lowBytes n (if (signAt n b).sle (signAt n m) then m else b), 0) ∧
    amoValue 6 n m b c = (lowBytes n (if m.ule b then m else b), 0) ∧ amoValue 7 n m b c = (lowBytes n (if b.ule m then m else b), 0) ∧
    amoValue 8 n m b c = (lowBytes n b, 0) ∧ amoValue 9 n m b c = (lowBytes n (if m == c then b else m), 0) :=
  ⟨rfl, rfl, rfl, rfl, rfl, rfl, rfl, rfl, rfl, rfl⟩

/-- Their results as numbers. -/
theorem amoValue_ints {n : Nat} {m b c : Word} (size : n = 4 ∨ n = 8) (hm : m.toNat < 2 ^ (8 * n)) (hb : b.toNat < 2 ^ (8 * n)) :
    let signed (x : Word) : Int := if n = 4 then (x.setWidth 32).toInt else x.toInt
    let is (op : Nat) (x : Nat) : Prop := (amoValue op n m b c).1 = BitVec.ofNat 64 x ∧ (amoValue op n m b c).2 = 0
    is 0 ((m.toNat + b.toNat) % 2 ^ (8 * n)) ∧ is 1 (m &&& b).toNat ∧ is 2 (m ||| b).toNat ∧ is 3 (m ^^^ b).toNat ∧
    is 4 (if signed m ≤ signed b then m.toNat else b.toNat) ∧ is 5 (if signed b ≤ signed m then m.toNat else b.toNat) ∧
    is 6 (min m.toNat b.toNat) ∧ is 7 (max m.toNat b.toNat) ∧ is 8 b.toNat ∧ is 9 (if m = c then b.toNat else m.toNat) := by
  intro signed is
  have choose {p q : Prop} [Decidable p] [Decidable q] (same : p ↔ q) {y z : Word} (hy : y.toNat < 2 ^ (8 * n)) (hz : z.toNat < 2 ^ (8 * n)) :
      (if p then y else z).toNat % 2 ^ (8 * n) = if q then y.toNat else z.toNat := by
    by_cases h : q
    · rw [if_pos h, if_pos (same.2 h), Nat.mod_eq_of_lt hy]
    · rw [if_neg h, if_neg (mt same.1 h), Nat.mod_eq_of_lt hz]
  have sle (x y : Word) : (signAt n x).sle (signAt n y) = true ↔ signed x ≤ signed y := by
    rw [BitVec.sle_iff_toInt_le, signAt_toInt size, signAt_toInt size]
  have ule (x y : Word) : x.ule y = true ↔ x.toNat ≤ y.toNat := by rw [BitVec.ule_iff_le, BitVec.le_def]
  have wide : 2 ^ (8 * n) ∣ 2 ^ 64 := Nat.pow_dvd_pow 2 (by omega)
  obtain ⟨add, and, or, xor, min, max, minn, maxn, swp, cas⟩ := amoValue_ops n m b c
  refine ⟨amoValue_low size add ?_, amoValue_low size and ?_, amoValue_low size or ?_, amoValue_low size xor ?_,
    amoValue_low size min (choose (sle m b) hm hb), amoValue_low size max (choose (sle b m) hm hb),
    amoValue_low size minn ((choose (ule m b) hm hb).trans (Nat.min_def ..).symm), amoValue_low size maxn ?_,
    amoValue_low size swp (Nat.mod_eq_of_lt hb), amoValue_low size cas (choose beq_iff_eq hb hm)⟩
  · rw [BitVec.toNat_add, Nat.mod_mod_of_dvd _ wide]
  · rw [BitVec.toNat_and]
    exact Nat.mod_eq_of_lt (Nat.and_lt_two_pow _ hb)
  · rw [BitVec.toNat_or]
    exact Nat.mod_eq_of_lt (Nat.or_lt_two_pow hm hb)
  · rw [BitVec.toNat_xor]
    exact Nat.mod_eq_of_lt (Nat.xor_lt_two_pow hm hb)
  · rw [choose (ule b m) hm hb, Nat.max_comm]
    exact (Nat.max_def ..).symm

theorem amoValue_fadd (m b : BitVec 32) (c : Word) :
    amoValue 10 4 (m.setWidth 64) (b.setWidth 64) c = ((addF32 m b).1.setWidth 64, (addF32 m b).2) := by
  have word (x : BitVec 32) : (x.setWidth 64).setWidth 32 = x := by
    rw [BitVec.setWidth_setWidth_of_le _ (by decide), BitVec.setWidth_eq]
  unfold amoValue
  simp [word]

/-! ### The access at the home -/

section
variable (s : State) (v : Viewer) (l : MemLoc) (op n : Nat) (b c : Word) (pz : Bool)

theorem State.amoAt_clean (clean : ((s.drainOverlap v true l n).viewRead v l n).2 = false) :
    let old := leWord ((s.drainOverlap v true l n).viewRead v l n).1
    s.amoAt v l op n b c pz = ((s.drainOverlap v true l n).performWrite l (leBytes n (amoValue op n old b c).1.toNat) pz true,
      { old := old, poison := false, flags := (amoValue op n old b c).2 }) := by
  simp only [State.amoAt, clean, Bool.false_eq_true, if_false]

theorem State.amoAt_poisoned (poisoned : ((s.drainOverlap v true l n).viewRead v l n).2 = true) :
    s.amoAt v l op n b c pz = (s.drainOverlap v true l n, { old := 0, poison := true, flags := 0 }) := by
  simp only [State.amoAt, poisoned, if_true]

end

/-! ### The instruction -/

/-- An AMO writes the old value, or poison, and goes on. -/
def State.amoEnds (t : State) (gid : Nat) (sl : Slice) (d : Reg) (v : Word) (bad : Bool) (fl : FFlags) : Out := .next (if bad
  then ((t.mapStream gid sl (fun st => st.wr d 0 true)).dataPoison gid).advance gid sl
  else ((t.mapGrp gid (fun h => h.raiseFlags fl)).mapStream gid sl (fun st => st.wr d v false)).advance gid sl)

theorem State.amoEnds_eq (t : State) (gid : Nat) (sl : Slice) (d : Reg) (v : Word) (bad : Bool) (fl : FFlags) :
    ((if bad then t else t.mapGrp gid (fun h => h.raiseFlags fl)).loaded gid sl d v bad).done gid sl = t.amoEnds gid sl d v bad fl := by
  unfold State.amoEnds State.loaded State.done
  cases bad <;> rfl

theorem exec_of_amoShape {i : Instr} {op : Nat} {d a b : Reg} {z r c : BitVec 2} (h : amoShape i = some (op, d, a, b, z, r, c)) (s : State) :
    exec i s = amo op d a b z r c s := by
  unfold amoShape at h
  split at h <;> cases h
  all_goals rfl

/-- What an AMO that begins is not behind: the answers that its release waits for, an SO page's earlier accesses, the loads of the queues
on its bytes. -/
def AmoFirst (t : State) (gid : Nat) (sl : Slice) (r : BitVec 2) (p : Part) : Prop :=
  (r.getLsbD 1 = true → t.quietFor gid sl = true) ∧ (p.ord = 0 → t.soQuiet gid sl.src none = true) ∧
    (sl = .a → t.lqOverlaps gid none [p] = false)

theorem AmoFirst.not_behind {t : State} {gid : Nat} {sl : Slice} {r : BitVec 2} {p : Part} {st : Stream}
    (first : st.reqs = [] → AmoFirst t gid sl r p)
    (own : st.reqs = [] → t.ownOut gid sl.src [p] = false) :
    (st.reqs.isEmpty && ((r.getLsbD 1 && !t.quietFor gid sl) || (p.ord == 0 && !t.soQuiet gid sl.src none) ||
      (sl == .a && t.lqOverlaps gid none [p]) || t.ownOut gid sl.src [p])) = false := by
  by_cases fresh : st.reqs = []
  · obtain ⟨release, so, queues⟩ := first fresh
    have h1 : (r.getLsbD 1 && !t.quietFor gid sl) = false := by
      cases e : r.getLsbD 1
      · rfl
      · simp [release e]
    have h2 : (p.ord == 0 && !t.soQuiet gid sl.src none) = false := by
      by_cases e : p.ord = 0
      · simp [so e]
      · simp [e]
    have h3 : (sl == .a && t.lqOverlaps gid none [p]) = false := by
      by_cases e : sl = .a
      · simp [queues e]
      · simp [e]
    rw [h1, h2, h3, own fresh]
    exact Bool.and_false _
  · simp [fresh]

section
variable {s s1 : State} {gid : Nat} {sl : Slice} {g : Group} (hi : Issuing s gid sl g) {op : Nat} {d a b : Reg} {z r c : BitVec 2} {p : Part}
  (clean : (g.stream sl).rp a = false)
  (access : s.access gid sl ((g.stream sl).rd a).toNat (2 ^ z.toNat) needRW true false = .ok s1 [p])
include hi clean access

/-- An AMO waits for the answers to the slice's own writes to the word. -/
theorem amo_waits (fresh : (g.stream sl).reqs = []) (out : (s1.settleLoads gid sl).ownOut gid sl.src [p] = true) :
    amo op d a b z r c s = .next ((s1.settleLoads gid sl).stallOn gid sl .peer) := by
  simp only [amo, issue_eq hi, clean, access, Got.bind, fresh, out, List.isEmpty_nil, Bool.or_true, Bool.and_self, Bool.false_eq_true,
    if_false, if_true, Got.finish]

/-- The state in which an AMO makes its access: after the loads of the queues, and its release. -/
def State.amoBefore (t : State) (gid : Nat) (sl : Slice) (r c : BitVec 2) : State :=
  if r.getLsbD 1 then t.release gid sl c.toNat else t

/-- The request of an AMO to a peer. -/
def amoAsk (st : Stream) (op n : Nat) (b d : Reg) (p : Part) (id x : Nat) : PeerAsk :=
  { peer := id, addr := x, ord := p.ord,
    kind := .atomic (BitVec.ofNat 4 op) n (lowBytes n (st.rd b)) (lowBytes n (st.rd d)) (st.rp b || (op == 9 && st.rp d)) }

section
variable (first : (g.stream sl).reqs = [] → AmoFirst (s1.settleLoads gid sl) gid sl r p)
  (own : (g.stream sl).reqs = [] → (s1.settleLoads gid sl).ownOut gid sl.src [p] = false)
include first own

/-- An AMO of a peer's word sends its request. -/
theorem amo_sends {id x : Nat} (loc : p.loc = .peer id x) {u : State} {tags : List Nat}
    (sent : ((s1.settleLoads gid sl).amoBefore gid sl r c).exchange gid sl.src (g.stream sl).reqs
      [amoAsk (g.stream sl) op (2 ^ z.toNat) b d p id x] = (u, tags, none)) :
    amo op d a b z r c s = .next ((u.mapStream gid sl (fun st => { st with reqs := tags, parts := [p] })).stallOn gid sl .peer) := by
  have ahead := AmoFirst.not_behind first own
  unfold State.amoBefore amoAsk at sent
  simp only [amo, issue_eq hi, clean, access, Got.bind, ahead, loc, sent, Bool.false_eq_true, if_false, Got.finish]

/-- The answer of a peer ends it. -/
theorem amo_answered {id x : Nat} (loc : p.loc = .peer id x) {u : State} {data : List (List Byte × Bool)}
    (sent : ((s1.settleLoads gid sl).amoBefore gid sl r c).exchange gid sl.src (g.stream sl).reqs
      [amoAsk (g.stream sl) op (2 ^ z.toNat) b d p id x] = (u, [], some data)) :
    let t := u.dropLines (fun k => k == g.ctl) (touches id x (2 ^ z.toNat))
    let m := (data.map Prod.fst).flatten
    amo op d a b z r c s = (t.mapStream gid sl (fun st => { st with reqs := [], parts := [] })).amoEnds gid sl d
      (leWord (m.mapIdx (fun k v => t.peerByte (g.viewer sl) (.peer id (x + k)) v))) (data.any Prod.snd)
      (amoValue op (2 ^ z.toNat) (leWord m) (lowBytes (2 ^ z.toNat) ((g.stream sl).rd b))
        (lowBytes (2 ^ z.toNat) ((g.stream sl).rd d))).2 := by
  have ahead := AmoFirst.not_behind first own
  unfold State.amoBefore amoAsk at sent
  simp only [amo, issue_eq hi, clean, access, Got.bind, ahead, loc, sent, Bool.false_eq_true, if_false, Got.finish, MemLoc.shift]
  exact State.amoEnds_eq ..

/-- An AMO of a word of the module or of the host is made at once. -/
theorem amo_local (here : ∀ id x : Nat, p.loc ≠ .peer id x) :
    let m := ((s1.settleLoads gid sl).amoBefore gid sl r c).amoAt (g.viewer sl) p.loc op (2 ^ z.toNat)
      (lowBytes (2 ^ z.toNat) ((g.stream sl).rd b)) (lowBytes (2 ^ z.toNat) ((g.stream sl).rd d))
      ((g.stream sl).rp b || (op == 9 && (g.stream sl).rp d))
    amo op d a b z r c s = m.1.amoEnds gid sl d m.2.old m.2.poison m.2.flags := by
  have ahead := AmoFirst.not_behind first own
  simp only [amo, issue_eq hi, clean, access, Got.bind, ahead, Bool.false_eq_true, if_false, State.amoBefore]
  cases loc : p.loc with
  | peer id x => exact absurd loc (here id x)
  | vault | host | spad => exact State.amoEnds_eq ..

end
end

theorem State.exchange_answered {t : State} {gid src tag : Nat} {ask : PeerAsk} (read : ask.kind.isWrite = false) {y : OutReply}
    (reply : t.replyOf tag = some y) : t.exchange gid src [tag] [ask] =
      ({ t with replies := t.replies.filter (fun z => z.tag != tag) }, [], some [(y.bytes, y.poison)]) := by
  have answer : t.answers [tag] [ask] = some [(y.bytes, y.poison)] := by simp [State.answers, read, reply]
  unfold State.exchange
  simp only [List.length_singleton, List.drop_succ_cons, List.drop_zero, State.sendSome, answer]
  congr 2
  exact List.filter_congr fun z _ => Bool.eq_iff_iff.2 (by simp)

/-- Settles O32. -/
theorem atomicResults : Obligations.AtomicResults := by
  refine ⟨?_, fun s v l op n b c pz => ⟨State.amoAt_clean s v l op n b c pz, State.amoAt_poisoned s v l op n b c pz⟩,
    fun n m b c size hm hb _ => amoValue_ints size hm hb, ?_⟩
  · intro s s1 gid sl g i op d a b z r c p hi shape clean st n settled before m ends access order
    rw [exec_of_amoShape shape]
    refine ⟨amo_waits hi clean access, fun own id x loc => ⟨fun u tags fresh sent => ?_, fun tag y held reply => ?_⟩, fun here => ?_⟩
    · have sent : before.exchange gid sl.src st.reqs [amoAsk st op n b d p id x] = (u, tags, none) := fresh ▸ sent
      exact amo_sends hi clean access order own loc sent
    · have held : st.reqs = [tag] := held
      have sent := State.exchange_answered (gid := gid) (src := sl.src) (ask := amoAsk st op n b d p id x) rfl reply
      rw [← held] at sent
      have ended := amo_answered hi clean access order own loc sent
      simp only [List.map_cons, List.map_nil, List.flatten_cons, List.flatten_nil, List.append_nil, List.any_cons, List.any_nil,
        Bool.or_false] at ended
      exact ended
    · exact amo_local hi clean access order (fun _ => settled.ownOut_local gid sl.src p here) here
  · intro m b c sum size inf
    have result {x : BitVec 32 × FFlags} (h : addF32 m b = x) : sum x := h ▸ amoValue_fadd m b c
    exact ⟨fun h => result (addF32_nan h), fun hm hb h => result (addF32_opposite hm hb h), fun hm hb => result (addF32_inf_left hm hb),
      fun hm hb => result (addF32_inf_right hm hb), fun hm hb => result (addF32_finite hm hb)⟩

end Sys2Proof.Machine

/-! ## O7: every step keeps every memory canonical (R225, R190, R250)

The form of a memory (`Memory.wf`) is kept by what writes a byte and by what forgets a range, and no other operation of the model makes a
memory that is not empty. What remains is to follow the state through every operation: `Canonical` names the invariant, and each lemma says
of one operation that it keeps it. -/

namespace Sys2Proof.Machine

open Sys2Proof

/-- Every memory of the module is in canonical form. -/
def Canonical (s : State) : Prop := s.memoriesWf = true

/-- So it is in whatever comes of a part of an instruction. -/
def CanonicalGot {α : Type} (x : Got α) : Prop :=
  match x with
  | .ok s _ => Canonical s
  | .trap s _ => Canonical s
  | .lost s => Canonical s
  | .wait s => Canonical s

/-- So it is in the next state, where there is one. -/
def CanonicalOut (o : Out) : Prop := ∀ t : State, o = .next t → Canonical t

namespace Canonical

section
variable {s t : State} {gid : Nat} {sl : Slice} {g : Group}

theorem iff : Canonical s ↔ s.vault.wf = true ∧ s.host.wf = true ∧ ∀ g ∈ s.groups, g.spad.wf = true := s.memoriesWf_iff

/-- What changes neither a memory nor a group. Where the state that comes of it is still open when the equations are elaborated, they are
`by rfl`: `rfl` would take the one state for the other. -/
theorem other (h : Canonical s) (same : t.vault = s.vault ∧ t.host = s.host ∧ t.groups = s.groups) : Canonical t := by
  obtain ⟨vault, host, groups⟩ := same
  rw [iff] at h ⊢
  rwa [vault, host, groups]

/-- What changes no memory, and of the groups leaves some, each with its scratchpad or an empty one. -/
theorem groups (h : Canonical s) (vault : t.vault = s.vault) (host : t.host = s.host)
    (spad : ∀ g ∈ t.groups, g.spad = [] ∨ ∃ g' ∈ s.groups, g.spad = g'.spad) : Canonical t := by
  rw [iff] at h ⊢
  obtain ⟨hv, hh, hg⟩ := h
  refine ⟨vault ▸ hv, host ▸ hh, fun g k => ?_⟩
  obtain e | ⟨g', k', e⟩ := spad g k
  · rw [e]
    rfl
  · exact e ▸ hg g' k'

/-- What changes groups and leaves their scratchpads. -/
theorem mapGroups (h : Canonical s) {f : Group → Group} (eq : t.groups = s.groups.map f) (vault : t.vault = s.vault)
    (host : t.host = s.host) (spad : ∀ g, (f g).spad = g.spad) : Canonical t := by
  refine h.groups vault host fun g k => .inr ?_
  rw [eq] at k
  obtain ⟨g', k', rfl⟩ := List.mem_map.1 k
  exact ⟨g', k', spad g'⟩

theorem spad (h : Canonical s) (hg : s.grp? gid = some g) : g.spad.wf = true := (iff.1 h).2.2 g (State.grp?_mem hg)

theorem mem (h : Canonical s) (hg : g ∈ s.groups) : g.spad.wf = true := (iff.1 h).2.2 g hg

/-- A step of a fold that keeps the form of every memory. -/
theorem foldl {α : Type} (h : Canonical s) {f : State → α → State} {l : List α}
    (hf : ∀ (t : State), ∀ a ∈ l, Canonical t → Canonical (f t a)) : Canonical (l.foldl f s) := by
  induction l generalizing s with
  | nil => exact h
  | cons a l ih => exact ih (hf s a (.head _) h) fun t b hb => hf t b (.tail _ hb)

theorem ite {c : Prop} [Decidable c] (hs : Canonical s) (ht : Canonical t) : Canonical (if c then s else t) := by
  split
  · exact hs
  · exact ht

/-- The state of a pair that is taken apart. -/
theorem fst {α : Type} {x : State × α} {a : α} (h : Canonical x.1) (e : x = (t, a)) : Canonical t := by
  subst e
  exact h

/-! ### Parts of the state -/

theorem setGrp (h : Canonical s) (hg : g.spad.wf = true) : Canonical (s.setGrp g) := State.setGrp_memoriesWf h hg

/-- A group put back with the scratchpad of another. -/
theorem put {x : Group} (h : Canonical s) (hx : x.spad.wf = true) (spad : g.spad = x.spad) : Canonical (s.setGrp g) :=
  h.setGrp (spad ▸ hx)

/-- A group put back with the scratchpad that it has. -/
theorem putGrp {x : Group} (h : Canonical s) (hx : s.grp? gid = some x) (spad : g.spad = x.spad) : Canonical (s.setGrp g) :=
  h.put (h.spad hx) spad

theorem mapGrp (h : Canonical s) {f : Group → Group} (spad : ∀ g, (f g).spad = g.spad) :
    Canonical (s.mapGrp gid f) :=
  State.mapGrp_memoriesWf h gid f fun g k => (spad g).symm ▸ h.mem k

/-- A group changed by what keeps the form of its scratchpad. -/
theorem editGrp (h : Canonical s) {f : Group → Group} (edit : ∀ g, g.spad.wf = true → (f g).spad.wf = true) :
    Canonical (s.mapGrp gid f) :=
  State.mapGrp_memoriesWf h gid f fun g k => edit g (h.mem k)

theorem mapStream (h : Canonical s) {f : Stream → Stream} : Canonical (s.mapStream gid sl f) := h.mapGrp fun g => by simp

theorem setStream (h : Canonical s) {st : Stream} : Canonical (s.setStream gid sl st) := by
  unfold State.setStream
  split
  · next g hg => exact h.putGrp hg (by simp)
  · exact h

theorem setCtx (h : Canonical s) {c : Context} : Canonical (s.setCtx c) := h.other ⟨rfl, rfl, rfl⟩

theorem setLaunch (h : Canonical s) {l : Launch} : Canonical (s.setLaunch l) := h.other ⟨rfl, rfl, rfl⟩

theorem setStack (h : Canonical s) {k : Nat} {x : Stack} : Canonical (s.setStack k x) :=
  h.other (by simp)

theorem setOwner (h : Canonical s) {e : OwnerEntry} : Canonical (s.setOwner e) := h.other ⟨rfl, rfl, rfl⟩

theorem setPort (h : Canonical s) {k : Nat} {p : Port} : Canonical (s.setPort k p) :=
  h.other (by simp)

theorem countStack (h : Canonical s) {k src n : Nat} {c : Option Nat} : Canonical (s.countStack k src n c) := by
  unfold State.countStack
  split
  · exact h
  · exact h.setStack

theorem cacheSector (h : Canonical s) {a : Nat} {dirty : Bool} : Canonical (s.cacheSector a dirty) := h.setStack

/-! ### Writes and pending stores -/

theorem performWrite (h : Canonical s) {l : MemLoc} {bs : List Byte} {pz one : Bool} : Canonical (s.performWrite l bs pz one) :=
  State.performWrite_memoriesWf h l bs pz one

theorem performEntry (h : Canonical s) {e : StoreEntry} : Canonical (s.performEntry gid e) := State.performEntry_memoriesWf h gid e

theorem dropEntry (h : Canonical s) {q : Nat} : Canonical (s.dropEntry gid sl q) := State.dropEntry_memoriesWf h gid sl q

theorem drainSlice (h : Canonical s) : Canonical (s.drainSlice gid sl) := State.drainSlice_memoriesWf h gid sl

theorem drainAll (h : Canonical s) : Canonical s.drainAll := State.drainAll_memoriesWf h

theorem drainWhere (h : Canonical s) {pick : StoreEntry → Bool} : Canonical (s.drainWhere gid sl pick) :=
  State.drainWhere_memoriesWf h gid sl pick

theorem drainOverlap (h : Canonical s) {v : Viewer} {own : Bool} {l : MemLoc} {n : Nat} : Canonical (s.drainOverlap v own l n) :=
  State.drainOverlap_memoriesWf h v own l n

theorem drainContended (h : Canonical s) {v : Viewer} : Canonical (s.drainContended gid sl v) :=
  h.foldl fun _ _ _ h => h.foldl fun _ _ _ h => h.drainWhere

theorem drainOthers (h : Canonical s) {l : MemLoc} {n : Nat} : Canonical (s.drainOthers gid sl l n) :=
  h.foldl fun _ _ _ h => h.foldl fun _ _ _ h => .ite h h.drainWhere

theorem performAt (h : Canonical s) {v : Viewer} {k : Nat} : Canonical (s.performAt gid sl v k) :=
  .ite h.drainAll (h.drainContended.mapGroups rfl rfl rfl fun _ => rfl)

theorem release (h : Canonical s) {k : Nat} : Canonical (s.release gid sl k) := by
  unfold State.release
  split
  · exact h.performAt
  · exact h

theorem countPoison (h : Canonical s) : Canonical s.countPoison :=
  h.foldl fun _ _ hg k => .ite k (countStack (k.put (h.mem hg) (by rfl)))

/-! ### Counters, events, losses and traps -/

theorem count (h : Canonical s) {src n : Nat} : Canonical (s.count gid src n) := by
  unfold State.count
  split
  · exact h
  · next g hg => exact countStack (h.putGrp hg (by rfl))

theorem dataPoison (h : Canonical s) : Canonical (s.dataPoison gid) := count (h.mapGrp fun _ => by rfl)

theorem pushEvent (h : Canonical s) {ws : List Word} : Canonical (s.pushEvent ws) := by
  unfold State.pushEvent
  split
  · exact .ite h (h.other ⟨by rfl, by rfl, by rfl⟩)
  · exact h

theorem endContext (h : Canonical s) {c : Nat} : Canonical (s.endContext c) := by
  have drained : Canonical (s.groups.foldl
      (fun s g => if g.ctx == c then (s.drainSlice g.gid .a).drainSlice g.gid .c else s) s).countPoison :=
    (h.foldl fun _ _ _ k => .ite k.drainSlice.drainSlice k).countPoison
  exact drained.groups rfl rfl fun g k => .inr ⟨g, List.mem_of_mem_filter k, rfl⟩

theorem retire (h : Canonical s) {l : Option MemLoc} : Canonical (s.retire l).1 := by
  unfold State.retire
  split
  · exact h.setOwner
  · exact h

theorem settleLost (h : Canonical s) : Canonical s.settleLost := by
  refine .ite h (foldl ?_ fun _ _ _ k => k.performWrite.pushEvent)
  exact h.drainAll.other ⟨rfl, rfl, rfl⟩

theorem loseContext (h : Canonical s) {c : Nat} {x : Loss} : Canonical (s.loseContext c x) := by
  unfold State.loseContext
  split
  · exact h
  · exact settleLost (other (retire (h.endContext (c := c)) (l := x.place)) ⟨by rfl, by rfl, by rfl⟩)

end

end Canonical

end Sys2Proof.Machine

namespace Sys2Proof.Machine

open Sys2Proof

section
variable {α β : Type} {x : Got α} {s : State} {gid : Nat} {sl : Slice}

theorem CanonicalGot.ok {a : α} (h : CanonicalGot x) (e : x = .ok s a) : Canonical s := by
  subst e
  exact h

theorem CanonicalGot.trap {y : TrapInfo} (h : CanonicalGot x) (e : x = .trap s y) : Canonical s := by
  subst e
  exact h

theorem CanonicalGot.lost (h : CanonicalGot x) (e : x = .lost s) : Canonical s := by
  subst e
  exact h

theorem CanonicalGot.wait (h : CanonicalGot x) (e : x = .wait s) : Canonical s := by
  subst e
  exact h

theorem CanonicalGot.ite {c : Prop} [Decidable c] {y : Got α} (hx : CanonicalGot x) (hy : CanonicalGot y) :
    CanonicalGot (if c then x else y) := by
  split
  · exact hx
  · exact hy

theorem CanonicalGot.bind {f : State → α → Got β} (h : CanonicalGot x) (hf : ∀ (t : State) (a : α), Canonical t → CanonicalGot (f t a)) :
    CanonicalGot (x.bind f) := by
  cases x with
  | ok t a => exact hf t a h
  | trap | lost | wait => exact h

theorem CanonicalOut.next (h : Canonical s) : CanonicalOut (.next s) := by
  rintro t ⟨⟩
  exact h

theorem CanonicalOut.refused {r : Refusal} : CanonicalOut (.refused r) := nofun

theorem CanonicalOut.ite {c : Prop} [Decidable c] {x y : Out} (hx : CanonicalOut x) (hy : CanonicalOut y) :
    CanonicalOut (if c then x else y) := by
  split
  · exact hx
  · exact hy

end

namespace Canonical

section
variable {s t : State} {gid src n : Nat} {sl : Slice} {g : Group}

theorem loseControl (h : Canonical s) : Canonical (s.loseControl gid sl) := by
  unfold State.loseControl
  split
  · exact h.loseContext
  · exact h

theorem raise (h : Canonical s) {y : TrapInfo} {skip : Bool} {k : Nat} : Canonical (s.raise gid src y skip k) := by
  unfold State.raise
  split
  · exact h
  · next g hg => exact h.putGrp hg (by rfl)

theorem trapStream (h : Canonical s) {y : TrapInfo} {skip : Bool} : Canonical (s.trapStream gid sl y skip) := h.mapStream.raise

theorem stallOn (h : Canonical s) {k : Stall} : Canonical (s.stallOn gid sl k) := h.mapStream

theorem finish {α : Type} {x : Got α} (h : CanonicalGot x) {k : Stall} {f : State → α → Out}
    (hf : ∀ (t : State) (a : α), Canonical t → CanonicalOut (f t a)) : CanonicalOut (x.finish gid sl k f) := by
  cases x with
  | ok t a => exact hf t a h
  | trap => exact .next (trapStream h)
  | lost => exact .next h
  | wait => exact .next (stallOn h)

/-! ### Translation -/

theorem translate (h : Canonical s) {w : TlbHolder} {v : Viewer} {cx : Context} {va : Nat} {need : Need} :
    Canonical (s.translate w v cx va need).1 := by
  rw [State.translate_frame]
  exact h.other ⟨rfl, rfl, rfl⟩

theorem translateAll (h : Canonical s) {w : TlbHolder} {v : Viewer} {cx : Context} {need : Need} {l : List (Nat × Nat)} :
    Canonical (s.translateAll w v cx need l).1 := by
  rw [State.translateAll_frame]
  exact h.other ⟨rfl, rfl, rfl⟩

theorem access (h : Canonical s) {a : Nat} {need : Need} {aligned uo : Bool} : CanonicalGot (s.access gid sl a n need aligned uo) := by
  unfold State.access
  split
  · exact h
  split
  · exact h
  refine .ite h (.ite h ?_)
  dsimp only
  have translated {w v cx l} := h.translateAll (w := w) (v := v) (cx := cx) (need := need) (l := l)
  split
  · exact translated.loseContext
  · split <;> exact translated

/-! ### Requests to peers -/

theorem waitPort (h : Canonical s) {k : Nat} {w : Nat × Nat} : Canonical (s.waitPort k w) := h.setPort

theorem leavePort (h : Canonical s) {k : Nat} {w : Nat × Nat} : Canonical (s.leavePort k w) := h.setPort

theorem unwait (h : Canonical s) {w : Nat × Nat} : Canonical (s.unwait w) := h

theorem postPeer (h : Canonical s) {k : Nat} {a : PeerAsk} : Canonical (s.postPeer k gid src a) :=
  other (h.leavePort (k := k) (w := (gid, src))) ⟨by rfl, by rfl, by rfl⟩

theorem peerFail (h : Canonical s) {tag : Nat} {k : OutKind} : Canonical (s.peerFail gid tag k) := by
  unfold State.peerFail
  split
  · exact h.mapGrp fun _ => by rfl
  · exact h.other ⟨rfl, rfl, rfl⟩

theorem sendWith (h : Canonical s) {slot : Bool} {a : PeerAsk} : Canonical (s.sendWith slot gid src a).1 := by
  unfold State.sendWith
  dsimp only
  split
  · exact h
  split
  · rw [apply_ite Prod.fst]
    exact .ite h.postPeer h.waitPort
  · exact peerFail (count (h.other ⟨by rfl, by rfl, by rfl⟩))

theorem sendSome (h : Canonical s) {slot : Bool} {sent : List Nat} {asks : List PeerAsk} :
    Canonical (s.sendSome slot gid src sent asks).1 := by
  induction asks generalizing s sent with
  | nil => exact h
  | cons a rest ih =>
    have one := h.sendWith (gid := gid) (src := src) (slot := slot) (a := a)
    unfold State.sendSome
    split
    · next e => exact one.fst e
    · next e => exact ih (one.fst e)

theorem dropOrphans (h : Canonical s) : Canonical s.dropOrphans := h.other ⟨rfl, rfl, rfl⟩

theorem exchange (h : Canonical s) {held : List Nat} {asks : List PeerAsk} : Canonical (s.exchange gid src held asks).1 := by
  have sent := h.sendSome (gid := gid) (src := src) (slot := false) (sent := held) (asks := asks.drop held.length)
  unfold State.exchange
  dsimp only
  split
  · exact sent.other ⟨rfl, rfl, rfl⟩
  · exact sent

theorem logWrite (h : Canonical s) {l : MemLoc} : Canonical (s.logWrite l n) := by
  unfold State.logWrite
  split
  · exact h
  · split
    · exact h.other ⟨rfl, rfl, rfl⟩
    · exact h

theorem peerStore (h : Canonical s) {peer a : Nat} {bs : List Byte} : Canonical (s.peerStore peer a bs) :=
  dropOrphans (h.logWrite.mapGroups rfl rfl rfl fun _ => rfl)

/-! ### Copies of peers' lines, and reads -/

theorem unkeep (h : Canonical s) {ctl : Nat → Bool} {hit : Nat → Nat → Bool} : Canonical (s.unkeep ctl hit) := by
  refine h.mapGroups rfl rfl rfl fun g => ?_
  split <;> rfl

theorem dropLines (h : Canonical s) {ctl : Nat → Bool} {hit : Nat → Nat → Bool} : Canonical (s.dropLines ctl hit) :=
  other (h.unkeep (ctl := ctl) (hit := hit)) ⟨by rfl, by rfl, by rfl⟩

theorem dropOwn (h : Canonical s) {ctl : Nat} {l : MemLoc} : Canonical (s.dropOwn ctl l n) := by
  unfold State.dropOwn
  split
  · exact h.dropLines
  · exact h

theorem partBytes (h : Canonical s) {v : Viewer} {ctl asks : Nat} {p : Part} {data : List (List Byte × Bool)} :
    Canonical (s.partBytes v ctl p asks data).1 := by
  unfold State.partBytes
  split
  · next id a _ =>
    dsimp only
    split
    · exact h
    split
    · exact .ite (other (h.unkeep (ctl := fun k => k == ctl) (hit := touches id a p.n)) ⟨by rfl, by rfl, by rfl⟩) h.dropOwn
    · exact h.dropOwn
  · exact .ite h.drainOverlap h

theorem partsBytes (h : Canonical s) {v : Viewer} {ctl : Nat} {parts : List (Part × Nat)} {data : List (List Byte × Bool)} :
    Canonical (s.partsBytes v ctl parts data).1 := by
  induction parts generalizing s data with
  | nil => exact h
  | cons x rest ih => exact ih h.partBytes

theorem readParts (h : Canonical s) {ctl : Nat} {v : Viewer} {held : List Nat} {parts : List Part} :
    Canonical (s.readParts gid src ctl v held parts).1 := by
  have asked := h.exchange (gid := gid) (src := src) (held := held) (asks := (parts.map readAsks).flatten)
  unfold State.readParts
  dsimp only
  split
  · exact h
  split
  · next e => exact asked.fst e
  · next e => exact partsBytes (asked.fst e)

theorem readSlice (h : Canonical s) {parts : List Part} : CanonicalGot (s.readSlice gid sl parts) := by
  unfold State.readSlice
  split
  · exact h
  next g _ =>
  have read {ps} := h.readParts (gid := gid) (src := sl.src) (ctl := g.ctl) (v := g.viewer sl) (held := (g.stream sl).reqs) (parts := ps)
  dsimp only
  split
  · next e => exact mapStream (read.fst e)
  · next e => exact mapStream (read.fst e)

/-! ### Fetch, scan and transfer -/

theorem holdLine (h : Canonical s) {l : MemLoc} {ws : List (BitVec 32)} {both : Bool} : Canonical (s.holdLine gid sl l ws both) :=
  h.mapGrp fun _ => by rfl

theorem fetchAt (h : Canonical s) {p : Part} {held : List Nat} {both : Bool} : CanonicalGot (s.fetchAt gid sl g p held both) := by
  have read {v ps} := h.readParts (gid := gid) (src := sl.src) (ctl := g.ctl) (v := v) (held := held) (parts := ps)
  unfold State.fetchAt
  dsimp only
  split
  · next e =>
    refine Canonical.ite (read.fst e) ?_
    split
    · exact mapStream (read.fst e)
    · exact read.fst e
  · next e =>
    split
    · exact read.fst e
    · refine CanonicalGot.ite (loseContext (read.fst e)) (holdLine ?_)
      split
      · exact mapStream (read.fst e)
      · exact read.fst e

theorem fetchMiss (h : Canonical s) {cx : Context} {va : Nat} : CanonicalGot (s.fetchMiss gid sl g cx va) := by
  have translated := h.translate (w := .ctl g.ctl) (v := g.viewer sl) (cx := cx) (va := va) (need := needX)
  unfold State.fetchMiss
  split
  · exact h
  · exact h.fetchAt
  split
  · next e => exact loseContext (translated.fst e)
  · next e => exact translated.fst e
  · next e =>
    refine .ite (translated.fst e) ?_
    split
    · split
      · exact mapStream (translated.fst e)
      · exact fetchAt (translated.fst e)
    · exact fetchAt (translated.fst e)

theorem fetchNew (h : Canonical s) {va : Nat} : CanonicalGot (s.fetchNew gid sl va) := by
  unfold State.fetchNew
  split
  · exact h
  split
  · exact h
  · exact h.fetchMiss

theorem fetchLine (h : Canonical s) {va : Nat} : CanonicalGot (s.fetchLine gid sl va) := by
  unfold State.fetchLine
  split
  · exact h
  · exact h.fetchNew

theorem scan (h : Canonical s) {fuel va lane : Nat} : CanonicalGot (s.scan gid sl fuel va lane) := by
  induction fuel generalizing s va lane with
  | zero =>
    unfold State.scan
    split
    · next e => exact h.fetchLine.trap e
    · next e => exact h.fetchLine.lost e
    · next e => exact h.fetchLine.wait e
    · next e =>
      refine .ite (h.fetchLine.ok e) ?_
      split <;> exact h.fetchLine.ok e
  | succ fuel ih =>
    unfold State.scan
    split
    · next e => exact h.fetchLine.trap e
    · next e => exact h.fetchLine.lost e
    · next e => exact h.fetchLine.wait e
    · next e =>
      refine .ite (h.fetchLine.ok e) ?_
      split
      · exact h.fetchLine.ok e
      · exact ih (h.fetchLine.ok e)

theorem scanAfter (h : Canonical s) {pc : Word} : CanonicalGot (s.scanAfter gid sl pc) := by
  refine .ite h.scan (h.fetchLine.bind fun t ws k => .ite k ?_)
  split
  · exact k
  · exact k.scan

theorem checkTarget (h : Canonical s) {a : Word} {jr : Bool} : CanonicalGot (s.checkTarget gid sl a jr) :=
  .ite h (h.fetchNew.bind fun _ _ k => .ite k (.ite k k))

theorem advance (h : Canonical s) : Canonical (s.advance gid sl) := by
  unfold State.advance
  split
  · exact h
  dsimp only
  cases (loopStep _ _ _).2 with
  | none =>
    have goesOn {pc} := h.scanAfter (gid := gid) (sl := sl) (pc := pc)
    dsimp only
    split
    · next e => exact mapStream (goesOn.ok e)
    · next e => exact trapStream (goesOn.trap e)
    · next e => exact goesOn.lost e
    · next e => exact mapStream (goesOn.wait e)
  | some a =>
    have goesOn : CanonicalGot ((s.checkTarget gid sl a false).bind fun t _ => .ok t a) := h.checkTarget.bind fun _ _ k => k
    dsimp only
    split
    · next e => exact mapStream (goesOn.ok e)
    · next e => exact trapStream (goesOn.trap e)
    · next e => exact goesOn.lost e
    · next e => exact mapStream (goesOn.wait e)

theorem transfer (h : Canonical s) {a : Word} {leaves : Bool} : Canonical (s.transfer gid sl a leaves) := h.mapStream

/-! ### The issuing stream -/

theorem done (h : Canonical s) : CanonicalOut (s.done gid sl) := .next h.advance

theorem trapNow (h : Canonical s) {y : TrapInfo} : CanonicalOut (s.trapNow gid sl y) := .next h.trapStream

theorem illegal (h : Canonical s) {i : Instr} : CanonicalOut (s.illegal gid sl i) := h.trapNow

theorem issue {f : Nat → Slice → Group → Stream → Out}
    (hf : ∀ (gid : Nat) (sl : Slice) (g : Group), s.grp? gid = some g → CanonicalOut (f gid sl g (g.stream sl))) :
    CanonicalOut (issue s f) := by
  unfold Machine.issue
  split
  · exact .refused
  split
  · exact .refused
  · next hg => exact .ite (hf _ _ _ hg) .refused

theorem issueReg (h : Canonical s) {d : Reg} {v : Stream → Word} {p : Stream → Bool} : CanonicalOut (issueReg d v p s) :=
  issue fun _ _ _ _ => h.setStream.done

end

end Canonical

end Sys2Proof.Machine

namespace Sys2Proof.Machine

open Sys2Proof

theorem Group.setQ_spad (g : Group) (q : Nat) (x : Queue) : (g.setQ q x).spad = g.spad := by
  unfold Group.setQ
  split <;> rfl

namespace Canonical

section
variable {s t : State} {gid src n : Nat} {sl : Slice} {g : Group}

/-! ### Queues -/

theorem headValue (h : Canonical s) {q : Nat} : CanonicalGot (s.headValue g sl q) := by
  unfold State.headValue
  split
  · exact .ite h h
  all_goals exact h

theorem room (h : Canonical s) {q : Nat} : CanonicalGot (s.room g sl q) := .ite (.ite h h) h

theorem execPush (h : Canonical s) {q : BitVec 3} {a : Reg} : CanonicalOut (execPush q a s) :=
  issue fun _ _ _ _ => .ite h.illegal (finish h.room fun _ _ k => done (k.mapGrp fun g => g.setQ_spad _ _))

theorem takeHead (h : Canonical s) {i : Instr} {q : BitVec 3} {d : Reg} {remove : Bool} : CanonicalOut (takeHead i q d remove s) := by
  refine issue fun gid sl g _ => .ite h.illegal (finish h.headValue fun t v k => ?_)
  have taken : Canonical ((if v.2 then t.dataPoison gid else t).mapGrp gid fun g =>
      (if remove then g.popQueue q.toNat else g).setStream sl ((g.stream sl).wr d v.1 v.2)) := by
    refine mapGrp (.ite k.dataPoison k) fun g => ?_
    rw [Group.setStream_spad]
    split
    · exact g.setQ_spad _ _
    · rfl
  exact (Canonical.ite taken.count taken).done

theorem execQdrop (h : Canonical s) {q : BitVec 3} : CanonicalOut (execQdrop q s) :=
  issue fun _ _ _ _ => .ite h.illegal (done (h.mapGrp fun g => g.setQ_spad _ _))

theorem execSlip (h : Canonical s) : CanonicalOut (execSlip s) :=
  issue fun _ _ _ _ => .ite h.illegal (.ite (.ite h.trapNow (.next h.stallOn)) (done (h.mapGrp fun _ => by rfl)))

theorem execSlipCatch (h : Canonical s) : CanonicalOut (execSlipCatch s) :=
  issue fun _ _ _ _ => .ite h.illegal (.ite (.ite h.trapNow (.next h.stallOn)) (done (h.mapGrp fun _ => by rfl)))

theorem execSlipset (h : Canonical s) {a : Reg} : CanonicalOut (execSlipset a s) :=
  issue fun _ _ _ _ => .ite (.next h.loseControl) (done (h.mapGrp fun _ => by rfl))

theorem loadQueue (h : Canonical s) {i : Instr} {nf : Bool} {q z : BitVec 2} {a : Reg} {off : BitVec 16} :
    CanonicalOut (loadQueue i nf q z a off s) :=
  issue fun _ _ _ _ => .ite h.illegal (finish h.room fun _ _ k => .ite (.next k.loseControl)
    (done (k.mapGrp fun g => g.setQ_spad _ _)))

theorem fillEntry (h : Canonical s) {q k : Nat} : Canonical (s.fillEntry gid q k) := by
  have put {t : State} (w : Canonical t) {e} : Canonical (t.mapGrp gid fun g => g.setEntry q k e) := w.mapGrp fun g => g.setQ_spad _ _
  unfold State.fillEntry
  split
  · exact h
  next g _ =>
  split
  case h_2 => exact h
  next nf z a seq part reqs _ _ =>
  refine .ite (put h) ?_
  have read {t : State} {v ps} (w : Canonical t) :=
    w.readParts (gid := gid) (src := 8) (ctl := g.ctl) (v := v) (held := reqs) (parts := ps)
  cases part with
  | some p =>
    refine .ite (put h) ?_
    dsimp only
    split <;> next e => exact put ((read h).fst e)
  | none =>
    dsimp only
    split
    · next e => exact loseContext (h.translate.fst e)
    · next e => exact put (h.translate.fst e)
    · next e =>
      refine .ite (put (h.translate.fst e)) ?_
      split <;> next f => exact put ((read (h.translate.fst e)).fst f)

theorem fillBefore (h : Canonical s) {k : Nat} : Canonical (s.fillBefore gid k) := by
  unfold State.fillBefore
  split
  · exact h
  · exact h.unwait.foldl fun _ _ _ w => w.fillEntry

theorem fillAll (h : Canonical s) : Canonical (s.fillAll gid) := by
  unfold State.fillAll
  split
  · exact h.fillBefore
  · exact h

theorem execLqFill (h : Canonical s) {q slot : Nat} : CanonicalOut (execLqFill gid q slot s) := by
  unfold Machine.execLqFill
  split
  · exact .next h
  dsimp only
  split
  · exact .next (.ite h.fillBefore h)
  · exact .next h

/-! ### Loads and stores -/

theorem loaded (h : Canonical s) {d : Reg} {v : Word} {pz : Bool} : Canonical (s.loaded gid sl d v pz) :=
  .ite h.mapStream.dataPoison h.mapStream

theorem settleLoads (h : Canonical s) : Canonical (s.settleLoads gid sl) := by
  cases sl with
  | a => exact h.fillAll
  | c => exact h

theorem load (h : Canonical s) {x : Word} {signed aligned uo : Bool} {d : Reg} : CanonicalOut (s.load gid sl x n signed aligned uo d) :=
  finish (h.access.bind fun _ _ k => k.settleLoads.readSlice) fun _ _ k => k.loaded.done

theorem plainLoad (h : Canonical s) {signed : Bool} {d a : Reg} {i : BitVec 13} : CanonicalOut (plainLoad n signed d a i s) :=
  issue fun _ _ _ _ => .ite (.next h.loseControl) h.load

theorem storePart (h : Canonical s) {v : Viewer} {p : Part} {bs : List Byte} {pz : Bool} {vis : Option Nat} :
    Canonical (s.storePart gid sl v p bs pz vis) := by
  unfold State.storePart
  split
  · next id a _ =>
    split
    · next g _ =>
      exact .ite h.dropOwn (other (h.unkeep (ctl := fun k => k == g.ctl) (hit := touches id a p.n)) ⟨by rfl, by rfl, by rfl⟩)
    · exact h
  · exact .ite h.drainOverlap.performWrite (mapStream (drainOverlap (.ite h.drainOthers h)))

theorem storeParts (h : Canonical s) {parts : List Part} {bs : List Byte} {pz : Bool} {vis : Option Nat} :
    CanonicalGot (s.storeParts gid sl parts bs pz vis) := by
  unfold State.storeParts
  split
  · exact h
  · refine .ite h (.ite (mapStream h.sendSome) (foldl (mapStream h.sendSome) fun _ _ _ k => k.storePart))

theorem plainStore (h : Canonical s) {r a : Reg} {i : BitVec 13} : CanonicalOut (plainStore n r a i s) :=
  issue fun _ _ _ _ => .ite (.next h.loseControl)
    (finish (h.access.bind fun _ _ k => k.settleLoads.storeParts) fun _ _ k => k.done)

theorem execLdAcq (h : Canonical s) {d a : Reg} {z c : BitVec 2} {i : BitVec 12} : CanonicalOut (execLdAcq d a z c i s) :=
  issue fun _ _ _ _ => .ite (.next h.loseControl) h.load

theorem execStRel (h : Canonical s) {r a : Reg} {z c : BitVec 2} {i : BitVec 12} : CanonicalOut (execStRel r a z c i s) :=
  issue fun _ _ _ _ => .ite (.next h.loseControl)
    (finish (h.access.bind fun _ _ k => CanonicalGot.ite (x := .wait _) k.settleLoads k.settleLoads.release.storeParts) fun _ _ k => k.done)

theorem spadLoad (h : Canonical s) {ins : Instr} {signed : Bool} {d a : Reg} {i : BitVec 13} :
    CanonicalOut (spadLoad ins n signed d a i s) := by
  refine issue fun _ _ _ _ => .ite (.next h.loseControl) ?_
  split
  · exact h.trapNow
  · exact h.loaded.done

theorem spadStore (h : Canonical s) {ins : Instr} {r a : Reg} {i : BitVec 13} : CanonicalOut (spadStore ins n r a i s) := by
  refine issue fun _ _ _ _ => .ite (.next h.loseControl) ?_
  split
  · exact h.trapNow
  · exact h.storePart.done

/-! ### Atomics -/

theorem amoAt (h : Canonical s) {v : Viewer} {l : MemLoc} {op : Nat} {b c : Word} {pz : Bool} :
    Canonical (s.amoAt v l op n b c pz).1 := by
  unfold State.amoAt
  dsimp only
  split
  · exact h.drainOverlap
  · exact h.drainOverlap.performWrite

theorem amo (h : Canonical s) {op : Nat} {d a b : Reg} {z r c : BitVec 2} : CanonicalOut (amo op d a b z r c s) := by
  refine issue fun gid sl g _ => .ite (.next h.loseControl) (finish (h.access.bind fun t parts k => ?_) fun _ _ k =>
    (loaded (.ite k (k.mapGrp fun _ => by rfl))).done)
  split
  case h_2 => exact k
  refine .ite k.settleLoads ?_
  have before {c : Prop} [Decidable c] {j} : Canonical (if c then (t.settleLoads gid sl).release gid sl j else t.settleLoads gid sl) :=
    .ite k.settleLoads.release k.settleLoads
  dsimp only
  split
  · split
    · next e => exact mapStream (before.exchange.fst e)
    · next e => exact mapStream (dropLines (before.exchange.fst e))
  · exact before.amoAt

end

end Canonical

end Sys2Proof.Machine

namespace Sys2Proof.Machine

open Sys2Proof

/-- So it is in the state that a turn begins with. -/
def CanonicalTurn (x : Fetched) : Prop :=
  match x with
  | .run s _ => Canonical s
  | .idle s => Canonical s

theorem CanonicalTurn.ite {c : Prop} [Decidable c] {x y : Fetched} (hx : CanonicalTurn x) (hy : CanonicalTurn y) :
    CanonicalTurn (if c then x else y) := by
  split
  · exact hx
  · exact hy

/-! ### Scratchpads of groups -/

/-- A write to a scratchpad keeps its form. -/
theorem Group.spadWrite_wf {g : Group} (h : g.spad.wf = true) (o : Nat) (bs : List Byte) (pz one : Bool) :
    (g.spadWrite o bs pz one).spad.wf = true := by
  rw [Group.spadWrite_spad]
  exact Memory.write_wf h _ _

theorem Group.setSem_spad (g : Group) (k : Nat) (x : Sem) : (g.setSem k x).spad = g.spad := by
  unfold Group.setSem
  split <;> rfl

theorem Group.startHead_spad (g : Group) (q : EQueue) : (g.startHead q).spad = g.spad := by
  unfold Group.startHead
  split
  · exact g.setQueue_spad _ _
  · rfl

namespace Canonical

section
variable {s t : State} {gid src n : Nat} {sl : Slice} {g : Group}

/-! ### The turn of a stream -/

theorem recheckPc (h : Canonical s) : Canonical (s.recheckPc gid sl) := by
  unfold State.recheckPc
  split
  · exact h
  split
  · next e => exact mapStream (h.checkTarget.ok e)
  · next e => exact trapStream (mapStream (h.checkTarget.trap e))
  · next e => exact h.checkTarget.lost e
  · next e => exact mapStream (h.checkTarget.wait e)

theorem beginTurn (h : Canonical s) : Canonical (s.beginTurn gid sl) :=
  other (h.unwait.mapStream (gid := gid) (sl := sl) (f := fun st => { st with fresh := false }) (s := s.unwait (gid, sl.src)))
    ⟨rfl, rfl, rfl⟩

theorem fetchInstr (h : Canonical s) : CanonicalTurn (s.fetchInstr gid sl) := by
  have begun := h.beginTurn (gid := gid) (sl := sl)
  unfold State.fetchInstr
  generalize s.beginTurn gid sl = s at begun
  dsimp only
  split
  · exact begun
  split
  · exact begun
  refine .ite begun (.ite ?_ (.ite begun.advance (.ite begun.recheckPc (.ite begun.trapStream (.ite begun.trapStream ?_)))))
  · split <;> exact begun
  split
  · next e => exact trapStream (begun.fetchLine.trap e)
  · next e => exact begun.fetchLine.lost e
  · next e => exact stallOn (begun.fetchLine.wait e)
  · next e =>
    have fetched {pass} := (begun.fetchLine.ok e).mapStream (gid := gid) (sl := sl) (f := fun st => { st with pass := some pass })
    refine .ite fetched.trapStream (.ite fetched.trapStream (.ite fetched.mapStream ?_))
    split
    · next e => exact mapStream (fetched.scan.ok e)
    · next e => exact trapStream (fetched.scan.trap e)
    · next e => exact fetched.scan.lost e
    · next e => exact stallOn (fetched.scan.wait e)

theorem takeTurn (h : Canonical s) : Canonical s.takeTurn.2 := by
  unfold State.takeTurn
  split <;> exact h

theorem openTurn (h : Canonical s) {x : Turn} : CanonicalTurn (s.openTurn x) := by
  cases x with
  | stream => exact h.fetchInstr
  | event => exact .ite h h
  | hostStore => exact h.performWrite
  | peerStore => exact h.peerStore
  | sclFails => exact h.other ⟨rfl, rfl, rfl⟩

/-! ### Semaphores -/

theorem setSem (h : Canonical s) (hg : s.grp? gid = some g) {k : Nat} {x : Sem} : Canonical (s.setGrp (g.setSem k x)) :=
  h.putGrp hg (g.setSem_spad k x)

theorem takeEngine (h : Canonical s) {q : EQueue} : Canonical (s.takeEngine g q) := by
  refine setStack (h.mapGrp fun g => ?_)
  dsimp only
  split
  · exact g.setQueue_spad _ _
  · rfl

theorem beginHead (h : Canonical s) {q : EQueue} : Canonical (s.beginHead g q) :=
  .ite h.takeEngine (h.mapGrp fun g => g.startHead_spad q)

theorem released (h : Canonical s) {w : Waiter} : Canonical (s.released gid w) := by
  cases w with
  | slice => exact h.advance
  | queue q => exact h.mapGrp fun g => g.startHead_spad q

theorem semTo (h : Canonical s) {k v : Nat} : Canonical (s.semTo gid k v) := by
  unfold State.semTo
  split
  · exact h
  · next hg => exact .ite (h.setSem hg) (.ite (h.setSem hg) (foldl (h.setSem hg) fun _ _ _ k => k.released))

theorem waitAgain (h : Canonical s) {k : Nat} : Canonical (s.waitAgain gid k) := by
  unfold State.waitAgain
  split
  · exact h
  · next hg => exact .ite h (semTo (h.setSem hg))

theorem stay (h : Canonical s) : Canonical (s.stay gid) := foldl (h.mapGrp fun _ => by rfl) fun _ _ _ k => k.waitAgain

theorem raiseHeads (h : Canonical s) : Canonical (s.raiseHeads g) := by
  refine h.foldl fun t q _ k => ?_
  split
  · exact k.raise
  · exact k

theorem starve (h : Canonical s) {k : Nat} : Canonical (s.starve gid k) := by
  unfold State.starve
  split
  · exact h
  · exact .ite h (raiseHeads (h.foldl fun _ _ _ k => .ite k.trapStream k))

theorem execSemWait (h : Canonical s) {k : BitVec 4} : CanonicalOut (execSemWait k s) :=
  issue fun _ _ _ hg => .ite (h.setSem hg).done (.next (starve (stallOn (h.setSem hg))))

theorem execSemSig (h : Canonical s) {k : BitVec 4} : CanonicalOut (execSemSig k s) :=
  issue fun _ _ _ _ => .ite h.trapNow (.ite (.next h.settleLoads.stallOn) h.settleLoads.release.semTo.done)

theorem execSemSet (h : Canonical s) {k : BitVec 4} {a : Reg} : CanonicalOut (execSemSet k a s) :=
  issue fun _ _ _ _ => .ite (.next h.loseControl) (.ite h.trapNow h.semTo.done)

theorem execSemCeil (h : Canonical s) {k : BitVec 4} {a : Reg} : CanonicalOut (execSemCeil k a s) :=
  issue fun _ _ _ hg => .ite (.next h.loseControl) (.ite h.trapNow (h.setSem hg).done)

/-! ### Transaction barriers -/

theorem tbarAt (h : Canonical s) {v : Viewer} {o : Nat} : Canonical (s.tbarAt v gid o).1 := by
  unfold State.tbarAt
  dsimp only
  split <;> exact h.drainOverlap

theorem setTbar (h : Canonical s) {o : Nat} {x : Tbar} : Canonical (s.setTbar gid o x) :=
  h.editGrp fun _ wf => Group.spadWrite_wf wf _ _ _ _

theorem tbarOp (h : Canonical s) {i : Instr} {a b : Reg} {max : Nat} {f : State → Nat → Slice → Nat → Nat → Tbar → Out}
    (hf : ∀ (t : State) (gid : Nat) (sl : Slice) (o c : Nat) (x : Tbar), Canonical t → CanonicalOut (f t gid sl o c x)) :
    CanonicalOut (tbarOp i a b max f s) := by
  refine issue fun _ _ _ _ => .ite (.next h.loseControl) (.ite h.trapNow ?_)
  split
  · next e => exact .next (h.tbarAt.fst e)
  · next e => exact .ite (.next (loseContext (h.tbarAt.fst e))) (hf _ _ _ _ _ _ (h.tbarAt.fst e))

theorem execTbarInit (h : Canonical s) {a b : Reg} : CanonicalOut (execTbarInit a b s) := h.tbarOp fun _ _ _ _ _ _ k => k.setTbar.done

theorem execTbarExp (h : Canonical s) {a b : Reg} : CanonicalOut (execTbarExp a b s) :=
  h.tbarOp fun _ _ _ _ _ _ k => .ite k.trapNow k.setTbar.done

theorem beginWait (h : Canonical s) {k : Stall} {x : WaitFor} : Canonical (s.beginWait gid sl k x) := by
  unfold State.beginWait
  split
  · exact h
  split
  · exact h.mapStream
  · exact other (s := s.mapStream gid sl _) h.mapStream ⟨by rfl, by rfl, by rfl⟩

theorem execTbarWait (h : Canonical s) {a b : Reg} : CanonicalOut (execTbarWait a b s) :=
  h.tbarOp fun _ _ _ _ _ _ k => .ite (.next k.beginWait) k.done

end

end Canonical

end Sys2Proof.Machine

namespace Sys2Proof.Machine

open Sys2Proof

/-- So it is in the state of an effect that does not trap. -/
def CanonicalTry (x : Except TrapInfo State) : Prop := ∀ t : State, x = .ok t → Canonical t

theorem CanonicalTry.ok {s : State} (h : Canonical s) : CanonicalTry (.ok s) := by
  rintro t ⟨⟩
  exact h

theorem CanonicalTry.error {y : TrapInfo} : CanonicalTry (.error y) := nofun

theorem CanonicalTry.ite {c : Prop} [Decidable c] {x y : Except TrapInfo State} (hx : CanonicalTry x) (hy : CanonicalTry y) :
    CanonicalTry (if c then x else y) := by
  split
  · exact hx
  · exact hy

/-! ### Scratchpads under the engines -/

section
variable {g : Group}

/-- A change of a group that leaves its scratchpad leaves it when it is repeated. -/
theorem Group.foldl_same_spad {α : Type} {f : Group → α → Group} {l : List α}
    (hf : ∀ g a, (f g a).spad = g.spad) : (l.foldl f g).spad = g.spad :=
  List.foldlRecOn l f (motive := fun h => h.spad = g.spad) rfl fun h k a _ => (hf h a).trans k

/-- A change that keeps the form of the scratchpad keeps it when it is repeated. -/
theorem Group.foldl_wf {α : Type} {f : Group → α → Group} {l : List α} (h : g.spad.wf = true)
    (hf : ∀ g a, g.spad.wf = true → (f g a).spad.wf = true) : (l.foldl f g).spad.wf = true :=
  List.foldlRecOn l f (motive := fun h => h.spad.wf = true) h fun g k a _ => hf g a k

theorem Group.raiseFlags_spad (g : Group) (f : FFlags) : (g.raiseFlags f).spad = g.spad := rfl

theorem Group.chkUnless_spad {p : Prop} [Decidable p] {m : BitVec 3} : (if p then g else g.setChk m).spad = g.spad := by
  split <;> rfl

theorem Group.setMchkIf_spad {p : Prop} [Decidable p] {i : Nat} {m : MchkRow} : (if p then g.setMchk i m else g).spad = g.spad := by
  split <;> rfl

theorem Group.drainWrite_wf (h : g.spad.wf = true) (i base : Nat) (bs : List Byte) : (g.drainWrite i base bs).spad.wf = true := by
  rw [Group.drainWrite_spad]
  exact Memory.write_wf h _ _

theorem Group.putElem_wf (h : g.spad.wf = true) (i : Nat) (r : Region) (f : Format) (k bits : Nat) :
    (g.putElem i r f k bits).spad.wf = true := by
  unfold Group.putElem
  dsimp only
  split <;> exact Group.spadWrite_wf h _ _ _ _

theorem Group.applyRow_wf (h : g.spad.wf = true) (i : Nat) (o : RowOut) : (g.applyRow i o).spad.wf = true :=
  Group.foldl_wf (Group.foldl_wf h fun _ _ k => Group.putElem_wf k _ _ _ _ _) fun _ _ k => Group.spadWrite_wf k _ _ _ _

theorem Group.redSpad_wf (h : g.spad.wf = true) (c : Cmd) (o src : Nat) (pz : Bool) : (g.redSpad c o src pz).1.spad.wf = true := by
  unfold Group.redSpad
  dsimp only
  split
  · rw [Group.foldl_poisonSpad]
    exact h
  · exact Group.spadWrite_wf h _ _ _ _

theorem Group.setHead_spad (g : Group) (q : EQueue) (c : Cmd) : (g.setHead q c).spad = g.spad := g.setQueue_spad _ _

theorem Group.unbegin_spad (g : Group) (q : EQueue) : (g.unbegin q).spad = g.spad := by
  unfold Group.unbegin
  split
  · rfl
  · dsimp only
    split
    · rfl
    split
    · exact g.setQueue_spad _ _
    · rw [Group.setSem_spad, Group.setQueue_spad]

end

namespace Canonical

section
variable {s t : State} {gid src n : Nat} {sl : Slice} {g : Group} {q : EQueue} {c : Cmd}

section
variable {p : Prop} [Decidable p]

theorem dataPoisonIf (h : Canonical s) : Canonical (if p then s.dataPoison gid else s) := .ite h.dataPoison h

theorem dataPoisonUnless (h : Canonical s) : Canonical (if p then s else s.dataPoison gid) := .ite h h.dataPoison

theorem countIf (h : Canonical s) : Canonical (if p then s.count gid src n else s) := .ite h.count h

theorem countUnless (h : Canonical s) : Canonical (if p then s else s.count gid src n) := .ite h h.count

theorem raiseIf (h : Canonical s) {y : TrapInfo} {skip : Bool} {k : Nat} :
    Canonical (if p then s.raise gid src y skip k else s) := .ite h.raise h

end

theorem setHead (h : Canonical s) : Canonical (s.mapGrp gid fun g => g.setHead q c) := h.mapGrp fun g => g.setHead_spad q c

/-! ### Matrix commands -/

theorem performMl (h : Canonical s) {b : Bool} : CanonicalTry (s.performMl gid c b) := by
  unfold State.performMl
  split
  · exact .ok h
  next g hg =>
  dsimp only
  split
  · exact .error
  split
  · exact .ok h
  · exact .ok (dataPoisonUnless (h.putGrp hg (Group.foldl_same_spad fun _ _ => by rfl)))

theorem performMm (h : Canonical s) : Canonical (s.performMm gid c) := by
  unfold State.performMm
  split
  · exact h
  next g hg =>
  have same : (if c.mod.getLsbD 0 then { g with active := g.shadow, shadow := g.active } else g).spad = g.spad := by
    split <;> rfl
  dsimp only
  split
  · exact h.putGrp hg same
  · exact dataPoisonIf (h.putGrp hg ((Group.foldl_same_spad fun _ _ => Group.foldl_same_spad fun _ _ => by rfl).trans same))

theorem performMzero (h : Canonical s) : Canonical (s.performMzero gid c) :=
  h.mapGrp fun _ => Group.foldl_same_spad fun _ _ => Group.foldl_same_spad fun _ _ => by rfl

theorem performMdrain (h : Canonical s) : Canonical (s.performMdrain gid c) := by
  unfold State.performMdrain
  split
  · exact h
  next g hg =>
  dsimp only
  split
  · exact h
  · refine countUnless (countUnless (h.setGrp ?_))
    dsimp only
    rw [Group.chkUnless_spad, Group.chkUnless_spad]
    refine Group.foldl_wf (h.spad hg) fun g x k => ?_
    rw [Group.report_spad]
    exact Group.drainWrite_wf k _ _ _

theorem performMfmt (h : Canonical s) : Canonical (s.performMfmt gid c) := by
  unfold State.performMfmt
  split
  · exact h
  split
  · exact h
  · exact h.setCtx

theorem performMchk (h : Canonical s) : Canonical (s.performMchk gid c) := by
  refine h.editGrp fun g k => Group.foldl_wf k fun g _ k => ?_
  dsimp only
  rw [Group.setMchkIf_spad]
  exact Group.spadWrite_wf k _ _ _ _

theorem takeRound (h : Canonical s) : Canonical (s.takeRound g c).1 := by
  unfold State.takeRound
  split
  · exact h
  · exact mapGrp (h.other ⟨by rfl, by rfl, by rfl⟩) fun _ => by rfl

theorem startMred (h : Canonical s) : Canonical (s.startMred gid c).1 := by
  unfold State.startMred
  split
  · exact h
  · refine mapGrp (other h.takeRound ⟨by rfl, by rfl, by rfl⟩) fun g => ?_
    split
    · exact g.setQueue_spad _ _
    · rfl

theorem finishMred (h : Canonical s) : CanonicalTry (s.finishMred gid c) := by
  unfold State.finishMred
  split
  · exact .ok h
  next g hg =>
  refine .ite .error (.ite (.ok (h.other ⟨by rfl, by rfl, by rfl⟩)) (.ok (setGrp (h.other ⟨by rfl, by rfl, by rfl⟩) ?_)))
  rw [Group.raiseFlags_spad]
  exact Group.foldl_wf (h.spad hg) fun _ _ k => Group.drainWrite_wf k _ _ _

/-! ### Vector commands -/

theorem performVx (h : Canonical s) {i : Instr} : Canonical (s.performVx gid i c) := by
  unfold State.performVx
  split
  · exact h
  next g hg =>
  refine .ite h (dataPoisonIf (h.setGrp (Group.foldl_wf (h.spad hg) fun g o k => ?_)))
  rw [Group.raiseFlags_spad]
  exact Group.applyRow_wf k _ _

/-! ### The issue of commands -/

theorem enter (h : Canonical s) {i : Instr} : Canonical (s.enter gid i q c) := by
  refine countIf (h.mapGrp fun g => ?_)
  split
  · split <;> exact g.setQueue_spad _ _
  · exact g.setQueue_spad _ _

theorem replay (h : Canonical s) {fuel : Nat} : CanonicalGot (s.replay gid sl q fuel) := by
  induction fuel generalizing s with
  | zero => exact h
  | succ fuel ih =>
    unfold State.replay
    split
    · exact h
    refine .ite h.mapStream ?_
    split
    · exact ih h.mapStream
    split
    · exact h
    refine .ite h ?_
    dsimp only
    split
    · exact h
    · exact ih h.enter.mapStream

theorem replayTurn (h : Canonical s) : CanonicalOut (s.replayTurn gid sl q) := finish h.replay fun _ _ k => k.done

theorem issueCmd (h : Canonical s) {i : Instr} {e : EWord} : CanonicalOut (issueCmd i e s) := by
  refine issue fun _ _ _ _ => ?_
  split
  · exact h.illegal
  refine .ite h.illegal (.ite h.replayTurn (.ite (.next h.loseControl) ?_))
  split
  · exact h.trapNow
  · exact .ite (.next h.stallOn) (.ite h.enter.done (.ite h.enter.mapStream.replayTurn h.enter.mapStream.done))

theorem execNestSet (h : Canonical s) {dim : BitVec 3} {nx : BitVec 2} {a b d : Reg} : CanonicalOut (execNestSet dim nx a b d s) :=
  issue fun _ _ _ hg => .ite (.next h.loseControl) (done (h.putGrp hg (by rfl)))

theorem execErep (h : Canonical s) {k nx : BitVec 2} {m : BitVec 4} : CanonicalOut (execErep k nx m s) :=
  issue fun _ _ _ _ => .ite h.illegal (.ite h.trapNow h.setStream.done)

theorem execQfence (h : Canonical s) {qm : BitVec 4} : CanonicalOut (execQfence qm s) :=
  issue fun _ _ _ hg => .ite (.next h.stallOn) (done (h.putGrp hg (Group.foldl_same_spad fun g _ => g.setQueue_spad _ _)))

/-! ### Copies -/

theorem settleEngine (h : Canonical s) : Canonical (s.settleEngine gid) := h.foldl fun _ _ _ k => k.drainWhere

theorem engineAccess (h : Canonical s) {a : Nat} {need : Need} {uo : Bool} : CanonicalGot (s.engineAccess g q c a n need uo) := by
  unfold State.engineAccess
  split
  · exact h
  have translated {w v cx l} := h.translateAll (w := w) (v := v) (cx := cx) (need := need) (l := l)
  dsimp only
  split
  · exact translated.loseContext
  · split <;> exact translated

theorem sourceParts (h : Canonical s) {b : Burst} : CanonicalGot (s.sourceParts g q c b) := by
  refine .ite h.engineAccess ?_
  split <;> exact h

theorem destParts (h : Canonical s) {b : Burst} {red : Bool} : CanonicalGot (s.destParts g q c b red) := .ite h.engineAccess h

theorem poisonSectors (h : Canonical s) {l : MemLoc} : Canonical (s.poisonSectors l n) := by
  unfold State.poisonSectors
  split
  · refine .ite h (h.foldl fun t a _ k => ?_)
    obtain ⟨vault, host, groups⟩ := State.poisonVault_memories t a
    exact k.other ⟨vault, host, groups⟩
  · exact h.other ⟨rfl, rfl, rfl⟩
  · exact h

theorem redAt (h : Canonical s) {v : Viewer} {l : MemLoc} {pz : Bool} : Canonical (s.redAt v c l src pz).1 := by
  unfold State.redAt
  dsimp only
  split
  · exact h.drainOverlap.poisonSectors
  · exact h.drainOverlap.performWrite

theorem writeSpad (h : Canonical s) {red : Bool} {o : Nat} {bs : List (Byte × Bool)} {y : Tally} :
    Canonical (s.writeSpad gid c red o bs y).1 := by
  unfold State.writeSpad
  split
  · exact h
  next g hg =>
  split
  · refine h.setGrp (List.foldlRecOn (motive := fun x : Group × Tally => x.1.spad.wf = true) _ _ (h.spad hg) fun x k e _ => ?_)
    exact Group.redSpad_wf k c _ _ _
  · exact h.setGrp (Group.spadWrite_wf (h.spad hg) _ _ _ _)

theorem settleSpad (h : Canonical s) {o : Nat} : Canonical (s.settleSpad gid o n) := h.foldl fun _ _ _ k => k.drainWhere

theorem burstInto (h : Canonical s) {red : Bool} {b : Burst} {bs : List (Byte × Bool)} {y z : Tally}
    (e : s.burstInto c red b bs gid y = some (t, z)) : Canonical t := by
  unfold State.burstInto at e
  split at e
  · cases e
    exact h
  next g _ =>
  have written : Canonical (if g.inRange b.dst then (s.settleSpad gid b.dst.toNat b.n).writeSpad gid c red b.dst.toNat bs y
      else (s, { y with clipped := y.clipped + b.n })).1 := by
    split
    · exact h.settleSpad.writeSpad
    · exact h
  dsimp only at e
  split at e
  · cases e
    exact written
  · have barrier {v o} := written.drainAll.tbarAt (gid := gid) (v := v) (o := o)
    split at e
    · cases e
    · next f =>
      split at e <;> cases e
      · exact setTbar (barrier.fst f)
      · exact barrier.fst f
    · next f =>
      cases e
      exact barrier.fst f

theorem burstAll (h : Canonical s) {red : Bool} {b : Burst} {bs : List (Byte × Bool)} {gids : List Nat} {y z : Tally}
    (e : s.burstAll c red b bs gids y = some (t, z)) : Canonical t := by
  induction gids generalizing s y with
  | nil =>
    cases e
    exact h
  | cons gid rest ih =>
    unfold State.burstAll at e
    split at e
    · cases e
    · next f => exact ih (h.burstInto f) e

theorem burstMem (h : Canonical s) {v : Viewer} {red : Bool} {p : Part} {bs : List (Byte × Bool)} {y : Tally} :
    Canonical (s.burstMem v c red p bs y).1 := by
  unfold State.burstMem
  split
  · exact List.foldlRecOn (motive := fun x : State × Tally => Canonical x.1) _ _ h fun x k _ _ => k.redAt
  · exact h.drainOverlap.performWrite

theorem burstEnd (h : Canonical s) {b : Burst} {y : Tally} : Canonical (s.burstEnd gid q c b y) := by
  exact raiseIf (countUnless (countUnless (countUnless h.setHead)))

theorem copyTrap (h : Canonical s) {y : TrapInfo} : Canonical (s.copyTrap gid q c y) := h.setHead.raise

theorem burstWrite (h : Canonical s) {red : Bool} {b : Burst} {x : BurstHold} {bs : List (Byte × Bool)} :
    Canonical (s.burstWrite gid q g c red b x bs) := by
  have sent {asks} := h.sendSome (gid := gid) (src := q.src) (slot := true) (sent := c.reqs) (asks := asks)
  refine .ite sent.setHead ?_
  split
  · split
    · split
      · exact burstEnd (sent.other ⟨by rfl, by rfl, by rfl⟩)
      · exact (burstMem (sent.other ⟨by rfl, by rfl, by rfl⟩)).burstEnd
    · exact sent.other ⟨rfl, rfl, rfl⟩
  · split
    · next e => exact (burstAll (sent.other ⟨by rfl, by rfl, by rfl⟩) e).burstEnd
    · exact loseContext (sent.other ⟨by rfl, by rfl, by rfl⟩)

theorem readSource (h : Canonical s) {v : Viewer} {reqs : List Nat} {read : List (Byte × Bool)} {ps : List Part} :
    Canonical (s.readSource gid q v g reqs read ps).1 := by
  induction ps generalizing s reqs read with
  | nil => exact h
  | cons p rest ih =>
    have sent {asks} := h.sendSome (gid := gid) (src := q.src) (slot := true) (sent := reqs) (asks := asks)
    unfold State.readSource
    dsimp only
    split
    · exact sent
    · exact ih (sent.other ⟨by rfl, by rfl, by rfl⟩)

theorem copyMove (h : Canonical s) {red : Bool} {b : Burst} {x : BurstHold} : Canonical (s.copyMove gid q g c red b x) := by
  unfold State.copyMove
  split
  · exact h.burstWrite
  · exact .ite h.readSource.burstWrite h.readSource.setHead

theorem burstSlots (h : Canonical s) {peers : List Nat} : Canonical (s.burstSlots gid q peers).1 := by
  unfold State.burstSlots
  dsimp only
  split
  · exact h.waitPort
  · exact h

theorem copyStep (h : Canonical s) {red : Bool} {b : Burst} : Canonical (s.copyStep gid q g c red b) := by
  unfold State.copyStep
  split
  · exact h.copyMove
  split
  · exact h.copyTrap
  · exact h.setHead
  · have parts : CanonicalGot ((s.sourceParts g q c b).bind fun s sps => (s.destParts g q c b red).bind fun s dps => .ok s (sps, dps)) :=
      h.sourceParts.bind fun _ _ k => k.destParts.bind fun _ _ k => k
    dsimp only
    split
    · next e => exact copyTrap (parts.trap e)
    · next e => exact parts.lost e
    · next e => exact parts.wait e
    · next e =>
      refine .ite (parts.ok e) ?_
      split
      · next f => exact (parts.ok e).burstSlots.fst f
      · next f => exact copyMove ((parts.ok e).burstSlots.fst f)

end

end Canonical

end Sys2Proof.Machine

namespace Sys2Proof.Machine

open Sys2Proof

/-- The state of an effect that is named. -/
theorem CanonicalTry.of {x : Except TrapInfo State} {s : State} (h : CanonicalTry x) (e : x = .ok s) : Canonical s := h s e

namespace Canonical

section
variable {s t : State} {gid src n : Nat} {sl : Slice} {g : Group} {q : EQueue} {c : Cmd}

/-! ### Heads of queues -/

theorem execEngineCommandStart (h : Canonical s) : CanonicalOut (execEngineCommandStart gid q s) := by
  unfold Machine.execEngineCommandStart
  split
  · exact .next h
  split
  · exact .next h
  · next c _ _ =>
    have kept {x : Sem} : Canonical (s.mapGrp gid fun g => g.setSem c.wsem.toNat x) := h.mapGrp fun g => g.setSem_spad _ _
    exact .ite (.next h) (.ite (.ite (.next h.takeEngine) (.next h)) (.ite (.ite (.next h) (.ite (.next h.beginHead)
      (.next kept.beginHead))) (.ite (.next h) (.next kept.starve))))

theorem meetHead (h : Canonical s) : Canonical (s.meetHead gid q) := by
  unfold State.meetHead
  split
  · exact h
  next g hg =>
  split
  · exact h
  · refine .ite h (.ite (h.putGrp hg ?_) (h.setSem hg))
    rw [Group.startHead_spad, Group.setSem_spad]

theorem meetHeads (h : Canonical s) : Canonical s.meetHeads := h.foldl fun _ _ _ k => k.foldl fun _ _ _ k => k.meetHead

theorem completeHead (h : Canonical s) : Canonical (s.completeHead gid q c) := by
  have left : Canonical (s.mapGrp gid fun g => g.setQueue q ((g.queue q).drop 1)) := h.mapGrp fun g => g.setQueue_spad _ _
  refine .ite left ?_
  split
  · exact left
  · exact .ite left.raise left.semTo

theorem settlePoison (h : Canonical s) : Canonical (s.settlePoison gid c) := .ite h.dataPoison h

/-! ### Performance -/

theorem matrixEffect (h : Canonical s) {i : Instr} : CanonicalTry (s.matrixEffect gid i c) := by
  unfold State.matrixEffect
  split
  · exact h.performMl
  · exact h.performMl
  · exact .ok h.performMm
  · exact .ok h.performMzero
  · exact .ok h.performMdrain
  · exact .ok (h.mapGrp fun _ => by rfl)
  · exact .ok h.performMfmt
  · exact .ok h.performMchk
  · exact .ok h

theorem matrixTrap (h : Canonical s) {y : TrapInfo} : Canonical (s.matrixTrap gid c y) :=
  raise (h.mapGrp fun g => g.unbegin_spad _)

theorem performMred (h : Canonical s) : Canonical (s.performMred gid g c) := by
  refine .ite h ?_
  have started := h.settleEngine (gid := gid) |>.startMred (gid := gid) (c := c)
  dsimp only
  split
  · exact completeHead (settlePoison (started.mapGrp fun _ => by rfl))
  · exact started.setHead

theorem execMatrixCommandPerform (h : Canonical s) : CanonicalOut (execMatrixCommandPerform gid s) := by
  unfold Machine.execMatrixCommandPerform
  split
  · exact .next h
  split
  · exact .next h
  split
  · exact .next h.performMred
  · refine .ite (.next h.completeHead) ?_
    split
    · exact .next h.settleEngine.matrixTrap
    · next e => exact .next (completeHead (h.settleEngine.matrixEffect.of e))
  · exact .next h

theorem execMredRoundComplete (h : Canonical s) : CanonicalOut (execMredRoundComplete gid s) := by
  unfold Machine.execMredRoundComplete
  split
  · exact .next h
  split
  · exact .next h
  split
  · refine .ite (.next h) ?_
    split
    · exact .next h.matrixTrap
    · next e => exact .next (completeHead (settlePoison (mapGrp (h.finishMred.of e) fun _ => by rfl)))
  · exact .next h

theorem execVectorCommandPerform (h : Canonical s) : CanonicalOut (execVectorCommandPerform gid s) := by
  unfold Machine.execVectorCommandPerform
  split
  · exact .next h
  split
  · exact .next h
  split
  · exact .ite (.next h.completeHead) (.next h.settleEngine.performVx.completeHead)
  · exact .next h

theorem execCopyBurst (h : Canonical s) : CanonicalOut (execCopyBurst gid q s) := by
  unfold Machine.execCopyBurst
  split
  · exact .next h
  split
  · exact .next h
  refine .ite (.next h) ?_
  split
  · exact .next h
  dsimp only
  split
  · exact .next h.settleEngine.unwait.copyStep
  · exact .next h.settleEngine.unwait

theorem execCopyPerform (h : Canonical s) : CanonicalOut (execCopyPerform gid q s) := by
  unfold Machine.execCopyPerform
  split
  · exact .next h
  split
  · exact .next h
  · exact .ite (.next h) (.next (completeHead (settlePoison (h.mapGrp fun _ => by rfl))))

theorem execQfencePerform (h : Canonical s) : CanonicalOut (execQfencePerform gid q s) := by
  unfold Machine.execQfencePerform
  split
  · exact .next h
  split
  · exact .next h
  split
  · exact .next h
  · exact .ite (.next h) (.next (h.mapGrp fun _ => Group.foldl_same_spad fun g _ => g.setQueue_spad _ _))

theorem watchdog (h : Canonical s) : Canonical (s.watchdog gid) := by
  unfold State.watchdog
  split
  · exact .ite (raise (h.mapGrp fun _ => by rfl)) h
  · exact h

theorem execReductionWatchdog (h : Canonical s) : CanonicalOut (execReductionWatchdog gid s) := .next h.watchdog

end

end Canonical

end Sys2Proof.Machine

namespace Sys2Proof.Machine

open Sys2Proof

/-- So it is in whatever comes of an access of the device's own agents. -/
def CanonicalDev {α : Type} (x : Dev α) : Prop :=
  match x with
  | .ok s _ => Canonical s
  | .bad s => Canonical s
  | .poison s _ _ _ => Canonical s
  | .wait s => Canonical s

section
variable {α β : Type} {x : Dev α} {s : State}

theorem CanonicalDev.ok {a : α} (h : CanonicalDev x) (e : x = .ok s a) : Canonical s := by
  subst e
  exact h

theorem CanonicalDev.bad (h : CanonicalDev x) (e : x = .bad s) : Canonical s := by
  subst e
  exact h

theorem CanonicalDev.poison {l : MemLoc} {va : Nat} {table : Bool} (h : CanonicalDev x) (e : x = .poison s l va table) :
    Canonical s := by
  subst e
  exact h

theorem CanonicalDev.wait (h : CanonicalDev x) (e : x = .wait s) : Canonical s := by
  subst e
  exact h

theorem CanonicalDev.ite {c : Prop} [Decidable c] {y : Dev α} (hx : CanonicalDev x) (hy : CanonicalDev y) :
    CanonicalDev (if c then x else y) := by
  split
  · exact hx
  · exact hy

theorem CanonicalDev.bind {f : State → α → Dev β} (h : CanonicalDev x) (hf : ∀ (t : State) (a : α), Canonical t → CanonicalDev (f t a)) :
    CanonicalDev (x.bind f) := by
  cases x with
  | ok t a => exact hf t a h
  | bad | poison | wait => exact h

end

theorem Group.forgetCode_spad (g : Group) (sl : Slice) : (g.forgetCode sl).spad = g.spad := by
  unfold Group.forgetCode
  exact Group.setStream_spad ..

namespace Canonical

section
variable {s t : State} {gid src n : Nat} {sl : Slice} {g : Group} {cx : Context}

/-! ### The device's own agents -/

theorem devParts (h : Canonical s) {need : Need} {l : List (Nat × Nat)} : CanonicalDev (s.devParts cx need l) := by
  induction l with
  | nil => exact h
  | cons x rest ih =>
    unfold State.devParts
    split
    · exact h
    · exact h
    · exact .ite h (ih.bind fun _ _ k => k)

theorem devRange (h : Canonical s) {need : Need} {va : Nat} : CanonicalDev (s.devRange cx need va n) := h.devParts

theorem devSend (h : Canonical s) {a : PeerAsk} : Canonical (s.devSend a).1 := by
  unfold State.devSend
  split
  · exact h.other ⟨rfl, rfl, rfl⟩
  split
  · next e => exact other (h.sendWith.fst e) ⟨by rfl, by rfl, by rfl⟩
  · next e => exact h.sendWith.fst e

theorem devSendAll (h : Canonical s) {asks : List PeerAsk} : Canonical (s.devSendAll asks).1 := by
  induction asks generalizing s with
  | nil => exact h
  | cons a rest ih =>
    unfold State.devSendAll
    split
    · next e => exact ih (h.devSend.fst e)
    · next e => exact h.devSend.fst e

theorem devDone (h : Canonical s) : Canonical s.devDone := h.other ⟨rfl, rfl, rfl⟩

theorem withLinks (h : Canonical s) : Canonical (s.withLinks t) := h.other ⟨rfl, rfl, rfl⟩

theorem devAwait (h : Canonical s) : CanonicalDev s.devAwait := .ite h h

theorem devAskAll (h : Canonical s) {asks : List PeerAsk} : Canonical (s.devAskAll asks).1 := by
  induction asks generalizing s with
  | nil => exact h
  | cons a rest ih =>
    unfold State.devAskAll
    split
    · next e => exact h.devSend.fst e
    · next e =>
      have sent := h.devSend.fst e
      split
      · exact sent
      · split
        · next f => exact (ih sent).fst f
        · next f => exact (ih sent).fst f

theorem devPart (h : Canonical s) {p : Part} : Canonical (s.devPart p).1 := by
  unfold State.devPart
  split
  · split
    · next e => exact h.devAskAll.fst e
    · next e => exact h.devAskAll.fst e
  · exact h

theorem devBytes (h : Canonical s) {control : Bool} {ps : List Part} : CanonicalDev (s.devBytes control ps) := by
  induction ps generalizing s with
  | nil => exact h
  | cons p rest ih =>
    unfold State.devBytes
    split
    · next e => exact h.devPart.fst e
    · next e =>
      split
      · exact h.devPart.fst e
      · exact (ih (h.devPart.fst e)).bind fun _ _ k => k

theorem devRead (h : Canonical s) {va : Nat} : CanonicalDev (s.devRead cx va n) := h.devRange.bind fun _ _ k => k.devBytes

theorem devPut (h : Canonical s) {ps : List Part} {bs : List Byte} {pz : Bool} : CanonicalDev (s.devPut ps bs pz) := by
  induction ps generalizing s bs with
  | nil => exact h
  | cons p rest ih =>
    unfold State.devPut
    dsimp only
    split
    · split
      · next e => exact ih (h.devSendAll.fst e)
      · next e => exact h.devSendAll.fst e
    · exact ih h.drainOverlap.performWrite

theorem devWrite (h : Canonical s) {va : Nat} {bs : List Byte} {rel : Bool} : CanonicalDev (s.devWrite cx va bs rel) :=
  h.devRange.bind fun t _ k => CanonicalDev.ite (x := .wait t) k (devPut (.ite k.drainAll k))

theorem orLose {x : Dev Unit} (h : CanonicalDev x) (hs : Canonical s) {c : Nat} {gid : Option Nat} : Canonical (x.orLose s c gid) := by
  cases x with
  | ok => exact devDone h
  | wait => exact hs.withLinks
  | bad | poison => exact devDone (loseContext h)

/-! ### Slice control and control registers -/

theorem execNop (h : Canonical s) : CanonicalOut (execNop s) := issue fun _ _ _ _ => h.done

theorem execYieldSlice (h : Canonical s) : CanonicalOut (execYieldSlice s) := issue fun _ _ _ _ => h.done

theorem execJoin (h : Canonical s) : CanonicalOut (execJoin s) := issue fun _ _ _ _ => .next h.setStream

theorem execIfence (h : Canonical s) : CanonicalOut (execIfence s) :=
  issue fun _ sl _ _ => .ite (done (mapStream (h.drainAll.mapGrp fun g => g.forgetCode_spad sl))) (.next h.drainAll.stallOn)

theorem execTrapSw (h : Canonical s) {a : Reg} : CanonicalOut (execTrapSw a s) := issue fun _ _ _ _ => .next h.trapStream

theorem execBrk (h : Canonical s) : CanonicalOut (execBrk s) := issue fun _ _ _ _ => .next h.trapStream

theorem execIllegalInstruction (h : Canonical s) {w1 w2 : BitVec 32} : CanonicalOut (execIllegalInstruction w1 w2 s) :=
  issue fun _ _ _ _ => h.trapNow

theorem execStepb (h : Canonical s) : CanonicalOut (execStepb s) := issue fun _ _ _ _ => h.setStream.done

theorem execChkErr (h : Canonical s) {d : Reg} : CanonicalOut (execChkErr d s) :=
  issue fun _ _ _ _ => .ite h.setStream.done (.next h.setStream)

theorem execGrpid (h : Canonical s) {d : Reg} : CanonicalOut (execGrpid d s) := issue fun _ _ _ _ => h.setStream.done

theorem execRdcr (h : Canonical s) {d : Reg} {k : BitVec 5} : CanonicalOut (execRdcr d k s) := issue fun _ _ _ _ => h.setStream.done

theorem execWrcr (h : Canonical s) {a : Reg} {k : BitVec 5} : CanonicalOut (execWrcr a k s) := by
  refine issue fun _ _ _ _ => .ite (.next h.loseControl) (done (h.mapGrp fun g => ?_))
  unfold Group.wrcr
  split
  case h_3 => split <;> rfl
  all_goals rfl

theorem execRdcnt (h : Canonical s) {d : Reg} {k : BitVec 5} : CanonicalOut (execRdcnt d k s) := issue fun _ _ _ _ => h.setStream.done

end

end Canonical

end Sys2Proof.Machine

namespace Sys2Proof.Machine

open Sys2Proof

theorem CanonicalDev.done {α : Type} {s : State} {a : α} (h : Canonical s) : CanonicalDev (.ok s a) := h

theorem CanonicalDev.foldl {α : Type} {x : Dev Unit} (h : CanonicalDev x) {f : α → State → Unit → Dev Unit} {l : List α}
    (hf : ∀ (a : α) (t : State), Canonical t → CanonicalDev (f a t ())) : CanonicalDev (l.foldl (fun x a => x.bind (f a)) x) :=
  List.foldlRecOn l _ (motive := CanonicalDev) h fun _ k a _ => k.bind fun t _ => hf a t

/-! ### Scratchpads of groups that stop, and that start again -/

theorem Group.freeEngines_spad (g : Group) : g.freeEngines.spad = g.spad := by
  unfold Group.freeEngines
  dsimp only
  rw [Group.setQueue_spad, Group.setQueue_spad]

theorem Group.restored_spad (g : Group) (im : List Byte) : (g.from_ im).spad = g.spad := by
  unfold Group.from_
  dsimp only

namespace Canonical

section
variable {s t : State} {gid src n : Nat} {sl : Slice} {g : Group} {cx : Context}

theorem restoreFrom (h : Canonical s) (hg : g.spad.wf = true) {im : List Byte} : Canonical (s.restoreFrom g im).1 := by
  have put {x : Group} (wf : x.spad.wf = true) {p : Prop} [Decidable p] : Canonical (if p then s.setGrp x else (s.setGrp x).dataPoison g.gid) :=
    .ite (h.setGrp wf) (h.setGrp wf).dataPoison
  unfold State.restoreFrom
  dsimp only
  refine put ?_
  rw [Group.foldl_same_spad fun g _ => g.setMchk_spad _ _]
  dsimp only
  rw [Group.restored_spad]
  exact hg

/-! ### Stops -/

theorem finishReq (h : Canonical s) {a status c : Nat} : Canonical (s.finishReq a status c) := h.drainAll.performWrite

theorem settlePreempts (h : Canonical s) : Canonical s.settlePreempts :=
  .ite h (foldl (h.other ⟨by rfl, by rfl, by rfl⟩) fun _ _ _ k => k.finishReq)

theorem withdraw (h : Canonical s) : Canonical (s.withdraw gid) := by
  unfold State.withdraw
  split
  · exact h
  next g hg =>
  split
  · exact h
  split
  · exact .ite h (h.putGrp hg (g.unbegin_spad _))
  · exact h

theorem settleGroup (h : Canonical s) : Canonical (s.settleGroup gid) := dropOrphans (mapGrp h.withdraw.fillAll fun _ => by rfl)

theorem recordStop (h : Canonical s) {image : Option Nat} : Canonical (s.recordStop gid g cx image) :=
  mapGrp h.setCtx fun g => g.halt.freeEngines_spad

theorem execGroupStopComplete (h : Canonical s) : CanonicalOut (execGroupStopComplete gid s) := by
  unfold Machine.execGroupStopComplete
  split
  · exact .next h
  refine .ite (.next h) ?_
  have settled := h.settleGroup (gid := gid)
  dsimp only
  split
  · exact .next settled
  split
  · exact .next settled
  refine .ite (.next settled) ?_
  split
  · exact .next settled.recordStop.settlePreempts
  · exact .next (orLose (settled.devWrite.bind fun _ _ k => k.devAwait.bind fun _ _ k => .done k.recordStop.settlePreempts) settled)

/-! ### Rings -/

theorem recordWritten (h : Canonical s) {c : Nat} {w : WaitingRec} : Canonical (s.recordWritten c w) := by
  unfold State.recordWritten
  split
  · exact h
  · exact .ite (h.setCtx.mapGrp fun _ => by rfl) (pushEvent (h.setCtx.mapGrp fun _ => by rfl))

theorem execTrapRecordWrite (h : Canonical s) {c : Nat} : CanonicalOut (execTrapRecordWrite c s) := by
  unfold Machine.execTrapRecordWrite
  split
  · exact .next h
  split
  · exact .next h
  · exact .next (orLose (h.devRead.bind fun t _ k => CanonicalDev.ite (x := .bad t) k (CanonicalDev.ite (x := .ok t ()) k
      (k.devWrite.bind fun _ _ k => k.devWrite.bind fun _ _ k => .done k.recordWritten))) h)

theorem execEventWrite (h : Canonical s) : CanonicalOut (execEventWrite s) := by
  unfold Machine.execEventWrite
  split
  · exact .ite (.next (h.other ⟨by rfl, by rfl, by rfl⟩))
      (.ite (.next h) (.next (other h.drainAll.performWrite.performWrite ⟨by rfl, by rfl, by rfl⟩)))
  · exact .next h

/-! ### Saving -/

theorem saveSpad (h : Canonical s) {a : Nat} : CanonicalDev (s.saveSpad cx g a) :=
  .foldl (x := .ok s ()) h fun _ _ k => k.devRange.bind fun _ _ k => k.devPut

theorem dropHeldCopies (h : Canonical s) : Canonical s.dropHeldCopies := h.other ⟨rfl, rfl, rfl⟩

theorem saveGroup (h : Canonical s) : CanonicalDev (s.saveGroup gid) := by
  unfold State.saveGroup
  split
  · exact h
  split
  · exact h
  split
  · exact h
  · exact h.devWrite.bind fun _ _ k => k.saveSpad.bind fun _ _ k => k.devAwait.bind fun _ _ k =>
      dropHeldCopies (k.setCtx.editGrp fun _ _ => rfl)

theorem execGroupSave (h : Canonical s) : CanonicalOut (execGroupSave gid s) := by
  unfold Machine.execGroupSave
  split
  · exact .next h
  refine .ite (.next h) ?_
  split
  · exact .next h
  have settled {gs : List Group} : Canonical (gs.foldl (fun (s : State) (h : Group) => s.settleGroup h.gid) s) :=
    h.foldl fun _ _ _ k => k.settleGroup
  refine .ite (.next settled) (.ite (.next (settlePreempts (settled.foldl fun _ _ _ k => k.stay))) ?_)
  exact .next (orLose (CanonicalDev.bind (CanonicalDev.foldl (x := .ok _ ()) settled.drainAll fun _ _ k => k.saveGroup) fun _ _ k =>
    .done k.settlePreempts) settled)

/-! ### Restarting -/

theorem restartChecks (h : Canonical s) {latch : Option TrapInfo} : Canonical (s.restartChecks gid latch) := by
  have check {t : State} (k : Canonical t) {sl : Slice} : Canonical (match t.grp? gid with
      | none => t
      | some g =>
        if (g.stream sl).joined || (g.stream sl).skip || (g.stream sl).pc == g.code || g.status != .running then t
        else t.recheckPc gid sl) := by
    split
    · exact k
    · exact .ite k k.recheckPc
  unfold State.restartChecks
  split
  · exact h
  dsimp only
  split
  · exact check (check h)
  · have raised {bad : List (EQueue × Cmd)} : Canonical (bad.foldl (fun (s : State) x =>
        s.raise gid x.1.src { cause := 0x01, status := (x.2.w2 ++ x.2.w1 : BitVec 64) } false x.2.idx) s) :=
      h.foldl fun _ _ _ k => k.raise
    split
    · exact raised.raise
    · exact raised

theorem freeImageIndex (h : Canonical s) {c i : Nat} : Canonical (s.freeImageIndex c i) := by
  unfold State.freeImageIndex
  split
  · exact h.setCtx
  · exact h

theorem loadSpad (h : Canonical s) {a : Nat} : CanonicalDev (s.loadSpad cx gid g a) := by
  refine .foldl (x := .ok s ()) h fun _ _ k => k.devRange.bind fun t ps k => ?_
  have read := k.devBytes (control := true) (ps := ps)
  split
  · next e => exact (read.ok e).editGrp fun _ wf => Group.spadWrite_wf wf _ _ _ _
  · next e => exact (read.poison e).editGrp fun _ wf => Group.spadWrite_wf wf _ _ _ _
  · next e => exact read.bad e
  · next e => exact read.wait e

theorem restart (h : Canonical s) (hg : g.spad.wf = true) {image : Option Nat} : CanonicalDev (s.restart gid g cx image) := by
  cases image with
  | none => exact restartChecks (h.mapGrp fun _ => by rfl)
  | some i => exact h.devRead.bind fun _ _ k => restartChecks (freeImageIndex (mapGrp (k.restoreFrom hg) fun _ => by rfl))

theorem bringBack (h : Canonical s) : CanonicalDev (s.bringBack gid) := by
  unfold State.bringBack
  split
  · exact h
  next g hg =>
  split
  · exact h.devRead.bind fun _ _ k =>
      (mapGrp (k.restoreFrom (h.spad hg)) fun _ => by rfl).loadSpad.bind fun _ _ k => k.freeImageIndex.restartChecks
  · exact h

/-! ### The start of a job -/

theorem firstScan (h : Canonical s) : Canonical (s.firstScan gid sl) := by
  unfold State.firstScan
  split
  · exact h
  refine .ite h.trapStream ?_
  split
  · next e => exact mapStream (h.scan.ok e)
  · next e => exact trapStream (h.scan.trap e)
  · next e => exact h.scan.lost e
  · next e => exact h.scan.wait e

theorem startJob (h : Canonical s) {idx : List Nat} {args : List Word} : Canonical (s.startJob gid idx args) := by
  unfold State.startJob
  split
  · exact h
  split
  · exact h
  · exact (firstScan (firstScan (h.setGrp rfl)))

end

end Canonical

end Sys2Proof.Machine

namespace Sys2Proof.Machine

open Sys2Proof

theorem CanonicalGot.done {α : Type} {s : State} {a : α} (h : Canonical s) : CanonicalGot (.ok s a) := h

theorem CanonicalGot.stay {α : Type} {s : State} (h : Canonical s) : CanonicalGot (α := α) (.wait s) := h

theorem CanonicalGot.fails {α : Type} {s : State} {y : TrapInfo} (h : Canonical s) : CanonicalGot (α := α) (.trap s y) := h

namespace Canonical

section
variable {s t : State} {gid src n : Nat} {sl : Slice} {g : Group} {cx : Context}

/-! ### Accesses to the tables -/

theorem walkAnew (h : Canonical s) {w : TlbHolder} {c : Nat} {vas : List Nat} : Canonical (s.walkAnew w c vas) := by
  rw [State.walkAnew_frame]
  exact h.other ⟨rfl, rfl, rfl⟩

theorem kvPieces (h : Canonical s) {need : Need} {l : List (Nat × Nat)} : CanonicalGot (s.kvPieces gid sl need l) := by
  induction l generalizing s with
  | nil => exact h
  | cons x rest ih => exact h.access.bind fun _ _ k => (ih k).bind fun _ _ k => k

theorem kvAccess (h : Canonical s) {need : Need} {l : List (Nat × Nat)} : CanonicalGot (s.kvAccess gid sl need l) := by
  unfold State.kvAccess
  split
  · exact h.walkAnew.kvPieces
  · exact h

theorem kvRange (h : Canonical s) {need : Need} {va : Nat} : CanonicalGot (s.kvRange gid sl need va n) := h.kvAccess

theorem settlePart (h : Canonical s) {p : Part} : Canonical (s.settlePart gid sl p) := by
  unfold State.settlePart
  split
  · exact h.drainOverlap
  · exact h

theorem loseTable (h : Canonical s) {p : Part} {k : Nat} : Canonical (s.loseTable gid sl p k) := by
  unfold State.loseTable
  split
  · exact h.loseContext
  · exact h

theorem readUnits (h : Canonical s) {p : Part} {id a : Nat} {l : List (Nat × Nat)} : CanonicalGot (s.readUnits gid sl p id a l) := by
  induction l generalizing s with
  | nil => exact h
  | cons x rest ih =>
    obtain ⟨b, m⟩ := x
    unfold State.readUnits
    dsimp only
    split
    · exact ih h
    · refine CanonicalGot.bind ?_ fun _ _ k => ih k
      split
      · exact h
      · refine CanonicalGot.ite (loseTable (h.other ⟨by rfl, by rfl, by rfl⟩))
          (other (t := { State.mapStream _ _ _ _ with peerTab := _ }) (mapStream ?_) ⟨rfl, rfl, rfl⟩)
        split
        · exact dropOwn (h.other ⟨by rfl, by rfl, by rfl⟩)
        · exact h.other ⟨rfl, rfl, rfl⟩
    · refine CanonicalGot.ite (x := .wait s) h ?_
      split
      · next e => exact h.sendWith.fst e
      · next e =>
        refine CanonicalGot.bind ?_ fun _ _ k => ih k
        have sent {f} := mapStream (gid := gid) (sl := sl) (f := f) (h.sendWith.fst e)
        split
        · exact sent
        · refine CanonicalGot.ite (loseTable (other sent ⟨by rfl, by rfl, by rfl⟩))
            (other (t := { State.mapStream _ _ _ _ with peerTab := _ }) (mapStream ?_) ⟨rfl, rfl, rfl⟩)
          split
          · exact dropOwn (other sent ⟨by rfl, by rfl, by rfl⟩)
          · exact other sent ⟨by rfl, by rfl, by rfl⟩

theorem controlParts (h : Canonical s) {ps : List Part} : CanonicalGot (s.controlParts gid sl ps) := by
  induction ps generalizing s with
  | nil => exact h
  | cons p rest ih =>
    unfold State.controlParts
    split
    · exact h.readUnits.bind fun _ _ k => ih k
    · dsimp only
      split
      · exact h.settlePart.loseTable
      · exact ih h.settlePart

theorem tableParts (h : Canonical s) {ps : List Part} : CanonicalGot (s.tableParts gid sl ps) :=
  CanonicalGot.ite (x := .wait s) h (h.controlParts.bind fun _ _ k => k)

theorem kvTable (h : Canonical s) {need : Need} {va : Nat} : CanonicalGot (s.kvTable gid sl need va n) :=
  CanonicalGot.ite (x := .wait s) h (h.kvRange.bind fun _ _ k => k.tableParts)

theorem seqRow (h : Canonical s) {need : Need} {seq : Nat} : CanonicalGot (s.seqRow gid sl cx need seq) := by
  refine h.kvTable.bind fun _ ps k => ?_
  cases ps <;> exact k

/-! ### Writes of the tables -/

theorem putTable (h : Canonical s) {l : MemLoc} {bs : List Byte} : Canonical (s.putTable gid sl l bs) := by
  unfold State.putTable
  split
  · refine mapStream ?_
    split
    · exact h.dropOwn
    · exact h
  · exact h.performWrite

theorem rowWritable (h : Canonical s) {l : MemLoc} : CanonicalGot (s.rowWritable gid sl l n) := by
  unfold State.rowWritable
  split
  · split
    · exact h
    · next e => exact h.sendWith.fst e
  · exact h

theorem putFirn (h : Canonical s) {l : MemLoc} {v : Nat} : Canonical (s.putFirn gid sl l v) := h.putTable

theorem zeroPage (h : Canonical s) {c : Nat} {w : Word} : Canonical (s.zeroPage c w) := by
  refine .ite h ?_
  obtain ⟨vault, host, groups⟩ := iff.1 (h.logWrite (l := .vault (pageBase w)) (n := 65536))
  exact iff.2 ⟨Memory.clear_wf vault _ _, host, groups⟩

theorem poolAccess (h : Canonical s) {pick : List PoolSlot → List PoolSlot} : CanonicalGot (s.poolAccess gid sl cx pick) :=
  h.kvTable.bind fun _ _ k => k.kvAccess.bind fun t _ k => CanonicalGot.ite (y := .wait t) k k

theorem putEntry (h : Canonical s) {x : PoolSlot} {e : KvEntry} : Canonical (s.putEntry gid sl x e) := h.putTable

theorem freeEntry (h : Canonical s) {x : PoolSlot} : Canonical (s.freeEntry gid sl cx x) := h.putEntry.zeroPage

theorem freeWindow (h : Canonical s) {ps : List Part} {seq w : Nat} : Canonical (s.freeWindow gid sl cx ps seq w) :=
  h.foldl fun _ _ _ k => k.freeEntry

theorem closeWindow (h : Canonical s) {c seq w : Nat} : Canonical (s.closeWindow c seq w) := by
  refine h.mapGroups rfl rfl rfl fun g => ?_
  split <;> rfl

/-! ### Recurrent state -/

theorem putSectors (h : Canonical s) {v : Viewer} {l : List (Part × (List Byte × Bool))} : Canonical (s.putSectors v l) := by
  induction l generalizing s with
  | nil => exact h
  | cons x rest ih =>
    refine ih ?_
    split
    · exact h
    · exact h.drainOverlap.performWrite

theorem sealWindow (h : Canonical s) {m : KvMove} {k : Nat} : Canonical (s.sealWindow gid sl cx m k) := by
  refine putTable (putFirn (foldl (foldl h.drainAll fun _ _ _ k => ?_) fun _ _ _ k => .ite k.closeWindow k))
  exact .ite k.putEntry k.freeEntry

theorem endMove (h : Canonical s) {m : KvMove} : Canonical (s.endMove gid sl cx m) := by
  have ended : Canonical (State.mapStream { s with sealing := s.sealing.filter (fun x => x != (cx.num, m.seq, m.win)) } gid sl
    (fun st => { st with kv := none, reqs := [] })) := mapStream (h.other ⟨by rfl, by rfl, by rfl⟩)
  unfold State.endMove
  dsimp only
  split
  · exact ended.sealWindow
  · exact ended.putFirn

theorem moveOut (h : Canonical s) {m : KvMove} {got : List (List Byte × Bool)} {held : List Nat} :
    CanonicalGot (s.moveOut gid sl g cx m got held) := by
  have dropped {l : List (Part × (List Byte × Bool))} : Canonical (l.foldl (fun s x => s.dropOwn g.ctl x.1.loc x.1.n) s) :=
    h.foldl fun _ _ _ k => k.dropOwn
  have sent {held asks} := (dropped (l := m.dst.zip got)).sendSome (gid := gid) (src := sl.src) (slot := false) (sent := held) (asks := asks)
  exact .ite (.stay sent.mapStream) (.done sent.putSectors.endMove)

theorem moveOn (h : Canonical s) : CanonicalGot (s.moveOn gid sl) := by
  unfold State.moveOn
  split
  · exact h
  next g _ =>
  split
  · split
    · exact h.moveOut
    · have sent {held asks} := h.sendSome (gid := gid) (src := sl.src) (slot := false) (sent := held) (asks := asks)
      dsimp only
      split
      · exact mapStream sent
      · exact moveOut (foldl (other sent ⟨by rfl, by rfl, by rfl⟩) fun _ _ _ k => k.dropOwn)
  · exact h

theorem startMove (h : Canonical s) {c : Nat} {m : KvMove} : Canonical (s.startMove gid sl c m) :=
  other (h.mapStream (gid := gid) (sl := sl) (f := fun st => { st with kv := some m })) ⟨by rfl, by rfl, by rfl⟩

theorem releaseSystem (h : Canonical s) : CanonicalGot (s.releaseSystem gid sl) :=
  .ite (.done h.settleLoads.drainAll) (.stay h.settleLoads)

theorem eventFree (h : Canonical s) {c seq : Nat} : CanonicalGot (s.eventFree c seq) := .ite (.stay h) (.done h)

theorem sendTables (h : Canonical s) : Canonical (s.sendTables gid sl).1 := by
  unfold State.sendTables
  split
  · exact h
  next g _ =>
  have sent {held asks} := h.sendSome (gid := gid) (src := sl.src) (slot := false) (sent := held) (asks := asks)
  dsimp only
  split
  · exact mapStream sent
  · refine mapStream (foldl sent fun _ _ _ k => ?_)
    split
    · exact k.dropOwn
    · exact k

theorem kvSend (h : Canonical s) : CanonicalOut (s.kvSend gid sl) := by
  unfold State.kvSend
  split
  · next e => exact done (h.sendTables.fst e)
  · next e => exact .next (stallOn (h.sendTables.fst e))

theorem kvEnd (h : Canonical s) : CanonicalOut (s.kvEnd gid sl) := finish h.moveOn fun _ _ k => k.kvSend

theorem kvOp (h : Canonical s) {srcs : List Reg} {d : Option Reg} {f : State → Nat → Slice → Group → Stream → Context → Got Word}
    (hf : ∀ (t : State) (gid : Nat) (sl : Slice) (g : Group) (st : Stream) (cx : Context), Canonical t → CanonicalGot (f t gid sl g st cx)) :
    CanonicalOut (kvOp srcs d f s) := by
  refine issue fun _ _ _ _ => .ite h.kvEnd (.ite (.next h.loseControl) ?_)
  split
  · exact .next h
  · refine finish (hf _ _ _ _ _ _ h.settleLoads) fun _ _ k => kvEnd ?_
    split
    · exact k.mapStream
    · exact k

theorem badOperand {α : Type} (h : Canonical s) {i : Instr} : CanonicalGot (badOperand (α := α) s i) := h

theorem windowRow (h : Canonical s) {seq : Nat} : CanonicalGot (s.windowRow gid sl cx seq) :=
  h.seqRow.bind fun _ _ k => k.eventFree.bind fun _ _ k => k

/-! ### The instructions -/

theorem execKvAlloc (h : Canonical s) {d a b : Reg} : CanonicalOut (execKvAlloc d a b s) := by
  refine h.kvOp fun _ _ _ _ _ _ k => .ite k.badOperand (k.poolAccess.bind fun _ _ k => ?_)
  split
  · exact k.count
  · exact k.drainAll.zeroPage.putEntry

theorem execKvFree (h : Canonical s) {a : Reg} : CanonicalOut (execKvFree a s) := by
  refine h.kvOp fun _ _ _ _ _ _ k => k.poolAccess.bind fun _ _ k => ?_
  split
  · exact k
  · exact k.drainAll.freeEntry

theorem openWindow (h : Canonical s) {seq w : Nat} {r : SeqRow} : Canonical (s.openWindow cx seq w r) := by
  obtain ⟨cs, e⟩ := s.openWindow_frame cx seq w r
  rw [e]
  exact h.other ⟨rfl, rfl, rfl⟩

theorem execFirnOpen (h : Canonical s) {d a : Reg} : CanonicalOut (execFirnOpen d a s) := by
  refine h.kvOp fun _ _ _ _ _ _ k => ?_
  split
  · exact k.badOperand
  · exact k.windowRow.bind fun _ _ k => .ite (.fails k) (.ite (.fails k) (.ite (.done k.count) (.done k.putFirn.openWindow)))

theorem execFirnBind (h : Canonical s) {a : Reg} : CanonicalOut (execFirnBind a s) := by
  refine h.kvOp fun _ _ _ _ _ _ k => ?_
  dsimp only
  split
  · exact k.badOperand
  · exact k.windowRow.bind fun _ _ k =>
      .ite (.fails k) (.ite (.fails k) (.ite (.done k) (.ite (.fails k) (.done (k.putFirn.mapGrp fun _ => by rfl)))))

theorem execFirnUnbind (h : Canonical s) : CanonicalOut (execFirnUnbind s) := by
  refine h.kvOp fun _ _ _ _ _ _ k => ?_
  split
  · exact k
  · exact k.windowRow.bind fun _ _ k => .done (k.putFirn.mapGrp fun _ => by rfl)

theorem dropWindow (h : Canonical s) {ps : List Part} {r : SeqRow} {seq w : Nat} : Canonical (s.dropWindow gid sl cx ps r seq w) :=
  h.drainAll.freeWindow.putFirn.closeWindow

theorem execFirnDrop (h : Canonical s) {a : Reg} : CanonicalOut (execFirnDrop a s) := by
  refine h.kvOp fun _ _ _ _ _ _ k => ?_
  split
  · exact k.badOperand
  · exact k.windowRow.bind fun _ _ k => k.poolAccess.bind fun _ _ k => .ite (.fails k) (.done k.dropWindow)

theorem execRsCkpt (h : Canonical s) {a b : Reg} : CanonicalOut (execRsCkpt a b s) := by
  refine h.kvOp fun _ _ _ _ _ _ k => ?_
  dsimp only
  split
  · exact k.badOperand
  · exact k.windowRow.bind fun _ _ k => .ite k.badOperand (.ite (.fails k) (.ite (.fails k) (.ite (.fails k) (.ite (.fails k)
      (CanonicalGot.bind (.ite (.done k) k.kvRange) fun _ _ k => .done k.startMove)))))

theorem execFirnSeal (h : Canonical s) {a b : Reg} : CanonicalOut (execFirnSeal a b s) := by
  refine issue fun _ _ _ _ => .ite h.illegal (h.kvOp fun _ _ _ _ _ _ k => ?_)
  dsimp only
  split
  · exact k.badOperand
  · refine .ite k.badOperand (CanonicalGot.bind (.ite (.done k) k.releaseSystem) fun _ _ k => k.windowRow.bind fun _ _ k =>
      k.poolAccess.bind fun _ _ k => CanonicalGot.bind (.ite (.done k) k.kvRange) fun _ _ k =>
        CanonicalGot.bind (.ite (.done k) k.kvRange) fun _ _ k => ?_)
    exact .ite (.fails k) (.ite (.fails k) (.ite (.done k.dropWindow) (.ite (.fails k) (.done k.startMove))))

theorem snapshot (h : Canonical s) {v : Viewer} {o : Nat} {bs : List Byte} : Canonical (s.snapshot gid sl v o bs) :=
  h.foldl fun _ _ _ k => k.storePart

theorem execSeqClaim (h : Canonical s) {d a : Reg} {p : BitVec 4} : CanonicalOut (execSeqClaim d a p s) := by
  refine h.kvOp fun _ _ _ _ _ _ k => .ite k.badOperand (k.kvTable.bind fun _ _ k => ?_)
  dsimp only
  split
  · exact k
  · refine k.seqRow.bind fun _ _ k => .ite (.stay k) (k.rowWritable.bind fun _ _ k => .done (snapshot ?_))
    split
    · exact k.putTable.setCtx
    · exact k.putTable

theorem rowRelease (h : Canonical s) {i : Instr} {a : Reg} {phase : SeqRow → Nat} : CanonicalOut (rowRelease i a phase s) :=
  h.kvOp fun _ _ _ _ _ _ k => .ite k.badOperand (k.releaseSystem.bind fun _ _ k => k.seqRow.bind fun _ _ k => k.eventFree.bind fun _ _ k =>
    .ite (.fails k) (k.rowWritable.bind fun _ _ k => .done k.putTable))

end

end Canonical

end Sys2Proof.Machine

namespace Sys2Proof.Machine

open Sys2Proof

namespace Canonical

section
variable {s t : State} {gid src n : Nat} {sl : Slice} {g : Group} {cx : Context} {l : Launch}

/-! ### The end of a job of a bound group -/

theorem boundRow (h : Canonical s) : CanonicalGot (s.boundRow g) := by
  unfold State.boundRow
  split
  · dsimp only
    split
    · exact h
    · exact h.loseContext
    · exact h.tableParts.bind fun _ _ k => k
  · exact h

theorem unbindAtEnd (h : Canonical s) : CanonicalGot (s.unbindAtEnd gid) := by
  unfold State.unbindAtEnd
  split
  · exact h
  refine h.boundRow.bind fun _ x k => ?_
  split
  · exact k.mapGrp fun _ => by rfl
  · refine k.eventFree.bind fun t _ k => ?_
    have unbound {row v} := (k.mapGrp (gid := gid) (f := fun g => { g with firn := 0 }) fun _ => rfl).putFirn
      (gid := gid) (sl := .c) (l := row) (v := v)
    dsimp only
    split
    · next e => exact unbound.sendTables.fst e
    · next e => exact unbound.sendTables.fst e

/-! ### Chain sets and launches -/

theorem shedSet (h : Canonical s) {lid west : Nat} : Canonical (s.shedSet lid west) := by
  unfold State.shedSet
  split
  · exact h
  · exact .ite h h.setLaunch

theorem calve (h : Canonical s) {lid west : Nat} : Canonical (s.calve lid west) := by
  unfold State.calve
  split
  · exact h
  split
  · exact h
  · exact .ite h h.setLaunch.shedSet

theorem settleCalving (h : Canonical s) : Canonical s.settleCalving := by
  refine h.foldl fun _ _ _ k => k.foldl fun _ _ _ k => ?_
  split
  · exact k
  split
  · exact k
  · exact .ite k.setLaunch k.calve

theorem queueError (h : Canonical s) {c : Nat} : Canonical (s.queueError c) := h.foldl fun _ _ _ k => k.countStack

theorem writeRecord (h : Canonical s) {c compl status jobs : Nat} {ffl : BitVec 6} {chk : BitVec 3} :
    CanonicalDev (s.writeRecord c compl status jobs ffl chk) := by
  refine .ite (.done h) (.ite (.done h.queueError) ?_)
  split
  · exact h
  · have written {cx va bs} := h.devWrite (cx := cx) (va := va) (bs := bs) (rel := true)
    dsimp only
    split
    · next e => exact written.ok e
    · next e => exact queueError (written.bad e)
    · next e => exact loseContext (written.poison e)
    · next e => exact written.wait e

theorem completeLaunches (h : Canonical s) {lid fuel : Nat} : Canonical (s.completeLaunches lid fuel) := by
  induction fuel generalizing s lid with
  | zero => exact h
  | succ fuel ih =>
    unfold State.completeLaunches
    split
    · exact h
    refine .ite h ?_
    split
    · next e =>
      have ended := (h.writeRecord.ok e).devDone
      dsimp only
      split
      · exact ih (ended.other ⟨by rfl, by rfl, by rfl⟩)
      · exact ended.other ⟨rfl, rfl, rfl⟩
    · exact h.withLinks
    · next e => exact h.writeRecord.bad e
    · next e => exact h.writeRecord.poison e

theorem childEnded (h : Canonical s) {p : Option Nat} : Canonical (s.childEnded p) := by
  cases p with
  | none => exact h
  | some => exact h.completeLaunches

theorem countJob (h : Canonical s) : Canonical (s.countJob g) := by
  unfold State.countJob
  split
  · exact h
  · exact h.setLaunch

theorem freeGroup (h : Canonical s) : Canonical (s.freeGroup g) :=
  completeLaunches (shedSet (h.countPoison.groups (by rfl) (by rfl) fun g k => .inr ⟨g, List.mem_of_mem_filter k, rfl⟩))

theorem awaitWork (h : Canonical s) {lid : Nat} : Canonical (s.awaitWork gid lid) := by
  unfold State.awaitWork
  split
  · exact h
  · exact .ite h h.setLaunch

theorem startWork (h : Canonical s) {w : Work} : Canonical (s.startWork gid l w) := by
  have placed := (h.setLaunch (l := l.served gid)).mapGrp (gid := gid)
    (f := fun g => { g with unit := w.unit, chunk := w.chunk, iter := w.iter }) fun _ => rfl
  refine startJob ?_
  split
  · exact placed.setCtx
  · exact placed

theorem endJob (h : Canonical s) : Canonical (s.endJob g) := by
  have counted : Canonical ((s.countJob g).calve g.lid g.west) := h.countJob.calve
  unfold State.endJob
  dsimp only
  split
  · exact counted.freeGroup
  split
  · exact h.awaitWork
  · exact .ite counted.startWork.dropOrphans (.ite h h.awaitWork)
  · exact counted.freeGroup.settlePreempts.dropOrphans

theorem execJobEnd (h : Canonical s) : CanonicalOut (execJobEnd gid s) := by
  unfold Machine.execJobEnd
  split
  · exact .next h
  refine .ite (.next h.sendTables) (.ite (.next h) ?_)
  have unbound := h.drainAll.unbindAtEnd (gid := gid)
  split
  · next e =>
    refine .next ?_
    split
    · exact (unbound.ok e).endJob
    · exact unbound.ok e
  · next e => exact .next (unbound.wait e)
  · next e => exact .next (unbound.lost e)
  · next e => exact .next (unbound.trap e)

/-! ### `walk.next` and `coresid` -/

theorem endWalk (h : Canonical s) {da dc : Reg} {idx : Option (List Nat)} : Canonical (s.endWalk gid da dc idx) :=
  advance (advance (h.mapGrp fun _ => by rfl))

theorem walkPast (h : Canonical s) {b : Bool} : Canonical (s.walkPast gid b) := h.mapGrp fun _ => by rfl

theorem walkOn (h : Canonical s) {da dc : Reg} : Canonical (s.walkOn gid g da dc) := by
  have filled := h.fillAll (gid := gid)
  have counted : Canonical (((s.fillAll gid).drainAll.countJob g).calve g.lid g.west) := filled.drainAll.countJob.calve
  refine .ite filled ?_
  dsimp only
  split
  · exact endWalk (counted.mapGrp fun _ => by rfl)
  split
  · exact filled.walkPast.awaitWork
  · exact .ite filled.walkPast (endWalk (counted.setLaunch.mapGrp fun _ => by rfl))
  · exact .ite (.ite filled.walkPast filled.walkPast.awaitWork) (endWalk (counted.setLaunch.mapGrp fun _ => by rfl))

theorem execWalkNext (h : Canonical s) {d : Reg} : CanonicalOut (execWalkNext d s) := by
  refine issue fun _ _ _ _ => .ite h.trapNow ?_
  dsimp only
  split
  · exact .next h.setStream
  · exact .ite (.next h.setStream) (.next h.setStream.walkOn)

theorem execCoresid (h : Canonical s) {d : Reg} : CanonicalOut (execCoresid d s) := issue fun _ _ _ _ => h.setStream.done

end

end Canonical

end Sys2Proof.Machine

namespace Sys2Proof.Machine

open Sys2Proof

namespace Canonical

section
variable {s t : State} {gid src n : Nat} {sl : Slice} {g : Group} {cx : Context} {l : Launch}

/-! ### Packets and queues -/

theorem takeLaunch (h : Canonical s) {p : Packet} {queue : Nat} {parent : Option Nat} : CanonicalDev (s.takeLaunch cx p queue parent) := by
  have refuse {t : State} (k : Canonical t) {status : Nat} :
      CanonicalDev ((t.writeRecord cx.num p.compl.toNat status 0 0 0).bind (fun s _ => .ok (s.childEnded parent) ())) :=
    k.writeRecord.bind fun _ _ k => .done k.childEnded
  have read {va m} := h.devRead (cx := cx) (va := va) (n := m)
  unfold State.takeLaunch
  dsimp only
  split
  · exact refuse h
  split
  · exact .ite (refuse h) (.ite (refuse h) (.done (h.other ⟨by rfl, by rfl, by rfl⟩)))
  · split
    · next e =>
      have k := read.ok e
      split
      · exact refuse k
      · exact .ite (refuse k) (.ite (refuse k) (.done (k.other ⟨by rfl, by rfl, by rfl⟩)))
    · next e => exact refuse (read.bad e)
    · next e => exact read.poison e
    · next e => exact refuse (read.poison e)
    · next e => exact read.wait e

theorem queueBad (h : Canonical s) {c k : Nat} : Canonical (s.queueBad c k) := by
  unfold State.queueBad
  split
  · exact h
  · exact .ite h h.setCtx.queueError

theorem queueGood (h : Canonical s) {c k : Nat} : Canonical (s.queueGood c k) := by
  unfold State.queueGood
  split
  · exact h
  · exact h.setCtx

theorem takeHost (h : Canonical s) {k : Nat} : CanonicalDev (s.takeHost cx k) := by
  have header {va} := h.devRead (cx := cx) (va := va) (n := 136)
  unfold State.takeHost
  dsimp only
  split
  · next e => exact queueBad (header.bad e)
  · next e => exact header.wait e
  · next e => exact header.poison e
  · next e =>
    have found := header.ok e
    have packet {va} := found.devRead (cx := cx) (va := va) (n := 128)
    refine .ite (.done found.queueBad) (.ite (.done found.queueGood) ?_)
    split
    · next e => exact queueBad (packet.bad e)
    · next e => exact packet.wait e
    · next e => exact packet.poison e
    · next e =>
      have written {va bs} := (packet.ok e).devWrite (cx := cx) (va := va) (bs := bs) (rel := true)
      split
      · next e => exact queueBad (written.bad e)
      · next e => exact written.wait e
      · next e => exact written.poison e
      · next e => exact (written.ok e).queueGood.takeLaunch

theorem unspill (h : Canonical s) : CanonicalDev (s.unspill cx) := by
  unfold State.unspill
  split
  · exact h
  · refine h.devRead.bind fun _ _ k => ?_
    split
    · exact k
    · exact k.setCtx

theorem takeDevice (h : Canonical s) : CanonicalDev (s.takeDevice cx) := by
  unfold State.takeDevice
  split
  · exact h
  · exact h.setCtx.unspill.bind fun _ _ k => k.takeLaunch

theorem execPacketTake (h : Canonical s) {queue : Nat} : CanonicalOut (execPacketTake queue s) := by
  unfold Machine.execPacketTake
  dsimp only
  split
  · exact .next h
  · exact .ite (.next h) (.next (orLose (.ite h.takeHost h.takeDevice) h))

/-! ### Placement -/

theorem placeGroup (h : Canonical s) {rect : Nat × Nat} {gnum : Nat} {w : Work} : Canonical (s.placeGroup cx l rect gnum w).1 := by
  refine h.groups rfl rfl fun g k => ?_
  obtain k | k := List.mem_append.1 k
  · exact .inr ⟨g, k, rfl⟩
  · rw [List.mem_singleton.1 k]
    exact .inl rfl

theorem placeAll (h : Canonical s) : Canonical (s.placeAll cx l) := by
  refine .ite h (foldl ?_ fun _ _ _ k => k.startWork)
  exact List.foldlRecOn (motive := fun x : State × List (Nat × Nat) => Canonical x.1) _ _ h.setLaunch fun _ k _ _ => k.placeGroup

theorem placeOne (h : Canonical s) (e : s.placeOne cx l = some t) : Canonical t := by
  unfold State.placeOne at e
  split at e
  · cases e
  · cases e
    exact h.placeGroup.startWork

theorem place (h : Canonical s) {lid fuel : Nat} : Canonical (s.place lid fuel) := by
  induction fuel generalizing s with
  | zero => exact h
  | succ fuel ih =>
    unfold State.place
    split
    · exact h
    split
    · exact h
    refine .ite h (.ite h.placeAll ?_)
    split
    · next e => exact ih (h.placeOne e)
    · exact h

theorem execGroupPlacement (h : Canonical s) {lid : Nat} : CanonicalOut (execGroupPlacement lid s) := by
  unfold Machine.execGroupPlacement
  dsimp only
  split
  · exact .next h.completeLaunches
  · exact .next (place (foldl h.completeLaunches fun _ _ _ k => k.calve))

theorem execLaunchAdmit (h : Canonical s) {lid : Nat} : CanonicalOut (execLaunchAdmit lid s) := by
  unfold Machine.execLaunchAdmit
  split
  · exact .next h
  · exact .ite (.next h) (.next (place (h.other ⟨by rfl, by rfl, by rfl⟩)))

/-! ### Pre-emption, saved groups and calving -/

theorem execPreemptionRequest (h : Canonical s) : CanonicalOut (execPreemptionRequest gid s) := by
  unfold Machine.execPreemptionRequest
  split
  · exact .next h
  · refine .ite (.next h) (.next (h.mapGroups rfl rfl rfl fun g => ?_))
    split <;> rfl

theorem execGroupResume (h : Canonical s) : CanonicalOut (execGroupResume gid s) := by
  unfold Machine.execGroupResume
  split
  · exact .next h
  · exact .ite (.next h) (.next (orLose (.foldl (x := .ok s ()) h fun _ _ k => k.bringBack) h))

theorem execCalvingRequest (h : Canonical s) {lid set : Nat} : CanonicalOut (execCalvingRequest lid set s) := by
  unfold Machine.execCalvingRequest
  split
  · exact .next h
  split
  · exact .next h
  · refine .ite (.next h) (.next (h.mapGroups rfl rfl rfl fun g => ?_))
    split <;> rfl

theorem execCalve (h : Canonical s) {lid set : Nat} : CanonicalOut (execCalve lid set s) := by
  unfold Machine.execCalve
  split
  · exact .next h
  split
  · exact .next h
  · exact .ite (.next h.setLaunch) (.next h.calve)

theorem execChainSetAdd (h : Canonical s) {lid set : Nat} : CanonicalOut (execChainSetAdd lid set s) := by
  unfold Machine.execChainSetAdd
  split
  · exact .next h
  · exact .ite (.next h) (.next h.setLaunch)

/-! ### `launch` -/

theorem enterPacket (h : Canonical s) {lid : Nat} {ws : List Word} {x : Dev Unit} (e : s.enterPacket cx lid ws = some x) :
    CanonicalDev x := by
  unfold State.enterPacket at e
  split at e
  · cases e
    exact h.setCtx
  split at e
  · cases e
    refine h.devWrite.bind fun _ _ k => ?_
    split
    · exact k.setCtx
    · exact k
  · cases e

theorem launchPacket (h : Canonical s) {ws : List Word} : CanonicalOut (s.launchPacket gid sl g ws) := by
  unfold State.launchPacket
  dsimp only
  split
  · exact .next h
  refine .ite (.next h.mapStream) ?_
  split
  · exact .next h.mapStream
  next e =>
  have entered := h.enterPacket e
  split
  · exact done (other (entered.ok rfl).devDone.mapStream ⟨by rfl, by rfl, by rfl⟩)
  · exact .next h.withLinks.mapStream
  · exact .next (orLose entered h)

theorem execLaunch (h : Canonical s) {d : Reg} : CanonicalOut (execLaunch d s) := by
  refine issue fun gid sl _ _ => ?_
  split
  · exact h.launchPacket
  refine .ite (.next h.loseControl) (finish (h.access.bind fun t parts k => ?_) fun _ _ k => .ite (.next k.loseContext) k.launchPacket)
  have passed {c : Prop} [Decidable c] {f} : Canonical (State.mapStream (if c then t.settleLoads gid sl else t) gid sl f) :=
    mapStream (.ite k.settleLoads k)
  exact .ite (.stay passed) (passed.drainAll.readSlice.bind fun _ _ k => .done k.mapStream)

end

end Canonical

end Sys2Proof.Machine

namespace Sys2Proof.Machine

open Sys2Proof

namespace Canonical

section
variable {s t : State} {gid src n : Nat} {sl : Slice} {g : Group} {cx : Context}

/-! ### Management requests -/

theorem takeReqs (h : Canonical s) {m : Nat} {r : Ring} {ps : List Nat} : Canonical (s.takeReqs m r ps) := by
  induction ps generalizing s with
  | nil => exact h
  | cons p rest ih => exact ih (other h.drainAll.performWrite ⟨by rfl, by rfl, by rfl⟩)

theorem takeRequests (h : Canonical s) {b : BootCfg} : Canonical (s.takeRequests b) := .ite h h.takeReqs

theorem manage (h : Canonical s) {mine : MgmtReq → Bool} {f : State → MgmtReq → Dev Unit}
    (hf : ∀ (t : State) (r : MgmtReq), Canonical t → CanonicalDev (f t r)) : CanonicalOut (s.manage mine f) := by
  unfold State.manage
  split
  · exact .next h
  refine .ite (.next h) ?_
  next b _ =>
  have taken := (h.takeRequests (b := b)).settlePreempts
  dsimp only
  split
  · exact .next taken
  split
  · exact .next taken
  next k _ _ r _ =>
  have performed := hf { (s.takeRequests b).settlePreempts with mgmtQ := (s.takeRequests b).settlePreempts.mgmtQ.eraseIdx k } r
    (taken.other ⟨by rfl, by rfl, by rfl⟩)
  split
  · next e => exact .next (performed.ok e).devDone
  · exact .next taken.withLinks
  · next e => exact .next (performed.bad e).devDone
  · next e => exact .next (performed.poison e).devDone

theorem manageNow (h : Canonical s) {opc : Nat} {f : State → MgmtReq → State × Nat}
    (hf : ∀ (t : State) (r : MgmtReq), Canonical t → Canonical (f t r).1) : CanonicalOut (s.manageNow opc f) :=
  h.manage fun t r k => .done (hf t r k).finishReq

theorem execMgmtInvalidRequest (h : Canonical s) : CanonicalOut (execMgmtInvalidRequest s) :=
  h.manage fun _ _ k => .done (.ite k k.finishReq)

theorem execCreateCtx (h : Canonical s) : CanonicalOut (execCreateCtx s) := by
  refine h.manage fun t r k => ?_
  dsimp only
  refine .ite k.finishReq ?_
  split
  · exact k.finishReq
  · exact finishReq (k.other ⟨by rfl, by rfl, by rfl⟩)

theorem execKillCtx (h : Canonical s) : CanonicalOut (execKillCtx s) := by
  refine h.manageNow fun t r k => ?_
  split
  · exact k.endContext
  · exact k

theorem mapGroupsOf (h : Canonical s) {c : Nat} {f : Group → Group} (spad : ∀ g, (f g).spad = g.spad) :
    Canonical (s.mapGroupsOf c f) := by
  refine h.mapGroups rfl rfl rfl fun g => ?_
  split
  · exact spad g
  · rfl

theorem execPreemptCtx (h : Canonical s) : CanonicalOut (execPreemptCtx s) := by
  refine h.manage fun t r k => ?_
  split
  · exact k.finishReq
  · refine settlePreempts (other (s := State.mapGroupsOf _ _ _) (k.setCtx.mapGroupsOf fun g => ?_) ⟨rfl, rfl, rfl⟩)
    split <;> rfl

theorem execResumeCtx (h : Canonical s) : CanonicalOut (execResumeCtx s) := by
  refine h.manageNow fun t r k => ?_
  split
  · exact k
  · refine k.setCtx.mapGroupsOf fun g => ?_
    split <;> rfl

theorem execResumeGroup (h : Canonical s) : CanonicalOut (execResumeGroup s) := by
  refine h.manage fun t r k => ?_
  split
  · exact k.finishReq
  next cx _ =>
  split
  · exact k.finishReq
  next g stopped =>
  split
  · next image _ =>
    have restarted := k.restart (gid := g.gid) (cx := cx) (image := image) (k.mem (List.mem_of_find?_eq_some stopped))
    refine CanonicalDev.ite (x := .wait t) k ?_
    split
    · next e => exact finishReq (restarted.ok e)
    · next e => exact restarted.wait e
    · next e => exact finishReq (loseContext (restarted.bad e))
    · next e => exact finishReq (loseContext (restarted.poison e))
  · exact k

theorem recallEntries (h : Canonical s) {u : UnmapReq} : Canonical (s.recall u) := h.other ⟨rfl, rfl, rfl⟩

theorem execUnmap (h : Canonical s) : CanonicalOut (execUnmap s) :=
  h.manage fun _ _ k => .ite k.finishReq (.done (other (.ite k.recallEntries k) ⟨by rfl, by rfl, by rfl⟩))

theorem execUnmapComplete (h : Canonical s) {k : Nat} : CanonicalOut (execUnmapComplete k s) := by
  unfold Machine.execUnmapComplete
  split
  · exact .next h
  · next u _ =>
    have recalled := h.recallEntries (u := u)
    exact .ite (.next recalled) (.next (finishReq (recalled.other ⟨by rfl, by rfl, by rfl⟩)))

theorem execPwin (h : Canonical s) : CanonicalOut (execPwin s) := by
  refine h.manageNow fun t r k => ?_
  dsimp only
  split
  · exact k.other ⟨rfl, rfl, rfl⟩
  · exact k

theorem execFrame (h : Canonical s) : CanonicalOut (execFrame s) := by
  refine h.manageNow fun t r k => ?_
  dsimp only
  split
  · exact k
  · exact k.setOwner

theorem execPcfg (h : Canonical s) : CanonicalOut (execPcfg s) := h.manageNow fun _ _ k => k.setPort

theorem execQrel (h : Canonical s) : CanonicalOut (execQrel s) := h.manageNow fun _ _ k => k.setPort

theorem execRoute (h : Canonical s) : CanonicalOut (execRoute s) := h.manageNow fun _ _ k => k.other ⟨rfl, rfl, rfl⟩

end

end Canonical

end Sys2Proof.Machine

namespace Sys2Proof.Machine

open Sys2Proof

namespace Canonical

section
variable {s t : State} {gid src n : Nat} {sl : Slice} {g : Group} {cx : Context}

/-! ### Requests of the host -/

theorem agentWrite (h : Canonical s) {l : MemLoc} {bs : List Byte} : Canonical (s.agentWrite l bs) := by
  unfold State.agentWrite
  split
  · exact List.foldlRecOn (motive := fun x : State × List Byte => Canonical x.1) _ _ h fun _ k _ _ => k.drainOverlap.performWrite
  · exact h.drainOverlap.performWrite

theorem hostRequest (h : Canonical s) {a : Nat} {ordered : Bool} {f : State → Nat → State}
    (hf : ∀ p, Canonical (f s p)) : CanonicalOut (s.hostRequest a n ordered f) := by
  unfold State.hostRequest
  split
  · exact .next (h.other ⟨by rfl, by rfl, by rfl⟩)
  · exact .ite (.next (h.other ⟨by rfl, by rfl, by rfl⟩)) (.next (hf _))

theorem hostRead (h : Canonical s) {p : Nat} : Canonical (s.hostRead p n) := h.other ⟨rfl, rfl, rfl⟩

theorem execHostPlainAccess (h : Canonical s) {tag a : Nat} {write : Option (List Byte)} :
    CanonicalOut (execHostPlainAccess tag a n write s) := by
  unfold Machine.execHostPlainAccess
  split
  · exact h.hostRequest fun _ => h.hostRead
  · exact h.hostRequest fun _ => h.agentWrite.other ⟨rfl, rfl, rfl⟩

theorem execHostAcquire (h : Canonical s) {tag a : Nat} : CanonicalOut (execHostAcquire tag a n s) := h.hostRequest fun _ => h.hostRead

theorem execHostRelease (h : Canonical s) {tag a : Nat} {bs : List Byte} : CanonicalOut (execHostRelease tag a bs s) :=
  h.hostRequest fun _ => h.drainAll.agentWrite.other ⟨rfl, rfl, rfl⟩

theorem execHostAtomic (h : Canonical s) {tag a : Nat} {op : BitVec 4} {z : BitVec 2} {b c : Word} :
    CanonicalOut (execHostAtomic tag a op z b c s) :=
  .ite (.next (h.other ⟨by rfl, by rfl, by rfl⟩)) (h.hostRequest fun _ => (h.drainAll.amoAt.other ⟨by rfl, by rfl, by rfl⟩))

/-! ### Requests of peers -/

theorem serve (h : Canonical s) {l : MemLoc} {op : PeerOp} : Canonical (s.serve l op) := by
  cases op with
  | read => exact h.other ⟨rfl, rfl, rfl⟩
  | write => exact h.agentWrite.other ⟨rfl, rfl, rfl⟩
  | atomic => exact h.amoAt.other ⟨rfl, rfl, rfl⟩

theorem execPeerInboundRequest (h : Canonical s) {port peer a : Nat} {op : PeerOp} :
    CanonicalOut (execPeerInboundRequest port peer a op s) := by
  have refuse {t : State} (k : Canonical t) : CanonicalOut (.next { t with reply := .error }) := .next (k.other ⟨by rfl, by rfl, by rfl⟩)
  unfold Machine.execPeerInboundRequest
  dsimp only
  refine .ite (refuse h) ?_
  split
  · exact refuse h
  split
  · exact refuse h
  refine .ite (refuse h) ?_
  split
  · next e => exact refuse (h.translate.fst e)
  · next e => exact refuse (loseContext (h.translate.fst e))
  · next e =>
    split
    · exact refuse (h.translate.fst e)
    · exact .ite (refuse (h.translate.fst e)) (.next (serve (h.translate.fst e)))

/-! ### Requests to peers -/

theorem closeReq (h : Canonical s) {tag : Nat} : Canonical (s.closeReq tag) := h.other ⟨rfl, rfl, rfl⟩

theorem countReq (h : Canonical s) {r : OutReq} : Canonical (s.countReq r src n) := .ite h.count (.ite h.countStack h)

theorem countSent (h : Canonical s) {r : OutReq} : Canonical (s.countSent r) := .ite h.countReq h

theorem noteReply (h : Canonical s) {r : OutReq} {bs : List Byte} : Canonical (s.noteReply r bs) :=
  other (h.logWrite (l := .peer r.peer r.addr) (n := r.kind.bytes)) ⟨by rfl, by rfl, by rfl⟩

theorem failReq (h : Canonical s) {r : OutReq} : Canonical (s.failReq r) := h.closeReq.countReq.peerFail

theorem execPeerResponse (h : Canonical s) {tag : Nat} {error poisoned : Bool} {bytes : List Byte} :
    CanonicalOut (execPeerResponse tag error poisoned bytes s) := by
  unfold Machine.execPeerResponse
  split
  · exact .next h
  · exact .ite (.next h.setPort.failReq.dropOrphans) (.ite (.next h.setPort.closeReq.countSent.noteReply)
      (.next (dropOrphans (other (.ite h.setPort.closeReq h.setPort.closeReq.noteReply) ⟨by rfl, by rfl, by rfl⟩))))

theorem failPeer (h : Canonical s) {port peer : Nat} : Canonical (s.failPeer port peer) := h.foldl fun _ _ _ k => k.failReq

theorem execPeerTimeout (h : Canonical s) {tag : Nat} : CanonicalOut (execPeerTimeout tag s) := by
  unfold Machine.execPeerTimeout
  split
  · exact .next h
  · exact .ite (.next h.failReq.setPort.failPeer.dropOrphans) (.next h.failReq.setPort.dropOrphans)

/-! ### Reset and bring-up -/

theorem execModuleReset (h : Canonical s) : CanonicalOut (execModuleReset s) := by
  refine .next (h.drainAll.groups rfl rfl fun g k => absurd k ?_)
  dsimp only [State.reset]
  exact List.not_mem_nil

theorem bootFails (h : Canonical s) {e : Nat} : Canonical (s.bootFails e) := h.other ⟨rfl, rfl, rfl⟩

theorem bootNow (h : Canonical s) : Canonical s.bootNow :=
  .ite h (.ite h.bootFails (.ite h.bootFails (.ite h.bootFails (.ite h.bootFails (.ite h.bootFails (h.other ⟨by rfl, by rfl, by rfl⟩))))))

theorem quoteNow (h : Canonical s) : Canonical s.quoteNow := .ite h (agentWrite (h.other ⟨by rfl, by rfl, by rfl⟩))

theorem execBringupWindowWrite (h : Canonical s) {off : Nat} {value : Word} : CanonicalOut (execBringupWindowWrite off value s) := by
  unfold Machine.execBringupWindowWrite
  split
  · exact .next (h.other ⟨by rfl, by rfl, by rfl⟩)
  · exact .next (h.other ⟨by rfl, by rfl, by rfl⟩)
  · split
    · exact .next h.bootNow
    · exact .next h.quoteNow
    · exact .next h
  · exact .next h

end

end Canonical

end Sys2Proof.Machine

namespace Sys2Proof.Machine

open Sys2Proof

theorem Group.poisonSpad_spad (g : Group) (a : Nat) : (g.poisonSpad a).spad = g.spad := by
  unfold Group.poisonSpad
  split <;> rfl

namespace Canonical

section
variable {s t : State} {gid src n : Nat} {sl : Slice} {g : Group} {cx : Context}

/-! ### Control flow -/

theorem jump (h : Canonical s) {a : Word} {jr leaves : Bool} : CanonicalOut (s.jump gid sl a jr leaves) :=
  finish h.checkTarget fun _ _ k => .next k.transfer

theorem branch (h : Canonical s) {a b : Reg} {t : BitVec n} {taken : Word → Word → Bool} : CanonicalOut (branch a b t taken s) :=
  issue fun _ _ _ _ => .ite (.next h.loseControl) (.ite h.jump h.done)

theorem execBr (h : Canonical s) {t : BitVec 26} : CanonicalOut (execBr t s) := issue fun _ _ _ _ => h.jump

theorem execCall (h : Canonical s) {t : BitVec 26} : CanonicalOut (execCall t s) :=
  issue fun _ _ _ _ => finish (h.checkTarget.bind fun _ _ k => k.scanAfter) fun _ _ k => .next k.mapStream.transfer

theorem execJr (h : Canonical s) {a : Reg} : CanonicalOut (execJr a s) := issue fun _ _ _ _ => .ite (.next h.loseControl) h.jump

theorem branchQueue (h : Canonical s) {i : Instr} {q : BitVec 1} {d : Reg} {t : BitVec 16} {taken : Word → Bool} :
    CanonicalOut (branchQueue i q d t taken s) := by
  refine issue fun gid sl g _ => .ite h.illegal (finish h.headValue fun t v k => .ite (.next k.loseControl) ?_)
  have take {t : State} (k : Canonical t) : Canonical ((t.mapGrp gid fun g =>
      (g.popQueue (4 + q.toNat)).setStream sl ((g.stream sl).wr d v.1 false)).count gid 1 1) := by
    refine count (k.mapGrp fun g => ?_)
    rw [Group.setStream_spad]
    exact g.setQ_spad _ _
  exact .ite (finish k.checkTarget fun _ _ k => .next (take k).transfer) (take k).done

theorem startLoop (h : Canonical s) {c : BitVec 2} {w : Word} {pz : Bool} {t : BitVec 16} :
    CanonicalOut (s.startLoop gid sl c w pz t) := by
  unfold State.startLoop
  split
  · exact .next h
  · refine finish (h.checkTarget.bind fun _ _ k => ?_) fun _ _ k => .ite (.next k.mapStream) (.next k.mapStream)
    exact .ite k (.ite k (.ite k (.ite k (.ite k.loseControl (.ite k.scanAfter k.scanAfter)))))

theorem execLoop (h : Canonical s) {c : BitVec 2} {a : Reg} {t : BitVec 16} : CanonicalOut (execLoop c a t s) :=
  issue fun _ _ _ _ => h.startLoop

theorem execLoopi (h : Canonical s) {c : BitVec 2} {k : BitVec 7} {t : BitVec 16} : CanonicalOut (execLoopi c k t s) :=
  issue fun _ _ _ _ => h.startLoop

theorem execSpset (h : Canonical s) {a : Reg} {k : BitVec 8} : CanonicalOut (execSpset a k s) :=
  issue fun _ _ _ _ => .ite h.illegal (.ite (.next h.loseControl) (done (h.mapGrp fun _ => by rfl)))

theorem execSpshift (h : Canonical s) {k : BitVec 1} : CanonicalOut (execSpshift k s) :=
  issue fun _ _ _ _ => .ite h.illegal (done (h.mapGrp fun _ => by rfl))

theorem execSpget (h : Canonical s) {d : Reg} : CanonicalOut (execSpget d s) :=
  issue fun _ _ _ _ => .ite h.illegal h.setStream.done

/-! ### The bit network, and counts read into a register -/

theorem execBnld (h : Canonical s) {a b : Reg} {p k : BitVec 3} : CanonicalOut (execBnld a b p k s) := issue fun _ _ _ _ => h.setStream.done

theorem execQcnt (h : Canonical s) {q : BitVec 3} {d : Reg} : CanonicalOut (execQcnt q d s) := issue fun _ _ _ _ => h.setStream.done

theorem execSemRd (h : Canonical s) {d : Reg} {k : BitVec 4} : CanonicalOut (execSemRd d k s) := issue fun _ _ _ _ => h.setStream.done

/-! ### Errors in memory and in other holders -/

theorem poisonVault (h : Canonical s) {a : Nat} : Canonical (s.poisonVault a) := .ite h (countStack (h.other ⟨by rfl, by rfl, by rfl⟩))

theorem vaultError (h : Canonical s) {a : Nat} {found : EccResult} : Canonical (s.vaultError a found) := by
  refine .ite h ?_
  split
  · exact h.countStack
  · exact h.poisonVault

theorem execCacheWriteback (h : Canonical s) {sector : Nat} {evict : Bool} {found : Option EccResult} :
    CanonicalOut (execCacheWriteback sector evict found s) := by
  unfold Machine.execCacheWriteback
  dsimp only
  split
  · exact .next h
  · split
    · exact .next (.ite h.setStack.vaultError h.setStack)
    · exact .next h.setStack

theorem execScrub (h : Canonical s) {sector : Nat} {found : Option EccResult} : CanonicalOut (execScrub sector found s) := by
  unfold Machine.execScrub
  split
  · exact .next (.ite h h.vaultError)
  · exact .next h

theorem discardCaches (h : Canonical s) {k : Nat} : Canonical (s.discardCaches k) := by
  refine h.mapGroups rfl rfl rfl fun g => ?_
  split <;> rfl

theorem mapLatch (h : Canonical s) (hg : s.grp? gid = some g) {row col : Nat} {shadow : Bool} {f : Latch → Latch} :
    Canonical (s.setGrp (g.mapLatch row col shadow f)) := by
  refine h.putGrp hg ?_
  unfold Group.mapLatch
  split <;> rfl

theorem execUncorrectableError (h : Canonical s) {holder : EccHolder} {found : EccResult} :
    CanonicalOut (execUncorrectableError holder found s) := by
  have resident {grp : Nat} {f : Group → State} (hf : ∀ g, s.grp? grp = some g → Canonical (f g)) :
      CanonicalOut (match s.grp? grp with
        | none => .next s
        | some g => .next (if g.resident then f g else s)) := by
    split
    · exact .next h
    · next hg => exact .next (.ite (hf _ hg) h)
  cases holder with
  | vault => exact .next h.vaultError
  | cache => exact .next (countStack (.ite h h.discardCaches))
  | spad grp off =>
    exact resident fun _ _ => .ite h (.ite h.countStack (h.mapGrp fun g => g.poisonSpad_spad _))
  | reg => exact resident fun _ _ => .ite h.countStack h.mapStream
  | queueEntry =>
    refine resident fun _ _ => .ite h.countStack (dropOrphans (h.mapGrp fun g => ?_))
    split <;> rfl
  | control => exact resident fun _ _ => .ite h.countStack h.loseContext
  | acc => exact resident fun _ hg => .ite (h.putGrp hg (by rfl)) h
  | latch => exact resident fun _ hg => h.mapLatch hg
  | adder => exact resident fun _ hg => h.mapLatch hg

/-! ### Refresh, power, snapshots and fatal errors -/

theorem execRefresh (h : Canonical s) {stack row col : Nat} : CanonicalOut (execRefresh stack row col s) := .next (.ite h.countStack h)

theorem execPowerWindow (h : Canonical s) {stack grant : Nat} : CanonicalOut (execPowerWindow stack grant s) :=
  .next (.ite h.setStack h)

theorem execCounterSnapshot (h : Canonical s) {stack : Nat} : CanonicalOut (execCounterSnapshot stack s) := by
  unfold Machine.execCounterSnapshot
  split
  · exact .next h
  · exact .ite (.next h) (.next h.drainAll.agentWrite)

theorem execCrossingRetry (h : Canonical s) {stack row : Nat} : CanonicalOut (execCrossingRetry stack row s) :=
  .next (.ite h.countStack h)

theorem execModuleFatalError (h : Canonical s) {stack edge : Nat} : CanonicalOut (execModuleFatalError stack edge s) :=
  .ite (.next h) (.next (foldl (pushEvent (h.other ⟨by rfl, by rfl, by rfl⟩)) fun _ _ _ k => k.loseContext))

end

end Canonical

end Sys2Proof.Machine

namespace Sys2Proof.Machine

open Sys2Proof

namespace Canonical

section
variable {s t : State} {gid src n : Nat} {sl : Slice} {g : Group} {cx : Context}

/-! ### Fences, promotion and waits -/

theorem execFence (h : Canonical s) {c : BitVec 2} : CanonicalOut (execFence c s) :=
  issue fun _ _ _ _ => .ite (.next h.settleLoads.release.stallOn)
    (done (.ite h.settleLoads.release.dropLines h.settleLoads.release))

theorem execProm (h : Canonical s) {a : Reg} {c : BitVec 2} : CanonicalOut (execProm a c s) :=
  issue fun _ _ _ _ => .ite (.next h.loseControl)
    (finish (h.access.bind fun _ _ k => k.settleLoads.drainAll.readSlice) fun _ _ k => k.done)

theorem shareRead (h : Canonical s) {b : Binding} {p : Part} {v o sent : Nat} : Canonical (s.shareRead b p v o sent) := by
  unfold State.shareRead
  split
  · exact h.mapGroups rfl rfl rfl fun _ => rfl
  · exact h

theorem endWait (h : Canonical s) {ctl : Nat} {p : Part} {d : Reg} {v : Nat} : CanonicalOut (s.endWait gid sl ctl p d v) :=
  h.dropOwn.mapStream.done

theorem waitWord (h : Canonical s) {d a b : Reg} {z : BitVec 1} {eq : Bool} : CanonicalOut (waitWord d a b z eq s) := by
  refine issue fun gid sl g _ => .ite (.next h.loseControl) ?_
  split
  · exact .ite (.next h.stallOn) h.endWait
  split
  · next e => exact (h.access.trap e).trapNow
  · next e => exact .next (h.access.lost e)
  · next e => exact .next (stallOn (h.access.wait e))
  next e =>
  refine finish (h.access.ok e).settleLoads.readSlice fun _ _ k => ?_
  split
  · exact .ite (.next k.loseContext) (.ite k.shareRead.endWait (.next k.shareRead.beginWait.mapStream.shareRead))
  · exact .next k

theorem execWaitReread (h : Canonical s) : CanonicalOut (execWaitReread gid sl s) := by
  unfold Machine.execWaitReread
  split
  · exact .next h
  have begun : Canonical { s.unwait (gid, sl.src) with cur := some (gid, sl) } := h.other ⟨rfl, rfl, rfl⟩
  dsimp only
  refine .ite ?_ (.next h)
  split
  · split
    · exact begun.waitWord
    · exact begun.waitWord
    · exact .next begun
  · exact .next begun

/-! ### Cache control -/

theorem bringSector (h : Canonical s) {a : Nat} : Canonical (s.bringSector a) := h.cacheSector

theorem cleanSector (h : Canonical s) {a : Nat} {drop : Bool} : Canonical (s.cleanSector a drop) := h.setStack

theorem execPf (h : Canonical s) {a : Reg} : CanonicalOut (execPf a s) := by
  refine issue fun _ _ _ _ => .ite h.done ?_
  split
  · next e =>
    have k := h.access.ok e
    split
    · exact k.bringSector.done
    · exact .ite (finish k.readSlice fun _ _ k => k.done) k.done
    · exact k.done
  · exact h.done

theorem cacheControl (h : Canonical s) {a : Reg} {c : BitVec 2} {drop : Bool} : CanonicalOut (cacheControl a c drop s) := by
  refine issue fun _ _ _ _ => .ite (.next h.loseControl) (finish h.access fun _ _ k => done (k.foldl fun _ _ _ k => ?_))
  split
  · exact .ite k.cleanSector k
  · exact .ite k.dropLines k
  · exact k

theorem execStoreBufferDrain (h : Canonical s) {k : Nat} : CanonicalOut (execStoreBufferDrain gid sl k s) := by
  unfold Machine.execStoreBufferDrain
  split
  · exact .next h
  dsimp only
  split
  · exact .next h
  · exact .ite (.next h.drainWhere) (.next h.performEntry.dropEntry)

theorem execScalarCacheReplacement (h : Canonical s) {k : Nat} : CanonicalOut (execScalarCacheReplacement k s) :=
  .next (h.other ⟨by rfl, by rfl, by rfl⟩)

theorem execLeaseExpiry (h : Canonical s) {k : Nat} : CanonicalOut (execLeaseExpiry k s) := .next (h.other ⟨by rfl, by rfl, by rfl⟩)

theorem execTranslationEntryDrop (h : Canonical s) {k : Nat} : CanonicalOut (execTranslationEntryDrop k s) :=
  .next (h.other ⟨by rfl, by rfl, by rfl⟩)

/-! ### What follows a turn -/

theorem catchWait (h : Canonical s) : Canonical (s.catchWait gid sl) := by
  unfold State.catchWait
  split
  · exact h
  split
  · exact h
  refine .ite h ?_
  split
  · exact h.mapStream
  · exact h

theorem catchWaits (h : Canonical s) : Canonical s.catchWaits := h.foldl fun _ _ _ k => .ite k.catchWait.catchWait k

theorem endWaits (h : Canonical s) : Canonical (s.endWaits gid) := by
  unfold State.endWaits
  split
  · exact h
  refine .ite h (raiseHeads (h.foldl fun _ _ _ k => ?_))
  split
  · exact k.trapStream
  · exact k

theorem tickGroup (h : Canonical s) : Canonical (s.tickGroup n g) := .ite (count (foldl (h.mapGrp fun _ => by rfl) fun _ _ _ k => k.count)) h

theorem clock (h : Canonical s) {stk : Vector Stack 16} : Canonical { s with now := n, stk := stk } := h.other ⟨rfl, rfl, rfl⟩

theorem passTime (h : Canonical s) : Canonical s.passTime :=
  clock (foldl (h.foldl fun _ _ _ k => k.tickGroup) fun _ _ _ k => k.setStack.countStack)

theorem tick (h : Canonical s) : Canonical s.tick :=
  h.meetHeads.settleLost.catchWaits.settleCalving.countPoison.passTime.foldl fun _ _ _ k => k.endWaits.watchdog

end

end Canonical

end Sys2Proof.Machine

namespace Sys2Proof.Machine

open Sys2Proof

namespace Canonical

section
variable {s : State}

theorem alu (h : Canonical s) {d a b : Reg} {f : Word → Word → Word} : CanonicalOut (alu d a b f s) := h.issueReg

theorem aluk (h : Canonical s) {d a : Reg} {k : Word} {f : Word → Word → Word} : CanonicalOut (aluk d a k f s) := h.issueReg

theorem alu1 (h : Canonical s) {d a : Reg} {f : Word → Word} : CanonicalOut (alu1 d a f s) := h.issueReg

/-- Every meaning keeps the form of every memory. -/
theorem exec (h : Canonical s) (i : Instr) : CanonicalOut (exec i s) := by
  unfold Machine.exec
  cases i with
  -- arithmetic, bit fields, the bit network
  | add | sub | mul | mulh | mulhn | div | divn | rem | remn | and | or | xor | andn | orn | sll | srl | sra | slt | sltn | min
  | max | minn | maxn | bextv | bextsv | fsh | lea =>
    exact h.alu
  | addi | andi | ori | xori | slti | sltni | mini | maxi => exact h.aluk
  | slli | srli | srai | bext | bexts | clz | ctz | popc | brev | bswap => exact h.alu1
  | sel | li16 | ins16 | bins | binsv | bnet => exact h.issueReg
  | bnld => exact h.execBnld
  -- slice control and control registers
  | nop => exact h.execNop
  | join => exact h.execJoin
  | yieldSlice => exact h.execYieldSlice
  | trapSw => exact h.execTrapSw
  | chkErr => exact h.execChkErr
  | rdcr => exact h.execRdcr
  | wrcr => exact h.execWrcr
  | rdcnt => exact h.execRdcnt
  | stepb => exact h.execStepb
  | grpid => exact h.execGrpid
  | coresid => exact h.execCoresid
  | brk => exact h.execBrk
  | ifence => exact h.execIfence
  | illegalInstruction => exact h.execIllegalInstruction
  -- loads, stores, atomics
  | ldB | ldBz | ldH | ldHz | ldW | ldWz | ldD => exact h.plainLoad
  | stB | stH | stW | stD => exact h.plainStore
  | ldAcq => exact h.execLdAcq
  | stRel => exact h.execStRel
  | ldsB | ldsBz | ldsH | ldsHz | ldsW | ldsWz | ldsD => exact h.spadLoad
  | stsB | stsH | stsW | stsD => exact h.spadStore
  | amoAdd | amoAnd | amoOr | amoXor | amoMin | amoMax | amoMinn | amoMaxn | amoSwp | amoCas | amoFadd => exact h.amo
  -- ordering and cache control
  | fence => exact h.execFence
  | prom => exact h.execProm
  | waitEq | waitNe => exact h.waitWord
  | pf => exact h.execPf
  | cln | inv => exact h.cacheControl
  -- queues
  | push => exact h.execPush
  | pop | peek => exact h.takeHead
  | qcnt => exact h.execQcnt
  | qdrop => exact h.execQdrop
  | slip => exact h.execSlip
  | slipCatch => exact h.execSlipCatch
  | slipset => exact h.execSlipset
  | lq | lqNf => exact h.loadQueue
  -- control flow
  | beq | bne | blt | bge | bltn | bgen | bz | bnz => exact h.branch
  | br => exact h.execBr
  | call => exact h.execCall
  | jr => exact h.execJr
  | bqz | bqnz => exact h.branchQueue
  | loop => exact h.execLoop
  | loopi => exact h.execLoopi
  | spset => exact h.execSpset
  | spshift => exact h.execSpshift
  | spget => exact h.execSpget
  -- engine commands
  | ml | mlT | mm | mzero | mdrain | mred | mcfg | mfmt | mchk | vadd | vsub | vmul | vfma | vmax | vmin | vabs | vneg | vexp | vlog
  | vrcp | vrsq | vsqrt | vsin | vcos | vtanh | vcvt | vcmp | vsel | vredsum | vredmax | vargmax | vtopk | vscan | vswp2 | vgath
  | vscat | vcopy | vfill | vlut | vtern | vdot8 | vquant | vrand | cp | cpRed | cpBc =>
    exact h.issueCmd
  | nestSet => exact h.execNestSet
  | erep => exact h.execErep
  | qfence => exact h.execQfence
  -- semaphores and barriers
  | semWait => exact h.execSemWait
  | semSig => exact h.execSemSig
  | semSet => exact h.execSemSet
  | semCeil => exact h.execSemCeil
  | semRd => exact h.execSemRd
  | tbarInit => exact h.execTbarInit
  | tbarExp => exact h.execTbarExp
  | tbarWait => exact h.execTbarWait
  -- KV pages, windows and rows
  | kvAlloc => exact h.execKvAlloc
  | kvFree => exact h.execKvFree
  | firnOpen => exact h.execFirnOpen
  | firnBind => exact h.execFirnBind
  | firnUnbind => exact h.execFirnUnbind
  | firnSeal => exact h.execFirnSeal
  | firnDrop => exact h.execFirnDrop
  | rsCkpt => exact h.execRsCkpt
  | seqClaim => exact h.execSeqClaim
  | seqAdv | seqRel => exact h.rowRelease
  -- walks and launches
  | launch => exact h.execLaunch
  | walkNext => exact h.execWalkNext
  -- events of a group's agents
  | lqFill => exact h.execLqFill
  | engineCommandStart => exact h.execEngineCommandStart
  | matrixCommandPerform => exact h.execMatrixCommandPerform
  | vectorCommandPerform => exact h.execVectorCommandPerform
  | copyBurst => exact h.execCopyBurst
  | copyPerform => exact h.execCopyPerform
  | qfencePerform => exact h.execQfencePerform
  | mredRoundComplete => exact h.execMredRoundComplete
  | reductionWatchdog => exact h.execReductionWatchdog
  | waitReread => exact h.execWaitReread
  | storeBufferDrain => exact h.execStoreBufferDrain
  | scalarCacheReplacement => exact h.execScalarCacheReplacement
  -- events of the device
  | groupStopComplete => exact h.execGroupStopComplete
  | trapRecordWrite => exact h.execTrapRecordWrite
  | eventWrite => exact h.execEventWrite
  | groupSave => exact h.execGroupSave
  | groupResume => exact h.execGroupResume
  | jobEnd => exact h.execJobEnd
  | packetTake => exact h.execPacketTake
  | groupPlacement => exact h.execGroupPlacement
  | launchAdmit => exact h.execLaunchAdmit
  | preemptionRequest => exact h.execPreemptionRequest
  | calvingRequest => exact h.execCalvingRequest
  | calve => exact h.execCalve
  | chainSetAdd => exact h.execChainSetAdd
  | leaseExpiry => exact h.execLeaseExpiry
  | translationEntryDrop => exact h.execTranslationEntryDrop
  -- management requests
  | createCtx => exact h.execCreateCtx
  | killCtx => exact h.execKillCtx
  | preemptCtx => exact h.execPreemptCtx
  | resumeCtx => exact h.execResumeCtx
  | resumeGroup => exact h.execResumeGroup
  | unmap => exact h.execUnmap
  | unmapComplete => exact h.execUnmapComplete
  | pwin => exact h.execPwin
  | frame => exact h.execFrame
  | pcfg => exact h.execPcfg
  | qrel => exact h.execQrel
  | route => exact h.execRoute
  | mgmtInvalidRequest => exact h.execMgmtInvalidRequest
  -- links
  | hostPlainAccess => exact h.execHostPlainAccess
  | hostAcquire => exact h.execHostAcquire
  | hostRelease => exact h.execHostRelease
  | hostAtomic => exact h.execHostAtomic
  | peerInboundRequest => exact h.execPeerInboundRequest
  | peerResponse => exact h.execPeerResponse
  | peerTimeout => exact h.execPeerTimeout
  -- reset, bring-up, errors
  | moduleReset => exact h.execModuleReset
  | bootCmd => exact .next h.bootNow
  | quoteCmd => exact .next h.quoteNow
  | bringupWindowWrite => exact h.execBringupWindowWrite
  | cacheWriteback => exact h.execCacheWriteback
  | scrub => exact h.execScrub
  | uncorrectableError => exact h.execUncorrectableError
  | refresh => exact h.execRefresh
  | powerWindow => exact h.execPowerWindow
  | counterSnapshot => exact h.execCounterSnapshot
  | crossingRetry => exact h.execCrossingRetry
  | moduleFatalError => exact h.execModuleFatalError

/-- One step: the turn that it opens, what the turn runs, and the time that passes. -/
theorem step (h : Canonical s) : CanonicalOut (step s) := by
  have opened := h.takeTurn.openTurn (x := s.takeTurn.1)
  unfold Machine.step
  split
  · next e =>
    rw [e] at opened
    exact .next (tick opened)
  · next e =>
    rw [e] at opened
    split
    · next f => exact .next (tick (exec opened _ _ f))
    · nofun
    · nofun

end

end Canonical

/-- Settles O7: the form is followed through the turn that the step opens, through every meaning, and through the time that passes. -/
theorem stepKeepsMemoriesCanonical : Obligations.StepKeepsMemoriesCanonical := fun _ t h e => Canonical.step h t e

end Sys2Proof.Machine
